-- ==== Sys2Proof/Word.lean ====
section
/-!
DEFINITION. Words of the Nelholt Wechephor WX9: the widths the spec names and their plainest arithmetic.
A scalar register is 64 bits (R182), a program word 96 bits (R79, R84), a vector register 4096 bits with a
512-bit exponent side-car (R211), a sealed shape object or contraction record 768 bits (R56, R75).
-/
namespace Sys2Proof

/-- A 64-bit scalar (R182). -/
abbrev W64 := BitVec 64
/-- A byte of global memory (R3). -/
abbrev Byte := BitVec 8
/-- A program word (R79, R84). -/
abbrev W96 := BitVec 96
/-- A vector register's 512 data bytes (R211). -/
abbrev VReg := BitVec 4096
/-- A side-car's 64 bytes (R211). -/
abbrev Car := BitVec 512
/-- A sealed 96-byte object (R56, R75). -/
abbrev Obj := BitVec 768

/-- The exact integer a bit pattern stands for when it is read as `wrap(x, n)` of an integer (R8). -/
def wrapTo (n : Nat) (x : Int) : BitVec n := BitVec.ofInt n x

/-- Bits `hi` down to `lo` of a bit pattern, as a number. -/
def bitsOf {n : Nat} (w : BitVec n) (hi lo : Nat) : Nat := (w.toNat >>> lo) % 2 ^ (hi + 1 - lo)

end Sys2Proof
end

