-- ==== Sys2Proof/Config.lean ====
section
/-!
DEFINITION. What the spec leaves open: free values with no body (nothing in Lean can evaluate one), each
named in the assumption log. `State.freeCtr` is the counter the step reads and advances for the first argument.
-/
namespace Sys2Proof.Config

/-- A byte of a new tile that the part leaves over from an earlier tile of the same launch, or zero: which of
the two it keeps is not specified (R69); log 7. -/
opaque tileKeeps : Nat → Nat → Bool
/-- Which entry a full translation buffer gives up (R257); log 9. -/
opaque tlbVictim : Nat → Nat
/-- Which line a full instruction cache gives up (R170); log 9. -/
opaque icacheVictim : Nat → Nat
/-- Whether another term of a command stopped by a full spill area was applied (R325); log 14. -/
opaque spillFullApplied : Nat → Nat → Bool
/-- A word the spec leaves unspecified (changed text, a changed vocabulary image, an edited image: R123, R349, R441); log 7. -/
opaque freeWord : Nat → BitVec 64
/-- Whether an image's signature and digest verify (R459, R461): the scheme's keys are not given; log 10. -/
opaque signatureOk : List (BitVec 8) → Bool
/-- The SHAKE256-256 digest of an image (R461); log 10. -/
opaque digest : List (BitVec 8) → BitVec 256
/-- The signature under the device identity key (R460, R461); log 10. -/
opaque sign : List (BitVec 8) → List (BitVec 8)
/-- How far the part lowers a supply to hold a power cap or a temperature (R464); log 15. -/
opaque capSupply : Nat → Nat
/-- Whether a die latches its snapshot at the end of cycle c + 3, not c + 2, of a trigger fired in cycle c (R446); log 11. -/
opaque snapLate : Nat → Nat → Bool
/-- The order in which unordered copies of two queues prevail in one 64-byte sector of a space: the choice is the part's, per sector (R21, R284,
R375); log 7. -/
opaque sectorRank : Nat → Nat → Nat → Nat
/-- COUNT of an image section whose items the spec does not name: kinds 2, 3 and 4 (R435); log 17. -/
opaque imageCount : Nat → BitVec 24

end Sys2Proof.Config
end

