-- ==== Sys2Proof/Syntax.lean ====
section
/-!
DEFINITION. The ONE syntax of the machine's instructions and steps: a constructor for each row of the opcode
table (R100 to R108, R131, R481, R482 and the part's own steps). The operand fields stand as the formats R, I, M,
T, J and the modifier layout of R89 to R96 lay them out; the fields each word may hold are WellFormed's matter.
-/
namespace Sys2Proof

/-- The five engines of a core, in tag order S 0, A 1, V 2, B 3, X 4 (R15, R80). -/
inductive Engine where
  | S | A | V | B | X
deriving DecidableEq, Repr

/-- The engine's tag (R80). -/
def Engine.tag : Engine → Nat
  | .S => 0 | .A => 1 | .V => 2 | .B => 3 | .X => 4

/-- The engine of a tag; tags 5 to 7 name none (R80). -/
def Engine.ofTag : Nat → Option Engine
  | 0 => some .S | 1 => some .A | 2 => some .V | 3 => some .B | 4 => some .X | _ => none

/-- The engines in tag order. -/
def Engine.all : List Engine := [.S, .A, .V, .B, .X]

/-- The guard fields of a word (R84). -/
structure Guard where
  g    : Bool
  neg  : Bool
  greg : BitVec 6
  gbit : BitVec 6
deriving DecidableEq, Repr

/-- Format R (R89); its reserved bits are zero. -/
structure RWord where
  guard : Guard
  d : BitVec 6
  a : BitVec 6
  b : BitVec 6
  c : BitVec 6
  type : BitVec 4
  sub : BitVec 4
  rnd : BitVec 2
  rb : BitVec 6
  srn : BitVec 4
  mask : BitVec 6
deriving DecidableEq, Repr

/-- Format I (R90); its reserved bits are zero. -/
structure IWord where
  guard : Guard
  d : BitVec 6
  a : BitVec 6
  sub : BitVec 4
  imm : BitVec 32
deriving DecidableEq, Repr

/-- Format M (R91); its reserved bits are zero. -/
structure MWord where
  guard : Guard
  data : BitVec 6
  base : BitVec 6
  index : BitVec 6
  size : BitVec 4
  scale : BitVec 4
  disp : BitVec 32
deriving DecidableEq, Repr

/-- Format T (R92). -/
structure TWord where
  guard : Guard
  ta : BitVec 8
  tb : BitVec 8
  td : BitVec 8
  bar : BitVec 10
  preg : BitVec 6
  cmd : BitVec 34
deriving DecidableEq, Repr

/-- Format J (R93); its reserved bits are zero. -/
structure JWord where
  guard : Guard
  treg : BitVec 6
  tbit : BitVec 6
  cond : BitVec 4
  off : BitVec 32
deriving DecidableEq, Repr

/-- The memory-modifier layout (R96); its guard and reserved bits are zero. -/
structure PWord where
  order : BitVec 3
  scope : BitVec 3
  cache : BitVec 4
  race : BitVec 2
deriving DecidableEq, Repr

/-- An inbox push as it reaches the target package (R286, R458). -/
structure InboxPush where
  port : Nat
  src  : Nat
  id   : Nat
  row  : List Byte
deriving DecidableEq, Repr

/-- A reassembled Ultra Ethernet message (R343): port, connection, whether a tagged send, its tag, its bytes. -/
structure UetMessage where
  port : Nat
  conn : Nat
  tagged : Bool
  tag  : BitVec 32
  body : List Byte
deriving DecidableEq, Repr

/-- What a peer request asks for (R247, R390). -/
inductive PeerOp where
  | read
  | write (data : List Byte)
  | atomic (op : Nat) (signed : Bool) (x expect : W64)
deriving DecidableEq, Repr

/-- A message on the Request channel (R453): its port, sender, number, target offset (44 bits) and size. -/
structure PeerRequest where
  port : Nat
  src  : Nat
  id   : Nat
  off  : BitVec 44
  size : Nat
  op   : PeerOp
deriving DecidableEq, Repr

/-- A message on the Reply channel (R453): the request it answers and its outcome. -/
inductive PeerAnswer where
  | data (bytes : List Byte)
  | done
  | protection
  | translation
  | machineCheck (sub : Nat)
  | accepted
  | refused
  | full
deriving DecidableEq, Repr

/-- A reply: the port it arrives on, the request's number and the answer (R247, R286). -/
structure PeerReply where
  port : Nat
  id   : Nat
  ans  : PeerAnswer
deriving DecidableEq, Repr

/-- HELLO, CLAIM and DEMOTE of a pod round (R460): round, sender, the sender's exclusion list, signature. -/
structure Hello where
  round : Nat
  pkg   : Nat
  excluded : List Nat
  sig   : List Byte
deriving DecidableEq, Repr

/-- A configuration message of the leader (R460): part of an image for staging, or the last part of one. -/
structure ConfigMessage where
  pkg   : Nat
  image : Nat
  pa    : Nat
  bytes : List Byte
  last  : Bool
deriving DecidableEq, Repr

/-- Who asks for an attestation report (R461): a peer on channel 3 of a port, or the host through a mailbox. -/
inductive Requester where
  | peer (port pkg : Nat)
  | host (m : Nat)
deriving DecidableEq, Repr

/-- An attestation request (R461): its nonce and who asks. -/
structure AttestRequest where
  nonce : BitVec 256
  asker : Requester
deriving DecidableEq, Repr

/-- What the boot image sets as service core 0 runs it (R459), with the round the package joins and whether it boots alone, and what it has the
package distribute where it leads: its routing tables and its signed model and vocabulary images (R460). -/
structure BootSettings where
  round  : Nat
  alone  : Bool
  pkgid  : Nat
  routePa : W64
  asidTab : W64
  expTab  : W64
  grans  : List Nat
  assistText : List Byte
  plan   : List ConfigMessage := []
deriving DecidableEq, Repr

/-- One load or store by the host: of the control space through BAR2 (R252), or of the mailboxes through BAR0 (R130). -/
structure ControlAccess where
  bar0  : Bool
  write : Bool
  off   : Nat
  size  : Nat
  value : W64
deriving DecidableEq, Repr

/-- What a service core's ordinary access does (R396). -/
inductive ServiceOp where
  | load
  | store (v : W64)
  | amo (op : Nat) (aq rl : Bool) (v : W64)
  | fence
deriving DecidableEq, Repr

/-- A service core's ordinary access: the address, the size in bytes, the destination register (R396). -/
structure ServiceAccess where
  op   : ServiceOp
  addr : Nat
  size : Nat
  rd   : BitVec 5
deriving DecidableEq, Repr

/-- A copy that carries a B word: its own word and the carried one (R108, R288). -/
structure FWord where
  word : TWord
  carried : W96
deriving DecidableEq, Repr

/-- Every instruction and step of the part, in the opcode table's order. -/
inductive Instr where
  | nop (x : IWord)
  | br (x : JWord)
  | brc (x : JWord)
  | call (x : JWord)
  | ret (x : IWord)
  | lset (x : IWord)
  | loop (x : IWord)
  | yield (x : IWord)
  | halt (x : IWord)
  | trap (x : IWord)
  | sqpush (x : RWord)
  | wsec (x : IWord)
  | barinit (x : TWord)
  | barinitF (x : TWord)
  | barrive (x : TWord)
  | barriveR (x : TWord)
  | bwait (x : TWord)
  | btest (x : TWord)
  | fence (x : IWord)
  | memModifier (x : PWord)
  | brk (x : BitVec 88)
  | add (x : RWord)
  | sub (x : RWord)
  | mul (x : RWord)
  | mulh (x : RWord)
  | div (x : RWord)
  | divw (x : RWord)
  | rem (x : RWord)
  | remw (x : RWord)
  | and (x : RWord)
  | or (x : RWord)
  | xor (x : RWord)
  | andn (x : RWord)
  | shl (x : RWord)
  | shr (x : RWord)
  | sra (x : RWord)
  | rol (x : RWord)
  | addI (x : IWord)
  | subI (x : IWord)
  | mulI (x : IWord)
  | mulhI (x : IWord)
  | divI (x : IWord)
  | divwI (x : IWord)
  | remI (x : IWord)
  | remwI (x : IWord)
  | andI (x : IWord)
  | orI (x : IWord)
  | xorI (x : IWord)
  | andnI (x : IWord)
  | shlI (x : IWord)
  | shrI (x : IWord)
  | sraI (x : IWord)
  | rolI (x : IWord)
  | clz (x : RWord)
  | ctz (x : RWord)
  | popc (x : RWord)
  | min (x : RWord)
  | max (x : RWord)
  | minw (x : RWord)
  | maxw (x : RWord)
  | sext (x : RWord)
  | zext (x : RWord)
  | mov (x : RWord)
  | sel (x : RWord)
  | bext (x : RWord)
  | bins (x : RWord)
  | bset (x : RWord)
  | bclr (x : RWord)
  | btgl (x : RWord)
  | cmpeq (x : RWord)
  | cmpne (x : RWord)
  | cmplt (x : RWord)
  | cmpltw (x : RWord)
  | cmple (x : RWord)
  | cmplew (x : RWord)
  | movi (x : IWord)
  | movhi (x : IWord)
  | lea (x : MWord)
  | ld (x : MWord)
  | st (x : MWord)
  | aadd (x : MWord)
  | aand (x : MWord)
  | aor (x : MWord)
  | axor (x : MWord)
  | amin (x : MWord)
  | amax (x : MWord)
  | axchg (x : MWord)
  | acas (x : MWord)
  | pld (x : MWord)
  | fadd (x : RWord)
  | fsub (x : RWord)
  | fmul (x : RWord)
  | ffma (x : RWord)
  | fdiv (x : RWord)
  | fsqrt (x : RWord)
  | fmin (x : RWord)
  | fmax (x : RWord)
  | fcvt (x : RWord)
  | fcmp (x : RWord)
  | fclass (x : RWord)
  | srd (x : IWord)
  | swr (x : IWord)
  | flgrd (x : IWord)
  | tdef (x : TWord)
  | tfree (x : TWord)
  | tinfo (x : TWord)
  | cdef (x : TWord)
  | cfree (x : TWord)
  | launch (x : RWord)
  | lwaitW (x : RWord)
  | lwaitT (x : RWord)
  | pbind (x : RWord)
  | rinit (x : RWord)
  | rnext (x : RWord)
  | qpush (x : RWord)
  | qpushT (x : RWord)
  | qpop (x : RWord)
  | qpopT (x : RWord)
  | qdepth (x : RWord)
  | nmax (x : TWord)
  | nexps (x : TWord)
  | nscale (x : TWord)
  | nrow (x : TWord)
  | nnorm (x : TWord)
  | xrd (x : RWord)
  | xwr (x : RWord)
  | xdone (x : RWord)
  | aret (x : RWord)
  | tokpop (x : TWord)
  | tokpopT (x : TWord)
  | tokpush (x : TWord)
  | tokend (x : TWord)
  | aqrd (x : TWord)
  | aqwr (x : TWord)
  | gather (x : TWord)
  | scatter (x : TWord)
  | gcompact (x : TWord)
  | pref (x : MWord)
  | bmv (x : TWord)
  | bdot (x : TWord)
  | join (x : TWord)
  | cinit (x : TWord)
  | cdrain (x : TWord)
  | cdrainL (x : TWord)
  | cstat (x : TWord)
  | bdump (x : TWord)
  | banch (x : TWord)
  | banchR (x : TWord)
  | cpy (x : TWord)
  | cpyf (x : FWord)
  | cpyz (x : TWord)
  | cqstat (x : TWord)
  | qfence (x : TWord)
  | qjoin (x : TWord)
  | sort (x : TWord)
  | sortk (x : TWord)
  | vadd (x : RWord)
  | vsub (x : RWord)
  | vmul (x : RWord)
  | vmulh (x : RWord)
  | vmad (x : RWord)
  | vfma (x : RWord)
  | vmin (x : RWord)
  | vmax (x : RWord)
  | vabs (x : RWord)
  | vneg (x : RWord)
  | vand (x : RWord)
  | vor (x : RWord)
  | vxor (x : RWord)
  | vnot (x : RWord)
  | vshl (x : RWord)
  | vshr (x : RWord)
  | vsra (x : RWord)
  | vsel (x : RWord)
  | vcmpeq (x : RWord)
  | vcmpne (x : RWord)
  | vcmplt (x : RWord)
  | vcmple (x : RWord)
  | vcvt (x : RWord)
  | vwadd (x : RWord)
  | vwmul (x : RWord)
  | vwmad (x : RWord)
  | vnrw (x : RWord)
  | vunpk (x : RWord)
  | vpack (x : RWord)
  | vbxn (x : RWord)
  | vlut (x : RWord)
  | vperm (x : RWord)
  | vshuf (x : RWord)
  | vslide (x : RWord)
  | vbcast (x : RWord)
  | vmov (x : RWord)
  | vmovi (x : IWord)
  | vredsum (x : RWord)
  | vredmax (x : RWord)
  | vredmin (x : RWord)
  | vscan (x : RWord)
  | vpopc (x : RWord)
  | vtest (x : RWord)
  | vfrcp (x : RWord)
  | vfrsq (x : RWord)
  | vchain (x : TWord)
  | vtld (x : TWord)
  | vtst (x : TWord)
  | vqpush (x : RWord)
  | vqpop (x : RWord)
  | nhLq (rd rs1 : BitVec 5)
  | nhLwait (rd rs1 : BitVec 5)
  | nhFqpop (rd rs1 : BitVec 5)
  | nhInval (rd rs1 rs2 : BitVec 5)
  | nhFpool (rd rs1 rs2 : BitVec 5)
  | nhIcinv (rd rs1 rs2 : BitVec 5)
  | nhTrig (rd rs1 : BitVec 5)
  | nhFence (rd rs1 : BitVec 5)
  | mailboxSubmit (mb : Nat) (dw : W64)
  | launchAcceptance (mb : Nat)
  | childAcceptAfterYield (lvl : Nat)
  | placement
  | contextCreation (c : Nat) (lid : Nat)
  | patienceExpiry (lid : Nat)
  | sectionEntry (c : Nat) (e : Engine)
  | sectionRetire (c : Nat) (k : Nat) (e : Engine)
  | endOfText (c : Nat) (e : Engine)
  | engineDropOut (c : Nat) (k : Nat) (e : Engine)
  | contextSwitch (c : Nat) (e : Engine)
  | watchdogExpiry (c : Nat) (e : Engine)
  | scalarResultWriteback (c : Nat) (k : Nat) (e : Engine)
  | vectorResultWriteback (c : Nat) (k : Nat)
  | flagWrite (c : Nat) (k : Nat)
  | inboundQueueArrival (c : Nat) (k : Nat)
  | tileStoreEffect (c : Nat) (k : Nat)
  | rangeUnitService (lid : Nat) (st : Nat)
  | stageQueueArrival (lid : Nat) (q : Nat)
  | stageQueueHeldRetry (lid : Nat) (q : Nat)
  | stageQueueAnswer (c : Nat) (k : Nat)
  | icacheFill (c : Nat)
  | walk (d : Nat)
  | frameZeroed (d : Nat)
  | faultQueueEnter
  | loadReturn (c : Nat) (k : Nat) (e : Engine)
  | accessAtHomeDie (j : Nat)
  | writePropagate (j : Nat)
  | invalidationAck (j : Nat)
  | copyStart (d : Nat)
  | copyPart (id : Nat)
  | copyRowPerformed (id : Nat)
  | copySteal (d : Nat)
  | carriedWordEntry (id : Nat)
  | joinMarkerComplete (id : Nat)
  | inboxPushArrival (ib : Nat) (push : InboxPush)
  | inboxAnswer (id : Nat)
  | parkResend (id : Nat)
  | parkLimitExpiry (id : Nat)
  | inboxOverflowMove (ib : Nat)
  | walkEntryPush (c : Nat)
  | sortRow (c : Nat)
  | sortkComplete (c : Nat)
  | contractionStart (c : Nat)
  | bucketRowComplete (c : Nat)
  | catalogueApply (c : Nat) (j : Nat)
  | contractionComplete (c : Nat)
  | drainComplete (c : Nat)
  | rowEngineRowComplete (c : Nat)
  | barrierArrival (c : Nat)
  | requestArrival (msg : UetMessage)
  | tokeniseDone (tk : Nat)
  | heldRequestPost (q : Nat)
  | tokpopTileWrite (c : Nat)
  | detokeniserTake (d : Nat)
  | replyClose (d : Nat)
  | rqbindWrite (q : Nat) (v : W64)
  | vocabWrite (j : Nat) (v : W64)
  | vocabCheckDone (j : Nat)
  | inboxBindWrite (ib : Nat) (v : W64)
  | completionRecordWrite
  | ringTailRecheck
  | launchRetire (lid : Nat)
  | launchEnd (lid : Nat)
  | fqackWrite (v : W64)
  | launchStop (lid : Nat)
  | subnormalAssistEntry (c : Nat)
  | preemption (lid : Nat)
  | savePoolReserve (lid : Nat)
  | preemptionComplete (lid : Nat)
  | restore (lid : Nat)
  | preqWrite (v : W64)
  | peerRequestArrival (req : PeerRequest)
  | peerReplyArrival (rep : PeerReply)
  | linkDown (p : Nat)
  | linkRetrained (p : Nat) (width : Nat)
  | linkReservationExpiry (p : Nat)
  | moduleReset (hostsel : Bool)
  | bootImageVerified (img : List Byte) (set : BootSettings)
  | helloReceived (msg : Hello)
  | helloWindowExpiry
  | claimReceived (msg : Hello)
  | demoteReceived (msg : Hello)
  | configMessage (msg : ConfigMessage)
  | imageCheckDone
  | loadTimerExpiry
  | attestationRequest (q : AttestRequest)
  | pwrcapWrite (v : W64)
  | powerCapAdjust (watts : Nat)
  | thermalThrottle (d : Nat) (temp : Int)
  | thermalTrip (d : Nat) (temp : Int)
  | supplyChange (mv : Nat)
  | ageingUpdate (d : Nat) (months : Nat)
  | snapshotTrigger (src : Nat) (tag : W64)
  | snapcmpMatch
  | trigIn
  | snapshotLatch
  | lateCountClear (d : Nat)
  | crdropClear
  | racectlOvfClear
  | registerWrite (acc : ControlAccess)
  | unassignedOpcode (w : W96)
  | serviceCoreAccess (n : Nat) (acc : ServiceAccess)
  | unreliablePacketArrival (p : Nat)
  | rmaReadArrival (p : Nat)
deriving DecidableEq, Repr

end Sys2Proof
end

