-- ==== Sys2Proof/WellFormed.lean ====
section
/-!
DEFINITION. Which operand fields each word may hold: the decode checks of R85 (guard, fields, operand codes, register
groups) from the entries of the chapters, and the modifier rules of R97. Every row of the opcode table has its arm.
-/
namespace Sys2Proof

/-- A field the entry leaves unused is zero (R85). -/
def zeroC (_ : Engine) (c : BitVec 6) : Bool := c == 0
/-- A field read as a literal takes every value (R192). -/
def litC (_ : Engine) (_ : BitVec 6) : Bool := true
/-- A source operand code: any on V; elsewhere a register or another engine's inbound queue (R94). -/
def srcC (e : Engine) (c : BitVec 6) : Bool :=
  match e with
  | .V => true
  | .S => c.toNat < 48 || (48 < c.toNat && c.toNat < 52)
  | .A => c.toNat < 49 || (49 < c.toNat && c.toNat < 52)
  | .B => c.toNat < 50 || c.toNat == 51
  | .X => c.toNat < 51
/-- A destination operand code: a register, or on V also a queue (R94). -/
def dstC (_ : Engine) (c : BitVec 6) : Bool := c.toNat < 48
/-- A register 1 to 47. -/
def gpr1C (_ : Engine) (c : BitVec 6) : Bool := 0 < c.toNat && c.toNat < 48
/-- A vector register v0 to v31. -/
def vregC (_ : Engine) (c : BitVec 6) : Bool := c.toNat < 32
/-- An operand queue q0 to q15. -/
def queueC (_ : Engine) (c : BitVec 6) : Bool := 32 ≤ c.toNat && c.toNat < 48
/-- A register or an operand queue, no parameter register. -/
def regOrQueueC (_ : Engine) (c : BitVec 6) : Bool := c.toNat < 48
/-- The first register of a block of eight (R156). -/
def blockC (_ : Engine) (c : BitVec 6) : Bool := c == 8 || c == 16 || c == 24 || c == 32 || c == 40
/-- The first register of a group of `g` registers (R217); a group of one is any source. -/
def groupSrcC (g : Nat) (e : Engine) (c : BitVec 6) : Bool :=
  if g ≤ 1 then srcC e c else c.toNat < 32 && c.toNat % g == 0
/-- The first register of a destination group (R217). -/
def groupDstC (g : Nat) (e : Engine) (c : BitVec 6) : Bool :=
  if g ≤ 1 then dstC e c else c.toNat < 32 && c.toNat % g == 0
/-- A count register of LSET, TRAP and WSEC (R173 table): on V, 0 or a parameter register. -/
def countC (e : Engine) (c : BitVec 6) : Bool :=
  match e with | .V => c == 0 || 48 ≤ c.toNat | _ => srcC e c
/-- The register of a barrier word (R370): a scalar register, or on V 0 or a parameter register. -/
def barRegC (e : Engine) (c : BitVec 6) : Bool :=
  match e with | .V => c == 0 || 48 ≤ c.toNat | _ => c.toNat < 48

/-- The width of an element type (R57, R211); code types count as bytes. -/
def typeWidth (t : Nat) : Nat :=
  match t with
  | 0 | 1 | 12 => 4
  | 2 | 3 | 11 => 8
  | 4 | 5 | 8 | 9 => 16
  | 6 | 7 | 10 => 32
  | _ => 8
/-- The float types f16, bf16, f32 (R57). -/
def isFloatT (t : Nat) : Bool := t == 8 || t == 9 || t == 10
/-- The number of elements of one register (R211). -/
def elemsOf (t : Nat) : Nat := 4096 / typeWidth t
/-- The size of an index group of VPERM and VSHUF (R230). -/
def indexGroup (t : Nat) : Nat := max 1 (elemsOf t / 256)

/-- The guard's own check (R85): nothing set in an unguarded word, and the register in the engine's range. -/
def guardOk (e : Engine) (g : Guard) : Bool :=
  (g.g || (!g.neg && g.greg == 0 && g.gbit == 0)) &&
  (match e with | .V => g.greg.toNat < 32 | _ => g.greg.toNat < 48)

/-- RB and SRN are zero unless the word rounds stochastically; RB names a register (R89). -/
def randOk (e : Engine) (x : RWord) : Bool :=
  if x.rnd == 2 then (match e with | .V => x.rb.toNat < 32 | _ => x.rb.toNat < 48)
  else x.rb == 0 && x.srn == 0

/-- MASK is 63 (R88, R191). -/
def noMask (x : RWord) : Bool := x.mask == 63
/-- MASK is 63 or a vector register (R88). -/
def maskOk (x : RWord) : Bool := x.mask == 63 || x.mask.toNat < 32

/-- The four operand fields and the random-bits fields of an R-format word. -/
def rFields (e : Engine) (x : RWord) (d a b c : Engine → BitVec 6 → Bool) : Bool :=
  guardOk e x.guard && randOk e x && d e x.d && a e x.a && b e x.b && c e x.c

/-- A word of the shared ALU (R191). -/
def aluR (e : Engine) (x : RWord) (a b c : Engine → BitVec 6 → Bool) (maxSub : Nat) : Bool :=
  rFields e x dstC a b c && x.type == 0 && x.sub.toNat ≤ maxSub && x.rnd == 0 && noMask x

/-- BSET, BCLR, BTGL (R195): a literal bit in C, or with SUB 1 an operand in B. -/
def bitR (e : Engine) (x : RWord) : Bool :=
  aluR e x srcC (if x.sub == 0 then zeroC else srcC) (if x.sub == 0 then litC else zeroC) 1

/-- An immediate form of the shared ALU (R193). -/
def aluI (e : Engine) (x : IWord) (maxSub : Nat) : Bool :=
  guardOk e x.guard && dstC e x.d && srcC e x.a && x.sub.toNat ≤ maxSub

/-- A float word of S (R197). -/
def fltR (e : Engine) (x : RWord) (a b c : Engine → BitVec 6 → Bool) (maxSub : Nat) (rounds : Bool) : Bool :=
  rFields e x dstC a b c && x.type == 10 && x.sub.toNat ≤ maxSub && (rounds || x.rnd == 0) && noMask x

/-- An R-format word of S with no element type: launch, range and queue words. -/
def sysR (e : Engine) (x : RWord) (d a b c : Engine → BitVec 6 → Bool) (type sub : BitVec 4 → Bool) : Bool :=
  rFields e x d a b c && type x.type && sub x.sub && x.rnd == 0 && noMask x

/-- An I-format word whose fields are as given (R90). -/
def iFields (e : Engine) (x : IWord) (d a : Engine → BitVec 6 → Bool) (sub : Nat → Bool) (imm : Nat → Bool) : Bool :=
  guardOk e x.guard && d e x.d && a e x.a && sub x.sub.toNat && imm x.imm.toNat

/-- An M-format word (R91): SIZE[3] is reserved, the scale is at most 6. -/
def mFields (e : Engine) (x : MWord) (data : Engine → BitVec 6 → Bool) (sgn : Bool) : Bool :=
  guardOk e x.guard && data e x.data && srcC e x.base && srcC e x.index && !x.size.getLsbD 3 &&
  (sgn || !x.size.getLsbD 2) && x.scale.toNat ≤ 6

/-- An atomic (R268): 4 or 8 bytes, no scale. -/
def atomM (e : Engine) (x : MWord) (sgn : Bool) : Bool :=
  mFields e x dstC sgn && x.size.getLsbD 1 && x.scale == 0

/-- A T-format word: which handle fields are used, the barrier, PREG's range and the CMD bits that may be set (R92). -/
def tFields (e : Engine) (x : TWord) (ta tb td bar : Bool) (preg : Nat → Bool) (cmd : BitVec 34) : Bool :=
  guardOk e x.guard && (ta || x.ta == 0) && (tb || x.tb == 0) && (td || x.td == 0) && (bar || x.bar == 0) &&
  preg x.preg.toNat && (x.cmd &&& ~~~cmd) == 0

/-- Bits `hi` down to `lo` of CMD, as a mask. -/
def cmdBits (hi lo : Nat) : BitVec 34 := BitVec.ofNat 34 (2 ^ (hi + 1) - 2 ^ lo)

/-- A J-format word (R93, R173). -/
def jFields (e : Engine) (x : JWord) (cond : Bool) : Bool :=
  guardOk e x.guard && (cond || (x.treg == 0 && x.tbit == 0 && x.cond == 0)) && x.cond.toNat ≤ 5 &&
  (match e with | .V => x.treg.toNat < 32 | _ => x.treg.toNat < 48) && (x.cond.toNat < 2 || x.tbit == 0)

/-- An element-wise word of V (R221). -/
def elemR (e : Engine) (x : RWord) (b c : Engine → BitVec 6 → Bool) (type : Nat → Bool) (sub : Bool) (rounds : Bool) : Bool :=
  rFields e x dstC srcC b c && type x.type.toNat && (x.sub == 0 || sub) &&
  (x.rnd == 0 || (rounds && isFloatT x.type.toNat)) && maskOk x

/-- `.sat` on an integer type (R221). -/
def satSub (x : RWord) : Bool := x.sub == 1 && x.type.toNat < 8

/-- The widths of VCVT's destination and source, and its register groups (R217, R223). -/
def cvtGroups (x : RWord) : Nat × Nat :=
  (typeWidth x.type.toNat / typeWidth x.sub.toNat, typeWidth x.sub.toNat / typeWidth x.type.toNat)

def cvtOk (e : Engine) (x : RWord) : Bool :=
  x.type.toNat ≤ 10 && x.sub.toNat ≤ 12 && x.type != x.sub &&
  typeWidth x.type.toNat ≤ 4 * typeWidth x.sub.toNat && typeWidth x.sub.toNat ≤ 4 * typeWidth x.type.toNat &&
  rFields e x (groupDstC (cvtGroups x).1) (groupSrcC (cvtGroups x).2) zeroC zeroC &&
  (x.sub.toNat ≤ 10 || x.a.toNat < 48) &&
  (x.rnd == 0 || isFloatT x.type.toNat || 8 ≤ x.sub.toNat) && maskOk x

/-- The widening factor of VWADD, VWMUL and VWMAD (R224). -/
def widenGroup (x : RWord) : Nat := if x.sub == 1 then 4 else 2
def widenOk (e : Engine) (x : RWord) (mad : Bool) : Bool :=
  (x.type.toNat ≤ 5 || x.type == 8 || x.type == 9) && (x.sub == 0 || (x.sub == 1 && x.type.toNat ≤ 3)) &&
  rFields e x (groupDstC (widenGroup x)) (if mad then groupSrcC (widenGroup x) else srcC) srcC (if mad then srcC else zeroC) &&
  (x.rnd == 0 || 8 ≤ x.type.toNat) && maskOk x

/-- The narrowing factor of VNRW (R225). -/
def narrowGroup (x : RWord) : Nat := if x.sub.getLsbD 0 then 4 else 2
def nrwOk (e : Engine) (x : RWord) : Bool :=
  2 ≤ x.type.toNat && x.type.toNat ≤ 7 && !x.sub.getLsbD 2 && !x.sub.getLsbD 3 && (!x.sub.getLsbD 0 || 4 ≤ x.type.toNat) &&
  rFields e x dstC (groupSrcC (narrowGroup x)) srcC zeroC && maskOk x

/-- The source group of VBXN (R229); 0 marks a pair that is not allowed. -/
def bxnGroup (x : RWord) : Nat :=
  if x.type == 11 then (if x.sub == 10 then 4 else if x.sub == 8 || x.sub == 9 then 2 else 0)
  else if x.type == 12 then (if x.sub == 8 || x.sub == 9 then 4 else 0) else 0

/-- A code word of V (R226 to R228). -/
def codeR (e : Engine) (x : RWord) (d a b : Engine → BitVec 6 → Bool) (mask : Bool) : Bool :=
  rFields e x d a b zeroC && 13 ≤ x.type.toNat && x.sub == 0 && x.rnd == 0 && (if mask then maskOk x else noMask x)

/-- A movement word of V (R230). -/
def moveR (e : Engine) (x : RWord) (b c : Engine → BitVec 6 → Bool) : Bool :=
  rFields e x dstC srcC b c && x.type.toNat ≤ 10 && x.sub == 0 && x.rnd == 0 && maskOk x

/-- IX names an aligned group of registers (R230). -/
def indexC (x : RWord) (_ : Engine) (c : BitVec 6) : Bool :=
  c.toNat < 32 && c.toNat % indexGroup x.type.toNat == 0

/-- A row-engine command (R340). -/
def rowT (e : Engine) (x : TWord) (tb : Bool) (sub : Nat) (opt ts : Bool) : Bool :=
  tFields e x true tb true true (· ≤ 46) (cmdBits 33 28 ||| cmdBits 8 0) &&
  bitsOf x.cmd 33 32 != 2 && bitsOf x.cmd 31 28 ≤ sub && (opt || !x.cmd.getLsbD 8) &&
  ((ts && x.cmd.getLsbD 8) || bitsOf x.cmd 7 0 == 0)

/-- A PREG that is zero. -/
def pZero (p : Nat) : Bool := p == 0
/-- A PREG that is 0 or a parameter register (R237). -/
def pParam (p : Nat) : Bool := p == 0 || 48 ≤ p

/-- The engines of the shared scalar words (R102). -/
def scalarEng (e : Engine) : Bool := e != .V
/-- The engines of the memory words (R104). -/
def sOrA (e : Engine) : Bool := e == .S || e == .A

/-- The word's own fields obey its entry on engine `e` (R85, checks 2 and 3). -/
def fieldsOk (e : Engine) : Instr → Bool
  | .nop x => iFields e x zeroC zeroC (· == 0) (· == 0)
  | .br x => jFields e x false
  | .brc x => jFields e x true
  | .call x => jFields e x false
  | .ret x => iFields e x zeroC zeroC (· == 0) (· == 0)
  | .lset x => iFields e x zeroC countC (· ≤ 5) (fun _ => true)
  | .loop x => iFields e x (fun _ d => d == 0 || (e != .V && d.toNat + x.sub.toNat ≤ 47)) zeroC (· ≤ 5) (fun i => 1 ≤ i && i ≤ 32)
  | .yield x => iFields e x zeroC zeroC (· == 0) (· == 0)
  | .halt x => iFields e x zeroC zeroC (· == 0) (· == 0)
  | .trap x => iFields e x zeroC countC (· == 0) (fun _ => true)
  | .sqpush x => e != .V && sysR e x zeroC srcC zeroC zeroC (· == 0) (fun s => s.toNat ≤ 4 && s.toNat != 2 && s.toNat != e.tag)
  | .wsec x => iFields e x zeroC countC (fun t => t ≤ 4 && t != e.tag) (fun _ => true)
  | .barinit x => tFields e x false false false true (fun p => barRegC e (BitVec.ofNat 6 p)) (cmdBits 31 0)
  | .barinitF x => tFields e x false false false true pZero (cmdBits 33 33) && x.cmd.getLsbD 33
  | .barrive x => tFields e x false false false true (fun p => barRegC e (BitVec.ofNat 6 p)) (cmdBits 15 0)
  | .barriveR x => tFields e x false false false true (fun p => barRegC e (BitVec.ofNat 6 p)) (cmdBits 33 17 ||| cmdBits 15 0) && x.cmd.getLsbD 33
  | .bwait x => tFields e x false false false true (fun p => if x.cmd.getLsbD 1 then barRegC e (BitVec.ofNat 6 p) else p == 0) (cmdBits 1 0) && !(x.cmd.getLsbD 1 && x.cmd.getLsbD 0)
  | .btest x => tFields e x false false false true pZero (cmdBits 6 0) && (match e with | .V => bitsOf x.cmd 5 0 < 32 | _ => bitsOf x.cmd 5 0 < 48)
  | .fence x => iFields e x zeroC zeroC (· == 0) (· == 0)
  | .memModifier x => x.order.toNat ≤ 4 && x.scope.toNat ≤ 4 && x.cache.toNat ≤ 3
  | .brk _ => true
  | .add x => scalarEng e && aluR e x srcC srcC zeroC 0
  | .sub x => scalarEng e && aluR e x srcC srcC zeroC 0
  | .mul x => scalarEng e && aluR e x srcC srcC zeroC 0
  | .mulh x => scalarEng e && aluR e x srcC srcC zeroC 2
  | .div x => scalarEng e && aluR e x srcC srcC zeroC 0
  | .divw x => scalarEng e && aluR e x srcC srcC zeroC 0
  | .rem x => scalarEng e && aluR e x srcC srcC zeroC 0
  | .remw x => scalarEng e && aluR e x srcC srcC zeroC 0
  | .and x => scalarEng e && aluR e x srcC srcC zeroC 0
  | .or x => scalarEng e && aluR e x srcC srcC zeroC 0
  | .xor x => scalarEng e && aluR e x srcC srcC zeroC 0
  | .andn x => scalarEng e && aluR e x srcC srcC zeroC 0
  | .shl x => scalarEng e && aluR e x srcC srcC zeroC 0
  | .shr x => scalarEng e && aluR e x srcC srcC zeroC 0
  | .sra x => scalarEng e && aluR e x srcC srcC zeroC 0
  | .rol x => scalarEng e && aluR e x srcC srcC zeroC 0
  | .addI x => scalarEng e && aluI e x 0
  | .subI x => scalarEng e && aluI e x 0
  | .mulI x => scalarEng e && aluI e x 0
  | .mulhI x => scalarEng e && aluI e x 2
  | .divI x => scalarEng e && aluI e x 0
  | .divwI x => scalarEng e && aluI e x 0
  | .remI x => scalarEng e && aluI e x 0
  | .remwI x => scalarEng e && aluI e x 0
  | .andI x => scalarEng e && aluI e x 0
  | .orI x => scalarEng e && aluI e x 0
  | .xorI x => scalarEng e && aluI e x 0
  | .andnI x => scalarEng e && aluI e x 0
  | .shlI x => scalarEng e && aluI e x 0
  | .shrI x => scalarEng e && aluI e x 0
  | .sraI x => scalarEng e && aluI e x 0
  | .rolI x => scalarEng e && aluI e x 0
  | .clz x => scalarEng e && aluR e x srcC zeroC zeroC 0
  | .ctz x => scalarEng e && aluR e x srcC zeroC zeroC 0
  | .popc x => scalarEng e && aluR e x srcC zeroC zeroC 0
  | .min x => scalarEng e && aluR e x srcC srcC zeroC 0
  | .max x => scalarEng e && aluR e x srcC srcC zeroC 0
  | .minw x => scalarEng e && aluR e x srcC srcC zeroC 0
  | .maxw x => scalarEng e && aluR e x srcC srcC zeroC 0
  | .sext x => scalarEng e && aluR e x srcC zeroC litC 0
  | .zext x => scalarEng e && aluR e x srcC zeroC litC 0
  | .mov x => scalarEng e && aluR e x srcC zeroC zeroC 0
  | .sel x => scalarEng e && aluR e x srcC srcC srcC 0
  | .bext x => scalarEng e && aluR e x srcC litC litC 0
  | .bins x => scalarEng e && aluR e x srcC litC litC 0
  | .bset x => scalarEng e && bitR e x
  | .bclr x => scalarEng e && bitR e x
  | .btgl x => scalarEng e && bitR e x
  | .cmpeq x => scalarEng e && aluR e x srcC srcC litC 2
  | .cmpne x => scalarEng e && aluR e x srcC srcC litC 2
  | .cmplt x => scalarEng e && aluR e x srcC srcC litC 2
  | .cmpltw x => scalarEng e && aluR e x srcC srcC litC 2
  | .cmple x => scalarEng e && aluR e x srcC srcC litC 2
  | .cmplew x => scalarEng e && aluR e x srcC srcC litC 2
  | .movi x => scalarEng e && iFields e x dstC zeroC (· ≤ 1) (fun _ => true)
  | .movhi x => scalarEng e && iFields e x dstC zeroC (· == 0) (fun _ => true)
  | .lea x => scalarEng e && mFields e x dstC false && x.size == 0
  | .ld x => sOrA e && mFields e x dstC true
  | .st x => sOrA e && mFields e x srcC false
  | .aadd x => sOrA e && atomM e x false
  | .aand x => sOrA e && atomM e x false
  | .aor x => sOrA e && atomM e x false
  | .axor x => sOrA e && atomM e x false
  | .amin x => sOrA e && atomM e x true
  | .amax x => sOrA e && atomM e x true
  | .axchg x => sOrA e && atomM e x false
  | .acas x => sOrA e && atomM e x false
  | .pld x => sOrA e && mFields e x gpr1C true
  | .fadd x => e == .S && fltR e x srcC srcC zeroC 0 true
  | .fsub x => e == .S && fltR e x srcC srcC zeroC 0 true
  | .fmul x => e == .S && fltR e x srcC srcC zeroC 0 true
  | .ffma x => e == .S && fltR e x srcC srcC srcC 0 true
  | .fdiv x => e == .S && fltR e x srcC srcC zeroC 0 true
  | .fsqrt x => e == .S && fltR e x srcC zeroC zeroC 0 true
  | .fmin x => e == .S && fltR e x srcC srcC zeroC 0 false
  | .fmax x => e == .S && fltR e x srcC srcC zeroC 0 false
  | .fcvt x => e == .S && rFields e x dstC srcC zeroC zeroC && 6 ≤ x.type.toNat && x.type.toNat ≤ 10 && 6 ≤ x.sub.toNat && x.sub.toNat ≤ 10 && x.type != x.sub && noMask x
  | .fcmp x => e == .S && fltR e x srcC srcC litC 3 false
  | .fclass x => e == .S && fltR e x srcC zeroC zeroC 0 false
  | .srd x => e == .S && iFields e x gpr1C zeroC (· == 0) (fun i => i ≤ 7 || (16 ≤ i && i ≤ 20))
  | .swr x => e == .S && iFields e x zeroC srcC (· == 0) (fun i => 16 ≤ i && i ≤ 20)
  | .flgrd x => e == .S && iFields e x gpr1C zeroC (· == 0) (· ≤ 15)
  | .tdef x => e == .S && tFields e x false false true false (· < 48) (cmdBits 5 0) && bitsOf x.cmd 5 0 < 48
  | .tfree x => e == .S && tFields e x false false true false pZero 0
  | .tinfo x => e == .S && tFields e x true false false false (fun p => 1 ≤ p && p < 48) (cmdBits 3 0) && bitsOf x.cmd 3 0 ≤ 11
  | .cdef x => e == .S && tFields e x false false false false (· < 48) (cmdBits 11 0) && bitsOf x.cmd 5 0 < 48
  | .cfree x => e == .S && tFields e x false false false false pZero (cmdBits 11 6)
  | .launch x => e == .S && sysR e x dstC srcC zeroC zeroC (· == 0) (· == 0)
  | .lwaitW x => e == .S && sysR e x dstC srcC zeroC zeroC (· == 0) (· == 0)
  | .lwaitT x => e == .S && sysR e x dstC srcC zeroC zeroC (· == 0) (· == 1)
  | .pbind x => e == .S && sysR e x zeroC srcC zeroC zeroC (· == 0) (· == 0)
  | .rinit x => e == .S && sysR e x zeroC srcC srcC srcC (· == 0) (·.toNat ≤ 4)
  | .rnext x => sOrA e && sysR e x (fun _ d => 1 ≤ d.toNat && d.toNat ≤ 46) zeroC zeroC zeroC (· == 0) (· == 0)
  | .qpush x => e == .S && sysR e x zeroC blockC zeroC zeroC (· == 0) (fun _ => true)
  | .qpushT x => e == .S && sysR e x zeroC blockC zeroC gpr1C (· == 1) (fun _ => true)
  | .qpop x => e == .S && sysR e x blockC zeroC zeroC zeroC (· == 0) (fun _ => true)
  | .qpopT x => e == .S && sysR e x blockC zeroC zeroC gpr1C (· == 1) (fun _ => true)
  | .qdepth x => e == .S && sysR e x gpr1C zeroC zeroC zeroC (· == 0) (fun _ => true)
  | .nmax x => e == .S && rowT e x false 0 false false && bitsOf x.cmd 33 32 == 0
  | .nexps x => e == .S && rowT e x true 0 true true
  | .nscale x => e == .S && rowT e x true 1 false false
  | .nrow x => e == .S && rowT e x false 0 true true
  | .nnorm x => e == .S && rowT e x (x.cmd.getLsbD 8) 1 true false
  | .xrd x => e == .S && sysR e x (fun _ c => c.toNat < 48) (fun _ c => c.toNat < 48) zeroC zeroC (· == 0) (·.toNat ≤ 5)
  | .xwr x => e == .S && sysR e x zeroC (if x.sub == 1 then zeroC else (fun _ c => c.toNat < 48)) (fun _ c => c.toNat < 48) zeroC (· == 0) (·.toNat ≤ 1)
  | .xdone x => e == .S && sysR e x zeroC zeroC zeroC zeroC (· == 0) (· == 0)
  | .aret x => e == .S && sysR e x zeroC (fun _ c => c.toNat < 48) zeroC zeroC (· == 0) (· == 0)
  | .tokpop x => (e == .S || e == .X) && tFields e x false false true true (fun p => 1 ≤ p && p ≤ 44) (cmdBits 3 0)
  | .tokpopT x => (e == .S || e == .X) && tFields e x false false true true (fun p => 1 ≤ p && p ≤ 44) (cmdBits 33 33 ||| cmdBits 3 0) && x.cmd.getLsbD 33
  | .tokpush x => e == .X && tFields e x true false false true (fun p => 1 ≤ p && p ≤ 46) 0
  | .tokend x => e == .X && tFields e x false false false true (fun p => 1 ≤ p && p ≤ 47) 0
  | .aqrd x => e == .A && tFields e x (bitsOf x.cmd 33 32 == 0) false false true (· < 48) (cmdBits 33 22 ||| cmdBits 11 0) && bitsOf x.cmd 33 32 != 3 && 32 ≤ bitsOf x.cmd 31 26 && bitsOf x.cmd 31 26 ≤ 48 && (bitsOf x.cmd 33 32 == 2 || bitsOf x.cmd 25 22 == 0) && !(bitsOf x.cmd 33 32 == 2 && bitsOf x.cmd 31 26 == 48)
  | .aqwr x => e == .A && tFields e x true false (bitsOf x.cmd 33 32 == 0) true (· ≤ 46) (cmdBits 33 32 ||| cmdBits 25 22 ||| cmdBits 11 0) && bitsOf x.cmd 33 32 != 3 && (bitsOf x.cmd 33 32 == 2 || bitsOf x.cmd 25 22 == 0)
  | .gather x => e == .A && tFields e x (bitsOf x.cmd 33 32 == 0) true false true (· ≤ 45) (cmdBits 33 26 ||| cmdBits 3 0) && bitsOf x.cmd 33 32 ≤ 1 && 32 ≤ bitsOf x.cmd 31 26 && bitsOf x.cmd 31 26 ≤ 47 && bitsOf x.cmd 3 0 ≤ 10
  | .scatter x => e == .A && tFields e x true true (bitsOf x.cmd 33 32 == 0) true (· ≤ 45) (cmdBits 33 32 ||| cmdBits 3 0) && bitsOf x.cmd 33 32 ≤ 1 && bitsOf x.cmd 3 0 ≤ 10
  | .gcompact x => e == .A && tFields e x true true true true pZero (cmdBits 7 0)
  | .pref x => e == .A && mFields e x zeroC false
  | .bmv x => e == .B && tFields e x true true false true (· ≤ 45) (cmdBits 5 0) && bitsOf x.cmd 5 0 ≤ 62
  | .bdot x => e == .B && tFields e x true true false true (· ≤ 45) (cmdBits 5 0) && bitsOf x.cmd 5 0 ≤ 62
  | .join x => e == .B && tFields e x true true false true pZero (cmdBits 5 0)
  | .cinit x => e == .B && tFields e x false false false true pZero (cmdBits 0 0)
  | .cdrain x => e == .B && tFields e x false true true true (· < 48) (cmdBits 33 28 ||| cmdBits 26 26)
  | .cdrainL x => e == .B && tFields e x false true true true pZero (cmdBits 33 26) && x.cmd.getLsbD 27
  | .cstat x => e == .B && tFields e x false false false false (· < 48) (cmdBits 6 0)
  | .bdump x => e == .B && tFields e x false false true true (· < 48) 0
  | .banch x => e == .B && tFields e x true false false false pZero 0
  | .banchR x => e == .B && tFields e x false false false false (fun p => srcC .B (BitVec.ofNat 6 p) && p < 52) (cmdBits 0 0) && x.cmd.getLsbD 0
  | .cpy x => e == .X && tFields e x (!x.cmd.getLsbD 30) false (!x.cmd.getLsbD 29) true (fun p => 1 ≤ p && p ≤ 43) (cmdBits 33 28)
  | .cpyf x => e == .X && tFields e x.word (!x.word.cmd.getLsbD 30) false (!x.word.cmd.getLsbD 29) true (fun p => 1 ≤ p && p ≤ 43) (cmdBits 33 29)
  | .cpyz x => e == .X && tFields e x false false (!x.cmd.getLsbD 29) true (fun p => 1 ≤ p && p ≤ 43) (cmdBits 33 31 ||| cmdBits 29 29)
  | .cqstat x => e == .X && tFields e x false false false false (fun p => 1 ≤ p && p < 48) (cmdBits 33 31)
  | .qfence x => e == .X && tFields e x false false false false pZero (cmdBits 7 0)
  | .qjoin x => e == .X && tFields e x false false false false pZero (cmdBits 33 31 ||| cmdBits 7 0) && bitsOf x.cmd 7 0 != 0 && !x.cmd.getLsbD (bitsOf x.cmd 33 31)
  | .sort x => e == .X && tFields e x true false true true (· < 48) (cmdBits 33 31 ||| cmdBits 1 0) && bitsOf x.cmd 1 0 != 3
  | .sortk x => e == .X && tFields e x true false true true pZero (cmdBits 33 31)
  | .vadd x => e == .V && elemR e x srcC zeroC (· ≤ 10) (satSub x) true
  | .vsub x => e == .V && elemR e x srcC zeroC (· ≤ 10) (satSub x) true
  | .vmul x => e == .V && elemR e x srcC zeroC (· ≤ 10) false true
  | .vmulh x => e == .V && elemR e x srcC zeroC (· ≤ 7) false false
  | .vmad x => e == .V && elemR e x srcC srcC (· ≤ 10) false true
  | .vfma x => e == .V && elemR e x srcC srcC isFloatT (x.sub.toNat ≤ 3) true
  | .vmin x => e == .V && elemR e x srcC zeroC (· ≤ 10) false true
  | .vmax x => e == .V && elemR e x srcC zeroC (· ≤ 10) false true
  | .vabs x => e == .V && elemR e x zeroC zeroC (· ≤ 10) (satSub x) true
  | .vneg x => e == .V && elemR e x zeroC zeroC (· ≤ 10) (satSub x) true
  | .vand x => e == .V && elemR e x srcC zeroC (· ≤ 10) false false
  | .vor x => e == .V && elemR e x srcC zeroC (· ≤ 10) false false
  | .vxor x => e == .V && elemR e x srcC zeroC (· ≤ 10) false false
  | .vnot x => e == .V && elemR e x zeroC zeroC (· ≤ 10) false false
  | .vshl x => e == .V && elemR e x srcC zeroC (· ≤ 7) false false
  | .vshr x => e == .V && elemR e x srcC zeroC (· ≤ 7) false false
  | .vsra x => e == .V && elemR e x srcC zeroC (· ≤ 7) false false
  | .vsel x => e == .V && elemR e x srcC vregC (· ≤ 10) false false
  | .vcmpeq x => e == .V && rFields e x vregC srcC srcC zeroC && x.type.toNat ≤ 10 && x.sub == 0 && x.rnd == 0 && maskOk x
  | .vcmpne x => e == .V && rFields e x vregC srcC srcC zeroC && x.type.toNat ≤ 10 && x.sub == 0 && x.rnd == 0 && maskOk x
  | .vcmplt x => e == .V && rFields e x vregC srcC srcC zeroC && x.type.toNat ≤ 10 && x.sub == 0 && x.rnd == 0 && maskOk x
  | .vcmple x => e == .V && rFields e x vregC srcC srcC zeroC && x.type.toNat ≤ 10 && x.sub == 0 && x.rnd == 0 && maskOk x
  | .vcvt x => e == .V && cvtOk e x
  | .vwadd x => e == .V && widenOk e x false
  | .vwmul x => e == .V && widenOk e x false
  | .vwmad x => e == .V && widenOk e x true
  | .vnrw x => e == .V && nrwOk e x
  | .vunpk x => e == .V && codeR e x dstC (fun _ c => c.toNat ≤ 30) srcC false
  | .vpack x => e == .V && codeR e x dstC srcC zeroC false
  | .vbxn x => e == .V && bxnGroup x != 0 && rFields e x dstC (groupSrcC (bxnGroup x)) zeroC zeroC && noMask x
  | .vlut x => e == .V && codeR e x (groupDstC 2) srcC regOrQueueC true
  | .vperm x => e == .V && moveR e x (indexC x) zeroC
  | .vshuf x => e == .V && moveR e x srcC (indexC x)
  | .vslide x => e == .V && moveR e x srcC srcC
  | .vbcast x => e == .V && moveR e x srcC zeroC
  | .vmov x => e == .V && rFields e x dstC srcC zeroC zeroC && x.type.toNat ≤ 12 && x.sub == 0 && x.rnd == 0 && maskOk x && (x.type.toNat ≤ 10 || (noMask x && x.a.toNat < 48))
  | .vmovi x => e == .V && iFields e x dstC zeroC (· ≤ 10) (fun _ => true)
  | .vredsum x => e == .V && elemR e x zeroC zeroC (· ≤ 10) false true
  | .vredmax x => e == .V && elemR e x zeroC zeroC (· ≤ 10) false false
  | .vredmin x => e == .V && elemR e x zeroC zeroC (· ≤ 10) false false
  | .vscan x => e == .V && elemR e x zeroC zeroC (· ≤ 10) false true
  | .vpopc x => e == .V && elemR e x zeroC zeroC (· ≤ 10) false false
  | .vtest x => e == .V && rFields e x zeroC srcC zeroC (fun _ c => c.toNat ≤ 15) && x.type.toNat ≤ 10 && (x.sub.toNat ≤ 2 || (x.sub.toNat ≤ 4 && isFloatT x.type.toNat)) && x.rnd == 0 && maskOk x
  | .vfrcp x => e == .V && rFields e x dstC srcC zeroC zeroC && x.type == 10 && x.sub == 0 && x.rnd == 0 && maskOk x
  | .vfrsq x => e == .V && rFields e x dstC srcC zeroC zeroC && x.type == 10 && x.sub == 0 && x.rnd == 0 && maskOk x
  | .vchain x => e == .V && tFields e x true (x.cmd.getLsbD 0) true false (fun p => 48 ≤ p && p ≤ 60) (cmdBits 0 0)
  | .vtld x => e == .V && tFields e x true false false false pParam (cmdBits 33 28 ||| cmdBits 23 0) && bitsOf x.cmd 33 28 < 48
  | .vtst x => e == .V && tFields e x false false true false pParam (cmdBits 33 28 ||| cmdBits 23 0) && bitsOf x.cmd 33 28 < 48
  | .vqpush x => e == .V && rFields e x queueC vregC zeroC zeroC && x.type == 0 && x.sub == 0 && x.rnd == 0 && noMask x
  | .vqpop x => e == .V && rFields e x vregC queueC zeroC zeroC && x.type == 0 && x.sub == 0 && x.rnd == 0 && noMask x
  | .nhLq _ _ => false
  | .nhLwait _ _ => false
  | .nhFqpop _ _ => false
  | .nhInval _ _ _ => false
  | .nhFpool _ _ _ => false
  | .nhIcinv _ _ _ => false
  | .nhTrig _ _ => false
  | .nhFence _ _ => false
  | .mailboxSubmit _ _ => false
  | .launchAcceptance _ => false
  | .childAcceptAfterYield _ => false
  | .placement => false
  | .contextCreation _ _ => false
  | .patienceExpiry _ => false
  | .sectionEntry _ _ => false
  | .sectionRetire _ _ _ => false
  | .endOfText _ _ => false
  | .engineDropOut _ _ _ => false
  | .contextSwitch _ _ => false
  | .watchdogExpiry _ _ => false
  | .scalarResultWriteback _ _ _ => false
  | .vectorResultWriteback _ _ => false
  | .flagWrite _ _ => false
  | .inboundQueueArrival _ _ => false
  | .tileStoreEffect _ _ => false
  | .rangeUnitService _ _ => false
  | .stageQueueArrival _ _ => false
  | .stageQueueHeldRetry _ _ => false
  | .stageQueueAnswer _ _ => false
  | .icacheFill _ => false
  | .walk _ => false
  | .frameZeroed _ => false
  | .faultQueueEnter => false
  | .loadReturn _ _ _ => false
  | .accessAtHomeDie _ => false
  | .writePropagate _ => false
  | .invalidationAck _ => false
  | .copyStart _ => false
  | .copyPart _ => false
  | .copyRowPerformed _ => false
  | .copySteal _ => false
  | .carriedWordEntry _ => false
  | .joinMarkerComplete _ => false
  | .inboxPushArrival _ _ => false
  | .inboxAnswer _ => false
  | .parkResend _ => false
  | .parkLimitExpiry _ => false
  | .inboxOverflowMove _ => false
  | .walkEntryPush _ => false
  | .sortRow _ => false
  | .sortkComplete _ => false
  | .contractionStart _ => false
  | .bucketRowComplete _ => false
  | .catalogueApply _ _ => false
  | .contractionComplete _ => false
  | .drainComplete _ => false
  | .rowEngineRowComplete _ => false
  | .barrierArrival _ => false
  | .requestArrival _ => false
  | .tokeniseDone _ => false
  | .heldRequestPost _ => false
  | .tokpopTileWrite _ => false
  | .detokeniserTake _ => false
  | .replyClose _ => false
  | .rqbindWrite _ _ => false
  | .vocabWrite _ _ => false
  | .vocabCheckDone _ => false
  | .inboxBindWrite _ _ => false
  | .completionRecordWrite => false
  | .ringTailRecheck => false
  | .launchRetire _ => false
  | .launchEnd _ => false
  | .fqackWrite _ => false
  | .launchStop _ => false
  | .subnormalAssistEntry _ => false
  | .preemption _ => false
  | .savePoolReserve _ => false
  | .preemptionComplete _ => false
  | .restore _ => false
  | .preqWrite _ => false
  | .peerRequestArrival _ => false
  | .peerReplyArrival _ => false
  | .linkDown _ => false
  | .linkRetrained _ _ => false
  | .linkReservationExpiry _ => false
  | .moduleReset _ => false
  | .bootImageVerified _ _ => false
  | .helloReceived _ => false
  | .helloWindowExpiry => false
  | .claimReceived _ => false
  | .demoteReceived _ => false
  | .configMessage _ => false
  | .imageCheckDone => false
  | .loadTimerExpiry => false
  | .attestationRequest _ => false
  | .pwrcapWrite _ => false
  | .powerCapAdjust _ => false
  | .thermalThrottle _ _ => false
  | .thermalTrip _ _ => false
  | .supplyChange _ => false
  | .ageingUpdate _ _ => false
  | .snapshotTrigger _ _ => false
  | .snapcmpMatch => false
  | .trigIn => false
  | .snapshotLatch => false
  | .lateCountClear _ => false
  | .crdropClear => false
  | .racectlOvfClear => false
  | .registerWrite _ => false
  | .unassignedOpcode _ => false
  | .serviceCoreAccess _ _ => false
  | .unreliablePacketArrival _ => false
  | .rmaReadArrival _ => false

/-- Two register groups share a register without being the same set, or are the same set with different widths: R218.
Codes 32 and above name no group. -/
def groupsClash (d gd s gs : Nat) (sameWidth : Bool) : Bool :=
  d < 32 && s < 32 && d < s + gs && s < d + gd && !(d == s && gd == gs && sameWidth)

/-- The word raises the overlap trap at decode (R218, R226). Where the spec names no destination width (compares, VREDSUM, VPOPC, VPACK, scalar
sources, VUNPK, VSLIDE, VBCAST), the same register as source and destination is taken as legal (DESIGN CHOICE, log 27). -/
def overlaps : Instr → Bool
  | .vcvt x => groupsClash x.d.toNat (max 1 (cvtGroups x).1) x.a.toNat (max 1 (cvtGroups x).2)
      (typeWidth x.type.toNat == typeWidth x.sub.toNat)
  | .vwadd x => groupsClash x.d.toNat (widenGroup x) x.a.toNat 1 false || groupsClash x.d.toNat (widenGroup x) x.b.toNat 1 false
  | .vwmul x => groupsClash x.d.toNat (widenGroup x) x.a.toNat 1 false || groupsClash x.d.toNat (widenGroup x) x.b.toNat 1 false
  | .vwmad x => groupsClash x.d.toNat (widenGroup x) x.a.toNat (widenGroup x) true ||
      groupsClash x.d.toNat (widenGroup x) x.b.toNat 1 false || groupsClash x.d.toNat (widenGroup x) x.c.toNat 1 false
  | .vnrw x => groupsClash x.d.toNat 1 x.a.toNat (narrowGroup x) false
  | .vunpk x => groupsClash x.d.toNat 1 x.a.toNat 2 false
  | .vlut x => groupsClash x.d.toNat 2 x.a.toNat 1 false || groupsClash x.d.toNat 2 x.b.toNat 1 false
  | .vbxn x => groupsClash x.d.toNat 1 x.a.toNat (bxnGroup x) false
  | .vperm x => groupsClash x.d.toNat 1 x.b.toNat (indexGroup x.type.toNat) (typeWidth x.type.toNat == 16)
  | .vshuf x => groupsClash x.d.toNat 1 x.c.toNat (indexGroup x.type.toNat) (typeWidth x.type.toNat == 16)
  | _ => false

/-- The words a memory modifier may stand before, by what they do (R97): reads only, writes only, both, prefetch, fence. -/
inductive MemKind where
  | reads | writes | both | prefetch | fence
deriving DecidableEq, Repr

/-- Which memory word an instruction is (R97); none for the others. -/
def memKind : Instr → Option MemKind
  | .ld _ | .pld _ | .gather _ | .aqrd _ => some .reads
  | .st _ | .scatter _ | .aqwr _ | .cpyz _ => some .writes
  | .aadd _ | .aand _ | .aor _ | .axor _ | .amin _ | .amax _ | .axchg _ | .acas _ | .cpy _ | .cpyf _ => some .both
  | .pref _ => some .prefetch
  | .fence _ => some .fence
  | _ => none

/-- The modifier may stand before the next word (R97). -/
def modifierOk (p : PWord) (next : Instr) : Bool :=
  match memKind next with
  | none => false
  | some .reads => p.order != 2 && p.order != 3
  | some .writes => p.order != 1 && p.order != 3
  | some .both => true
  | some .prefetch => p.order == 0
  | some .fence => p.cache == 0 && p.race == 0

/-- Words a LOOP body must not hold (R178). -/
def forbiddenInBody : Instr → Bool
  | .br _ | .brc _ | .call _ | .ret _ | .lset _ | .loop _ | .yield _ | .halt _ => true
  | _ => false

/-- A well-formed word of engine `e`: its fields obey its entry and its register groups do not clash (R85). -/
def wellFormed (e : Engine) (i : Instr) : Bool := fieldsOk e i && !overlaps i

end Sys2Proof
end

