-- ==== Sys2Proof/Decode.lean ====
section
/-!
DEFINITION. From words to instructions: the fields of each format (R84, R89 to R93, R96), the opcode map of every engine
(R100 to R108), the decode checks in the order of R85, the service cores' custom-0 words (R131, R482); and AFTER it
the encoder of the same tables.
-/
namespace Sys2Proof

/-! ## Fields of a 96-bit word -/

/-- Bit `k` of a word. -/
def bit96 (w : W96) (k : Nat) : Bool := w.toNat / 2 ^ k % 2 == 1
/-- Field of `n` bits from bit `lo` up. -/
def fieldAt (n : Nat) (w : W96) (lo : Nat) : BitVec n := BitVec.ofNat n (w.toNat / 2 ^ lo)

/-- The opcode, bits [95:88] (R84). -/
def opOf (w : W96) : BitVec 8 := fieldAt 8 w 88
/-- The guard fields (R84). -/
def guardOf (w : W96) : Guard := { g := bit96 w 87, neg := bit96 w 86, greg := fieldAt 6 w 80, gbit := fieldAt 6 w 74 }
/-- Format R (R89). -/
def rOf (w : W96) : RWord :=
  { guard := guardOf w, d := fieldAt 6 w 68, a := fieldAt 6 w 62, b := fieldAt 6 w 56, c := fieldAt 6 w 50,
    type := fieldAt 4 w 46, sub := fieldAt 4 w 42, rnd := fieldAt 2 w 40, rb := fieldAt 6 w 34, srn := fieldAt 4 w 30,
    mask := fieldAt 6 w 24 }
/-- Format I (R90). -/
def iOf (w : W96) : IWord :=
  { guard := guardOf w, d := fieldAt 6 w 68, a := fieldAt 6 w 62, sub := fieldAt 4 w 58, imm := fieldAt 32 w 0 }
/-- Format M (R91). -/
def mOf (w : W96) : MWord :=
  { guard := guardOf w, data := fieldAt 6 w 68, base := fieldAt 6 w 62, index := fieldAt 6 w 56, size := fieldAt 4 w 52,
    scale := fieldAt 4 w 48, disp := fieldAt 32 w 0 }
/-- Format T (R92). -/
def tOf (w : W96) : TWord :=
  { guard := guardOf w, ta := fieldAt 8 w 66, tb := fieldAt 8 w 58, td := fieldAt 8 w 50, bar := fieldAt 10 w 40,
    preg := fieldAt 6 w 34, cmd := fieldAt 34 w 0 }
/-- Format J (R93). -/
def jOf (w : W96) : JWord :=
  { guard := guardOf w, treg := fieldAt 6 w 68, tbit := fieldAt 6 w 62, cond := fieldAt 4 w 58, off := fieldAt 32 w 0 }
/-- The memory-modifier layout (R96). -/
def pOf (w : W96) : PWord :=
  { order := fieldAt 3 w 71, scope := fieldAt 3 w 68, cache := fieldAt 4 w 62, race := fieldAt 2 w 60 }

/-- The operand layouts of R89 to R93, R96 and R101. -/
inductive Fmt where
  | R | I | M | T | J | P | none
deriving DecidableEq, Repr

/-- The bits a format reserves are zero (R85, check 3). -/
def reservedZero (f : Fmt) (w : W96) : Bool :=
  match f with
  | .R => fieldAt 24 w 0 == 0
  | .I => fieldAt 26 w 32 == 0
  | .M => fieldAt 16 w 32 == 0
  | .T => true
  | .J => fieldAt 26 w 32 == 0
  | .P => fieldAt 14 w 74 == 0 && fieldAt 2 w 66 == 0 && fieldAt 60 w 0 == 0
  | .none => true

/-- One row of the opcode map: its engines, its opcode, its layout, the form it stands for, and its instruction,
made from the word and, for a copy that carries a word, the word after it (R108). -/
structure OpRow where
  engs : List Engine
  op   : BitVec 8
  fmt  : Fmt
  form : W96 → Bool
  build : W96 → W96 → Instr

/-! ## The opcode map -/

/-- The engines of the common words (R100). -/
def engAll : List Engine := [.S, .A, .V, .B, .X]
/-- The engines of the shared scalar words (R102). -/
def engScalar : List Engine := [.S, .A, .B, .X]

/-- Rows of the opcode map, part 0 of it (R100 to R106). -/
def opRows0 : List OpRow :=
  [⟨engAll, 0x00, .I, fun _ => true, fun w _ => .nop (iOf w)⟩,
   ⟨engAll, 0x01, .J, fun _ => true, fun w _ => .br (jOf w)⟩,
   ⟨engAll, 0x02, .J, fun _ => true, fun w _ => .brc (jOf w)⟩,
   ⟨engAll, 0x03, .J, fun _ => true, fun w _ => .call (jOf w)⟩,
   ⟨engAll, 0x04, .I, fun _ => true, fun w _ => .ret (iOf w)⟩,
   ⟨engAll, 0x05, .I, fun _ => true, fun w _ => .lset (iOf w)⟩,
   ⟨engAll, 0x06, .I, fun _ => true, fun w _ => .loop (iOf w)⟩,
   ⟨engAll, 0x07, .I, fun _ => true, fun w _ => .yield (iOf w)⟩,
   ⟨engAll, 0x08, .I, fun _ => true, fun w _ => .halt (iOf w)⟩,
   ⟨engAll, 0x09, .I, fun _ => true, fun w _ => .trap (iOf w)⟩,
   ⟨engScalar, 0x0A, .R, fun _ => true, fun w _ => .sqpush (rOf w)⟩,
   ⟨engAll, 0x0B, .I, fun _ => true, fun w _ => .wsec (iOf w)⟩,
   ⟨engAll, 0x0C, .T, fun w => !((tOf w).cmd.getLsbD 33), fun w _ => .barinit (tOf w)⟩,
   ⟨engAll, 0x0C, .T, fun w => (tOf w).cmd.getLsbD 33, fun w _ => .barinitF (tOf w)⟩,
   ⟨engAll, 0x0D, .T, fun w => !((tOf w).cmd.getLsbD 33), fun w _ => .barrive (tOf w)⟩,
   ⟨engAll, 0x0D, .T, fun w => (tOf w).cmd.getLsbD 33, fun w _ => .barriveR (tOf w)⟩,
   ⟨engAll, 0x0E, .T, fun _ => true, fun w _ => .bwait (tOf w)⟩,
   ⟨engAll, 0x0F, .T, fun _ => true, fun w _ => .btest (tOf w)⟩,
   ⟨engAll, 0x10, .I, fun _ => true, fun w _ => .fence (iOf w)⟩,
   ⟨engAll, 0xFE, .P, fun _ => true, fun w _ => .memModifier (pOf w)⟩,
   ⟨engAll, 0xFF, .none, fun _ => true, fun w _ => .brk (fieldAt 88 w 0)⟩,
   ⟨engScalar, 0x20, .R, fun _ => true, fun w _ => .add (rOf w)⟩,
   ⟨engScalar, 0x21, .R, fun _ => true, fun w _ => .sub (rOf w)⟩,
   ⟨engScalar, 0x22, .R, fun _ => true, fun w _ => .mul (rOf w)⟩,
   ⟨engScalar, 0x23, .R, fun _ => true, fun w _ => .mulh (rOf w)⟩,
   ⟨engScalar, 0x24, .R, fun _ => true, fun w _ => .div (rOf w)⟩]

/-- Rows of the opcode map, part 1 of it (R100 to R106). -/
def opRows1 : List OpRow :=
  [⟨engScalar, 0x25, .R, fun _ => true, fun w _ => .divw (rOf w)⟩,
   ⟨engScalar, 0x26, .R, fun _ => true, fun w _ => .rem (rOf w)⟩,
   ⟨engScalar, 0x27, .R, fun _ => true, fun w _ => .remw (rOf w)⟩,
   ⟨engScalar, 0x28, .R, fun _ => true, fun w _ => .and (rOf w)⟩,
   ⟨engScalar, 0x29, .R, fun _ => true, fun w _ => .or (rOf w)⟩,
   ⟨engScalar, 0x2A, .R, fun _ => true, fun w _ => .xor (rOf w)⟩,
   ⟨engScalar, 0x2B, .R, fun _ => true, fun w _ => .andn (rOf w)⟩,
   ⟨engScalar, 0x2C, .R, fun _ => true, fun w _ => .shl (rOf w)⟩,
   ⟨engScalar, 0x2D, .R, fun _ => true, fun w _ => .shr (rOf w)⟩,
   ⟨engScalar, 0x2E, .R, fun _ => true, fun w _ => .sra (rOf w)⟩,
   ⟨engScalar, 0x2F, .R, fun _ => true, fun w _ => .rol (rOf w)⟩,
   ⟨engScalar, 0x50, .I, fun _ => true, fun w _ => .addI (iOf w)⟩,
   ⟨engScalar, 0x51, .I, fun _ => true, fun w _ => .subI (iOf w)⟩,
   ⟨engScalar, 0x52, .I, fun _ => true, fun w _ => .mulI (iOf w)⟩,
   ⟨engScalar, 0x53, .I, fun _ => true, fun w _ => .mulhI (iOf w)⟩,
   ⟨engScalar, 0x54, .I, fun _ => true, fun w _ => .divI (iOf w)⟩,
   ⟨engScalar, 0x55, .I, fun _ => true, fun w _ => .divwI (iOf w)⟩,
   ⟨engScalar, 0x56, .I, fun _ => true, fun w _ => .remI (iOf w)⟩,
   ⟨engScalar, 0x57, .I, fun _ => true, fun w _ => .remwI (iOf w)⟩,
   ⟨engScalar, 0x58, .I, fun _ => true, fun w _ => .andI (iOf w)⟩,
   ⟨engScalar, 0x59, .I, fun _ => true, fun w _ => .orI (iOf w)⟩,
   ⟨engScalar, 0x5A, .I, fun _ => true, fun w _ => .xorI (iOf w)⟩,
   ⟨engScalar, 0x5B, .I, fun _ => true, fun w _ => .andnI (iOf w)⟩,
   ⟨engScalar, 0x5C, .I, fun _ => true, fun w _ => .shlI (iOf w)⟩,
   ⟨engScalar, 0x5D, .I, fun _ => true, fun w _ => .shrI (iOf w)⟩,
   ⟨engScalar, 0x5E, .I, fun _ => true, fun w _ => .sraI (iOf w)⟩]

/-- Rows of the opcode map, part 2 of it (R100 to R106). -/
def opRows2 : List OpRow :=
  [⟨engScalar, 0x5F, .I, fun _ => true, fun w _ => .rolI (iOf w)⟩,
   ⟨engScalar, 0x30, .R, fun _ => true, fun w _ => .clz (rOf w)⟩,
   ⟨engScalar, 0x31, .R, fun _ => true, fun w _ => .ctz (rOf w)⟩,
   ⟨engScalar, 0x32, .R, fun _ => true, fun w _ => .popc (rOf w)⟩,
   ⟨engScalar, 0x33, .R, fun _ => true, fun w _ => .min (rOf w)⟩,
   ⟨engScalar, 0x34, .R, fun _ => true, fun w _ => .max (rOf w)⟩,
   ⟨engScalar, 0x35, .R, fun _ => true, fun w _ => .minw (rOf w)⟩,
   ⟨engScalar, 0x36, .R, fun _ => true, fun w _ => .maxw (rOf w)⟩,
   ⟨engScalar, 0x37, .R, fun _ => true, fun w _ => .sext (rOf w)⟩,
   ⟨engScalar, 0x38, .R, fun _ => true, fun w _ => .zext (rOf w)⟩,
   ⟨engScalar, 0x39, .R, fun _ => true, fun w _ => .mov (rOf w)⟩,
   ⟨engScalar, 0x3A, .R, fun _ => true, fun w _ => .sel (rOf w)⟩,
   ⟨engScalar, 0x3B, .R, fun _ => true, fun w _ => .bext (rOf w)⟩,
   ⟨engScalar, 0x3C, .R, fun _ => true, fun w _ => .bins (rOf w)⟩,
   ⟨engScalar, 0x3D, .R, fun _ => true, fun w _ => .bset (rOf w)⟩,
   ⟨engScalar, 0x3E, .R, fun _ => true, fun w _ => .bclr (rOf w)⟩,
   ⟨engScalar, 0x3F, .R, fun _ => true, fun w _ => .btgl (rOf w)⟩,
   ⟨engScalar, 0x40, .R, fun _ => true, fun w _ => .cmpeq (rOf w)⟩,
   ⟨engScalar, 0x41, .R, fun _ => true, fun w _ => .cmpne (rOf w)⟩,
   ⟨engScalar, 0x42, .R, fun _ => true, fun w _ => .cmplt (rOf w)⟩,
   ⟨engScalar, 0x43, .R, fun _ => true, fun w _ => .cmpltw (rOf w)⟩,
   ⟨engScalar, 0x44, .R, fun _ => true, fun w _ => .cmple (rOf w)⟩,
   ⟨engScalar, 0x45, .R, fun _ => true, fun w _ => .cmplew (rOf w)⟩,
   ⟨engScalar, 0x46, .I, fun _ => true, fun w _ => .movi (iOf w)⟩,
   ⟨engScalar, 0x47, .I, fun _ => true, fun w _ => .movhi (iOf w)⟩,
   ⟨engScalar, 0x48, .M, fun _ => true, fun w _ => .lea (mOf w)⟩]

/-- Rows of the opcode map, part 3 of it (R100 to R106). -/
def opRows3 : List OpRow :=
  [⟨[.S, .A], 0x60, .M, fun _ => true, fun w _ => .ld (mOf w)⟩,
   ⟨[.S, .A], 0x61, .M, fun _ => true, fun w _ => .st (mOf w)⟩,
   ⟨[.S, .A], 0x62, .M, fun _ => true, fun w _ => .aadd (mOf w)⟩,
   ⟨[.S, .A], 0x63, .M, fun _ => true, fun w _ => .aand (mOf w)⟩,
   ⟨[.S, .A], 0x64, .M, fun _ => true, fun w _ => .aor (mOf w)⟩,
   ⟨[.S, .A], 0x65, .M, fun _ => true, fun w _ => .axor (mOf w)⟩,
   ⟨[.S, .A], 0x66, .M, fun _ => true, fun w _ => .amin (mOf w)⟩,
   ⟨[.S, .A], 0x67, .M, fun _ => true, fun w _ => .amax (mOf w)⟩,
   ⟨[.S, .A], 0x68, .M, fun _ => true, fun w _ => .axchg (mOf w)⟩,
   ⟨[.S, .A], 0x69, .M, fun _ => true, fun w _ => .acas (mOf w)⟩,
   ⟨[.S, .A], 0x6A, .M, fun _ => true, fun w _ => .pld (mOf w)⟩,
   ⟨[.S], 0x70, .R, fun _ => true, fun w _ => .fadd (rOf w)⟩,
   ⟨[.S], 0x71, .R, fun _ => true, fun w _ => .fsub (rOf w)⟩,
   ⟨[.S], 0x72, .R, fun _ => true, fun w _ => .fmul (rOf w)⟩,
   ⟨[.S], 0x73, .R, fun _ => true, fun w _ => .ffma (rOf w)⟩,
   ⟨[.S], 0x74, .R, fun _ => true, fun w _ => .fdiv (rOf w)⟩,
   ⟨[.S], 0x75, .R, fun _ => true, fun w _ => .fsqrt (rOf w)⟩,
   ⟨[.S], 0x76, .R, fun _ => true, fun w _ => .fmin (rOf w)⟩,
   ⟨[.S], 0x77, .R, fun _ => true, fun w _ => .fmax (rOf w)⟩,
   ⟨[.S], 0x78, .R, fun _ => true, fun w _ => .fcvt (rOf w)⟩,
   ⟨[.S], 0x79, .R, fun _ => true, fun w _ => .fcmp (rOf w)⟩,
   ⟨[.S], 0x7A, .R, fun _ => true, fun w _ => .fclass (rOf w)⟩,
   ⟨[.S], 0x80, .I, fun _ => true, fun w _ => .srd (iOf w)⟩,
   ⟨[.S], 0x81, .I, fun _ => true, fun w _ => .swr (iOf w)⟩,
   ⟨[.S], 0x82, .I, fun _ => true, fun w _ => .flgrd (iOf w)⟩,
   ⟨[.S], 0x88, .T, fun _ => true, fun w _ => .tdef (tOf w)⟩]

/-- Rows of the opcode map, part 4 of it (R100 to R106). -/
def opRows4 : List OpRow :=
  [⟨[.S], 0x89, .T, fun _ => true, fun w _ => .tfree (tOf w)⟩,
   ⟨[.S], 0x8A, .T, fun _ => true, fun w _ => .tinfo (tOf w)⟩,
   ⟨[.S], 0x8B, .T, fun _ => true, fun w _ => .cdef (tOf w)⟩,
   ⟨[.S], 0x8C, .T, fun _ => true, fun w _ => .cfree (tOf w)⟩,
   ⟨[.S], 0x90, .R, fun _ => true, fun w _ => .launch (rOf w)⟩,
   ⟨[.S], 0x91, .R, fun w => !((rOf w).sub == 1), fun w _ => .lwaitW (rOf w)⟩,
   ⟨[.S], 0x91, .R, fun w => (rOf w).sub == 1, fun w _ => .lwaitT (rOf w)⟩,
   ⟨[.S], 0x92, .R, fun _ => true, fun w _ => .pbind (rOf w)⟩,
   ⟨[.S], 0x93, .R, fun _ => true, fun w _ => .rinit (rOf w)⟩,
   ⟨[.S, .A], 0x94, .R, fun _ => true, fun w _ => .rnext (rOf w)⟩,
   ⟨[.S], 0x98, .R, fun w => !((rOf w).type == 1), fun w _ => .qpush (rOf w)⟩,
   ⟨[.S], 0x98, .R, fun w => (rOf w).type == 1, fun w _ => .qpushT (rOf w)⟩,
   ⟨[.S], 0x99, .R, fun w => !((rOf w).type == 1), fun w _ => .qpop (rOf w)⟩,
   ⟨[.S], 0x99, .R, fun w => (rOf w).type == 1, fun w _ => .qpopT (rOf w)⟩,
   ⟨[.S], 0x9A, .R, fun _ => true, fun w _ => .qdepth (rOf w)⟩,
   ⟨[.S], 0xA0, .T, fun _ => true, fun w _ => .nmax (tOf w)⟩,
   ⟨[.S], 0xA1, .T, fun _ => true, fun w _ => .nexps (tOf w)⟩,
   ⟨[.S], 0xA2, .T, fun _ => true, fun w _ => .nscale (tOf w)⟩,
   ⟨[.S], 0xA3, .T, fun _ => true, fun w _ => .nrow (tOf w)⟩,
   ⟨[.S], 0xA4, .T, fun _ => true, fun w _ => .nnorm (tOf w)⟩,
   ⟨[.S], 0xA8, .R, fun _ => true, fun w _ => .xrd (rOf w)⟩,
   ⟨[.S], 0xA9, .R, fun _ => true, fun w _ => .xwr (rOf w)⟩,
   ⟨[.S], 0xAA, .R, fun _ => true, fun w _ => .xdone (rOf w)⟩,
   ⟨[.S], 0xAB, .R, fun _ => true, fun w _ => .aret (rOf w)⟩,
   ⟨[.S, .X], 0xB0, .T, fun w => !((tOf w).cmd.getLsbD 33), fun w _ => .tokpop (tOf w)⟩,
   ⟨[.S, .X], 0xB0, .T, fun w => (tOf w).cmd.getLsbD 33, fun w _ => .tokpopT (tOf w)⟩]

/-- Rows of the opcode map, part 5 of it (R100 to R106). -/
def opRows5 : List OpRow :=
  [⟨[.X], 0xB1, .T, fun _ => true, fun w _ => .tokpush (tOf w)⟩,
   ⟨[.X], 0xB2, .T, fun _ => true, fun w _ => .tokend (tOf w)⟩,
   ⟨[.A], 0xC0, .T, fun _ => true, fun w _ => .aqrd (tOf w)⟩,
   ⟨[.A], 0xC1, .T, fun _ => true, fun w _ => .aqwr (tOf w)⟩,
   ⟨[.A], 0xC2, .T, fun _ => true, fun w _ => .gather (tOf w)⟩,
   ⟨[.A], 0xC3, .T, fun _ => true, fun w _ => .scatter (tOf w)⟩,
   ⟨[.A], 0xC4, .T, fun _ => true, fun w _ => .gcompact (tOf w)⟩,
   ⟨[.A], 0xC5, .M, fun _ => true, fun w _ => .pref (mOf w)⟩,
   ⟨[.B], 0xC0, .T, fun _ => true, fun w _ => .bmv (tOf w)⟩,
   ⟨[.B], 0xC1, .T, fun _ => true, fun w _ => .bdot (tOf w)⟩,
   ⟨[.B], 0xC2, .T, fun _ => true, fun w _ => .join (tOf w)⟩,
   ⟨[.B], 0xC3, .T, fun _ => true, fun w _ => .cinit (tOf w)⟩,
   ⟨[.B], 0xC4, .T, fun w => !((tOf w).cmd.getLsbD 27), fun w _ => .cdrain (tOf w)⟩,
   ⟨[.B], 0xC4, .T, fun w => (tOf w).cmd.getLsbD 27, fun w _ => .cdrainL (tOf w)⟩,
   ⟨[.B], 0xC5, .T, fun _ => true, fun w _ => .cstat (tOf w)⟩,
   ⟨[.B], 0xC6, .T, fun _ => true, fun w _ => .bdump (tOf w)⟩,
   ⟨[.B], 0xC7, .T, fun w => !((tOf w).cmd.getLsbD 0), fun w _ => .banch (tOf w)⟩,
   ⟨[.B], 0xC7, .T, fun w => (tOf w).cmd.getLsbD 0, fun w _ => .banchR (tOf w)⟩,
   ⟨[.X], 0xC0, .T, fun _ => true, fun w _ => .cpy (tOf w)⟩,
   ⟨[.X], 0xC1, .T, fun _ => true, fun w n => .cpyf { word := tOf w, carried := n }⟩,
   ⟨[.X], 0xC2, .T, fun _ => true, fun w _ => .cpyz (tOf w)⟩,
   ⟨[.X], 0xC3, .T, fun _ => true, fun w _ => .cqstat (tOf w)⟩,
   ⟨[.X], 0xC4, .T, fun _ => true, fun w _ => .qfence (tOf w)⟩,
   ⟨[.X], 0xC5, .T, fun _ => true, fun w _ => .qjoin (tOf w)⟩,
   ⟨[.X], 0xC8, .T, fun _ => true, fun w _ => .sort (tOf w)⟩,
   ⟨[.X], 0xC9, .T, fun _ => true, fun w _ => .sortk (tOf w)⟩]

/-- Rows of the opcode map, part 6 of it (R100 to R106). -/
def opRows6 : List OpRow :=
  [⟨[.V], 0x20, .R, fun _ => true, fun w _ => .vadd (rOf w)⟩,
   ⟨[.V], 0x21, .R, fun _ => true, fun w _ => .vsub (rOf w)⟩,
   ⟨[.V], 0x22, .R, fun _ => true, fun w _ => .vmul (rOf w)⟩,
   ⟨[.V], 0x23, .R, fun _ => true, fun w _ => .vmulh (rOf w)⟩,
   ⟨[.V], 0x24, .R, fun _ => true, fun w _ => .vmad (rOf w)⟩,
   ⟨[.V], 0x25, .R, fun _ => true, fun w _ => .vfma (rOf w)⟩,
   ⟨[.V], 0x26, .R, fun _ => true, fun w _ => .vmin (rOf w)⟩,
   ⟨[.V], 0x27, .R, fun _ => true, fun w _ => .vmax (rOf w)⟩,
   ⟨[.V], 0x28, .R, fun _ => true, fun w _ => .vabs (rOf w)⟩,
   ⟨[.V], 0x29, .R, fun _ => true, fun w _ => .vneg (rOf w)⟩,
   ⟨[.V], 0x2A, .R, fun _ => true, fun w _ => .vand (rOf w)⟩,
   ⟨[.V], 0x2B, .R, fun _ => true, fun w _ => .vor (rOf w)⟩,
   ⟨[.V], 0x2C, .R, fun _ => true, fun w _ => .vxor (rOf w)⟩,
   ⟨[.V], 0x2D, .R, fun _ => true, fun w _ => .vnot (rOf w)⟩,
   ⟨[.V], 0x2E, .R, fun _ => true, fun w _ => .vshl (rOf w)⟩,
   ⟨[.V], 0x2F, .R, fun _ => true, fun w _ => .vshr (rOf w)⟩,
   ⟨[.V], 0x30, .R, fun _ => true, fun w _ => .vsra (rOf w)⟩,
   ⟨[.V], 0x31, .R, fun _ => true, fun w _ => .vsel (rOf w)⟩,
   ⟨[.V], 0x38, .R, fun _ => true, fun w _ => .vcmpeq (rOf w)⟩,
   ⟨[.V], 0x39, .R, fun _ => true, fun w _ => .vcmpne (rOf w)⟩,
   ⟨[.V], 0x3A, .R, fun _ => true, fun w _ => .vcmplt (rOf w)⟩,
   ⟨[.V], 0x3B, .R, fun _ => true, fun w _ => .vcmple (rOf w)⟩,
   ⟨[.V], 0x40, .R, fun _ => true, fun w _ => .vcvt (rOf w)⟩,
   ⟨[.V], 0x41, .R, fun _ => true, fun w _ => .vwadd (rOf w)⟩,
   ⟨[.V], 0x42, .R, fun _ => true, fun w _ => .vwmul (rOf w)⟩,
   ⟨[.V], 0x43, .R, fun _ => true, fun w _ => .vwmad (rOf w)⟩]

/-- Rows of the opcode map, part 7 of it (R100 to R106). -/
def opRows7 : List OpRow :=
  [⟨[.V], 0x44, .R, fun _ => true, fun w _ => .vnrw (rOf w)⟩,
   ⟨[.V], 0x45, .R, fun _ => true, fun w _ => .vunpk (rOf w)⟩,
   ⟨[.V], 0x46, .R, fun _ => true, fun w _ => .vpack (rOf w)⟩,
   ⟨[.V], 0x47, .R, fun _ => true, fun w _ => .vbxn (rOf w)⟩,
   ⟨[.V], 0x50, .R, fun _ => true, fun w _ => .vlut (rOf w)⟩,
   ⟨[.V], 0x51, .R, fun _ => true, fun w _ => .vperm (rOf w)⟩,
   ⟨[.V], 0x52, .R, fun _ => true, fun w _ => .vshuf (rOf w)⟩,
   ⟨[.V], 0x53, .R, fun _ => true, fun w _ => .vslide (rOf w)⟩,
   ⟨[.V], 0x54, .R, fun _ => true, fun w _ => .vbcast (rOf w)⟩,
   ⟨[.V], 0x55, .R, fun _ => true, fun w _ => .vmov (rOf w)⟩,
   ⟨[.V], 0x56, .I, fun _ => true, fun w _ => .vmovi (iOf w)⟩,
   ⟨[.V], 0x60, .R, fun _ => true, fun w _ => .vredsum (rOf w)⟩,
   ⟨[.V], 0x61, .R, fun _ => true, fun w _ => .vredmax (rOf w)⟩,
   ⟨[.V], 0x62, .R, fun _ => true, fun w _ => .vredmin (rOf w)⟩,
   ⟨[.V], 0x63, .R, fun _ => true, fun w _ => .vscan (rOf w)⟩,
   ⟨[.V], 0x64, .R, fun _ => true, fun w _ => .vpopc (rOf w)⟩,
   ⟨[.V], 0x65, .R, fun _ => true, fun w _ => .vtest (rOf w)⟩,
   ⟨[.V], 0x68, .R, fun _ => true, fun w _ => .vfrcp (rOf w)⟩,
   ⟨[.V], 0x69, .R, fun _ => true, fun w _ => .vfrsq (rOf w)⟩,
   ⟨[.V], 0x70, .T, fun _ => true, fun w _ => .vchain (tOf w)⟩,
   ⟨[.V], 0x78, .T, fun _ => true, fun w _ => .vtld (tOf w)⟩,
   ⟨[.V], 0x79, .T, fun _ => true, fun w _ => .vtst (tOf w)⟩,
   ⟨[.V], 0x7A, .R, fun _ => true, fun w _ => .vqpush (rOf w)⟩,
   ⟨[.V], 0x7B, .R, fun _ => true, fun w _ => .vqpop (rOf w)⟩]

/-- The opcode map of the five engines; a cell it does not hold is unassigned (R107). -/
def opRows : List OpRow :=
  opRows0 ++ opRows1 ++ opRows2 ++ opRows3 ++ opRows4 ++ opRows5 ++ opRows6 ++ opRows7

/-! ## Decoding -/

/-- Why a word is not an instruction (R85, R97, R107, R108, R218); all but `overlap` raise illegal-instruction. -/
inductive DecodeFault where
  | unassigned | field | modifier | carried | overlap
deriving DecidableEq, Repr

/-- What a word decodes to. -/
inductive Decoded where
  | ok (i : Instr)
  | bad (why : DecodeFault)
deriving DecidableEq, Repr

/-- The row of a word in an engine's map (R84, R107). -/
def rowOf (e : Engine) (w : W96) : Option OpRow :=
  opRows.find? (fun r => r.op == opOf w && r.engs.contains e && r.form w)

/-- The decode checks of R85 on one word; `n` is the word after it. -/
def decodeWord (e : Engine) (w n : W96) : Decoded :=
  match rowOf e w with
  | none => .bad .unassigned
  | some r =>
    if !reservedZero r.fmt w || !fieldsOk e (r.build w n) then .bad .field
    else if overlaps (r.build w n) then .bad .overlap
    else .ok (r.build w n)

/-- The word a CPYF carries: BMV, BDOT or JOIN of B's map with a zero guard field (R108). -/
def carriedDecode (n : W96) : Decoded :=
  if fieldAt 14 n 74 != 0 then .bad .carried
  else match decodeWord .B n 0 with
    | .ok (.bmv x) => .ok (.bmv x)
    | .ok (.bdot x) => .ok (.bdot x)
    | .ok (.join x) => .ok (.join x)
    | .ok _ => .bad .carried
    | .bad .overlap => .bad .overlap
    | .bad _ => .bad .carried

/-- The instruction of word `w` on engine `e`, with `n` the word after it (R85, R108): total, refusing by name. -/
def decode (e : Engine) (w n : W96) : Decoded :=
  match decodeWord e w n with
  | .ok (.cpyf x) =>
    match carriedDecode x.carried with
    | .ok _ => .ok (.cpyf x)
    | .bad why => .bad why
  | d => d

/-- Field of `n` bits of a service-core word. -/
def field32 (n : Nat) (w : BitVec 32) (lo : Nat) : BitVec n := BitVec.ofNat n (w.toNat / 2 ^ lo)

/-- A service core's custom-0 word (R131, R482): funct7 zero, and rs2 zero where the table requires x0. -/
def decodeService (w : BitVec 32) : Option Instr :=
  if field32 7 w 0 != 0x0B || field32 7 w 25 != 0 then none
  else
    let rd := field32 5 w 7
    let rs1 := field32 5 w 15
    let rs2 := field32 5 w 20
    let x0 := rs2 == 0
    match (field32 3 w 12).toNat with
    | 0 => if x0 then some (.nhLq rd rs1) else none
    | 1 => if x0 then some (.nhLwait rd rs1) else none
    | 2 => if x0 then some (.nhFqpop rd rs1) else none
    | 3 => some (.nhInval rd rs1 rs2)
    | 4 => some (.nhFpool rd rs1 rs2)
    | 5 => some (.nhIcinv rd rs1 rs2)
    | 6 => if x0 then some (.nhTrig rd rs1) else none
    | _ => if x0 then some (.nhFence rd rs1) else none

/-! ## Bytes of a word -/

/-- The bytes of a number, lowest first (R3). -/
def bytesLE (n w : Nat) : List Byte := (List.range n).map (fun k => BitVec.ofNat 8 (w >>> (8 * k)))
/-- The number some bytes stand for, lowest first (R3). -/
def numLE : List Byte → Nat
  | [] => 0
  | b :: bs => b.toNat + 256 * numLE bs

/-- The first engine, in tag order, whose map decodes the word. -/
def decodeAnyEngine (w n : W96) : Option Instr :=
  (Engine.all.filterMap (fun e => match decode e w n with | .ok i => some i | .bad _ => none)).head?

/-- The instruction of `nbits` bits `w`, numbered as the opcode table numbers them: a service core's word for 32 bits, an
engine's word for more, in the map of the first engine that decodes it; the bytes of its words lie lowest first. -/
def decodeTableWord (nbits w : Nat) : Option Instr :=
  let bs := bytesLE 24 (w % 2 ^ nbits)
  if nbits ≤ 32 then decodeService (BitVec.ofNat 32 (numLE (bs.take 4)))
  else decodeAnyEngine (BitVec.ofNat 96 (numLE (bs.take 12))) (BitVec.ofNat 96 (numLE (bs.drop 12)))

/-! ## Encoding -/

/-- A field of a word: its value at its lowest bit. -/
def putAt {n : Nat} (x : BitVec n) (lo : Nat) : Nat := x.toNat * 2 ^ lo
/-- Opcode and guard, bits [95:74] (R84). -/
def packHead (op : BitVec 8) (g : Guard) : Nat :=
  putAt op 88 + g.g.toNat * 2 ^ 87 + g.neg.toNat * 2 ^ 86 + putAt g.greg 80 + putAt g.gbit 74
/-- Format R (R89). -/
def packR (op : BitVec 8) (x : RWord) : W96 :=
  BitVec.ofNat 96 (packHead op x.guard + putAt x.d 68 + putAt x.a 62 + putAt x.b 56 + putAt x.c 50 + putAt x.type 46 +
    putAt x.sub 42 + putAt x.rnd 40 + putAt x.rb 34 + putAt x.srn 30 + putAt x.mask 24)
/-- Format I (R90). -/
def packI (op : BitVec 8) (x : IWord) : W96 :=
  BitVec.ofNat 96 (packHead op x.guard + putAt x.d 68 + putAt x.a 62 + putAt x.sub 58 + putAt x.imm 0)
/-- Format M (R91). -/
def packM (op : BitVec 8) (x : MWord) : W96 :=
  BitVec.ofNat 96 (packHead op x.guard + putAt x.data 68 + putAt x.base 62 + putAt x.index 56 + putAt x.size 52 +
    putAt x.scale 48 + putAt x.disp 0)
/-- Format T (R92). -/
def packT (op : BitVec 8) (x : TWord) : W96 :=
  BitVec.ofNat 96 (packHead op x.guard + putAt x.ta 66 + putAt x.tb 58 + putAt x.td 50 + putAt x.bar 40 +
    putAt x.preg 34 + putAt x.cmd 0)
/-- Format J (R93). -/
def packJ (op : BitVec 8) (x : JWord) : W96 :=
  BitVec.ofNat 96 (packHead op x.guard + putAt x.treg 68 + putAt x.tbit 62 + putAt x.cond 58 + putAt x.off 0)
/-- The modifier layout (R96). -/
def packP (x : PWord) : W96 :=
  BitVec.ofNat 96 (0xFE * 2 ^ 88 + putAt x.order 71 + putAt x.scope 68 + putAt x.cache 62 + putAt x.race 60)
/-- A breakpoint word: its opcode and the ignored bits (R101). -/
def packK (x : BitVec 88) : W96 := BitVec.ofNat 96 (0xFF * 2 ^ 88 + putAt x 0)
/-- A service-core word (R131). -/
def packService (f3 : Nat) (rd rs1 rs2 : BitVec 5) : BitVec 32 :=
  BitVec.ofNat 32 (putAt rs2 20 + putAt rs1 15 + f3 * 2 ^ 12 + putAt rd 7 + 0x0B)

/-- The 96-bit word of an engine's instruction; the part's own steps and the service cores' words have none. -/
def encode : Instr → Option W96
  | .nop x => some (packI 0x00 x)
  | .br x => some (packJ 0x01 x)
  | .brc x => some (packJ 0x02 x)
  | .call x => some (packJ 0x03 x)
  | .ret x => some (packI 0x04 x)
  | .lset x => some (packI 0x05 x)
  | .loop x => some (packI 0x06 x)
  | .yield x => some (packI 0x07 x)
  | .halt x => some (packI 0x08 x)
  | .trap x => some (packI 0x09 x)
  | .sqpush x => some (packR 0x0A x)
  | .wsec x => some (packI 0x0B x)
  | .barinit x => some (packT 0x0C x)
  | .barinitF x => some (packT 0x0C x)
  | .barrive x => some (packT 0x0D x)
  | .barriveR x => some (packT 0x0D x)
  | .bwait x => some (packT 0x0E x)
  | .btest x => some (packT 0x0F x)
  | .fence x => some (packI 0x10 x)
  | .memModifier x => some (packP x)
  | .brk x => some (packK x)
  | .add x => some (packR 0x20 x)
  | .sub x => some (packR 0x21 x)
  | .mul x => some (packR 0x22 x)
  | .mulh x => some (packR 0x23 x)
  | .div x => some (packR 0x24 x)
  | .divw x => some (packR 0x25 x)
  | .rem x => some (packR 0x26 x)
  | .remw x => some (packR 0x27 x)
  | .and x => some (packR 0x28 x)
  | .or x => some (packR 0x29 x)
  | .xor x => some (packR 0x2A x)
  | .andn x => some (packR 0x2B x)
  | .shl x => some (packR 0x2C x)
  | .shr x => some (packR 0x2D x)
  | .sra x => some (packR 0x2E x)
  | .rol x => some (packR 0x2F x)
  | .addI x => some (packI 0x50 x)
  | .subI x => some (packI 0x51 x)
  | .mulI x => some (packI 0x52 x)
  | .mulhI x => some (packI 0x53 x)
  | .divI x => some (packI 0x54 x)
  | .divwI x => some (packI 0x55 x)
  | .remI x => some (packI 0x56 x)
  | .remwI x => some (packI 0x57 x)
  | .andI x => some (packI 0x58 x)
  | .orI x => some (packI 0x59 x)
  | .xorI x => some (packI 0x5A x)
  | .andnI x => some (packI 0x5B x)
  | .shlI x => some (packI 0x5C x)
  | .shrI x => some (packI 0x5D x)
  | .sraI x => some (packI 0x5E x)
  | .rolI x => some (packI 0x5F x)
  | .clz x => some (packR 0x30 x)
  | .ctz x => some (packR 0x31 x)
  | .popc x => some (packR 0x32 x)
  | .min x => some (packR 0x33 x)
  | .max x => some (packR 0x34 x)
  | .minw x => some (packR 0x35 x)
  | .maxw x => some (packR 0x36 x)
  | .sext x => some (packR 0x37 x)
  | .zext x => some (packR 0x38 x)
  | .mov x => some (packR 0x39 x)
  | .sel x => some (packR 0x3A x)
  | .bext x => some (packR 0x3B x)
  | .bins x => some (packR 0x3C x)
  | .bset x => some (packR 0x3D x)
  | .bclr x => some (packR 0x3E x)
  | .btgl x => some (packR 0x3F x)
  | .cmpeq x => some (packR 0x40 x)
  | .cmpne x => some (packR 0x41 x)
  | .cmplt x => some (packR 0x42 x)
  | .cmpltw x => some (packR 0x43 x)
  | .cmple x => some (packR 0x44 x)
  | .cmplew x => some (packR 0x45 x)
  | .movi x => some (packI 0x46 x)
  | .movhi x => some (packI 0x47 x)
  | .lea x => some (packM 0x48 x)
  | .ld x => some (packM 0x60 x)
  | .st x => some (packM 0x61 x)
  | .aadd x => some (packM 0x62 x)
  | .aand x => some (packM 0x63 x)
  | .aor x => some (packM 0x64 x)
  | .axor x => some (packM 0x65 x)
  | .amin x => some (packM 0x66 x)
  | .amax x => some (packM 0x67 x)
  | .axchg x => some (packM 0x68 x)
  | .acas x => some (packM 0x69 x)
  | .pld x => some (packM 0x6A x)
  | .fadd x => some (packR 0x70 x)
  | .fsub x => some (packR 0x71 x)
  | .fmul x => some (packR 0x72 x)
  | .ffma x => some (packR 0x73 x)
  | .fdiv x => some (packR 0x74 x)
  | .fsqrt x => some (packR 0x75 x)
  | .fmin x => some (packR 0x76 x)
  | .fmax x => some (packR 0x77 x)
  | .fcvt x => some (packR 0x78 x)
  | .fcmp x => some (packR 0x79 x)
  | .fclass x => some (packR 0x7A x)
  | .srd x => some (packI 0x80 x)
  | .swr x => some (packI 0x81 x)
  | .flgrd x => some (packI 0x82 x)
  | .tdef x => some (packT 0x88 x)
  | .tfree x => some (packT 0x89 x)
  | .tinfo x => some (packT 0x8A x)
  | .cdef x => some (packT 0x8B x)
  | .cfree x => some (packT 0x8C x)
  | .launch x => some (packR 0x90 x)
  | .lwaitW x => some (packR 0x91 x)
  | .lwaitT x => some (packR 0x91 x)
  | .pbind x => some (packR 0x92 x)
  | .rinit x => some (packR 0x93 x)
  | .rnext x => some (packR 0x94 x)
  | .qpush x => some (packR 0x98 x)
  | .qpushT x => some (packR 0x98 x)
  | .qpop x => some (packR 0x99 x)
  | .qpopT x => some (packR 0x99 x)
  | .qdepth x => some (packR 0x9A x)
  | .nmax x => some (packT 0xA0 x)
  | .nexps x => some (packT 0xA1 x)
  | .nscale x => some (packT 0xA2 x)
  | .nrow x => some (packT 0xA3 x)
  | .nnorm x => some (packT 0xA4 x)
  | .xrd x => some (packR 0xA8 x)
  | .xwr x => some (packR 0xA9 x)
  | .xdone x => some (packR 0xAA x)
  | .aret x => some (packR 0xAB x)
  | .tokpop x => some (packT 0xB0 x)
  | .tokpopT x => some (packT 0xB0 x)
  | .tokpush x => some (packT 0xB1 x)
  | .tokend x => some (packT 0xB2 x)
  | .aqrd x => some (packT 0xC0 x)
  | .aqwr x => some (packT 0xC1 x)
  | .gather x => some (packT 0xC2 x)
  | .scatter x => some (packT 0xC3 x)
  | .gcompact x => some (packT 0xC4 x)
  | .pref x => some (packM 0xC5 x)
  | .bmv x => some (packT 0xC0 x)
  | .bdot x => some (packT 0xC1 x)
  | .join x => some (packT 0xC2 x)
  | .cinit x => some (packT 0xC3 x)
  | .cdrain x => some (packT 0xC4 x)
  | .cdrainL x => some (packT 0xC4 x)
  | .cstat x => some (packT 0xC5 x)
  | .bdump x => some (packT 0xC6 x)
  | .banch x => some (packT 0xC7 x)
  | .banchR x => some (packT 0xC7 x)
  | .cpy x => some (packT 0xC0 x)
  | .cpyf x => some (packT 0xC1 x.word)
  | .cpyz x => some (packT 0xC2 x)
  | .cqstat x => some (packT 0xC3 x)
  | .qfence x => some (packT 0xC4 x)
  | .qjoin x => some (packT 0xC5 x)
  | .sort x => some (packT 0xC8 x)
  | .sortk x => some (packT 0xC9 x)
  | .vadd x => some (packR 0x20 x)
  | .vsub x => some (packR 0x21 x)
  | .vmul x => some (packR 0x22 x)
  | .vmulh x => some (packR 0x23 x)
  | .vmad x => some (packR 0x24 x)
  | .vfma x => some (packR 0x25 x)
  | .vmin x => some (packR 0x26 x)
  | .vmax x => some (packR 0x27 x)
  | .vabs x => some (packR 0x28 x)
  | .vneg x => some (packR 0x29 x)
  | .vand x => some (packR 0x2A x)
  | .vor x => some (packR 0x2B x)
  | .vxor x => some (packR 0x2C x)
  | .vnot x => some (packR 0x2D x)
  | .vshl x => some (packR 0x2E x)
  | .vshr x => some (packR 0x2F x)
  | .vsra x => some (packR 0x30 x)
  | .vsel x => some (packR 0x31 x)
  | .vcmpeq x => some (packR 0x38 x)
  | .vcmpne x => some (packR 0x39 x)
  | .vcmplt x => some (packR 0x3A x)
  | .vcmple x => some (packR 0x3B x)
  | .vcvt x => some (packR 0x40 x)
  | .vwadd x => some (packR 0x41 x)
  | .vwmul x => some (packR 0x42 x)
  | .vwmad x => some (packR 0x43 x)
  | .vnrw x => some (packR 0x44 x)
  | .vunpk x => some (packR 0x45 x)
  | .vpack x => some (packR 0x46 x)
  | .vbxn x => some (packR 0x47 x)
  | .vlut x => some (packR 0x50 x)
  | .vperm x => some (packR 0x51 x)
  | .vshuf x => some (packR 0x52 x)
  | .vslide x => some (packR 0x53 x)
  | .vbcast x => some (packR 0x54 x)
  | .vmov x => some (packR 0x55 x)
  | .vmovi x => some (packI 0x56 x)
  | .vredsum x => some (packR 0x60 x)
  | .vredmax x => some (packR 0x61 x)
  | .vredmin x => some (packR 0x62 x)
  | .vscan x => some (packR 0x63 x)
  | .vpopc x => some (packR 0x64 x)
  | .vtest x => some (packR 0x65 x)
  | .vfrcp x => some (packR 0x68 x)
  | .vfrsq x => some (packR 0x69 x)
  | .vchain x => some (packT 0x70 x)
  | .vtld x => some (packT 0x78 x)
  | .vtst x => some (packT 0x79 x)
  | .vqpush x => some (packR 0x7A x)
  | .vqpop x => some (packR 0x7B x)
  | .nhLq _ _ => none
  | .nhLwait _ _ => none
  | .nhFqpop _ _ => none
  | .nhInval _ _ _ => none
  | .nhFpool _ _ _ => none
  | .nhIcinv _ _ _ => none
  | .nhTrig _ _ => none
  | .nhFence _ _ => none
  | .mailboxSubmit _ _ => none
  | .launchAcceptance _ => none
  | .childAcceptAfterYield _ => none
  | .placement => none
  | .contextCreation _ _ => none
  | .patienceExpiry _ => none
  | .sectionEntry _ _ => none
  | .sectionRetire _ _ _ => none
  | .endOfText _ _ => none
  | .engineDropOut _ _ _ => none
  | .contextSwitch _ _ => none
  | .watchdogExpiry _ _ => none
  | .scalarResultWriteback _ _ _ => none
  | .vectorResultWriteback _ _ => none
  | .flagWrite _ _ => none
  | .inboundQueueArrival _ _ => none
  | .tileStoreEffect _ _ => none
  | .rangeUnitService _ _ => none
  | .stageQueueArrival _ _ => none
  | .stageQueueHeldRetry _ _ => none
  | .stageQueueAnswer _ _ => none
  | .icacheFill _ => none
  | .walk _ => none
  | .frameZeroed _ => none
  | .faultQueueEnter => none
  | .loadReturn _ _ _ => none
  | .accessAtHomeDie _ => none
  | .writePropagate _ => none
  | .invalidationAck _ => none
  | .copyStart _ => none
  | .copyPart _ => none
  | .copyRowPerformed _ => none
  | .copySteal _ => none
  | .carriedWordEntry _ => none
  | .joinMarkerComplete _ => none
  | .inboxPushArrival _ _ => none
  | .inboxAnswer _ => none
  | .parkResend _ => none
  | .parkLimitExpiry _ => none
  | .inboxOverflowMove _ => none
  | .walkEntryPush _ => none
  | .sortRow _ => none
  | .sortkComplete _ => none
  | .contractionStart _ => none
  | .bucketRowComplete _ => none
  | .catalogueApply _ _ => none
  | .contractionComplete _ => none
  | .drainComplete _ => none
  | .rowEngineRowComplete _ => none
  | .barrierArrival _ => none
  | .requestArrival _ => none
  | .tokeniseDone _ => none
  | .heldRequestPost _ => none
  | .tokpopTileWrite _ => none
  | .detokeniserTake _ => none
  | .replyClose _ => none
  | .rqbindWrite _ _ => none
  | .vocabWrite _ _ => none
  | .vocabCheckDone _ => none
  | .inboxBindWrite _ _ => none
  | .completionRecordWrite => none
  | .ringTailRecheck => none
  | .launchRetire _ => none
  | .launchEnd _ => none
  | .fqackWrite _ => none
  | .launchStop _ => none
  | .subnormalAssistEntry _ => none
  | .preemption _ => none
  | .savePoolReserve _ => none
  | .preemptionComplete _ => none
  | .restore _ => none
  | .preqWrite _ => none
  | .peerRequestArrival _ => none
  | .peerReplyArrival _ => none
  | .linkDown _ => none
  | .linkRetrained _ _ => none
  | .linkReservationExpiry _ => none
  | .moduleReset _ => none
  | .bootImageVerified _ _ => none
  | .helloReceived _ => none
  | .helloWindowExpiry => none
  | .claimReceived _ => none
  | .demoteReceived _ => none
  | .configMessage _ => none
  | .imageCheckDone => none
  | .loadTimerExpiry => none
  | .attestationRequest _ => none
  | .pwrcapWrite _ => none
  | .powerCapAdjust _ => none
  | .thermalThrottle _ _ => none
  | .thermalTrip _ _ => none
  | .supplyChange _ => none
  | .ageingUpdate _ _ => none
  | .snapshotTrigger _ _ => none
  | .snapcmpMatch => none
  | .trigIn => none
  | .snapshotLatch => none
  | .lateCountClear _ => none
  | .crdropClear => none
  | .racectlOvfClear => none
  | .registerWrite _ => none
  | .unassignedOpcode _ => none
  | .serviceCoreAccess _ _ => none
  | .unreliablePacketArrival _ => none
  | .rmaReadArrival _ => none

/-- The word after an instruction's own: the carried word of a CPYF (R108); zero where none belongs to it. -/
def encodeNext : Instr → W96
  | .cpyf x => x.carried
  | _ => 0

/-- The 32-bit word of a service core's instruction (R131, R482). -/
def encodeService : Instr → Option (BitVec 32)
  | .nhLq rd rs1 => some (packService 0 rd rs1 0)
  | .nhLwait rd rs1 => some (packService 1 rd rs1 0)
  | .nhFqpop rd rs1 => some (packService 2 rd rs1 0)
  | .nhInval rd rs1 rs2 => some (packService 3 rd rs1 rs2)
  | .nhFpool rd rs1 rs2 => some (packService 4 rd rs1 rs2)
  | .nhIcinv rd rs1 rs2 => some (packService 5 rd rs1 rs2)
  | .nhTrig rd rs1 => some (packService 6 rd rs1 0)
  | .nhFence rd rs1 => some (packService 7 rd rs1 0)
  | _ => none

end Sys2Proof
end

