-- ==== Sys2Proof/Machine/Floats.lean ====
section
/-!
DEFINITION. IEEE formats and their rounding (R24 to R30, R46 to R53): values are exact fractions, rounded once.
-/
namespace Sys2Proof.Machine

/-- Fraction bits of a float type: f16 (8), bf16 (9), f32 (10) (R24). -/
def fracBits (t : Nat) : Nat := match t with | 8 => 10 | 9 => 7 | _ => 23
/-- Exponent bits of a float type (R24). -/
def expBits (t : Nat) : Nat := match t with | 8 => 5 | _ => 8
/-- Exponent bias (R24). -/
def expBias (t : Nat) : Nat := match t with | 8 => 15 | _ => 127
/-- The sign bit's weight. -/
def signBit (t : Nat) : Nat := 2 ^ (fracBits t + expBits t)
/-- +Infinity (R24). -/
def infBits (t : Nat) : Nat := (2 ^ expBits t - 1) * 2 ^ fracBits t
/-- The canonical NaN (R24, R26). -/
def nanBits (t : Nat) : Nat := infBits t + 2 ^ (fracBits t - 1)
/-- The largest finite value (R24). -/
def maxFin (t : Nat) : Nat := infBits t - 1
/-- The least exponent of a normal value. -/
def expMin (t : Nat) : Int := 1 - expBias t

/-- A value of a float: NaN, an infinity, or `(-1)^neg * m * 2^e`; `m = 0` is a zero with its sign. -/
inductive FVal where
  | nan
  | inf (neg : Bool)
  | fin (neg : Bool) (m : Nat) (e : Int)
deriving DecidableEq, Repr

/-- The value of a bit pattern; subnormals by their exact value (R25). -/
def unpackF (t bits : Nat) : FVal :=
  let fr := bits % 2 ^ fracBits t
  let ex := bits / 2 ^ fracBits t % 2 ^ expBits t
  let neg := bits / signBit t % 2 == 1
  if ex == 2 ^ expBits t - 1 then (if fr == 0 then .inf neg else .nan)
  else if ex == 0 then .fin neg fr (expMin t - fracBits t)
  else .fin neg (2 ^ fracBits t + fr) ((ex : Int) - expBias t - fracBits t)

/-- How a result is rounded: RND, the random bits and their count (R46, R48, R49). -/
structure Rounding where
  mode  : Nat
  rbits : Nat
  nbits : Nat
deriving DecidableEq, Repr

/-- Nearest-even. -/
def rne : Rounding := ⟨0, 0, 1⟩
/-- Toward zero. -/
def rtz : Rounding := ⟨1, 0, 1⟩

/-- A fraction `n / d` rounded to a whole number by R47 and R48; mode 3 rounds as mode 0. -/
def roundNat (r : Rounding) (n d : Nat) : Nat :=
  let q := n / d
  let rem := n % d
  match r.mode with
  | 1 => q
  | 2 => if r.rbits < rem * 2 ^ r.nbits / d then q + 1 else q
  | _ => if d < 2 * rem || (2 * rem == d && q % 2 == 1) then q + 1 else q

/-- `n / d * 2^e` rounded to a whole number. -/
def roundScaled (r : Rounding) (n d : Nat) (e : Int) : Nat :=
  match e with
  | .ofNat k => roundNat r (n * 2 ^ k) d
  | .negSucc k => roundNat r n (d * 2 ^ (k + 1))

/-- floor(log2 (n / d)) for positive `n` and `d`. -/
def floorLog2 (n d : Nat) : Int :=
  let k : Int := (Nat.log2 n : Int) - Nat.log2 d
  let lt : Bool := match k with
    | .ofNat j => n < d * 2 ^ j
    | .negSucc j => n * 2 ^ (j + 1) < d
  if lt then k - 1 else k

/-- An exact result before its rounding: a NaN, an infinity, a zero with its sign, or `(-1)^neg * n / d * 2^e` with `n > 0`. -/
inductive Exact where
  | nan
  | inf (neg : Bool)
  | zero (neg : Bool)
  | num (neg : Bool) (n d : Nat) (e : Int)
deriving DecidableEq, Repr

/-- A float result: its bits, and whether it is a non-zero subnormal (R27). -/
structure FRes where
  bits : Nat
  sub  : Bool
deriving DecidableEq, Repr

/-- The sign of a bit pattern as a number to add. -/
def signOf (t : Nat) (neg : Bool) : Nat := if neg then signBit t else 0

/-- The bits of a magnitude `m * 2^u` already rounded to the format's grid, with the overflow results of R46. -/
def packMag (t : Nat) (mode : Nat) (neg : Bool) (m : Nat) (u : Int) : FRes :=
  if m == 0 then ⟨signOf t neg, false⟩
  else
    let m' := if m == 2 ^ (fracBits t + 1) then 2 ^ fracBits t else m
    let u' := if m == 2 ^ (fracBits t + 1) then u + 1 else u
    if m' < 2 ^ fracBits t then ⟨signOf t neg + m', true⟩
    else
      let ex := (u' + fracBits t + expBias t).toNat
      if 2 ^ expBits t - 1 ≤ ex then
        ⟨signOf t neg + (if mode == 1 || mode == 3 then maxFin t else infBits t), false⟩
      else ⟨signOf t neg + ex * 2 ^ fracBits t + (m' - 2 ^ fracBits t), false⟩

/-- The grid exponent of a value of magnitude `n / d * 2^e`: gradual underflow below the smallest normal (R27). Stochastic rounding truncates and
compares once on that grid too (DESIGN CHOICE: R48 does not say how its fraction acts in denormalising; log 27). -/
def gridExp (t n d : Nat) (e : Int) : Int := max (floorLog2 n d + e - fracBits t) (expMin t - fracBits t)

/-- One rounding of an exact result to a float type (R46 to R48, R52): canonical NaNs (R26), zeros with their sign. -/
def roundF (t : Nat) (r : Rounding) (x : Exact) : FRes :=
  match x with
  | .nan => ⟨nanBits t, false⟩
  | .inf neg => ⟨signOf t neg + infBits t, false⟩
  | .zero neg => ⟨signOf t neg, false⟩
  | .num neg n d e =>
    let u := gridExp t n d e
    packMag t r.mode neg (roundScaled r n d (e - u)) u

/-- R29: a non-zero subnormal becomes a zero of its sign. -/
def flushF (t : Nat) (x : FRes) : Nat := if x.sub then x.bits / signBit t % 2 * signBit t else x.bits

/-- A finite value as an exact result. -/
def exactOf (neg : Bool) (m : Nat) (e : Int) : Exact := if m == 0 then .zero neg else .num neg m 1 e

/-- A float's value as an exact result. -/
def FVal.exact : FVal → Exact
  | .nan => .nan
  | .inf n => .inf n
  | .fin n m e => exactOf n m e

/-- Negation of a value (R221). -/
def FVal.negate : FVal → FVal
  | .nan => .nan
  | .inf n => .inf (!n)
  | .fin n m e => .fin (!n) m e

/-- A signed whole number times `2^e`. -/
def exactInt (z : Int) (e : Int) (zeroNeg : Bool) : Exact :=
  if z == 0 then .zero zeroNeg else .num (z < 0) z.natAbs 1 e

def signedMant (neg : Bool) (m : Nat) : Int := if neg then -(m : Int) else m

/-- The sum of two values: an exact zero is +0 unless both are -0 (R198). -/
def addF (a b : FVal) : Exact :=
  match a, b with
  | .nan, _ => .nan
  | _, .nan => .nan
  | .inf s, .inf s' => if s == s' then .inf s else .nan
  | .inf s, .fin .. => .inf s
  | .fin .., .inf s => .inf s
  | .fin s m e, .fin s' m' e' =>
    let lo := min e e'
    exactInt (signedMant s (m * 2 ^ (e - lo).toNat) + signedMant s' (m' * 2 ^ (e' - lo).toNat)) lo
      (m == 0 && m' == 0 && s && s')

/-- The exact product, still a value: products of finite values are finite. -/
def mulV (a b : FVal) : FVal :=
  match a, b with
  | .nan, _ => .nan
  | _, .nan => .nan
  | .inf s, .inf s' => .inf (s != s')
  | .inf s, .fin s' m _ => if m == 0 then .nan else .inf (s != s')
  | .fin s m _, .inf s' => if m == 0 then .nan else .inf (s != s')
  | .fin s m e, .fin s' m' e' => .fin (s != s') (m * m') (e + e')

/-- The product (R198). -/
def mulF (a b : FVal) : Exact := (mulV a b).exact
/-- `a * b + c`, exact (R198, R221). -/
def fmaF (a b c : FVal) : Exact := addF (mulV a b) c
/-- The quotient: finite non-zero by zero is infinite, 0 by 0 is NaN (R198). -/
def divF (a b : FVal) : Exact :=
  match a, b with
  | .nan, _ => .nan
  | _, .nan => .nan
  | .inf _, .inf _ => .nan
  | .inf s, .fin s' _ _ => .inf (s != s')
  | .fin s _ _, .inf s' => .zero (s != s')
  | .fin s m e, .fin s' m' e' =>
    if m' == 0 then (if m == 0 then .nan else .inf (s != s'))
    else if m == 0 then .zero (s != s')
    else .num (s != s') m m' (e - e')

/-- floor(sqrt n), by binary digits from `2^(k-1)` down. -/
def sqrtBits (n : Nat) : Nat → Nat → Nat
  | 0, acc => acc
  | k + 1, acc =>
    let t := acc + 2 ^ k
    if t * t ≤ n then sqrtBits n k t else sqrtBits n k acc

/-- floor(sqrt n). -/
def isqrt (n : Nat) : Nat := sqrtBits n (Nat.log2 n / 2 + 1) 0

/-- The root of `n / d * 2^e` to 64 bits and a sticky bit below them: exact enough for every rounding of R46 to R48. -/
def rootOf (n d : Nat) (e : Int) : Exact :=
  let odd := e % 2 != 0
  let n' := if odd then 2 * n else n
  let e' := if odd then e - 1 else e
  let k := Nat.log2 d + 80
  let q := n' * 4 ^ k / d
  let s := isqrt q
  let sticky := if s * s * d == n' * 4 ^ k then 0 else 1
  .num false (2 * s + sticky) 1 (e' / 2 - k - 1)

/-- The root: √(-0) is -0, a negative non-zero value gives NaN (R198). -/
def sqrtF (a : FVal) : Exact :=
  match a with
  | .nan => .nan
  | .inf false => .inf false
  | .inf true => .nan
  | .fin s m e => if m == 0 then .zero s else if s then .nan else rootOf m 1 e

/-- The order of two values that are no NaN: -1, 0 or 1; -0 equals +0. -/
def cmpF (a b : FVal) : Option Int :=
  match a, b with
  | .nan, _ => none
  | _, .nan => none
  | .inf s, .inf s' => some (if s == s' then 0 else if s then -1 else 1)
  | .inf s, .fin .. => some (if s then -1 else 1)
  | .fin .., .inf s => some (if s then 1 else -1)
  | .fin s m e, .fin s' m' e' =>
    let lo := min e e'
    let x := signedMant s (m * 2 ^ (e - lo).toNat)
    let y := signedMant s' (m' * 2 ^ (e' - lo).toNat)
    some (if x < y then -1 else if x == y then 0 else 1)

/-- A value's sign bit. -/
def isNeg (t bits : Nat) : Bool := bits / signBit t % 2 == 1
/-- A NaN. -/
def isNan (t bits : Nat) : Bool := unpackF t bits == .nan
/-- An infinity. -/
def isInf (t bits : Nat) : Bool := bits % signBit t == infBits t
/-- A zero. -/
def isZero (t bits : Nat) : Bool := bits % signBit t == 0
/-- A non-zero subnormal (R27). -/
def isSub (t bits : Nat) : Bool := bits % signBit t != 0 && bits / 2 ^ fracBits t % 2 ^ expBits t == 0

/-- The smaller (`hi` false) or larger of two patterns, -0 below +0; one NaN gives the other operand, two the canonical
NaN (R198). -/
def selectF (t : Nat) (hi : Bool) (a b : Nat) : Nat :=
  if isNan t a && isNan t b then nanBits t
  else if isNan t a then b
  else if isNan t b then a
  else
    match cmpF (unpackF t a) (unpackF t b) with
    | some 0 => if isZero t a && isZero t b then (if hi then (if isNeg t a then b else a) else (if isNeg t a then a else b)) else a
    | some z => if (z == -1) == hi then b else a
    | none => nanBits t

/-- An exact value rounded to a whole number by R47 and R48, with its sign (R199). -/
def roundInt (r : Rounding) (neg : Bool) (n d : Nat) (e : Int) : Int := signedMant neg (roundScaled r n d e)

/-- The range of an integer type (R22, R57). -/
def intMin (t : Nat) : Int := if t % 2 == 0 then -(2 ^ (typeWidth t - 1) : Nat) else 0
def intMax (t : Nat) : Int := if t % 2 == 0 then (2 ^ (typeWidth t - 1) : Nat) - 1 else (2 ^ typeWidth t : Nat) - 1
/-- A pattern of an integer type as a number: signed for the even codes (R57). -/
def intVal (t bits : Nat) : Int :=
  let b := bits % 2 ^ typeWidth t
  if t % 2 == 0 && 2 ^ (typeWidth t - 1) ≤ b then (b : Int) - (2 ^ typeWidth t : Nat) else b
/-- A number as a pattern of width `w` (R8). -/
def wrapN (w : Nat) (z : Int) : Nat := (z % (2 ^ w : Nat)).toNat
/-- A number saturated to an integer type. -/
def satInt (t : Nat) (z : Int) : Nat := wrapN (typeWidth t) (max (intMin t) (min (intMax t) z))

/-- One rounding of an exact value to an integer type: saturated; ±Infinity saturates, NaN gives 0 (R199). -/
def roundToInt (t : Nat) (r : Rounding) (x : Exact) : Nat :=
  match x with
  | .nan => 0
  | .zero _ => 0
  | .inf neg => wrapN (typeWidth t) (if neg then intMin t else intMax t)
  | .num neg n d e => satInt t (roundInt r neg n d e)

/-- Conversion between types 0 to 10 (R199, R223). -/
def convert (dst src : Nat) (r : Rounding) (bits : Nat) : FRes :=
  if isFloatT src then
    if isFloatT dst then roundF dst r (unpackF src bits).exact
    else ⟨roundToInt dst r (unpackF src bits).exact, false⟩
  else
    if isFloatT dst then roundF dst r (exactInt (intVal src bits) 0 false)
    else ⟨satInt dst (intVal src bits), false⟩

/-- FCLASS's mask of an f32 pattern (R200). -/
def classF (t bits : Nat) : Nat :=
  let neg := isNeg t bits
  if isNan t bits then (if bits / 2 ^ (fracBits t - 1) % 2 == 1 then 2 ^ 9 else 2 ^ 8)
  else if isInf t bits then (if neg then 1 else 2 ^ 7)
  else if isZero t bits then (if neg then 2 ^ 3 else 2 ^ 4)
  else if isSub t bits then (if neg then 2 ^ 2 else 2 ^ 5)
  else if neg then 2 else 2 ^ 6

/-- The random bits of element `i`: `n` bits from bit `i * n` of a 4096-bit register, wrapping (R49). -/
def randBits (rb : VReg) (i n : Nat) : Nat :=
  let s := i * n % 4096
  ((rb.toNat >>> s) ||| (rb.toNat <<< (4096 - s))) % 2 ^ n

end Sys2Proof.Machine
end

