-- ==== Sys2Proof/Machine/State.lean ====
section
/-!
DEFINITION. The machine's state as plain data: everything the spec gives the part (INVENTORY.md lists it with its rules),
the reasons a step can stop, and the state after reset.
-/
namespace Sys2Proof.Machine

/-- Why the machine stops with a fault. The spec's own traps and faults are next states; these two are for states no run reaches. -/
inductive Fault where
  /-- Raised by a meaning whose engine has no current context on its core: fetching never runs a word there. Safe: it only stops. -/
  | noContext
  /-- Raised by a step after THERM_TRIP has stopped every clock (R464), until a module reset. Safe: the spec's own stop. -/
  | clocksStopped
deriving DecidableEq, Repr

/-- Why an instruction has no meaning in the model. -/
inductive Refusal where
  /-- Raised by a dispatch arm whose instruction has no meaning yet. Safe: it only stops. -/
  | notModelled (mnemonic : String)
  /-- Raised by a service core's turn at a standard RV64GC instruction: their meaning is RISC-V's, which this spec only names (R10). Safe: it only stops. -/
  | riscvInstruction
deriving DecidableEq, Repr

/-- Who holds or waits for something: an engine of a context, its instruction fetch, an asynchronous command, a row of a copy, a restored
term's spill, or acceptance. -/
inductive Waiter where
  | engine (c k : Nat) (e : Engine)
  | fetch (c k : Nat) (e : Engine)
  | cmd (id : Nat)
  | row (id r : Nat)
  | spill (c k : Nat)
  | package
deriving DecidableEq, Repr

/-- The part's own steps that the clock schedules, each the opcode table's step of its name. -/
inductive Own where
  | launchAcceptance (m : Nat)
  | childAcceptAfterYield (lvl : Nat)
  | placement
  | contextCreation (c lid : Nat)
  | patienceExpiry (lid : Nat)
  | sectionEntry (c : Nat) (e : Engine)
  | sectionRetire (c k : Nat) (e : Engine)
  | endOfText (c : Nat) (e : Engine)
  | engineDropOut (c k : Nat) (e : Engine)
  | contextSwitch (c : Nat) (e : Engine)
  | scalarResultWriteback (c k : Nat) (e : Engine)
  | vectorResultWriteback (c k : Nat)
  | flagWrite (c k : Nat)
  | inboundQueueArrival (c k : Nat)
  | tileStoreEffect (c k : Nat)
  | rangeUnitService (lid st : Nat)
  | stageQueueArrival (lid q : Nat)
  | stageQueueHeldRetry (lid q : Nat)
  | stageQueueAnswer (c k : Nat)
  | icacheFill (c : Nat)
  | walk (d : Nat)
  | frameZeroed (d : Nat)
  | faultQueueEnter
  | loadReturn (c k : Nat) (e : Engine)
  | accessAtHomeDie (j : Nat)
  | writePropagate (j : Nat)
  | invalidationAck (j : Nat)
  | copyStart (d : Nat)
  | copyPart (id : Nat)
  | copyRowPerformed (id : Nat)
  | copySteal (d : Nat)
  | carriedWordEntry (id : Nat)
  | joinMarkerComplete (id : Nat)
  | inboxAnswer (id : Nat)
  | parkResend (id : Nat)
  | parkLimitExpiry (id : Nat)
  | inboxOverflowMove (ib : Nat)
  | walkEntryPush (c : Nat)
  | sortRow (c : Nat)
  | sortkComplete (c : Nat)
  | contractionStart (c : Nat)
  | bucketRowComplete (c : Nat)
  | catalogueApply (c j : Nat)
  | contractionComplete (c : Nat)
  | drainComplete (c : Nat)
  | rowEngineRowComplete (c : Nat)
  | barrierArrival (c : Nat)
  | tokeniseDone (tk : Nat)
  | heldRequestPost (q : Nat)
  | tokpopTileWrite (c : Nat)
  | detokeniserTake (d : Nat)
  | replyClose (d : Nat)
  | vocabCheckDone (j : Nat)
  | completionRecordWrite
  | ringTailRecheck
  | launchRetire (lid : Nat)
  | launchEnd (lid : Nat)
  | launchStop (lid : Nat)
  | subnormalAssistEntry (c : Nat)
  | preemption (lid : Nat)
  | savePoolReserve (lid : Nat)
  | preemptionComplete (lid : Nat)
  | restore (lid : Nat)
  | linkReservationExpiry (p : Nat)
  | helloWindowExpiry
  | imageCheckDone
  | loadTimerExpiry
  | snapcmpMatch
  | snapshotLatch
deriving DecidableEq, Repr

/-- What moves next (log 1): an engine of a core, or it once more (the `n`th time) after an engine it waited for in the cycle (R95, R67,
R215), a service core, one of the part's own steps, a step from outside the package or of any kind, or the clock. -/
inductive Turn where
  | core (c : Nat) (e : Engine)
  | again (c : Nat) (e : Engine) (n : Nat)
  | service (n : Nat)
  | own (o : Own)
  | event (i : Instr)
  | tick
deriving DecidableEq, Repr

/-! ## Memory -/

/-- What one step writes to global memory: bytes from an address, or zeros over a range (R260). -/
inductive MemEff where
  | write (pa : Nat) (bytes : List Byte)
  | clear (pa : Nat) (len : Nat)
deriving DecidableEq, Repr

/-- ORDER, SCOPE, CACHE and RACE of an access, after R96 to R99. -/
structure Mods where
  order : Nat
  scope : Nat
  cache : Nat
  race  : Nat
deriving DecidableEq, Repr

/-- What an access does (R265, R267, R268). -/
inductive AccKind where
  | load
  | store
  | atomic (op : Nat) (signed : Bool) (expect : W64)
deriving DecidableEq, Repr

/-- Where an access is performed (R249): a die, the sequencer of a mirror page, or another package through a port. -/
inductive AccHome where
  | die (d : Nat)
  | mirror (seq : Nat)
  | peer (pkg : Nat)
deriving DecidableEq, Repr

/-- An agent as R403 codes it (20 bits), with the launch it acts for. -/
structure Agent where
  code : Nat
  lid  : Nat
deriving DecidableEq, Repr

/-- One sector's access, issued and not yet finished (R266, R378): number `id` of the agent's order, part `ofs` of a group
of `total` bytes. `sect` and `word` are what the race log names (R403), `wi` its agent's interval number as it was issued (R401); a `precise` one holds its word until it is answered;
`fail` is the CAUSE and SUB it ended in (R247, R402, R456), `skip` the bytes of a store that another copy's data keeps (R375). -/
structure Access where
  id     : Nat
  group  : Nat
  ofs    : Nat
  total  : Nat
  agent  : Agent
  die    : Nat
  who    : Waiter
  kind   : AccKind
  home   : AccHome
  va     : W64
  pa     : Nat
  size   : Nat
  data   : List Byte
  mods   : Mods
  dest   : Nat
  signed : Bool
  precise : Bool
  performed : Bool
  answer : List Byte
  fail   : Option (Nat × Nat)
  sent   : Bool
  sect   : Nat
  word   : Nat
  wi     : Nat := 0
  skip   : List Nat := []
deriving DecidableEq, Repr

/-- A write on its way to one die's copy (R381, R387), or to one replica of a mirror page with its group number (R389). -/
structure Propagation where
  dst    : Nat
  pa     : Nat
  data   : List Byte
  ver    : Nat
  origin : Nat
  clock  : List (BitVec 16)
  mirror : Option (Nat × Nat)
  acc    : Nat
deriving DecidableEq, Repr

/-- A byte at which one die's copy lags the home order, with the version it holds (R382). -/
structure Stale where
  pa  : Nat
  val : Byte
  ver : Nat
deriving DecidableEq, Repr

/-- A translation (R255, R257): ASID, window, page base, level, the entry, its PA. -/
structure Leaf where
  asid   : Nat
  mirror : Bool
  page   : Nat
  level  : Nat
  pte    : W64
  ptePa  : Nat
deriving DecidableEq, Repr

/-- A walk on a die's walker (R258): ASID, window, offset, the first agent's address, what it does, who waits. -/
structure Walk where
  asid   : Nat
  mirror : Bool
  off    : Nat
  va     : W64
  kind   : Nat
  lid    : Nat
  agent  : Nat
  waiters : List Waiter
deriving DecidableEq, Repr

/-- A frame the zero engine fills for a first touch (R260). -/
structure Zeroing where
  walk  : Walk
  pa    : Nat
  big   : Bool
  level : Nat
  pte   : W64
  ptePa : Nat
deriving DecidableEq, Repr

/-- Shadow state of a sector (R400). -/
structure Shadow where
  sector : Nat
  ws : Nat
  wi : Nat
  lid : Nat
  wagent : Nat
  atomic : Bool
deriving DecidableEq, Repr

/-- An invalidation not yet acknowledged (R263, R264): the service core that issued it, the accesses under way when it passed. -/
structure Inval where
  core : Nat
  accs : List Nat
deriving DecidableEq, Repr

/-! ## Tiles and barriers -/

/-- A live tile (R56, R62, R65, R438): its sealed object, its dirty regions of 4 KiB, the cycle it is live from, the cycle in which a
TFREE that still waits for its uses issued (R67, R207). -/
structure Tile where
  obj   : Obj
  dirty : List Nat
  live  : Nat
  freeing : Option Nat := none
deriving DecidableEq, Repr

/-- A live barrier (R363). -/
structure Barrier where
  expect : BitVec 32
  count  : BitVec 32
  phase  : Bool
  ovf    : Bool
  lost   : Bool
  ref    : Bool
deriving DecidableEq, Repr

/-- An arrival at a barrier (R365): bytes and flags; `due` is the cycle in which it reaches it, `cmd` the BARRIVE it belongs to. -/
structure Arrival where
  bar  : Nat
  n    : Nat
  ref  : Bool
  lost : Bool
  lid  : Nat
  core : Nat
  due  : Nat
  cmd  : Nat
deriving DecidableEq, Repr

/-! ## Asynchronous commands -/

/-- What an asynchronous command is doing. -/
inductive CmdState where
  | waiting
  | running
  | held
  | parked (since : Nat)
  | sent
  | assist
  | done
deriving DecidableEq, Repr

/-- A row of a copy that met a posted fault (R282): its bytes where it was read whole, so that it is written again with the same data;
whether it still waits for the replay. No copy engine has it: other rows and other queues go on. -/
structure HeldRow where
  row  : Nat
  data : Option (List Byte)
  wait : Bool
deriving DecidableEq, Repr

/-- An asynchronous command issued and not completed (R277, R293, R335, R437). Of a copy: its `rank`, the number it was issued as; the bytes it
has `written`, and those it writes no more since another queue's copy holds their sector (`masked`), as space, first byte and length (R284, R375). -/
structure Cmd where
  id    : Nat
  ins   : Instr
  eng   : Engine
  c     : Nat
  k     : Nat
  lid   : Nat
  secN  : BitVec 32
  widx  : Nat
  unit  : Nat
  queue : Nat
  bar   : Nat
  regs  : List W64
  mods  : Mods
  carried : Bool
  issued : Nat
  state : CmdState
  next  : Nat
  ranges : List (Nat × Nat)
  park  : Nat
  firstFull : Option Nat
  part  : Nat
  buf   : List Byte
  ga    : W64
  sealed : Obj
  after : List Nat
  inflight : List Nat
  rank : Nat := 0
  written : List (Nat × Nat × Nat) := []
  masked : List (Nat × Nat × Nat) := []
  heldRows : List HeldRow := []
deriving DecidableEq, Repr

/-- A copy engine's assignment (R279, R283): a command, the row being read and its bytes so far, rows read and to be written
(more than one only where the command acquires, R394), the unstarted ranges the engine holds, the bytes written of the
first such row, the access it waits for, where the write it waits for goes (R375). -/
structure CopySlot where
  id    : Nat
  cur   : Option Nat
  buf   : List Byte
  batch : List (Nat × List Byte)
  todo  : List (Nat × Nat)
  part  : Nat
  acc   : Option Nat
  place : Option (Nat × Nat × Nat) := none
deriving DecidableEq, Repr

/-- A placed term on its way to the Catalogue (R41, R320). -/
structure Term where
  key    : Nat
  inv    : Bool
  bits   : BitVec 192
  direct : Bool
deriving DecidableEq, Repr

/-- A Catalogue entry (R316). -/
structure CatEntry where
  slot : Nat
  ctx  : Nat
  inv  : Bool
  key  : Nat
  value : BitVec 192
deriving DecidableEq, Repr

/-- The command the contraction unit runs (R293): its terms not yet applied. -/
structure UnitRun where
  id    : Nat
  terms : List Term
  sums  : List W64
  heldTerm : Option Term
deriving DecidableEq, Repr

/-! ## Contexts -/

/-- The LOOP an engine is in (R171, R177): its word, body length, dimensions, index base, iterations, indices; the loop buffer's words,
none where it is to be refilled (R171); whether the indices still wait for an earlier result due in an index register (R183). -/
structure LoopSt where
  word  : Nat
  len   : Nat
  nd    : Nat
  d     : Nat
  iter  : Nat
  total : Nat
  idx   : List (BitVec 32)
  body  : List W96
  lag   : Bool
deriving DecidableEq, Repr

/-- The section an engine is in (R80, R160, R162): its header's text offset and bits, POS at entry, the next word. -/
structure Sect where
  hdr  : Nat
  len  : Nat
  done : Bool
  n    : BitVec 32
  widx : Nat
  copyQ : Option Nat
deriving DecidableEq, Repr

/-- A section entered and not retired (R163): its position, class, whether it has finished, the bindings it holds (R137). -/
structure OpenSec where
  n    : BitVec 32
  done : Bool
  finished : Bool
  bind : Option Nat
deriving DecidableEq, Repr

/-- A request on its way to a stage queue, a range unit or a text queue, and what it waits for (R154, R157, R358). -/
inductive Request where
  | none
  | wait (sent : Nat)
  | answer (ok : Bool) (data : List W64)
deriving DecidableEq, Repr

/-- The fetch state of an engine in a context (R160), what its issue waits for, and the groups a VCHAIN has completed, with
the tiles it uses (R67, R241). -/
structure EngSt where
  pc    : BitVec 32
  pos   : BitVec 32
  rc    : BitVec 32
  cnt   : List (BitVec 32)
  loop  : Option LoopSt
  stack : List (BitVec 32)
  wdc   : BitVec 49
  halted : Bool
  dropped : Bool
  sect  : Option Sect
  secs  : List OpenSec
  modifier : Option PWord
  busy  : List (Nat × Nat)
  ready : Nat
  held  : Bool
  dv    : Bool
  dwr   : W96
  step  : Bool
  stepped : Bool
  req   : Request
  child : Option Nat
  fence : Option (Nat × Nat)
  yielded : Bool
  chain : Nat
  chained : List Nat := []
  interval : BitVec 16
  ahead : Nat
deriving DecidableEq, Repr

/-- An operand-queue entry (R213). -/
structure QEntry where
  data : VReg
  car  : Car
deriving DecidableEq, Repr

/-- A push on its way to an operand queue, by the engine of a tag (R95, R213, R214). -/
structure QPush where
  q   : Nat
  tag : Nat
  due : Nat
  entry : QEntry
deriving DecidableEq, Repr

/-- A push on its way to an inbound scalar queue (R184): receiver and sender tags, value. -/
structure InPush where
  dst  : Nat
  src  : Nat
  due  : Nat
  val  : W64
deriving DecidableEq, Repr

/-- A flag write on its way (R188): engine, slot, value, the section that waits for it (R189). -/
structure FlagWrite where
  eng  : Engine
  slot : Nat
  val  : W64
  due  : Nat
  secN : BitVec 32
deriving DecidableEq, Repr

/-- A tile write of V on its way (R238): handle, image offset, bytes, due cycle, issue cycle, section. -/
structure TileWrite where
  t    : Nat
  bytes : List (Nat × Byte × Byte)
  due  : Nat
  issued : Nat
  secN : BitVec 32
deriving DecidableEq, Repr

/-- A word or command whose result a subnormal assist completes (R28, R425 to R428): its record, its items, the first of them
numbered `at_`; FIRST and COUNT; what the destinations held, what XWR has written of them and of the sum element; when raised; what V's registers
and the destination tile held, for a word that executes anew (R409, R428). -/
structure Assist where
  k     : Nat
  unit  : Nat
  ins   : Instr
  cmd   : Nat
  eng   : Engine
  record : List W64
  items : List (List W64)
  at_   : Nat
  first : Nat
  count : Nat
  base  : List W64
  written : List (Nat × W64)
  sum   : Option W64
  raised : Nat := 0
  undo  : List (Nat × VReg) := []
  undoTile : Option (Nat × List (Nat × Byte × Byte)) := none
deriving DecidableEq, Repr

/-- A pending stop trap of a context (R409, R411): class, SUB, engine, and the record's other fields. -/
structure Trap where
  cause : Nat
  sub   : Nat
  eng   : Engine
  agent : Nat
  va    : W64
  info1 : BitVec 32
  info2 : W64
  assist : Bool
  multi : Bool
  carried : Bool
  cycle : Nat
deriving DecidableEq, Repr

/-- Catalogue state of a context (R318, R328), with the terms whose spill a pre-emption overtook, and
whether the first of them holds on a posted fault after a restore (R324). -/
structure CatCtx where
  direct : Bool
  sp    : Nat
  lost  : Bool
  keys  : Nat
  wraps : Nat
  invs  : Nat
  clamps : Nat
  oor   : Nat
  late  : List Term
  held  : Bool
deriving DecidableEq, Repr

/-- A context (R128, R160, R182, R211). -/
structure Ctx where
  lid    : Nat
  relx   : Nat
  rely   : Nat
  stage  : Nat
  moved  : Bool
  flex   : Bool
  engs   : List EngSt
  sregs  : List (List W64)
  vregs  : List VReg
  cars   : List Car
  params : List W64
  opqs   : List (List QEntry)
  qpush  : List QPush
  inqs   : List (List W64)
  inpush : List InPush
  flags  : List W64
  flagw  : List FlagWrite
  flagclr : BitVec 16
  scr    : List W64
  bind   : Nat
  ga     : W64
  cat    : CatCtx
  sums   : List W64
  bars   : List (Nat × Barrier)
  inits  : List (Nat × Nat × BitVec 32)
  arrivals : List Arrival
  clears : List Nat
  tiles  : List (Nat × Tile)
  recs   : List (Nat × Obj × Nat)
  twrites : List TileWrite
  qints  : List (BitVec 16)
  trap   : Option Trap
  stopping : Bool
deriving DecidableEq, Repr

/-! ## Cores and dies -/

/-- Assist mode of a core (R425): its registers, its own fetch state, the assist it serves and those that wait. -/
structure AssistSt where
  active : Option Assist
  waiting : List Assist
  regs   : List W64
  eng    : EngSt
  saveSlot : Option Nat
deriving DecidableEq, Repr

/-- A line of the instruction cache (R170); `bad` is an error in it that cannot be corrected (R424). -/
structure ILine where
  asid : Nat
  va   : Nat
  bytes : List Byte
  bad  : Bool := false
deriving DecidableEq, Repr

/-- A core; `left` holds for each engine the cycle in which its current context ended, while no other has taken it (R166, R167). -/
structure Core where
  slots  : List (Option Ctx)
  cur    : List (Option Nat)
  last   : List Nat
  left   : List (Option Nat)
  stripes : List (Nat × Nat)
  scratch : List (Nat × Byte)
  cat    : List CatEntry
  unitQ  : List Nat
  unitHeld : List Nat
  run    : Option UnitRun
  rowQ   : List Nat
  collQ  : List Nat
  icache : List ILine
  misses : List (Nat × Nat × Engine × Nat)
  tlb    : List Leaf
  assist : AssistSt
  snap   : List W64
  stalled : List Bool
deriving DecidableEq, Repr

/-- A compute die; `missq` are the misses that wait for the walker (R258). -/
structure Die where
  tlb    : List Leaf
  walks  : List Walk
  missq  : List Walk
  zeroing : List Zeroing
  pool64 : List Nat
  pool2m : List Nat
  low64  : Nat
  low2m  : Nat
  lowIrq64 : Bool
  lowIrq2m : Bool
  clock  : List (BitVec 16)
  stale  : List Stale
  gran   : Nat
  grans  : List (Nat × Nat)
  l1     : List (Nat × Byte)
  copies : List (Option CopySlot)
  late   : Nat
  snap   : W64
deriving DecidableEq, Repr

/-- Telemetry of a die (R463): temperature in 1/16 °C, months to end of life, the most mV its temperature allows (R464). -/
structure Telemetry where
  temp   : Int
  months : Nat
  mv     : Nat
deriving DecidableEq, Repr

/-! ## Placement -/

/-- The life of a launch: queued (new, or for restore when it has an image), placed at an origin since a cycle, stopped
(R410), pre-empted by its own LAUNCH and waiting for an entry of the child's level, or for the child's placement (R134),
or over but for its completion record (R449). -/
inductive LPhase where
  | queued
  | placed (ox oy : Nat) (at_ : Nat)
  | stopped
  | yielding
  | waitChild (child : Nat)
  | recording (cause : Nat)
deriving DecidableEq, Repr

/-- What a LAUNCH that yielded asked for (R134): the child's level, its context's span index, the record's VA, registers D and A. -/
structure ChildReq where
  prio : Nat
  idx : Nat
  va  : W64
  d   : Nat
  a   : Nat
deriving DecidableEq, Repr

/-- A request to a stage queue (R154): by a core's S, in flight or held. -/
structure SqReq where
  c     : Nat
  k     : Nat
  op    : Nat
  try_  : Bool
  data  : List W64
  due   : Nat
  held  : Bool
  walk  : Nat
deriving DecidableEq, Repr

/-- An answer of a stage queue on its way back (R154). -/
structure SqAns where
  c    : Nat
  k    : Nat
  ok   : Bool
  data : List W64
  due  : Nat
  walk : Nat
  lid  : Nat
deriving DecidableEq, Repr

/-- A stage queue (R147, R154): its entries of eight dwords, requests that reached or travel to it. -/
structure StageQ where
  entries : List (List W64)
  reqs    : List SqReq
deriving DecidableEq, Repr

/-- A request to a range unit (R157). -/
structure RuReq where
  c   : Nat
  k   : Nat
  eng : Engine
  due : Nat
  init : Option (W64 × W64 × W64 × Nat)
deriving DecidableEq, Repr

/-- A range unit (R157). -/
structure RangeUnit where
  base : W64
  rem  : W64
  kk   : Nat
  min  : W64
  reqs : List RuReq
deriving DecidableEq, Repr

/-- What stays with a pre-empted launch beside its saved image, for one context (log 17): its place in the span, MOVED, its
engines' fetch state with what the image does not hold (sections open, the header, VCHAIN's groups, interval numbers), the
interval numbers of its queues and units, its commands as issued, the parameter registers V has latched (R137). -/
structure Kept where
  relx  : Nat
  rely  : Nat
  moved : Bool
  engs  : List EngSt
  qints : List (BitVec 16)
  cmds  : List Cmd
  params : List W64
deriving DecidableEq, Repr

/-- A launch that has been accepted (R120 to R128): its record, parameter block and stage map as accepted; `pre` the cause of
a pre-emption asked for in cycle `preAt`, `image` where its saved image lies or is to lie, `ending` the cause of an end under way (R421),
`target` the place its victims are cleared from (R143), `ringSlot` the slot taken in its ring (R450). -/
structure Launch where
  lid    : Nat
  record : BitVec 1024
  pblock : List Byte
  smap   : List Byte
  phase  : LPhase
  since  : Nat
  eligible : Nat
  target : Option (Nat × Nat)
  pre    : Option Nat
  preAt  : Nat
  hold   : Bool
  ending : Option Nat
  child  : Option ChildReq
  image  : Option Nat
  imageSize : Nat
  saved  : Bool
  toCreate : List Nat
  createAt : Nat
  flexStage : List (Nat × Nat)
  squeues : List StageQ
  answers : List SqAns
  ranges : List RangeUnit
  preempts : Nat
  refused : Nat
  startCyc : Nat
  endCyc : Nat
  spillD : Nat
  entD   : Nat
  lostC  : Bool
  tok6   : Bool
  ltrap  : Nat
  ringSlot : Option Nat
  ringDue : Nat
  kept   : List Kept
deriving DecidableEq, Repr

/-- A host mailbox (R130). -/
structure Mailbox where
  window : List W64
  busy   : Bool
  done   : Bool
  ticket : W64
deriving DecidableEq, Repr

/-- The placement unit. -/
structure PlaceSt where
  launches : List Launch
  gens     : List (Nat × BitVec 24)
  restoreQ : List Nat
  yieldQ   : List Nat
  resv     : List (Nat × Nat × Nat)
  boxes    : List Mailbox
  saveAlloc : List (Nat × Nat × Nat)
deriving DecidableEq, Repr

/-! ## Faults, text, links, boot, power -/

/-- An entry of the fault queue (R414): its 256 bits, whether in service, its waiters, whether of a stop trap. -/
structure FaultEntry where
  bits   : BitVec 256
  inService : Bool
  waiters : List Waiter
  stop   : Bool
  lid    : Nat
deriving DecidableEq, Repr

/-- The fault queue and its registers (R414 to R420): entries, faults that wait for room, faults raised in this cycle. -/
structure FaultSt where
  entries : List FaultEntry
  waiting : List FaultEntry
  raised  : List FaultEntry
  nextTag : BitVec 32
  irq     : Bool
  irqEn   : Bool
  fqack   : W64
deriving DecidableEq, Repr

/-- A request held by a tokeniser (R344 to R353): slot, frame header fields, connection, the vocabulary image's address and its
non-zero bytes as it was checked, the tokens once known. -/
structure TextReq where
  slot  : Nat
  port  : Nat
  conn  : Nat
  reqid : W64
  lid   : Nat
  queue : Nat
  vocab : Nat
  vpa   : Nat
  image : List (Nat × Byte)
  maxReply : Nat
  raw   : Bool
  bos   : Bool
  text  : List Byte
  tokens : Option (List Nat)
  posted : Bool
  popped : Bool
deriving DecidableEq, Repr

/-- A record of a request queue: the tokeniser and slot of its request (R348). -/
structure RqRecord where
  tk   : Nat
  slot : Nat
deriving DecidableEq, Repr

/-- A command on its way to a detokeniser (R360, R361). -/
structure TextCmd where
  id    : Nat
  handle : W64
  tokens : Option (List Nat)
  count : Nat
deriving DecidableEq, Repr

/-- An open request handle at its detokeniser (R354 to R357). -/
structure OpenHandle where
  slot  : Nat
  tag   : Nat
  lid   : Nat
  port  : Nat
  conn  : Nat
  reqid : W64
  vpa   : Nat
  image : List (Nat × Byte)
  left  : Nat
  seq   : Nat
  hold  : List Byte
  cut   : Bool
  badTok : Bool
  trunc : Bool
deriving DecidableEq, Repr

/-- A reply frame sent (R346): port, connection, tag, bytes. -/
structure FrameOut where
  port : Nat
  conn : Nat
  tag  : BitVec 32
  bytes : List Byte
deriving DecidableEq, Repr

/-- A pop of a request queue that copies its tokens to a tile (R358). -/
structure TokCopy where
  c   : Nat
  k   : Nat
  lid : Nat
  eng : Engine
  secN : BitVec 32
  tile : Nat
  bar  : Nat
  tokens : List Nat
  tk   : Nat
  slot : Nat
  issued : Nat
deriving DecidableEq, Repr

/-- A tokeniser and the detokeniser of its number; `tags` is the tag of each slot's last handle (R356). -/
structure TokSt where
  reqs  : List TextReq
  cmds  : List TextCmd
  opens : List OpenHandle
  tags  : List (Nat × Nat) := []
deriving DecidableEq, Repr

/-- The text system (R342 to R361); `checked` is what the image of each vocabulary slot held, where not zero, when it passed (R349). -/
structure TextSt where
  toks  : List TokSt
  ports : List W64
  rqbind : List W64
  rq    : List (List RqRecord)
  vocab : List W64
  checked : List (List (Nat × Byte))
  copies : List TokCopy
  frames : List FrameOut
  ring  : List UetMessage
  dropped : List Nat
  rmaErrors : List Nat
deriving DecidableEq, Repr

/-- A peer port (R453, R455, R456): `width` is the one it was last trained at, 0 before the first training; `downAt` is when it went
down, while its 2 ms run. -/
structure Port where
  up    : Bool
  width : Nat
  lost  : Bool
  host  : Bool
  retrains : Nat
  downAt : Option Nat
deriving DecidableEq, Repr

/-- A message on its way out: port and what it asks or answers (R453); what a load of the host's reads of the control space (R252). -/
inductive OutMsg where
  | request (port pkg : Nat) (acc : Nat) (off : BitVec 44) (size : Nat) (op : PeerOp)
  | reply (port src id : Nat) (ans : PeerAnswer)
  | push (port pkg : Nat) (cmd : Nat) (ib : Nat) (row : List Byte)
  | hello (kind : Nat) (dest : Option Nat) (msg : Hello)
  | config (msg : ConfigMessage)
  | report (asker : Requester) (nonce : BitVec 256) (body : List Byte) (sig : List Byte)
  | hostRead (value : W64)
deriving DecidableEq, Repr

/-- The virtual channel a message between packages rides on (R453): 0 Request, 1 Reply, 2 Stream, 3 Control; none for the host's. A HELLO, CLAIM,
DEMOTE or configuration message goes out by the port of each package it is for. -/
def OutMsg.channel : OutMsg → Option Nat
  | .request _ _ _ _ _ _ => some 0
  | .reply _ _ _ ans => match ans with | .accepted => some 2 | .refused => some 2 | .full => some 2 | _ => some 1
  | .push _ _ _ _ _ => some 2
  | .hello _ _ _ => some 3
  | .config _ => some 3
  | .report (.peer _ _) _ _ _ => some 3
  | .report (.host _) _ _ _ => none
  | .hostRead _ => none

/-- An inbox and the places its overflow area holds entries in, oldest first (R457, R458). -/
structure Inbox where
  reg  : W64
  spare : List Nat
deriving DecidableEq, Repr

/-- The links and inboxes (R453 to R458). -/
structure LinkSt where
  ports : List Port
  out   : List OutMsg
  inboxes : List Inbox
  pushAns : List (Nat × PeerAnswer)
deriving DecidableEq, Repr

/-- A pod round (R460): `role` 0 none yet, 1 leader, 2 follower; `plan` is what the package distributes where it leads. -/
structure PodSt where
  round : Nat
  role  : Nat
  leader : Option Nat
  heard : List Nat
  excluded : List Nat
  claims : List Nat
  staged : List (Nat × Nat × List Byte)
  whole  : List Nat
  active : List (Nat × List Byte)
  helloEnd : Nat
  timerEnd : Option Nat
  plan   : List ConfigMessage := []
deriving DecidableEq, Repr

/-- Boot and the security block (R459, R461). -/
structure BootSt where
  ready : Bool
  fail  : Bool
  held  : Bool
  image : List Byte
  assistText : List Byte
  reports : Nat
deriving DecidableEq, Repr

/-- The control space's plain registers (R252) that no other part holds. -/
structure CtlSt where
  asidTab : W64
  expTab  : W64
  raceEn  : Bool
  raceOvf : Bool
  raceDrops : Nat
  raceLog : W64
  racePtr : W64
  preq    : W64
  savePool : W64
  snapCtl : W64
  snapCmp : W64
  crdrop  : Nat
  pkgid   : W64
  routePa : W64
  pwrcap  : W64
  snapDue : Option (Nat × List Nat × Nat × Nat)
deriving DecidableEq, Repr

/-- A service core (R10, R131): program counter, x1 to x31, the launches it submitted since its reset, and the registers RISC-V
takes an exception with and translates by (log 4): mode, mtvec, mepc, mcause, mtval, mstatus.MIE, MPIE and MPP, satp; the interval number
of the core as an agent (R401). -/
structure ServiceCore where
  pc   : W64
  regs : List W64
  launches : List Nat
  mode : Nat
  mtvec : W64
  mepc : W64
  mcause : W64
  mtval : W64
  mie  : Bool
  mpie : Bool
  mpp  : Nat
  satp : W64
  interval : BitVec 16
deriving DecidableEq, Repr

/-- The machine; `curCore`, `curEng`, `curSvc` and `curTry` say whose turn it is, and the how manieth of the cycle (log 1); `sampled` is set by the
first cycle after reset, before which HOST, SUPPLY and CLK read their reset value 0 (R455, R463). -/
structure State where
  now    : Nat
  wall   : Nat
  agenda : List Turn
  curCore : Nat
  curEng : Engine
  curSvc : Nat
  curTry : Nat
  freeCtr : Nat
  nextId : Nat
  bigMem : Bool
  hostsel : Bool
  boot   : BootSt
  mem    : List (Nat × Byte)
  wr     : List MemEff
  cores  : List Core
  dies   : List Die
  cmds   : List Cmd
  accs   : List Access
  props  : List Propagation
  seqNos : List Nat
  ver    : Nat
  shadow : List Shadow
  bad    : List (Nat × Nat)
  invals : List Inval
  remote : List Arrival
  place  : PlaceSt
  faults : FaultSt
  text   : TextSt
  links  : LinkSt
  pod    : PodSt
  ctl    : CtlSt
  svc    : List ServiceCore
  tele   : List Telemetry
  supply : Nat
  capped : Nat
  trip   : Bool
  sampled : Bool
deriving DecidableEq, Repr

/-! ## Reset -/

/-- An engine at context creation (R160). -/
def EngSt.zero : EngSt :=
  { pc := 0, pos := 0, rc := 0, cnt := List.replicate 6 0, loop := none, stack := [], wdc := 0, halted := false,
    dropped := false, sect := none, secs := [], modifier := none, busy := [], ready := 0, held := false, dv := false,
    dwr := 0, step := false, stepped := false, req := .none, child := none, fence := none, yielded := false, chain := 0, interval := 0, ahead := 0 }

/-- Assist mode at reset: no assist (R425). -/
def AssistSt.zero : AssistSt :=
  { active := none, waiting := [], regs := List.replicate 48 0, eng := EngSt.zero, saveSlot := none }

/-- A core after reset (R6, R69, R316). An engine that has had no context starts its search at slot 0 (DESIGN CHOICE, log 27). -/
def Core.zero : Core :=
  { slots := List.replicate 4 none, cur := List.replicate 5 none, last := List.replicate 5 3, left := List.replicate 5 none, stripes := [], scratch := [],
    cat := [], unitQ := [], unitHeld := [], run := none, rowQ := [], collQ := [], icache := [], misses := [],
    tlb := [], assist := AssistSt.zero, snap := List.replicate 8 0, stalled := List.replicate 5 false }

/-- A die after reset. -/
def Die.zero : Die :=
  { tlb := [], walks := [], missq := [], zeroing := [], pool64 := [], pool2m := [], low64 := 0, low2m := 0, lowIrq64 := false,
    lowIrq2m := false, clock := List.replicate 8 0, stale := [], gran := 0, grans := [], l1 := [],
    copies := List.replicate 16 none, late := 0, snap := 0 }

/-- A service core after reset; its registers are RISC-V's (log 4). -/
def ServiceCore.zero : ServiceCore :=
  { pc := 0, regs := List.replicate 31 0, launches := [], mode := 3, mtvec := 0, mepc := 0, mcause := 0, mtval := 0, mie := false,
    mpie := false, mpp := 0, satp := 0, interval := 0 }

/-- A peer port after reset: down; port 0 is the host endpoint when HOSTSEL is high (R453, R455). -/
def Port.zero (host : Bool) : Port :=
  { up := false, width := 0, lost := false, host := host, retrains := 0, downAt := none }

/-- The package after a module reset with the HOSTSEL strap `hostsel` and the ordering code `big` (R1, R6, R453, R459);
`mem` is what the LPDDR6 holds. -/
def State.resetWith (hostsel big : Bool) (mem : List (Nat × Byte)) : State :=
  { now := 0, wall := 0, agenda := [], curCore := 0, curEng := .S, curSvc := 0, curTry := 0, freeCtr := 0, nextId := 1, bigMem := big,
    hostsel := hostsel,
    boot := { ready := false, fail := false, held := false, image := [], assistText := [], reports := 0 },
    mem := mem, wr := [], cores := List.replicate 1024 Core.zero, dies := List.replicate 8 Die.zero, cmds := [], accs := [],
    props := [], seqNos := List.replicate 8 0, ver := 0, shadow := [], bad := [], invals := [], remote := [],
    place := { launches := [], gens := [], restoreQ := [], yieldQ := [], resv := [],
               boxes := List.replicate 8 { window := List.replicate 16 0, busy := false, done := false, ticket := 0 },
               saveAlloc := [] },
    faults := { entries := [], waiting := [], raised := [], nextTag := 0, irq := false, irqEn := false, fqack := 0 },
    text := { toks := List.replicate 8 { reqs := [], cmds := [], opens := [] }, ports := List.replicate 4 0,
              rqbind := List.replicate 16 0, rq := List.replicate 16 [], vocab := List.replicate 64 0, checked := List.replicate 64 [], copies := [],
              frames := [], ring := [], dropped := List.replicate 4 0, rmaErrors := List.replicate 4 0 },
    links := { ports := Port.zero hostsel :: List.replicate 7 (Port.zero false), out := [],
               inboxes := List.replicate 256 { reg := 0, spare := [] }, pushAns := [] },
    pod := { round := 0, role := 0, leader := none, heard := [], excluded := [], claims := [], staged := [], whole := [], active := [],
             helloEnd := 0, timerEnd := none },
    ctl := { asidTab := 0, expTab := 0, raceEn := false, raceOvf := false, raceDrops := 0, raceLog := 0, racePtr := 0,
             preq := 0, savePool := 0, snapCtl := 0, snapCmp := 0, crdrop := 0, pkgid := 0, routePa := 0, pwrcap := 1600,
             snapDue := none },
    svc := List.replicate 16 ServiceCore.zero,
    tele := List.replicate 10 { temp := 0, months := 0xFFFF, mv := 750 },
    supply := 750, capped := 750, trip := false, sampled := false }

/-- The machine right after reset: a WX9-512 with HOSTSEL high at a supply of 750 mV (log 3), nothing in memory (log 2). -/
def State.reset : State := State.resetWith true false []

end Sys2Proof.Machine
end

