-- ==== Sys2Proof/Machine/Ops.lean ====
section
/-!
DEFINITION. The named operations over memory, contexts and engines that every meaning is written in: the memory's
canonical form, the step's result, where an engine stands, advancing past a word, and raising a stop trap (R409).
-/
namespace Sys2Proof.Machine

/-! ## Global memory: rising addresses, no zero byte listed (log 2) -/

/-- The canonical form: addresses strictly rising from `lo`, no listed byte zero. -/
def Mem.wfFrom (lo : Nat) : List (Nat × Byte) → Bool
  | [] => true
  | (a, v) :: m => decide (lo ≤ a) && (v != 0) && Mem.wfFrom (a + 1) m

/-- The memory's canonical form. -/
def Mem.wf (m : List (Nat × Byte)) : Bool := Mem.wfFrom 0 m

/-- The byte at an address; an unlisted one reads zero (log 2). -/
def Mem.get : List (Nat × Byte) → Nat → Byte
  | [], _ => 0
  | (a, v) :: m, p => if a = p then v else if p < a then 0 else Mem.get m p

/-- One byte written. -/
def Mem.set : List (Nat × Byte) → Nat → Byte → List (Nat × Byte)
  | [], p, v => if v = 0 then [] else [(p, v)]
  | (a, w) :: m, p, v =>
    if a = p then (if v = 0 then m else (p, v) :: m)
    else if p < a then (if v = 0 then (a, w) :: m else (p, v) :: (a, w) :: m)
    else (a, w) :: Mem.set m p v

/-- Bytes written from an address upward. -/
def Mem.setList : List (Nat × Byte) → Nat → List Byte → List (Nat × Byte)
  | m, _, [] => m
  | m, p, b :: bs => Mem.setList (Mem.set m p b) (p + 1) bs

/-- `len` zero bytes from an address (R260). -/
def Mem.clear (m : List (Nat × Byte)) (pa len : Nat) : List (Nat × Byte) :=
  m.filter fun x => decide (x.1 < pa) || decide (pa + len ≤ x.1)

/-- `n` bytes from an address. -/
def Mem.getList (m : List (Nat × Byte)) (p n : Nat) : List Byte := (List.range n).map fun i => Mem.get m (p + i)

/-- One write of a step. -/
def MemEff.apply (m : List (Nat × Byte)) : MemEff → List (Nat × Byte)
  | .write pa bytes => Mem.setList m pa bytes
  | .clear pa len => Mem.clear m pa len

/-- Memory as the step has it so far: its own writes applied. -/
def State.memNow (s : State) : List (Nat × Byte) := s.wr.foldl MemEff.apply s.mem

/-- The number little-endian bytes stand for. -/
def leNum : List Byte → Nat
  | [] => 0
  | b :: bs => b.toNat + 256 * leNum bs

/-- The low `n` bytes of a number, least significant first. -/
def leBytes (v : Nat) : Nat → List Byte
  | 0 => []
  | n + 1 => BitVec.ofNat 8 v :: leBytes (v / 256) n

/-- An element into its place in a list whose order `le` is: after those it does not come before. -/
def insertBy {α : Type} (le : α → α → Bool) (x : α) : List α → List α
  | [] => [x]
  | y :: ys => if le y x then y :: insertBy le x ys else x :: y :: ys

/-- A list in order, equals in the order they stood in. -/
def sortBy {α : Type} (le : α → α → Bool) (l : List α) : List α := l.foldl (fun acc x => insertBy le x acc) []

/-! ## The part of the state a name reaches -/

/-- The context in slot `k` of core `c`. -/
def State.ctx? (s : State) (c k : Nat) : Option Ctx := (s.cores[c]?).bind fun co => (co.slots[k]?).join

/-- One core changed. -/
def State.modCore (s : State) (c : Nat) (f : Core → Core) : State := { s with cores := s.cores.modify c f }

/-- One context changed. -/
def State.modCtx (s : State) (c k : Nat) (f : Ctx → Ctx) : State :=
  s.modCore c fun co => { co with slots := co.slots.modify k (Option.map f) }

/-- One engine's fetch state in a context changed. -/
def Ctx.modEng (x : Ctx) (e : Engine) (f : EngSt → EngSt) : Ctx := { x with engs := x.engs.modify e.tag f }

/-- One engine's fetch state changed. -/
def State.modEng (s : State) (c k : Nat) (e : Engine) (f : EngSt → EngSt) : State := s.modCtx c k (·.modEng e f)

/-- The fetch state of an engine in a context. -/
def Ctx.eng (x : Ctx) (e : Engine) : EngSt := (x.engs[e.tag]?).getD EngSt.zero

/-- One die changed. -/
def State.modDie (s : State) (d : Nat) (f : Die → Die) : State := { s with dies := s.dies.modify d f }

/-- One copy engine of a die changed. -/
def State.modSlot (s : State) (d e : Nat) (f : CopySlot → CopySlot) : State :=
  s.modDie d fun x => { x with copies := x.copies.modify e (Option.map f) }

/-- One launch changed. -/
def State.modLaunch (s : State) (lid : Nat) (f : Launch → Launch) : State :=
  { s with place := { s.place with launches := s.place.launches.map fun l => if l.lid = lid then f l else l } }

/-- The launch of a number. -/
def State.launch? (s : State) (lid : Nat) : Option Launch := s.place.launches.find? (·.lid == lid)

/-- One command changed. -/
def State.modCmd (s : State) (id : Nat) (f : Cmd → Cmd) : State :=
  { s with cmds := s.cmds.map fun x => if x.id = id then f x else x }

/-- Width and height of a launch's span in cores (R120, R138). -/
def Launch.spanW (l : Launch) : Nat := 2 ^ bitsOf l.record 361 359
/-- The height. -/
def Launch.spanH (l : Launch) : Nat := 2 ^ bitsOf l.record 364 362

/-- The command of a number. -/
def State.cmd? (s : State) (id : Nat) : Option Cmd := s.cmds.find? (·.id == id)

/-- The copy engines of a die that hold a command, with their numbers. -/
def State.slotsFor (s : State) (d id : Nat) : List (Nat × CopySlot) :=
  (((s.dies[d]?).map (·.copies)).getD []).zipIdx.filterMap fun (o, e) => match o with
    | some t => if t.id = id then some (e, t) else none
    | none => none

/-- The compute die of a core (R10, R13): cores number `x + 32·y`. -/
def dieOf (c : Nat) : Nat := c % 32 / 16 + 2 * (c / 32 / 8)

/-- Mesh column and row of a core (R13). -/
def xOf (c : Nat) : Nat := c % 32
/-- The row of a core. -/
def yOf (c : Nat) : Nat := c / 32

/-- Where the issuing engine stands: its slot, and whether it is S in assist mode (R166, R425). -/
def State.seat (s : State) : Option (Nat × Bool) :=
  (s.cores[s.curCore]?).bind fun co =>
    match s.curEng, co.assist.active with
    | .S, some a => some (a.k, true)
    | e, _ => ((co.cur[e.tag]?).join).map (·, false)

/-- What an issuing word sees: core, engine, slot, assist mode, the context and the engine's fetch state. -/
structure Here where
  c   : Nat
  e   : Engine
  k   : Nat
  asst : Bool
  ctx : Ctx
  eng : EngSt

/-- The issuing engine's view of a state. -/
def State.here (s : State) : Option Here :=
  (s.seat).bind fun (k, asst) => (s.cores[s.curCore]?).bind fun co => (s.ctx? s.curCore k).map fun x =>
    { c := s.curCore, e := s.curEng, k := k, asst := asst, ctx := x,
      eng := if asst then co.assist.eng else x.eng s.curEng }

/-! ## What a meaning answers -/

/-- A stop trap as a word raises it (R406, R407, R411). -/
structure TrapReq where
  cause : Nat
  sub   : Nat := 0
  va    : W64 := 0
  info1 : BitVec 32 := 0
  info2 : W64 := 0
deriving DecidableEq, Repr

/-- Why a word does not complete in this step: it stalls with nothing changed; its access needs a walk on a die
(R257, R258), what it meets may change in the turn an engine
still has in this cycle (R95, R67), or its text a line the cache lacks (R170); it meets a posted fault found on a TLB hit (R257, R413); it raises a stop trap; it has no context. -/
inductive Stop where
  | stall
  | later (tag : Nat)
  | walk (d : Nat) (w : Walk)
  | fetch (asid line : Nat)
  | posted (d cause sub : Nat) (w : Walk) (psize : Nat) (info : Nat)
  | trap (t : TrapReq)
  | fault (f : Fault)
deriving DecidableEq, Repr

/-- A meaning: it reads and changes the state, or stops. -/
abbrev M := StateT State (Except Stop)

/-- The word stalls. -/
def stall {α : Type} : M α := throw .stall

/-- The word raises a stop trap with nothing changed. -/
def raise {α : Type} (t : TrapReq) : M α := throw (.trap t)

/-! ## Errors of a core's tables and registers (R407, R424)

`State.bad` numbers them under SUB 4: tile-table entries, contraction-table entries, barriers, then the register file of an engine in a slot. -/

/-- The number of a handle's table entry. -/
def tileKey (c k t : Nat) : Nat := (4 * c + k) * 256 + t
/-- The number of a contraction record's entry. -/
def recordKey (c k r : Nat) : Nat := 2 ^ 20 + (4 * c + k) * 64 + r
/-- The number of a barrier's entry. -/
def barKey (c k b : Nat) : Nat := 2 ^ 21 + (4 * c + k) * 1024 + b
/-- The number of an engine's register file: an error in it is met by any read of its registers (DESIGN CHOICE: the spec does not say how much of
a file one error covers, log 26). -/
def fileKey (c k e : Nat) : Nat := 2 ^ 23 + (4 * c + k) * 5 + e

/-- An entry of a core's tables that an uncorrectable error makes unreadable raises machine-check, naming no line (R411, R424). -/
def tableOk (key : Nat) : M Unit := do
  if (← get).bad.contains (4, key) then raise { cause := 13, sub := 4 } else pure ()

/-- An entry written anew: an error in it is gone (R424). -/
def State.cleanTable (s : State) (key : Nat) : State := { s with bad := s.bad.filter (· != (4, key)) }

/-- The format fault with its SUB (R407). -/
def formatTrap {α : Type} (sub : Nat := 0) : M α := raise { cause := 5, sub := sub }

/-- The illegal-instruction trap. -/
def illegal {α : Type} : M α := raise { cause := 1 }

/-- The word stalls unless `b`. -/
def require (b : Bool) : M Unit := if b then pure () else stall

/-- What the issuing engine sees; without a context it cannot issue. -/
def here : M Here := do
  match (← get).here with
  | some h => pure h
  | none => throw (.fault .noContext)

/-- Change the issuing engine's context. -/
def modCtx (f : Ctx → Ctx) : M Unit := modify fun s =>
  match s.seat with
  | some (k, _) => s.modCtx s.curCore k f
  | none => s

/-- The fetch state of the issuing engine changed: its context's, or assist mode's (R425). -/
def State.modHere (s : State) (f : EngSt → EngSt) : State :=
  match s.seat with
  | some (_, true) => s.modCore s.curCore fun co => { co with assist := { co.assist with eng := f co.assist.eng } }
  | some (k, false) => s.modEng s.curCore k s.curEng f
  | none => s

/-- Change the issuing engine's fetch state. -/
def modEng (f : EngSt → EngSt) : M Unit := modify (·.modHere f)

/-- The bytes a step writes to global memory, at a physical address. -/
def memWrite (pa : Nat) (bytes : List Byte) : M Unit := modify fun s => { s with wr := s.wr ++ [.write pa bytes] }

/-! ## Agents (R403) -/

/-- An agent's 20 bits: KIND, slot, UNIT and the core. -/
def agentCode (kind slot unit c : Nat) : Nat := kind * 2 ^ 17 + slot * 2 ^ 15 + unit * 2 ^ 11 + yOf c * 32 + xOf c

/-- The ASID of a launch number (R125): numbers are GEN·4096 + ASID. -/
def asidOf (lid : Nat) : Nat := lid % 4096
/-- The generation of a launch number. -/
def genOf (lid : Nat) : Nat := lid / 4096 % 2 ^ 24

/-! ## Position: sections, LOOP bodies and the next word (R160, R163, R177) -/

/-- The section finishes (R163): PC passes it, and its entry in `secs` is marked; a displaced word has run (R181, R444). -/
def EngSt.finish (en : EngSt) : EngSt :=
  match en.sect with
  | none => en
  | some sc =>
    { en with sect := none, loop := none, modifier := none, dv := false, pc := BitVec.ofNat 32 (sc.hdr + 8 + 12 * sc.len),
              secs := en.secs.map fun o => if o.n = sc.n then { o with finished := true } else o }

/-- The word index moves to `w`; past the last word the section finishes. -/
def EngSt.goto (en : EngSt) (w : Nat) : EngSt :=
  match en.sect with
  | none => en
  | some sc =>
    if w < sc.len then
      { en with sect := some { sc with widx := w }, pc := BitVec.ofNat 32 (sc.hdr + 8 + 12 * w) }
    else { ({ en with sect := some { sc with widx := w } }).finish with ahead := 4 * sc.len }

/-- The index of dimension `k` in iteration `f` (R177). -/
def loopIdx (cnt : List (BitVec 32)) (f k : Nat) : BitVec 32 :=
  BitVec.ofNat 32 (f / ((cnt.take k).map BitVec.toNat).foldl (· * ·) 1 % ((cnt[k]?).getD 0).toNat)

/-- The indices of an iteration. -/
def loopIndices (cnt : List (BitVec 32)) (nd f : Nat) : List (BitVec 32) := (List.range nd).map (loopIdx cnt f)

/-- The number of iterations (R177). -/
def loopTotal (cnt : List (BitVec 32)) (nd : Nat) : Nat := ((cnt.take nd).map BitVec.toNat).foldl (· * ·) 1

/-- The file of a scalar engine in `sregs`; V has none. -/
def fileOf : Engine → Nat
  | .S => 0 | .A => 1 | .B => 2 | .X => 3 | .V => 4

/-- Registers `d` upward of a list set to index values; with `d` = 0 none (R177). -/
def writeIndices (regs : List W64) (d : Nat) (idx : List (BitVec 32)) : List W64 :=
  if d = 0 then regs else (idx.zipIdx).foldl (fun r (v, j) => r.set (d + j) (v.setWidth 64)) regs

/-- The issuing engine's own registers changed (R182, R425). -/
def State.modRegs (s : State) (f : List W64 → List W64) : State :=
  match s.seat with
  | some (_, true) => s.modCore s.curCore fun co => { co with assist := { co.assist with regs := f co.assist.regs } }
  | some (k, false) => s.modCtx s.curCore k fun x => { x with sregs := x.sregs.modify (fileOf s.curEng) f }
  | none => s

/-- Whether register `r` of an engine still waits for an earlier write of the same engine (R183). Code 64 is the divider. -/
def EngSt.isBusy (en : EngSt) (now r : Nat) : Bool := en.busy.any fun (q, due) => q == r && decide (now < due)

/-- Whether no earlier result of the engine is due in an index register of a LOOP (R177, R183). -/
def EngSt.indexFree (en : EngSt) (now : Nat) (l : LoopSt) : Bool :=
  decide (l.d = 0) || (List.range l.nd).all fun j => !en.isBusy now (l.d + j)

/-- An iteration's indices written to the loop state and, where D is not 0, to the registers (R177); while an earlier result is due in
one of those, they wait for it (R183). -/
def setLoop (l : LoopSt) : M Unit := do
  let h ← here
  let s ← get
  let free := h.eng.indexFree s.now l
  modEng fun en => { en with loop := some { l with lag := !free } }
  if free && l.d != 0 then modify (·.modRegs fun r => writeIndices r l.d l.idx) else pure ()

/-- A context's engines whose LOOP indices waited for an earlier result that is due in an index register no more (R183). -/
def Ctx.settleLoops (x : Ctx) (now : Nat) : Ctx :=
  Engine.all.foldl (fun x e =>
    match (x.eng e).loop with
    | some l =>
      if l.lag && (x.eng e).indexFree now l then
        { (x.modEng e fun en => { en with loop := some { l with lag := false } }) with
          sregs := if e = .V then x.sregs else x.sregs.modify (fileOf e) fun r => writeIndices r l.d l.idx }
      else x
    | none => x) x

/-- The engine moves past `n` words (a CPYF counts two): to the next word, round a LOOP body, or out of the section.
A modifier waiting for its word and a displaced word are used up (R97, R444). -/
def advance (n : Nat := 1) : M Unit := do
  let h ← here
  modEng fun en => { en with modifier := none, dv := false, child := none, chain := 0, chained := [] }
  match h.eng.sect with
  | none => pure ()
  | some sc =>
    match h.eng.loop with
    | none => modEng (·.goto (sc.widx + n))
    | some l =>
      if sc.widx + n ≤ l.word + l.len then modEng (·.goto (sc.widx + n))
      else if l.iter + 1 < l.total then do
        let l' := { l with iter := l.iter + 1, idx := loopIndices h.eng.cnt l.nd (l.iter + 1) }
        setLoop l'
        modEng (·.goto (l.word + 1))
      else do
        modEng fun en => { en with loop := none }
        modEng (·.goto (l.word + l.len + 1))

/-! ## Stop traps (R408, R409) -/

/-- A stop trap enters a context: the first raised stands, of one cycle's the lowest engine's, with MULTI set (R409). -/
def Ctx.post (x : Ctx) (t : Trap) : Ctx :=
  match x.trap with
  | none => { x with trap := some t }
  | some u =>
    if u.cycle = t.cycle ∧ u.eng ≠ t.eng then { x with trap := some { (if t.eng.tag < u.eng.tag then t else u) with multi := true } } else x

/-- The trap of a request, raised by an engine in slot `k` of core `c`. -/
def TrapReq.toTrap (t : TrapReq) (c k : Nat) (e : Engine) (asst : Bool) (now : Nat) : Trap :=
  { cause := t.cause, sub := t.sub, eng := e, agent := agentCode e.tag k 0 c, va := t.va, info1 := t.info1,
    info2 := t.info2, assist := asst, multi := false, carried := false, cycle := now }

/-- What an assist's word or command wrote of its destination before the offending element taken back, since it executes anew from its
start (R409, R428): V's registers at once, a tile's image by a write that takes effect before the next cycle's turns. -/
def Ctx.undoAssist (x : Ctx) (a : Assist) (now : Nat) : Ctx :=
  { x with vregs := a.undo.foldl (fun l (r, v) => l.set r v) x.vregs,
           twrites := x.twrites.filter (fun w => !(a.unit == 1 && w.issued == a.raised)) ++
             (a.undoTile.toList.map fun (t, b) => { t := t, bytes := b, due := now, issued := now, secN := 0 }) }

/-- The trapped word or command of an assist is let go: V's word is free to issue again, the slot kept for its push given back and what it wrote
taken back unless `keep`; a command goes to state `st` (R428). -/
def State.letGo (s : State) (c : Nat) (a : Assist) (st : CmdState) (keep : Bool) : State :=
  let s := if keep then s else s.modCtx c a.k (·.undoAssist a s.now)
  if a.unit ≤ 1 then
    s.modCtx c a.k fun x => { x.modEng .V fun en => { en with held := false } with
                              qpush := if keep then x.qpush else x.qpush.filter fun p => decide (p.due < 2 ^ 80) }
  else s.modCmd a.cmd fun x => { x with state := st }

/-- Assist mode of a core is left (R428): S resumes at a switch point, its loop buffer to be refilled (R171). -/
def State.leaveAssist (s : State) (c : Nat) (st : CmdState) (keep : Bool) : State :=
  match s.cores[c]? with
  | none => s
  | some co =>
    match co.assist.active with
    | none => s
    | some a =>
      let s := s.modCore c fun co => { co with assist := { co.assist with active := none } }
      let s := match (co.cur[0]?).join with
        | some k => s.modEng c k .S fun en => { en with yielded := true, loop := en.loop.map fun (l : LoopSt) => { l with body := [] } }
        | none => s
      s.letGo c a st keep

/-- The issuing engine raises a stop trap (R409); one of an assist-mode word is its context's, and the assist image is
left with its writes discarded (R428). -/
def State.raise (s : State) (t : TrapReq) : State :=
  match s.seat with
  | none => s
  | some (k, asst) =>
    let s := s.modCtx s.curCore k fun x =>
      (if asst then x else x.modEng s.curEng fun en => { en with req := .none }).post (t.toTrap s.curCore k s.curEng asst s.now)
    if asst then s.leaveAssist s.curCore .held false else s

/-- The page of 64 KiB a walk is for. -/
def Walk.same (v w : Walk) : Bool := v.asid == w.asid && v.mirror == w.mirror && v.off / 65536 == w.off / 65536

/-- A miss reaches the die's walker (R258): one for a page already being walked joins that walk; the walker holds up to 32 walks, and a
further miss waits in the order of arrival. -/
def Die.addWalk (d : Die) (w : Walk) : Die :=
  if d.walks.any (·.same w) || d.zeroing.any (·.walk.same w) then
    let join (v : Walk) : Walk :=
      if v.same w then { v with waiters := v.waiters ++ w.waiters.filter (!v.waiters.contains ·) } else v
    { d with walks := d.walks.map join, zeroing := d.zeroing.map fun z => { z with walk := join z.walk } }
  else if d.walks.length + d.zeroing.length < 32 then { d with walks := d.walks ++ [w] }
  else if d.missq.any fun v => v.same w && v.waiters == w.waiters then d
  else { d with missq := d.missq ++ [w] }

/-- The misses that waited for the walker reach it again, the oldest first (R258). -/
def Die.refill (d : Die) : Die := d.missq.foldl Die.addWalk { d with missq := [] }

/-- What one step leaves: its writes reach memory, nothing waits in the write list. -/
def State.commit (s t : State) : State := { t with mem := t.wr.foldl MemEff.apply s.mem, wr := [] }

end Sys2Proof.Machine
end

