-- ==== Sys2Proof/Machine/Translate.lean ====
section
/-!
DEFINITION. Windows, capabilities and translation (R242 to R257): what an access of some bytes meets before it moves any.
-/
namespace Sys2Proof.Machine

/-- What a die's copy of memory reads: the byte it holds while it lags the home order, else memory's (R382). Die 8 is an
I/O die, which reads at the home dies. -/
def State.dieByte (s : State) (d pa : Nat) : Byte :=
  match ((s.dies[d]?).map (·.stale)).bind (·.find? (·.pa == pa)) with
  | some e => e.val
  | none => Mem.get s.memNow pa

/-- `n` bytes as a die reads them. -/
def State.dieBytes (s : State) (d pa n : Nat) : List Byte := (List.range n).map fun i => s.dieByte d (pa + i)

/-- `n` bytes at their home dies. -/
def State.phys (s : State) (pa n : Nat) : List Byte := Mem.getList s.memNow pa n

/-- A number of `n` bytes at its home die. -/
def State.physNum (s : State) (pa n : Nat) : Nat := leNum (s.phys pa n)

/-- Whether a physical address lies in the package's LPDDR6 (R248). -/
def State.inDram (s : State) (pa len : Nat) : Bool :=
  decide (pa + len ≤ 2 ^ 40) && decide (pa / 2 ^ 37 = (pa + len - 1) / 2 ^ 37) &&
    decide (pa % 2 ^ 37 + len ≤ if s.bigMem then 2 ^ 37 else 2 ^ 36)

/-- The bytes a leaf maps at level 0, 1 or 2 (R254). -/
def leafSize (level : Nat) : Nat := if level = 0 then 2 ^ 16 else if level = 1 then 2 ^ 21 else 2 ^ 30

/-- The ASID table's entry, when it is in use and valid, with its physical address (R253). One whose must-be-zero fields are not zero,
whose root is not 4 KiB aligned or whose CAPN passes 4096 installs no root either (DESIGN CHOICE, log 27: the spec names no answer). -/
def State.asidEntry (s : State) (asid : Nat) : Option (Nat × Nat) :=
  if s.ctl.asidTab.getLsbD 0 then
    let pa := bitsOf s.ctl.asidTab 39 16 * 65536 + 16 * asid
    let e := s.physNum pa 16
    if e % 2 = 1 ∧ e / 2 % 2 ^ 15 = 0 ∧ e / 2 ^ 48 % 2 ^ 16 = 0 ∧ e / 2 ^ 112 = 0 ∧ e / 2 ^ 16 % 16 = 0 ∧ e / 2 ^ 96 % 2 ^ 16 ≤ 4096 then some (pa, e)
    else none
  else none

/-- What an access does, as AKIND codes it (R414). -/
def AccKind.code : AccKind → Nat
  | .load => 0
  | .store => 1
  | .atomic _ _ _ => 2

/-- Where an access goes after its window is read (R242): an offset of the global or mirror window, or a package. -/
inductive Target where
  | here (mirror : Bool) (off : Nat)
  | peer (pkg off : Nat)
deriving DecidableEq, Repr

/-- The capability trap (R246). -/
def capTrap (va : W64) : TrapReq := { cause := 10, sub := 2, va := va }

/-- The capability check of index `c`, offset `o` and size `z` (R246): the global-window offset, where it passes. -/
def State.capability (s : State) (asid c o z kind : Nat) : Option Nat :=
  (s.asidEntry asid).bind fun (_, e) =>
    if e / 2 ^ 96 % 2 ^ 16 ≤ c then none
    else
      let t := s.physNum (e / 2 ^ 64 % 2 ^ 32 * 256 + 16 * c) 16
      let base := t % 2 ^ 64
      let len := t / 2 ^ 64 % 2 ^ 48
      if t / 2 ^ 112 % 2 ^ 13 ≠ 0 ∨ t / 2 ^ 127 % 2 = 0 ∨ len < o + z ∨ (kind ≠ 1 ∧ t / 2 ^ 125 % 2 = 0) ∨
         (kind ≠ 0 ∧ kind ≠ 3 ∧ t / 2 ^ 126 % 2 = 0) ∨ 2 ^ 62 < base + o + z then none
      else some (base + o)

/-- Checks 3 and 4 of R265: the window, the straddle, the capability, the route (R242 to R247, R454). -/
def State.target (s : State) (asid : Nat) (va : W64) (size kind : Nat) : Except TrapReq Target :=
  let a := va.toNat
  let b := (a + size - 1) % 2 ^ 64
  if a / 2 ^ 62 ≠ b / 2 ^ 62 then .error { cause := 8, va := va }
  else match a / 2 ^ 62 with
    | 0 => .ok (.here false a)
    | 1 => .ok (.here true (a % 2 ^ 62))
    | 2 =>
      if a / 2 ^ 44 ≠ b / 2 ^ 44 then .error { cause := 8, va := va }
      else
        let pkg := a / 2 ^ 44 % 2 ^ 18
        if pkg = bitsOf s.ctl.pkgid 17 0 then .ok (.peer pkg (a % 2 ^ 44))
        else if s.ctl.routePa.getLsbD 0 ∧
            (s.physNum (bitsOf s.ctl.routePa 39 16 * 65536 + pkg) 1) / 128 % 2 = 1 then .ok (.peer pkg (a % 2 ^ 44))
        else .error { cause := 10, sub := 3, va := va }
    | _ =>
      if a / 2 ^ 50 ≠ b / 2 ^ 50 then .error { cause := 8, va := va }
      else match s.capability asid (a / 2 ^ 50 % 2 ^ 12) (a % 2 ^ 50) size kind with
        | some off => .ok (.here false off)
        | none => .error (capTrap va)

/-- The port a package's messages leave by (R454). -/
def State.routePort (s : State) (pkg : Nat) : Nat :=
  (s.physNum (bitsOf s.ctl.routePa 39 16 * 65536 + pkg) 1) % 8

/-- The pieces of an access, one for each 64-byte sector it touches (R266): offset and length. -/
def sectors (off size : Nat) : List (Nat × Nat) :=
  (List.range ((off + size - 1) / 64 - off / 64 + 1)).map fun i =>
    let lo := max off (64 * (off / 64 + i))
    (lo, min (off + size) (64 * (off / 64 + i + 1)) - lo)

/-- What translating one offset gives (R256, R257): an address (with SEQ on a mirror page), a miss, or a posted fault. -/
inductive Xlate where
  | at (pa : Nat) (seq : Option Nat)
  | miss
  | posted (cause sub psize info : Nat)
deriving DecidableEq, Repr

/-- The translation a TLB holds for an offset (R257). -/
def tlbFind (tlb : List Leaf) (asid off : Nat) : Option Leaf :=
  tlb.find? fun l => l.asid == asid && decide (l.page ≤ off) && decide (off < l.page + leafSize l.level)

/-- Whether a leaf allows an access of a kind: 0 read, 1 write, 2 atomic, 3 text fetch (R255, R268). -/
def allows (pte : W64) (kind : Nat) : Bool :=
  match kind with
  | 0 => pte.getLsbD 5
  | 1 => pte.getLsbD 6
  | 2 => pte.getLsbD 5 && pte.getLsbD 6
  | _ => pte.getLsbD 7

/-- A leaf used for an access (R245, R256): the address, or the fault with the level and PTE address it names. -/
def Leaf.use (l : Leaf) (mirror : Bool) (off kind : Nat) : Xlate :=
  let info := l.level * 2 ^ 40 + l.ptePa
  if l.pte.getLsbD 11 != mirror then .posted 10 1 l.level info
  else if !allows l.pte kind then .posted 10 0 l.level info
  else .at (bitsOf l.pte 47 16 * 256 + (off - l.page)) (if mirror then some (bitsOf l.pte 10 8) else none)

/-- One offset translated on a die, by the core's TLB where the agent has one, then the die's (R257). -/
def State.xlate (s : State) (die : Nat) (core : Option Nat) (asid : Nat) (mirror : Bool) (off kind : Nat) : Xlate :=
  if 2 ^ 48 ≤ off then .posted 9 4 3 0
  else
    match (core.bind (s.cores[·]?)).bind (tlbFind ·.tlb asid off) with
    | some l => l.use mirror off kind
    | none =>
      match (s.dies[die]?).bind (tlbFind ·.tlb asid off) with
      | some l => l.use mirror off kind
      | none => .miss

/-- The home of a physical address (R249). -/
def homeOf (pa : Nat) : Option Nat → AccHome
  | some q => .mirror q
  | none => .die (pa / 2 ^ 37)

/-- The address of a mirror page's replica on a die (R249). -/
def replica (d pa : Nat) : Nat := d * 2 ^ 37 + pa % 2 ^ 37

/-- What an access finds: its physical parts (address, length, home, offset in the access), a peer, or why it cannot go on. -/
inductive Found where
  | parts (ps : List (Nat × Nat × AccHome × Nat))
  | peer (pkg off : Nat)
  | stop (t : TrapReq)
  | miss (mirror : Bool) (off : Nat) (va : W64)
  | posted (va : W64) (cause sub psize info : Nat)
deriving DecidableEq, Repr

/-- Every sector of an access translated in turn; the first that fails decides (R265, R266). -/
def State.parts (s : State) (die : Nat) (core : Option Nat) (asid : Nat) (mirror : Bool) (va : W64) (off kind : Nat) :
    List (Nat × Nat) → List (Nat × Nat × AccHome × Nat) → Found
  | [], acc => .parts acc.reverse
  | (o, n) :: rest, acc =>
    match s.xlate die core asid mirror o kind with
    | .at pa seq => s.parts die core asid mirror va off kind rest ((pa, n, homeOf pa seq, o - off) :: acc)
    | .miss => .miss mirror o (va + BitVec.ofNat 64 (o - off))
    | .posted cause sub psize info => .posted (va + BitVec.ofNat 64 (o - off)) cause sub psize info

/-- Checks 3 to 5 of R265 for `size` bytes at `va`. -/
def State.find (s : State) (die : Nat) (core : Option Nat) (asid : Nat) (va : W64) (size kind : Nat) : Found :=
  match s.target asid va size kind with
  | .error t => .stop t
  | .ok (.peer pkg off) => .peer pkg off
  | .ok (.here mirror off) => s.parts die core asid mirror va off kind (sectors off size) []

end Sys2Proof.Machine
end

