-- ==== Sys2Proof/Machine/SvcTranslate.lean ====
section
/-!
DEFINITION. The service cores' own translation (R122, R262, R418): RISC-V's Sv39, by satp and the mode (PRESUMED, log 4).
-/
namespace Sys2Proof.Machine

/-- What a service core does to an address: a load, a store or an AMO, an instruction fetch. -/
inductive SvcKind where
  | load
  | store
  | fetch
deriving DecidableEq, Repr

/-- RISC-V's exception causes for an access that has no translation, and for one to an address that does not exist. -/
def SvcKind.pageFault : SvcKind → Nat
  | .load => 13
  | .store => 15
  | .fetch => 12

/-- The access-fault cause of a kind. -/
def SvcKind.accessFault : SvcKind → Nat
  | .load => 5
  | .store => 7
  | .fetch => 1

/-- The address-misaligned cause of a kind. -/
def SvcKind.misaligned : SvcKind → Nat
  | .load => 4
  | .store => 6
  | .fetch => 0

/-- Whether a leaf entry of Sv39 lets a kind of access in at a mode: V, R, W, X at bits 0 to 3, U, A and D at bits 4, 6 and 7. -/
def SvcKind.leafOk (k : SvcKind) (mode : Nat) (p : W64) : Bool :=
  (match k with
   | .load => p.getLsbD 1
   | .store => p.getLsbD 2 && p.getLsbD 7
   | .fetch => p.getLsbD 3) &&
    p.getLsbD 6 && (p.getLsbD 4 == decide (mode = 0))

/-- The levels of an Sv39 walk from `level` down, the table being at `t`. -/
def State.svcWalk (s : State) (k : SvcKind) (mode : Nat) (va : W64) : Nat → Nat → Option Nat
  | level, t =>
    let p : W64 := BitVec.ofNat 64 (s.physNum (t + 8 * (va.toNat / 2 ^ (12 + 9 * level) % 512)) 8)
    let pa := bitsOf p 53 10 * 4096
    let size := 2 ^ (12 + 9 * level)
    if !p.getLsbD 0 || (p.getLsbD 2 && !p.getLsbD 1) || bitsOf p 63 54 != 0 then none
    else if p.getLsbD 1 || p.getLsbD 3 then
      if pa % size = 0 ∧ k.leafOk mode p then some (pa + va.toNat % size) else none
    else match level with
      | 0 => none
      | l + 1 => s.svcWalk k mode va l pa

/-- The physical address of a service core's virtual one; machine mode and satp with MODE 0 translate nothing. -/
def State.svcPhys (s : State) (k : SvcKind) (n : Nat) (va : W64) : Option Nat :=
  (s.svc[n]?).bind fun c =>
    if c.mode = 3 ∨ bitsOf c.satp 63 60 = 0 then some va.toNat
    else if (va.truncate 39).signExtend 64 ≠ va then none
    else s.svcWalk k c.mode va 2 (bitsOf c.satp 43 0 * 4096)

/-- Where `len` bytes at a service core's virtual address lie, or the cause of the exception their access takes: an access over two
pages that do not lie together is misaligned (PRESUMED, log 4). -/
def State.svcPlace (s : State) (k : SvcKind) (n : Nat) (va : W64) (len : Nat) : Except Nat Nat :=
  match s.svcPhys k n va, s.svcPhys k n (va + BitVec.ofNat 64 (len - 1)) with
  | some a, some b => if b = a + (len - 1) then .ok a else .error k.misaligned
  | _, _ => .error k.pageFault

/-- `len` bytes of LPDDR6 at a service core's virtual address, or the cause of the exception of the first byte that cannot be read. -/
def State.svcBytes (s : State) (n : Nat) (va : W64) (len : Nat) : Except Nat (List Byte) :=
  (List.range len).mapM fun i => do
    let pa ← s.svcPlace .load n (va + BitVec.ofNat 64 i) 1
    if s.inDram pa 1 then pure (s.dieByte 8 pa) else .error SvcKind.load.accessFault

/-- The instruction word at a service core's program counter, by its two halves; zero, RISC-V's illegal word, where there is none. -/
def State.serviceWord (s : State) (n : Nat) : BitVec 32 :=
  BitVec.ofNat 32 (leNum (((s.svc[n]?).map fun c =>
    (List.range 4).map fun i => ((s.svcPhys .fetch n (c.pc + BitVec.ofNat 64 i)).map fun pa => s.dieByte 8 pa).getD 0).getD []))

end Sys2Proof.Machine
end

