-- ==== Sys2Proof/Machine/Memory.lean ====
section
/-!
DEFINITION. The consistency model as operations (R376 to R390): the order within an agent, home order, the copies of the
dies and their vector clocks, mirror pages, and the race detector (R399 to R404). Log 8 says how it is read.
-/
namespace Sys2Proof.Machine

/-! ## Clocks (R387) -/

/-- `a` is at or after `b`, modulo 2^16. -/
def clockAfter (a b : BitVec 16) : Bool := decide ((a - b).toNat < 2 ^ 15)

/-- A component of a vector clock. -/
def clk (v : List (BitVec 16)) (f : Nat) : BitVec 16 := (v[f]?).getD 0

/-- A die's vector clock; an I/O die (8) has seen every performed write. -/
def State.clockOf (s : State) (d : Nat) : List (BitVec 16) :=
  match s.dies[d]? with
  | some x => x.clock
  | none => (s.dies.zipIdx).map fun (x, f) => clk x.clock f

/-- Die `e`'s frontier for die `f`: every write of `f` up to it has been applied at `e`. -/
def State.frontier (s : State) (e f : Nat) : BitVec 16 :=
  match s.props.find? fun p => p.dst == e && p.origin == f with
  | some p => clk p.clock f - 1
  | none => clk (s.clockOf f) f

/-- Whether die `e`'s frontier for every die but `o` has reached a clock. -/
def State.frontierAt (s : State) (e o : Nat) (v : List (BitVec 16)) : Bool :=
  (List.range 8).all fun f => f == o || f == e || clockAfter (s.frontier e f) (clk v f)

/-- Whether a die can serve a read now: it has applied all that it has seen from other dies (R381; log 8). -/
def State.readable (s : State) (d : Nat) : Bool := decide (8 ≤ d) || s.frontierAt d d (s.clockOf d)

/-- Whether a write of die `o` may be numbered: its counter must not lead a frontier by 2^15 (R387). -/
def State.leadOk (s : State) (o : Nat) : Bool :=
  (List.range 8).all fun e => decide ((clk (s.clockOf o) o + 1 - s.frontier e o).toNat < 2 ^ 15)

/-- One component of a die's clock raised. -/
def Die.see (d : Die) (f : Nat) (n : BitVec 16) : Die :=
  if clockAfter n (clk d.clock f) then { d with clock := d.clock.set f n } else d

/-- Whether `n` more writes of die `o` may be issued: its counter must not come to lead a frontier by 2^15 (R387). -/
def State.leadRoom (s : State) (o n : Nat) : Bool :=
  (List.range 8).all fun e => decide ((clk (s.clockOf o) o - s.frontier e o).toNat + n < 2 ^ 15)

/-! ## Performing writes (R378, R381, R382, R389) -/

/-- The lines of memory that a write from `pa` replaces whole carry no error any more (R424). -/
def State.cleanLines (s : State) (pa n : Nat) : State :=
  { s with bad := s.bad.filter fun (sub, l) => !(decide (sub ≤ 1) && decide (pa ≤ 64 * l) && decide (64 * l + 64 ≤ pa + n)) }

/-- A die's copy lags at these bytes, keeping what it held (R382). -/
def Die.lag (d : Die) (old : List (Nat × Byte)) (ver : Nat) : Die :=
  { d with stale := d.stale ++ (old.filter fun (pa, _) => !d.stale.any (·.pa == pa)).map fun (pa, v) => ⟨pa, v, ver⟩ }

/-- A die's copy no longer lags at these bytes. -/
def Die.catchUp (d : Die) (pa n : Nat) : Die :=
  { d with stale := d.stale.filter fun e => decide (e.pa < pa) || decide (pa + n ≤ e.pa) }

/-- The die whose counter a write carries: its agent's, or for an I/O-die agent the home's (log 8). -/
def writeOrigin (die : Nat) : AccHome → Nat
  | .die h => if die < 8 then die else h
  | .mirror q => if die < 8 then die else q
  | .peer _ => 0

/-- A write performed for access `acc` of an agent on `die`: applied at its home in home order and sent to the other dies
(R381, R382), or numbered by the sequencer and sent to all eight replicas (R389). -/
def State.performWrite (s : State) (acc die : Nat) (home : AccHome) (pa : Nat) (data : List Byte) : State :=
  let o := writeOrigin die home
  let num := clk (s.clockOf o) o + 1
  let v := (s.clockOf die).set o num
  let ver := s.ver + 1
  match home with
  | .die h =>
    let old := (List.range data.length).map fun i => (pa + i, Mem.get s.memNow (pa + i))
    let dies := (s.dies.zipIdx).map fun (d, e) =>
      let d := if e = o ∨ e = h then (d.catchUp pa data.length).see o num else d.lag old s.ver
      d
    let sent := ((List.range 8).filter fun e => e ≠ h ∧ e ≠ o).map fun e =>
      ({ dst := e, pa := pa, data := data, ver := ver, origin := o, clock := v, mirror := none, acc := acc } : Propagation)
    ({ s with wr := s.wr ++ [.write pa data], ver := ver, dies := dies, props := s.props ++ sent } : State).cleanLines pa data.length
  | .mirror q =>
    let n := (s.seqNos[q]?).getD 0
    let sent := (List.range 8).map fun e =>
      ({ dst := e, pa := replica e pa, data := data, ver := ver, origin := o, clock := v, mirror := some (q, n), acc := acc } : Propagation)
    { s with ver := ver, seqNos := s.seqNos.set q (n + 1), dies := s.dies.modify o (·.see o num), props := s.props ++ sent }
  | .peer _ => s

/-- A write of the part's own (images, records, logs, PTEs, frames): performed and applied at every die at once (log 8). -/
def State.physWrite (s : State) (pa : Nat) (data : List Byte) : State :=
  ({ s with wr := s.wr ++ [.write pa data], dies := s.dies.map (·.catchUp pa data.length) } : State).cleanLines pa data.length

/-- Runs of adjacent numbers: first and length. -/
def runsOf (l : List Nat) : List (Nat × Nat) :=
  l.foldr (fun b acc => match acc with | (a, n) :: rest => if b + 1 = a then (b, n + 1) :: rest else (b, 1) :: acc | [] => [(b, 1)]) []

/-- What a store writes: all of its bytes, or those that no other copy's data keeps (R375). -/
def Access.pieces (a : Access) : List (Nat × List Byte) :=
  if a.skip = [] then [(0, a.data)]
  else (runsOf ((List.range a.data.length).filter fun i => !a.skip.contains i)).map fun (o, n) => (o, (a.data.drop o).take n)

/-- Whether a propagation may be applied now (R381, R389). -/
def State.propReady (s : State) (p : Propagation) : Bool :=
  s.frontierAt p.dst p.origin p.clock &&
    match p.mirror with
    | none => true
    | some (q, n) => !s.props.any fun r => r.dst == p.dst && match r.mirror with
        | some (q', n') => q' == q && decide (n' < n)
        | none => false

/-- The bytes a propagation brings to a die's copy: a lagging byte takes it when it is newer, and lags no more when no
newer one is on its way (R382). -/
def Die.take (d : Die) (p : Propagation) (rest : List Propagation) : Die :=
  let stale := d.stale.filterMap fun e =>
    if e.pa < p.pa ∨ p.pa + p.data.length ≤ e.pa then some e
    else if p.ver ≤ e.ver then some e
    else if rest.any fun r => r.dst == p.dst && r.mirror.isNone && decide (p.ver < r.ver) && decide (r.pa ≤ e.pa) &&
        decide (e.pa < r.pa + r.data.length) then
      some { e with val := (p.data[e.pa - p.pa]?).getD e.val, ver := p.ver }
    else none
  ({ d with stale := stale }).see p.origin (clk p.clock p.origin)

/-- The `j`-th write on its way reaches its die (R381, R382, R389). A mirror write is performed when every replica has it. -/
def State.applyProp (s : State) (j : Nat) : State :=
  match s.props[j]? with
  | none => s
  | some p =>
    if !s.propReady p then s
    else
      let rest := s.props.eraseIdx j
      match p.mirror with
      | none => { s with props := rest, dies := s.dies.modify p.dst fun d => d.take p rest }
      | some _ =>
        let s := ({ s with props := rest, wr := s.wr ++ [.write p.pa p.data],
                           dies := s.dies.modify p.dst fun d => d.see p.origin (clk p.clock p.origin) } : State).cleanLines p.pa p.data.length
        if rest.any (fun r => r.acc == p.acc) then s
        else { s with accs := s.accs.map fun a => if a.id = p.acc then { a with performed := true } else a }

/-! ## Order within an agent (R378, R385) -/

/-- Whether an access reads, or writes. -/
def AccKind.reads : AccKind → Bool
  | .store => false
  | _ => true
/-- Whether an access writes. -/
def AccKind.writes : AccKind → Bool
  | .load => false
  | _ => true

/-- Whether an order acquires (acquire, acq_rel, full), or releases. -/
def acquires (o : Nat) : Bool := o == 1 || o == 3 || o == 4
/-- Whether an order releases (release, acq_rel, full). -/
def releases (o : Nat) : Bool := o == 2 || o == 3 || o == 4

/-- R378: whether `p` is ordered before the later access `q` of its agent. -/
def Access.before (p q : Access) : Bool :=
  decide (p.agent = q.agent) && decide (p.id < q.id) &&
    (p.kind.reads || (decide (p.home = q.home) && decide (p.pa < q.pa + q.size) && decide (q.pa < p.pa + p.size)) ||
      acquires p.mods.order || (q.kind.writes && releases q.mods.order) || p.mods.order == 4 || q.mods.order == 4)

/-- The dies a scope instance covers, for an agent on `die` of launch `lid` (R377). -/
def State.scopeDies (s : State) (scope die lid : Nat) : List Nat :=
  if 8 ≤ die ∨ 3 ≤ scope then List.range 8
  else if scope = 1 then
    match s.launch? lid with
    | some l => match l.phase with
      | .placed ox oy _ =>
        let w := l.spanW
        let h := l.spanH
        (List.range 8).filter fun d => (List.range (w * h)).any fun i => dieOf (ox + i % w + 32 * (oy + i / w)) == d
      | _ => [die]
    | none => [die]
  else [die]

/-- Whether every write an agent on `die` causally follows has been applied at these dies (R385). -/
def State.causedApplied (s : State) (die : Nat) (dies : List Nat) : Bool :=
  !s.props.any fun p => dies.contains p.dst && clockAfter (clk (s.clockOf die) p.origin) (clk p.clock p.origin)

/-- Whether every earlier access of an agent has been performed. -/
def State.allPerformed (s : State) (a : Agent) (upto : Nat) : Bool :=
  !s.accs.any fun p => decide (p.agent = a) && decide (p.id < upto) && !p.performed

/-! ## The race detector (R399 to R404) -/

/-- The interval number of an agent of a launch (R401): an engine's, a copy queue's, the walk unit's (8) or the spill's (9), a service
core's. -/
def State.interval (s : State) (lid code : Nat) : Option (BitVec 16) :=
  let kind := code / 2 ^ 17
  if kind = 7 then (s.svc[code / 2 ^ 11 % 16]?).map (·.interval)
  else
    (s.ctx? (code % 1024) (code / 2 ^ 15 % 4)).bind fun x =>
      if x.lid ≠ lid then none
      else if kind < 5 then (x.engs[kind]?).map (·.interval)
      else if kind = 5 then x.qints[code / 2 ^ 11 % 16]?
      else x.qints[8 + code / 2 ^ 11 % 16]?

/-- An agent's interval number advanced (R401). -/
def State.bumpInterval (s : State) (code : Nat) : State :=
  let kind := code / 2 ^ 17
  if kind = 7 then { s with svc := s.svc.modify (code / 2 ^ 11 % 16) fun c => { c with interval := c.interval + 1 } }
  else s.modCtx (code % 1024) (code / 2 ^ 15 % 4) fun x =>
    if kind < 5 then { x with engs := x.engs.modify kind fun e => { e with interval := e.interval + 1 } }
    else if kind = 5 then { x with qints := x.qints.modify (code / 2 ^ 11 % 16) (· + 1) }
    else { x with qints := x.qints.modify (8 + code / 2 ^ 11 % 16) (· + 1) }

/-- Whether an agent lies in another's instance of a scope (R377). -/
def State.inInstance (s : State) (lid writer scope accessor : Nat) : Bool :=
  let wc := writer % 1024
  let ac := accessor % 1024
  if 3 ≤ scope ∨ writer / 2 ^ 17 = 7 then true
  else if accessor / 2 ^ 17 = 7 then false
  else if scope = 0 then wc == ac
  else if scope = 2 then dieOf wc == dieOf ac
  else (List.range 4).any fun k => match s.ctx? ac k with
    | some x => x.lid == lid && decide (accessor / 2 ^ 15 % 4 = k)
    | none => false

/-- The shadow of a sector. -/
def State.shadowOf (s : State) (sector : Nat) : Option Shadow := s.shadow.find? (·.sector == sector)

/-- The race predicate of R402 for an access of an agent to a sector. -/
def State.racy (s : State) (sector : Nat) (agent : Agent) (atomic : Bool) : Bool :=
  match s.shadowOf sector with
  | none => false
  | some sh =>
    sh.lid == agent.lid && sh.wagent != agent.code && (s.interval sh.lid sh.wagent == some (BitVec.ofNat 16 sh.wi)) &&
      !(sh.ws != 7 && s.inInstance sh.lid sh.wagent sh.ws agent.code) && !(atomic && sh.atomic)

/-- The shadow after a write by an agent whose interval number is `wi` (R402). -/
def State.setShadow (s : State) (sector : Nat) (agent : Agent) (wi ws : Nat) (atomic : Bool) : State :=
  { s with shadow := ⟨sector, ws, wi, agent.lid, agent.code, atomic⟩ :: s.shadow.filter (·.sector != sector) }

/-- A log record's 256 bits (R403). -/
def raceRecord (va : W64) (sh : Shadow) (agent : Agent) (akind sect word : Nat) : BitVec 256 :=
  BitVec.ofNat 256 (va.toNat * 2 ^ 192 + genOf agent.lid * 2 ^ 164 + asidOf agent.lid * 2 ^ 152 + sh.wi % 2 ^ 16 * 2 ^ 136 +
    sh.ws % 8 * 2 ^ 133 + sh.wagent % 2 ^ 20 * 2 ^ 112 + akind % 4 * 2 ^ 100 + agent.code % 2 ^ 20 * 2 ^ 80 +
    sect % 2 ^ 32 * 2 ^ 32 + word % 2 ^ 32)

/-- A record appended to the log ring, or dropped (R404). -/
def State.logRace (s : State) (rec : BitVec 256) : State :=
  let n := bitsOf s.ctl.raceLog 4 0
  let head := bitsOf s.ctl.racePtr 31 0
  let tail := bitsOf s.ctl.racePtr 63 32
  let drop := { s with ctl := { s.ctl with raceDrops := min (s.ctl.raceDrops + 1) 0xFFFF, raceOvf := true } }
  if n < 7 ∨ 20 < n then drop
  else if (head + 2 ^ 32 - tail) % 2 ^ 32 = 2 ^ n then drop
  else
    let s := s.physWrite (bitsOf s.ctl.raceLog 39 12 * 4096 + head % 2 ^ n * 32) (leBytes rec.toNat 32)
    { s with ctl := { s.ctl with racePtr := BitVec.ofNat 64 (tail * 2 ^ 32 + (head + 1) % 2 ^ 32) } }

/-- The sector the detector keeps state for: a mirror page's at its sequencer (R400). -/
def sectorOf (pa : Nat) : AccHome → Nat
  | .mirror q => replica q pa / 64
  | _ => pa / 64

/-- The check of R402 as an access reaches its home: whether it traps, and the state with the log and shadow updated. -/
def State.raceCheck (s : State) (a : Access) (writes : Bool) : Bool × State :=
  if !s.ctl.raceEn then (false, if writes && releases a.mods.order then s.bumpInterval a.agent.code else s)
  else
    let sec := sectorOf a.pa a.home
    let atomic := match a.kind with | .atomic _ _ _ => true | _ => false
    let racy := s.racy sec a.agent atomic
    if racy && a.mods.race == 1 then (true, s)
    else
      let s := if racy && a.mods.race == 2 then
          match s.shadowOf sec with
          | some sh => s.logRace (raceRecord a.va sh a.agent a.kind.code a.sect a.word)
          | none => s
        else s
      let s := if writes then s.setShadow sec a.agent a.wi (if releases a.mods.order then a.mods.scope else 7) atomic else s
      (false, if writes && releases a.mods.order then s.bumpInterval a.agent.code else s)

/-! ## Atomics (R268, R388) -/

/-- The table of R268 on `n`-bit numbers; none where nothing is written. -/
def atomicNew (op : Nat) (signed : Bool) (n old x expect : Nat) : Option Nat :=
  let sg (v : Nat) : Int := if signed then (BitVec.ofNat n v).toInt else (v : Int)
  match op with
  | 0 => some ((old + x) % 2 ^ n)
  | 1 => some (old &&& x)
  | 2 => some (old ||| x)
  | 3 => some (old ^^^ x)
  | 4 => some (if sg old ≤ sg x then old else x)
  | 5 => some (if sg old ≤ sg x then x else old)
  | 6 => some x
  | _ => if old = expect % 2 ^ n then some x else none

/-! ## An access performed (R382, R388) -/

/-- Whether an access may be performed now (R378, R385, R387). -/
def State.accReady (s : State) (a : Access) : Bool :=
  !a.performed && !a.sent && !s.accs.any (fun p => p.before a && !p.performed) &&
    (!a.kind.writes || !releases a.mods.order || s.causedApplied a.die (s.scopeDies a.mods.scope a.die a.agent.lid)) &&
    (match a.kind, a.home with
     | .load, .die _ => s.readable a.die
     | .load, .mirror _ => s.readable a.die
     | .load, .peer _ => true
     | _, .die h => s.frontierAt h (writeOrigin a.die a.home) (s.clockOf a.die) && s.readable a.die && s.leadOk (writeOrigin a.die a.home)
     | .store, .mirror _ => s.readable a.die && s.leadOk (writeOrigin a.die a.home)
     | .atomic _ _ _, .mirror q => s.readable a.die && s.leadOk (writeOrigin a.die a.home) &&
         !s.props.any fun p => p.dst == q && match p.mirror with | some (q', _) => q' == q | none => false
     | _, .peer _ => true)

/-- One access replaced, by its number. -/
def State.modAcc (s : State) (id : Nat) (f : Access → Access) : State :=
  { s with accs := s.accs.map fun a => if a.id = id then f a else a }

/-- Where an access reads: its die's replica of a mirror page, or for an atomic the sequencer's (R389, R390); else its address. -/
def Access.readsAt (a : Access) : Nat :=
  match a.home, a.kind with
  | .mirror _, .load => replica (if a.die < 8 then a.die else 0) a.pa
  | .mirror q, _ => replica q a.pa
  | _, _ => a.pa

/-- A load's bytes: from the die's copy, or its replica of a mirror page (R381, R389). -/
def State.loadBytes (s : State) (a : Access) : List Byte :=
  match a.home with
  | .mirror _ => s.phys (replica (if a.die < 8 then a.die else 0) a.pa) a.size
  | _ => s.dieBytes a.die a.pa a.size

/-- An access of this package's memory performed; its race check has passed. What an atomic reads its agent's die has seen (R380, R381).
A write of a mirror page is performed once every replica has it (R389, R390). -/
def State.performLocal (s : State) (a : Access) : State :=
  match a.kind with
  | .load => s.modAcc a.id fun x => { x with performed := true, answer := s.loadBytes a }
  | .store =>
    let s := a.pieces.foldl (fun s (o, d) => s.performWrite a.id a.die a.home (a.pa + o) d) s
    match a.home with
    | .mirror _ => s.modAcc a.id fun x => if a.pieces = [] then { x with performed := true } else { x with sent := true }
    | _ => s.modAcc a.id fun x => { x with performed := true }
  | .atomic op signed expect =>
    let old := s.phys a.readsAt a.size
    let seen (h : Nat) : State := s.modDie a.die fun d => (List.range 8).foldl (fun d f => d.see f (clk (s.clockOf h) f)) d
    let t := match a.home with
      | .die h => seen h
      | .mirror q => seen q
      | .peer _ => s
    match atomicNew op signed (8 * a.size) (leNum old) (leNum a.data) expect.toNat with
    | some new =>
      (t.performWrite a.id a.die a.home a.pa (leBytes new a.size)).modAcc a.id fun x => match a.home with
        | .mirror _ => { x with sent := true, answer := old }
        | _ => { x with performed := true, answer := old }
    | none => t.modAcc a.id fun x => { x with performed := true, answer := old }

end Sys2Proof.Machine
end

