-- ==== Sys2Proof/Machine/Faults.lean ====
section
/-!
DEFINITION. Posted faults (R413 to R417): the fault queue's entries, merging, holding and release; and `run`, the one place
where a meaning's answer becomes an outcome of the machine.
-/
namespace Sys2Proof.Machine

/-- A fault-queue entry's 256 bits (R414). -/
def faultBits (va lid merge sub cause die psize akind agent tag info : Nat) : BitVec 256 :=
  BitVec.ofNat 256 (va % 2 ^ 64 * 2 ^ 192 + genOf lid * 2 ^ 168 + asidOf lid * 2 ^ 156 + merge % 2 ^ 16 * 2 ^ 140 +
    sub % 16 * 2 ^ 136 + cause % 32 * 2 ^ 131 + die % 8 * 2 ^ 128 + psize % 4 * 2 ^ 126 + akind % 4 * 2 ^ 124 +
    agent % 2 ^ 20 * 2 ^ 104 + tag % 2 ^ 32 * 2 ^ 64 + info % 2 ^ 64)

/-- Whether two posted faults merge: same ASID, GEN, CAUSE, SUB and INFO (R415). -/
def FaultEntry.merges (e f : FaultEntry) : Bool :=
  !e.stop && !f.stop && e.lid == f.lid && bitsOf e.bits 139 131 == bitsOf f.bits 139 131 && bitsOf e.bits 63 0 == bitsOf f.bits 63 0

/-- An entry takes a merged fault: MERGE counts while it is pending, and its agents wait (R415). -/
def FaultEntry.join (e f : FaultEntry) : FaultEntry :=
  let ws := e.waiters ++ f.waiters.filter (!e.waiters.contains ·)
  if e.inService then { e with waiters := ws }
  else { e with waiters := ws,
                bits := if bitsOf e.bits 155 140 < 0xFFFF then e.bits + BitVec.ofNat 256 (2 ^ 140) else e.bits }

/-- An entry enters the queue with the next TAG; IRQ is set while IRQEN is 1 (R414, R419). -/
def State.enterFault (s : State) (f : FaultEntry) : State :=
  let q := s.faults
  let e := { f with bits := f.bits + BitVec.ofNat 256 (q.nextTag.toNat * 2 ^ 64) }
  { s with faults := { q with entries := q.entries ++ [e], nextTag := q.nextTag + 1, irq := q.irq || q.irqEn } }

/-- A fault taken by the queue: merged, entered, or left waiting for room (R415, R416). -/
def State.admitFault (s : State) (f : FaultEntry) : State :=
  if s.faults.entries.any (·.merges f) then
    { s with faults := { s.faults with entries := s.faults.entries.map fun e => if e.merges f then e.join f else e } }
  else if 1024 ≤ s.faults.entries.length ∨ s.faults.waiting ≠ [] then
    { s with faults := { s.faults with waiting := s.faults.waiting ++ [f] } }
  else s.enterFault f

/-- A fault raised: it reaches the queue at the end of the cycle (R416). -/
def State.postFault (s : State) (f : FaultEntry) : State :=
  { s with faults := { s.faults with raised := s.faults.raised ++ [f] } }

/-- Whether a copy engine works on a row of a command: it reads it, or writes it next. -/
def CopySlot.works (t : CopySlot) (id r : Nat) : Bool := t.id == id && (t.cur == some r || (t.cur.isNone && t.batch.head?.any (·.1 == r)))

/-- The copy engine leaves the row it works on. -/
def CopySlot.leave (t : CopySlot) : CopySlot :=
  { t with cur := none, buf := [], part := 0, acc := none, place := none, batch := if t.cur.isSome then t.batch else t.batch.drop 1 }

/-- A row of a command holds, and the command with it (R282): its copy engine leaves it, and it restarts from its first byte. -/
def State.holdRow (s : State) (id r : Nat) : State :=
  match s.cmd? id with
  | some x =>
    match (s.slotsFor (dieOf x.c) id).find? fun (_, t) => t.works id r with
    | some (e, t) =>
      let h : HeldRow := { row := r, data := if t.cur.isSome then none else t.batch.head?.map (·.2), wait := true }
      (s.modSlot (dieOf x.c) e CopySlot.leave).modCmd id fun x => { x with state := .held, heldRows := x.heldRows ++ [h] }
    | none => s.modCmd id fun x => { x with state := .held }
  | none => s

/-- A row of a command released: an engine takes it again (R282, R420). -/
def Cmd.freeRow (x : Cmd) (r : Nat) : Cmd :=
  let l := x.heldRows.map fun h => if h.row = r then { h with wait := false } else h
  { x with heldRows := l, state := if x.state = .held && !l.any (·.wait) then .running else x.state }

/-- An engine held at its word, which is a switch point; or a command held, or a row of it (R282, R413). -/
def State.holdWaiter (s : State) : Waiter → State
  | .engine c k e => s.modEng c k e fun en => { en with held := true, yielded := true }
  | .fetch c k e => s.modEng c k e fun en => { en with held := true, yielded := true }
  | .cmd id => s.modCmd id fun x => { x with state := .held }
  | .row id r => s.holdRow id r
  | .spill c k => s.modCtx c k fun y => { y with cat := { y.cat with held := true } }
  | .package => s

/-- A waiter released to retry (R413, R420). -/
def State.releaseWaiter (s : State) : Waiter → State
  | .engine c k e => s.modEng c k e fun en => { en with held := false }
  | .fetch c k e => s.modEng c k e fun en => { en with held := false }
  | .cmd id => s.modCmd id fun x => { x with state := if x.state = .held then .running else x.state }
  | .row id r => s.modCmd id (·.freeRow r)
  | .spill c k => s.modCtx c k fun y => { y with cat := { y.cat with held := false } }
  | .package => s

/-- The agent whose accesses a command makes (R376, R403): a copy queue or the walk unit; else its engine. -/
def Cmd.agent (x : Cmd) : Agent :=
  { code := if x.unit = 1 then agentCode 5 x.k x.queue x.c else if x.unit = 0 then agentCode 6 x.k 0 x.c
            else agentCode (if x.carried then 3 else x.eng.tag) x.k 0 x.c,
    lid := x.lid }

/-- Whether a stop trap of a launch has been raised, or it is to stop (R408, R442). -/
def State.stopRaised (s : State) (lid : Nat) : Bool :=
  (s.cores.any fun co => co.slots.any fun o => match o with
    | some y => y.lid == lid && y.trap.isSome
    | none => false) ||
  (match s.launch? lid with
   | some l => l.pre == some 2
   | none => true)

/-- Whether a waiter is a command that runs on after a stop trap of its launch, whose faults are not posted (R408). -/
def State.runsOn (s : State) (lid : Nat) : Waiter → Bool
  | .cmd _ => s.stopRaised lid
  | .row _ _ => s.stopRaised lid
  | _ => false

/-- The posted fault of a walk: one for all the agents that joined it, which are held (R258, R413 to R415). Where only commands of a launch
that stops met it, nothing is posted (R408). -/
def State.postWalk (s : State) (die cause sub psize info : Nat) (w : Walk) : State :=
  let t := w.waiters.foldl State.holdWaiter s
  if w.waiters != [] && w.waiters.all (s.runsOn w.lid) then t
  else t.postFault
    { bits := faultBits w.va.toNat w.lid 0 sub cause die psize w.kind w.agent 0 info, inService := false, waiters := w.waiters, stop := false,
      lid := w.lid }

/-- A fetch that misses the instruction cache asks for its line (R170). -/
def State.missLine (s : State) (asid line : Nat) : State :=
  match s.seat with
  | some (k, _) => s.modCore s.curCore fun co =>
      if co.misses.any fun (a, l, e, j) => a == asid && l == line && e == s.curEng && j == k then co
      else { co with misses := co.misses ++ [(asid, line, s.curEng, k)] }
  | none => s

/-- The word is tried again after the turn an engine still has in this cycle: a pop may make room for a push (R95), a word may start a
use of a tile (R67). The turns of one cycle in which engines wait for one another end after five tries. -/
def State.waitTurn (s : State) (dst : Nat) : State :=
  { s with agenda := s.agenda.flatMap fun t =>
      match t with
      | .core c e => if c = s.curCore ∧ e.tag = dst then [t, .again s.curCore s.curEng (s.curTry + 1)] else [t]
      | .again c e _ => if c = s.curCore ∧ e.tag = dst ∧ s.curTry < 5 then [t, .again s.curCore s.curEng (s.curTry + 1)] else [t]
      | _ => [t] }

/-- The outcome of a meaning: its state with the step's writes in memory; a stall changes nothing; a miss joins the
walker or asks for its line; a posted fault holds the engine; a stop trap enters the context (R258, R409, R413). -/
def run (m : M Unit) (s : State) : Host.Outcome State Fault Refusal :=
  match m s with
  | .ok (_, t) => .next (s.commit t)
  | .error .stall => .next s
  | .error (.later tag) => .next (s.waitTurn tag)
  | .error (.walk d w) => .next (s.modDie d (·.addWalk w))
  | .error (.fetch asid line) => .next (s.missLine asid line)
  | .error (.posted d cause sub w psize info) => .next (s.postWalk d cause sub psize info w)
  | .error (.trap t) => .next (s.raise t)
  | .error (.fault f) => .fault f

end Sys2Proof.Machine
end

