-- ==== Sys2Proof/Machine/Operands.lean ====
section
/-!
DEFINITION. Guards and scalar operands (R84 to R87, R94, R95, R182 to R186): reading and popping sources, writing
destinations with their latency, the queues between the scalar engines, and the memory defaults (R98, R99).
-/
namespace Sys2Proof.Machine

/-- The cycle no result is due in: a load's register is busy until its data returns (R266). -/
def never : Nat := 2 ^ 80

/-- The issuing scalar engine's registers (R182, R425). -/
def State.regsHere (s : State) (h : Here) : List W64 :=
  if h.asst then ((s.cores[h.c]?).map (·.assist.regs)).getD [] else (h.ctx.sregs[fileOf h.e]?).getD []

/-- A general register as a source: register 0 reads 0; a read waits for earlier writes (R182, R183), and consumes the file (R424). -/
def readReg (r : Nat) : M W64 := do
  let h ← here
  let s ← get
  if r = 0 then pure 0
  else do
    require (!h.eng.isBusy s.now r)
    if h.asst then pure () else tableOk (fileKey h.c h.k h.e.tag)
    pure (((s.regsHere h)[r]?).getD 0)

/-- A general register as a destination, its result `lat` cycles after issue; register 0 discards (R182, R183). -/
def writeReg (r : Nat) (v : W64) (lat : Nat) : M Unit := do
  if r = 0 then pure ()
  else do
    let h ← here
    let s ← get
    require (!h.eng.isBusy s.now r)
    modify (·.modRegs (·.set r v))
    if lat ≤ 1 then pure () else modEng fun en => { en with busy := (r, s.now + lat) :: en.busy }

/-- The sender whose values an inbound code 48 to 51 pops (R94). -/
def inboundSender (r : Nat) : Nat := if r = 48 then 0 else if r = 49 then 1 else if r = 50 then 3 else 4

/-- Where a context keeps the queue of a receiver's tag from a sender's (R184). -/
def inqIndex (rcv snd : Nat) : Nat := 5 * rcv + snd

/-- Pop an inbound scalar queue; an empty one stalls (R95, R184). -/
def popInbound (r : Nat) : M W64 := do
  let h ← here
  let q := inqIndex h.e.tag (inboundSender r)
  match h.ctx.inqs[q]? with
  | some (v :: rest) => do
    modCtx fun x => { x with inqs := x.inqs.set q rest }
    pure v
  | _ => stall

/-- The guard's value (R86): whether the word executes. -/
def guardOn (g : Guard) : M Bool := do
  if !g.g then pure true
  else do
    let h ← here
    let s ← get
    if h.e = .V then do
      require (!h.eng.isBusy s.now g.greg.toNat)
      tableOk (fileKey h.c h.k h.e.tag)
      let v := (h.ctx.vregs[g.greg.toNat]?).getD 0
      pure (v.getLsbD g.gbit.toNat != g.neg)
    else do
      let v ← readReg g.greg.toNat
      pure (v.getLsbD g.gbit.toNat != g.neg)

/-- A scalar source (R94): a register, or an inbound queue, which a guarded-off word pops too (R87). -/
def source (on : Bool) (r : BitVec 6) : M W64 :=
  if 48 ≤ r.toNat then popInbound r.toNat
  else if on then readReg r.toNat
  else pure 0

/-- A word of three scalar sources read in field order; executing, it writes `f` of them to D (R87, R94, R95). -/
def scalarWord (g : Guard) (d a b c : BitVec 6) (lat : Nat) (f : W64 → W64 → W64 → W64) : M Unit := do
  let on ← guardOn g
  let x ← source on a
  let y ← source on b
  let z ← source on c
  if on then writeReg d.toNat (f x y z) lat else pure ()
  advance

/-- The parameter registers V has latched (R137), and a V operand code 48 to 63 or 0 as a count (R173, R176). -/
def countOf (on : Bool) (r : BitVec 6) : M W64 := do
  let h ← here
  if h.e = .V then pure (if 48 ≤ r.toNat then (h.ctx.params[r.toNat - 48]?).getD 0 else 0)
  else source on r

/-! ## Memory defaults (R98, R99) -/

/-- The launch of the issuing engine's context. -/
def launchHere : M (Option Launch) := do
  let h ← here
  let s ← get
  pure (s.launch? h.ctx.lid)

/-- CTXMEM and CTXNUM of a launch (R98, R30, R120). -/
def Launch.ctxmem (l : Launch) : Nat := bitsOf l.record 511 448
/-- CTXNUM. -/
def Launch.ctxnum (l : Launch) : Nat := bitsOf l.record 575 512

/-- The order CTXMEM gives a word without a modifier: column 0 reads, 1 writes, 2 both (R99). -/
def defaultOrder (order col : Nat) : Nat :=
  match order, col with
  | 1, 1 => 0 | 2, 0 => 0 | 3, 0 => 1 | 3, 1 => 2 | o, _ => o

/-- The four modes of a memory word: its modifier's, or CTXMEM's (R99). -/
def modsOf (m : Option PWord) (ctxmem col : Nat) : Mods :=
  let drace := bitsOf (BitVec.ofNat 64 ctxmem) 11 10
  match m with
  | some p => { order := p.order.toNat, scope := p.scope.toNat, cache := p.cache.toNat,
                race := if p.race = 0 then drace else p.race.toNat }
  | none => { order := defaultOrder (ctxmem % 8) col, scope := ctxmem / 8 % 8, cache := ctxmem / 64 % 16, race := drace }

/-- The modes of the issuing memory word. -/
def modsHere (col : Nat) : M Mods := do
  let h ← here
  let l ← launchHere
  pure (modsOf h.eng.modifier ((l.map Launch.ctxmem).getD 0) col)

end Sys2Proof.Machine
end

