-- ==== Sys2Proof/Machine/Flags.lean ====
section
/-!
DEFINITION. The results that stand in a bit or a slot: a compare's bit (R194, R200), a flag slot (R187) and a barrier's
state word (R363).
-/
namespace Sys2Proof.Machine

/-- Bit `c` of `d` set to `r`. -/
def setBit (d : W64) (c : Nat) (r : Bool) : W64 :=
  if r then d ||| (1#64 <<< c) else d &&& ~~~(1#64 <<< c)

/-- A compare's bit written under SUB 0, 1 (.and) or 2 (.or) (R194). -/
def compareBit (d : W64) (c sub : Nat) (r : Bool) : W64 :=
  setBit d c (if sub = 1 then d.getLsbD c && r else if sub = 2 then d.getLsbD c || r else r)

/-- A flag slot: COUNT, VALID, NONE, ALL, ANY (R187). -/
def flagSlot (count enabled : Nat) : W64 :=
  BitVec.ofNat 64 (count % 2048 * 65536 + 8 + (if count = 0 then 4 else 0) + (if count = enabled then 2 else 0) +
    (if count = 0 then 0 else 1))

/-- The state of a live barrier as BTEST reads it (R363). -/
def Barrier.word (b : Barrier) : W64 :=
  BitVec.ofNat 64 (b.count.toNat * 2 ^ 32 + 16 + (if b.ovf then 8 else 0) + (if b.lost then 4 else 0) +
    (if b.ref then 2 else 0) + (if b.phase then 1 else 0))

/-- A compare on scalar operands: only bit C of D changes, D is read as a source (R183, R194). -/
def compareWord (g : Guard) (d a b : BitVec 6) (c sub : Nat) (lat : Nat) (rel : W64 → W64 → Bool) : M Unit := do
  let on ← guardOn g
  let x ← source on a
  let y ← source on b
  if on then do
    let old ← readReg d.toNat
    writeReg d.toNat (compareBit old c sub (rel x y)) lat
  else pure ()
  advance

end Sys2Proof.Machine
end

