-- ==== Sys2Proof/Machine/Alu.lean ====
section
/-!
DEFINITION. The shared scalar ALU of S, A, B and X (R191 to R196): one meaning for each word, R form and immediate form.
-/
namespace Sys2Proof.Machine

/-! ## What each word computes (R192) -/

/-- R192 ADD. -/
def aluAdd (a b : W64) : W64 := a + b

/-- R192 SUB. -/
def aluSub (a b : W64) : W64 := a - b

/-- R192 MUL: the low 64 bits. -/
def aluMul (a b : W64) : W64 := a * b

/-- R192 DIVW: rounded down; by zero all ones. -/
def aluDivw (a b : W64) : W64 := if b = 0 then BitVec.allOnes 64 else BitVec.ofNat 64 (a.toNat / b.toNat)

/-- R192 DIV: rounded toward zero; by zero all ones. -/
def aluDiv (a b : W64) : W64 := if b = 0 then BitVec.allOnes 64 else wrapTo 64 (Int.tdiv a.toInt b.toInt)

/-- R192 REM: the sign of the dividend; by zero A. -/
def aluRem (a b : W64) : W64 := if b = 0 then a else wrapTo 64 (Int.tmod a.toInt b.toInt)

/-- R192 REMW; by zero A. -/
def aluRemw (a b : W64) : W64 := if b = 0 then a else BitVec.ofNat 64 (a.toNat % b.toNat)

/-- R192 AND. -/
def aluAnd (a b : W64) : W64 := a &&& b

/-- R192 OR. -/
def aluOr (a b : W64) : W64 := a ||| b

/-- R192 XOR. -/
def aluXor (a b : W64) : W64 := a ^^^ b

/-- R192 ANDN. -/
def aluAndn (a b : W64) : W64 := a &&& ~~~b

/-- R192 SHL by B[5:0]. -/
def aluShl (a b : W64) : W64 := a <<< (b.toNat % 64)

/-- R192 SHR, zero fill. -/
def aluShr (a b : W64) : W64 := a >>> (b.toNat % 64)

/-- R192 SRA, sign fill. -/
def aluSra (a b : W64) : W64 := a.sshiftRight (b.toNat % 64)

/-- R192 ROL. -/
def aluRol (a b : W64) : W64 := a.rotateLeft (b.toNat % 64)

/-- R192 MIN, signed. -/
def aluMin (a b : W64) : W64 := if a.toInt ≤ b.toInt then a else b

/-- R192 MAX, signed. -/
def aluMax (a b : W64) : W64 := if a.toInt ≤ b.toInt then b else a

/-- R192 MINW, unsigned. -/
def aluMinw (a b : W64) : W64 := if a.toNat ≤ b.toNat then a else b

/-- R192 MAXW, unsigned. -/
def aluMaxw (a b : W64) : W64 := if a.toNat ≤ b.toNat then b else a

/-- R192 MULH: bits 127 to 64 of the exact product; SUB 0 signed, 1 unsigned, 2 signed A by unsigned B. -/
def aluMulh (sub : Nat) (a b : W64) : W64 :=
  let x : Int := if sub = 1 then a.toNat else a.toInt
  let y : Int := if sub = 0 then b.toInt else b.toNat
  wrapTo 64 (Int.ediv (x * y) (2 ^ 64))

/-- The number of leading zeros of an `n`-bit prefix scan from bit `n - 1` down. -/
def leadingZeros (a : W64) : Nat → Nat
  | 0 => 0
  | n + 1 => if a.getLsbD n then 0 else 1 + leadingZeros a n

/-- The number of trailing zeros from bit `64 - n` up. -/
def trailingZeros (a : W64) : Nat → Nat
  | 0 => 0
  | n + 1 => if a.getLsbD (63 - n) then 0 else 1 + trailingZeros a n

/-- R192 CLZ: 64 when A is 0. -/
def aluClz (a : W64) : W64 := BitVec.ofNat 64 (leadingZeros a 64)
/-- R192 CTZ: 64 when A is 0. -/
def aluCtz (a : W64) : W64 := BitVec.ofNat 64 (trailingZeros a 64)
/-- R192 POPC. -/
def aluPopc (a : W64) : W64 := BitVec.ofNat 64 ((List.range 64).countP fun i => a.getLsbD i)
/-- R192 SEXT: A[C:0] sign-extended. -/
def aluSext (c : Nat) (a : W64) : W64 := (a <<< (63 - c)).sshiftRight (63 - c)
/-- R192 ZEXT: A[C:0]. -/
def aluZext (c : Nat) (a : W64) : W64 := (a <<< (63 - c)) >>> (63 - c)
/-- R195 BEXT: A[hi:p] with hi = min(p + len, 64) - 1. -/
def aluBext (len p : Nat) (a : W64) : W64 := BitVec.ofNat 64 ((a.toNat >>> p) % 2 ^ (min (p + len) 64 - p))
/-- R195 BINS: bits p to p + len - 1 of D from the low bits of A; positions above 63 dropped. -/
def aluBins (len p : Nat) (d a : W64) : W64 :=
  let m : W64 := BitVec.ofNat 64 ((2 ^ len - 1) <<< p)
  (d &&& ~~~m) ||| ((a <<< p) &&& m)
/-- R195: the bit BSET, BCLR and BTGL act on. -/
def bitChoice (sub c : Nat) (b : W64) : Nat := if sub = 0 then c else b.toNat % 64
/-- R193: the 64-bit pattern in place of B. -/
def immOf (imm : BitVec 32) : W64 := imm.signExtend 64

/-! ## The divider (R183) -/

/-- A division: the divider takes one at a time, and the result comes 18 cycles after issue (R183). -/
def divWord (g : Guard) (d a b : BitVec 6) (imm : Option W64) (f : W64 → W64 → W64) : M Unit := do
  let on ← guardOn g
  let x ← source on a
  let y ← match imm with
    | some v => pure v
    | none => source on b
  if on then do
    let h ← here
    let s ← get
    require (!h.eng.isBusy s.now 64)
    writeReg d.toNat (f x y) 18
    modEng fun en => { en with busy := (64, s.now + 18) :: en.busy }
  else pure ()
  advance

/-! ## The words -/

/-- ADD (R192). -/
def execAdd (x : RWord) (s : State) : Host.Outcome State Fault Refusal :=
  run (scalarWord x.guard x.d x.a x.b 0 1 fun a b _ => aluAdd a b) s

/-- ADD with an immediate (R103, R193). -/
def execAddI (x : IWord) (s : State) : Host.Outcome State Fault Refusal :=
  run (scalarWord x.guard x.d x.a 0 0 1 fun a _ _ => aluAdd a (immOf x.imm)) s

/-- SUB (R192). -/
def execSub (x : RWord) (s : State) : Host.Outcome State Fault Refusal :=
  run (scalarWord x.guard x.d x.a x.b 0 1 fun a b _ => aluSub a b) s

/-- SUB with an immediate (R103, R193). -/
def execSubI (x : IWord) (s : State) : Host.Outcome State Fault Refusal :=
  run (scalarWord x.guard x.d x.a 0 0 1 fun a _ _ => aluSub a (immOf x.imm)) s

/-- MUL (R192). -/
def execMul (x : RWord) (s : State) : Host.Outcome State Fault Refusal :=
  run (scalarWord x.guard x.d x.a x.b 0 3 fun a b _ => aluMul a b) s

/-- MUL with an immediate (R103, R193). -/
def execMulI (x : IWord) (s : State) : Host.Outcome State Fault Refusal :=
  run (scalarWord x.guard x.d x.a 0 0 3 fun a _ _ => aluMul a (immOf x.imm)) s

/-- AND (R192). -/
def execAnd (x : RWord) (s : State) : Host.Outcome State Fault Refusal :=
  run (scalarWord x.guard x.d x.a x.b 0 1 fun a b _ => aluAnd a b) s

/-- AND with an immediate (R103, R193). -/
def execAndI (x : IWord) (s : State) : Host.Outcome State Fault Refusal :=
  run (scalarWord x.guard x.d x.a 0 0 1 fun a _ _ => aluAnd a (immOf x.imm)) s

/-- OR (R192). -/
def execOr (x : RWord) (s : State) : Host.Outcome State Fault Refusal :=
  run (scalarWord x.guard x.d x.a x.b 0 1 fun a b _ => aluOr a b) s

/-- OR with an immediate (R103, R193). -/
def execOrI (x : IWord) (s : State) : Host.Outcome State Fault Refusal :=
  run (scalarWord x.guard x.d x.a 0 0 1 fun a _ _ => aluOr a (immOf x.imm)) s

/-- XOR (R192). -/
def execXor (x : RWord) (s : State) : Host.Outcome State Fault Refusal :=
  run (scalarWord x.guard x.d x.a x.b 0 1 fun a b _ => aluXor a b) s

/-- XOR with an immediate (R103, R193). -/
def execXorI (x : IWord) (s : State) : Host.Outcome State Fault Refusal :=
  run (scalarWord x.guard x.d x.a 0 0 1 fun a _ _ => aluXor a (immOf x.imm)) s

/-- ANDN (R192). -/
def execAndn (x : RWord) (s : State) : Host.Outcome State Fault Refusal :=
  run (scalarWord x.guard x.d x.a x.b 0 1 fun a b _ => aluAndn a b) s

/-- ANDN with an immediate (R103, R193). -/
def execAndnI (x : IWord) (s : State) : Host.Outcome State Fault Refusal :=
  run (scalarWord x.guard x.d x.a 0 0 1 fun a _ _ => aluAndn a (immOf x.imm)) s

/-- SHL (R192). -/
def execShl (x : RWord) (s : State) : Host.Outcome State Fault Refusal :=
  run (scalarWord x.guard x.d x.a x.b 0 1 fun a b _ => aluShl a b) s

/-- SHL with an immediate (R103, R193). -/
def execShlI (x : IWord) (s : State) : Host.Outcome State Fault Refusal :=
  run (scalarWord x.guard x.d x.a 0 0 1 fun a _ _ => aluShl a (immOf x.imm)) s

/-- SHR (R192). -/
def execShr (x : RWord) (s : State) : Host.Outcome State Fault Refusal :=
  run (scalarWord x.guard x.d x.a x.b 0 1 fun a b _ => aluShr a b) s

/-- SHR with an immediate (R103, R193). -/
def execShrI (x : IWord) (s : State) : Host.Outcome State Fault Refusal :=
  run (scalarWord x.guard x.d x.a 0 0 1 fun a _ _ => aluShr a (immOf x.imm)) s

/-- SRA (R192). -/
def execSra (x : RWord) (s : State) : Host.Outcome State Fault Refusal :=
  run (scalarWord x.guard x.d x.a x.b 0 1 fun a b _ => aluSra a b) s

/-- SRA with an immediate (R103, R193). -/
def execSraI (x : IWord) (s : State) : Host.Outcome State Fault Refusal :=
  run (scalarWord x.guard x.d x.a 0 0 1 fun a _ _ => aluSra a (immOf x.imm)) s

/-- ROL (R192). -/
def execRol (x : RWord) (s : State) : Host.Outcome State Fault Refusal :=
  run (scalarWord x.guard x.d x.a x.b 0 1 fun a b _ => aluRol a b) s

/-- ROL with an immediate (R103, R193). -/
def execRolI (x : IWord) (s : State) : Host.Outcome State Fault Refusal :=
  run (scalarWord x.guard x.d x.a 0 0 1 fun a _ _ => aluRol a (immOf x.imm)) s

/-- MULH (R192). -/
def execMulh (x : RWord) (s : State) : Host.Outcome State Fault Refusal :=
  run (scalarWord x.guard x.d x.a x.b 0 3 fun a b _ => aluMulh x.sub.toNat a b) s

/-- MULH with an immediate (R193). -/
def execMulhI (x : IWord) (s : State) : Host.Outcome State Fault Refusal :=
  run (scalarWord x.guard x.d x.a 0 0 3 fun a _ _ => aluMulh x.sub.toNat a (immOf x.imm)) s

/-- DIV (R192). -/
def execDiv (x : RWord) (s : State) : Host.Outcome State Fault Refusal :=
  run (divWord x.guard x.d x.a x.b none aluDiv) s

/-- DIV with an immediate (R193). -/
def execDivI (x : IWord) (s : State) : Host.Outcome State Fault Refusal :=
  run (divWord x.guard x.d x.a 0 (some (immOf x.imm)) aluDiv) s

/-- DIVW (R192). -/
def execDivw (x : RWord) (s : State) : Host.Outcome State Fault Refusal :=
  run (divWord x.guard x.d x.a x.b none aluDivw) s

/-- DIVW with an immediate (R193). -/
def execDivwI (x : IWord) (s : State) : Host.Outcome State Fault Refusal :=
  run (divWord x.guard x.d x.a 0 (some (immOf x.imm)) aluDivw) s

/-- REM (R192). -/
def execRem (x : RWord) (s : State) : Host.Outcome State Fault Refusal :=
  run (divWord x.guard x.d x.a x.b none aluRem) s

/-- REM with an immediate (R193). -/
def execRemI (x : IWord) (s : State) : Host.Outcome State Fault Refusal :=
  run (divWord x.guard x.d x.a 0 (some (immOf x.imm)) aluRem) s

/-- REMW (R192). -/
def execRemw (x : RWord) (s : State) : Host.Outcome State Fault Refusal :=
  run (divWord x.guard x.d x.a x.b none aluRemw) s

/-- REMW with an immediate (R193). -/
def execRemwI (x : IWord) (s : State) : Host.Outcome State Fault Refusal :=
  run (divWord x.guard x.d x.a 0 (some (immOf x.imm)) aluRemw) s

/-- MIN (R192). -/
def execMin (x : RWord) (s : State) : Host.Outcome State Fault Refusal :=
  run (scalarWord x.guard x.d x.a x.b 0 1 fun a b _ => aluMin a b) s

/-- MAX (R192). -/
def execMax (x : RWord) (s : State) : Host.Outcome State Fault Refusal :=
  run (scalarWord x.guard x.d x.a x.b 0 1 fun a b _ => aluMax a b) s

/-- MINW (R192). -/
def execMinw (x : RWord) (s : State) : Host.Outcome State Fault Refusal :=
  run (scalarWord x.guard x.d x.a x.b 0 1 fun a b _ => aluMinw a b) s

/-- MAXW (R192). -/
def execMaxw (x : RWord) (s : State) : Host.Outcome State Fault Refusal :=
  run (scalarWord x.guard x.d x.a x.b 0 1 fun a b _ => aluMaxw a b) s

/-- CLZ (R192). -/
def execClz (x : RWord) (s : State) : Host.Outcome State Fault Refusal :=
  run (scalarWord x.guard x.d x.a 0 0 1 fun a _ _ => aluClz a) s

/-- CTZ (R192). -/
def execCtz (x : RWord) (s : State) : Host.Outcome State Fault Refusal :=
  run (scalarWord x.guard x.d x.a 0 0 1 fun a _ _ => aluCtz a) s

/-- POPC (R192). -/
def execPopc (x : RWord) (s : State) : Host.Outcome State Fault Refusal :=
  run (scalarWord x.guard x.d x.a 0 0 1 fun a _ _ => aluPopc a) s

/-- SEXT (R192). -/
def execSext (x : RWord) (s : State) : Host.Outcome State Fault Refusal :=
  run (scalarWord x.guard x.d x.a 0 0 1 fun a _ _ => aluSext x.c.toNat a) s

/-- ZEXT (R192). -/
def execZext (x : RWord) (s : State) : Host.Outcome State Fault Refusal :=
  run (scalarWord x.guard x.d x.a 0 0 1 fun a _ _ => aluZext x.c.toNat a) s

/-- MOV (R192). -/
def execMov (x : RWord) (s : State) : Host.Outcome State Fault Refusal :=
  run (scalarWord x.guard x.d x.a 0 0 1 fun a _ _ => a) s

/-- SEL (R192): A when C is not 0, else B. -/
def execSel (x : RWord) (s : State) : Host.Outcome State Fault Refusal :=
  run (scalarWord x.guard x.d x.a x.b x.c 1 fun a b c => if c = 0 then b else a) s

/-- BEXT (R195). -/
def execBext (x : RWord) (s : State) : Host.Outcome State Fault Refusal :=
  run (scalarWord x.guard x.d x.a 0 0 1 fun a _ _ => aluBext (x.b.toNat + 1) x.c.toNat a) s

/-- BINS (R195): D is read as a source. -/
def execBins (x : RWord) (s : State) : Host.Outcome State Fault Refusal :=
  run (do
    let on ← guardOn x.guard
    let a ← source on x.a
    if on then do
      let d ← readReg x.d.toNat
      writeReg x.d.toNat (aluBins (x.b.toNat + 1) x.c.toNat d a) 1
    else pure ()
    advance) s

/-- BSET (R195). -/
def execBset (x : RWord) (s : State) : Host.Outcome State Fault Refusal :=
  run (scalarWord x.guard x.d x.a (if x.sub = 0 then 0 else x.b) 0 1 fun a b _ =>
    let q := bitChoice x.sub.toNat x.c.toNat b
    a ||| (1#64 <<< q)) s

/-- BCLR (R195). -/
def execBclr (x : RWord) (s : State) : Host.Outcome State Fault Refusal :=
  run (scalarWord x.guard x.d x.a (if x.sub = 0 then 0 else x.b) 0 1 fun a b _ =>
    let q := bitChoice x.sub.toNat x.c.toNat b
    a &&& ~~~(1#64 <<< q)) s

/-- BTGL (R195). -/
def execBtgl (x : RWord) (s : State) : Host.Outcome State Fault Refusal :=
  run (scalarWord x.guard x.d x.a (if x.sub = 0 then 0 else x.b) 0 1 fun a b _ =>
    let q := bitChoice x.sub.toNat x.c.toNat b
    a ^^^ (1#64 <<< q)) s

/-- CMPEQ (R194). -/
def execCmpeq (x : RWord) (s : State) : Host.Outcome State Fault Refusal :=
  run (compareWord x.guard x.d x.a x.b x.c.toNat x.sub.toNat 1 fun a b => a == b) s

/-- CMPNE (R194). -/
def execCmpne (x : RWord) (s : State) : Host.Outcome State Fault Refusal :=
  run (compareWord x.guard x.d x.a x.b x.c.toNat x.sub.toNat 1 fun a b => a != b) s

/-- CMPLT (R194). -/
def execCmplt (x : RWord) (s : State) : Host.Outcome State Fault Refusal :=
  run (compareWord x.guard x.d x.a x.b x.c.toNat x.sub.toNat 1 fun a b => decide (a.toInt < b.toInt)) s

/-- CMPLTW (R194). -/
def execCmpltw (x : RWord) (s : State) : Host.Outcome State Fault Refusal :=
  run (compareWord x.guard x.d x.a x.b x.c.toNat x.sub.toNat 1 fun a b => decide (a.toNat < b.toNat)) s

/-- CMPLE (R194). -/
def execCmple (x : RWord) (s : State) : Host.Outcome State Fault Refusal :=
  run (compareWord x.guard x.d x.a x.b x.c.toNat x.sub.toNat 1 fun a b => decide (a.toInt ≤ b.toInt)) s

/-- CMPLEW (R194). -/
def execCmplew (x : RWord) (s : State) : Host.Outcome State Fault Refusal :=
  run (compareWord x.guard x.d x.a x.b x.c.toNat x.sub.toNat 1 fun a b => decide (a.toNat ≤ b.toNat)) s

/-- MOVI (R193): sign-extended, or zero-extended under SUB 1. -/
def execMovi (x : IWord) (s : State) : Host.Outcome State Fault Refusal :=
  run (scalarWord x.guard x.d 0 0 0 1 fun _ _ _ => if x.sub = 1 then x.imm.setWidth 64 else immOf x.imm) s

/-- MOVHI (R193): the upper half set, D read as a source. -/
def execMovhi (x : IWord) (s : State) : Host.Outcome State Fault Refusal :=
  run (do
    let on ← guardOn x.guard
    if on then do
      let d ← readReg x.d.toNat
      writeReg x.d.toNat ((x.imm ++ d.setWidth 32 : BitVec 64)) 1
    else pure ()
    advance) s

/-- The effective address of R91. -/
def effAddr (base index : W64) (x : MWord) : W64 := base + (index <<< x.scale.toNat) + immOf x.disp

/-- LEA (R196): the effective address, with no access. -/
def execLea (x : MWord) (s : State) : Host.Outcome State Fault Refusal :=
  run (scalarWord x.guard x.data 0 x.base x.index 1 fun _ b i => effAddr b i x) s

end Sys2Proof.Machine
end

