-- ==== Sys2Proof/Machine/Snapshot.lean ====
section
/-!
DEFINITION. The common trigger and the snapshot registers (R446 to R448).
-/
namespace Sys2Proof.Machine

/-- The trigger sources of R446 in SNAPCTL's bit order: BRK, counter, nh.trig, TRIG_IN. -/
def srcBrk : Nat := 0
/-- The counter. -/
def srcCounter : Nat := 1
/-- nh.trig. -/
def srcTrig : Nat := 2
/-- The pin TRIG_IN. -/
def srcPin : Nat := 3

/-- Whether a trigger of a source would latch: armed, enabled, nothing held or pending from an earlier cycle (R446). -/
def State.trigLatches (s : State) (src : Nat) : Bool :=
  s.ctl.snapCtl.getLsbD 0 && s.ctl.snapCtl.getLsbD (8 + src) && !s.ctl.snapCtl.getLsbD 1 &&
    match s.ctl.snapDue with
    | none => true
    | some (c, _, _, _) => c == s.now

/-- A trigger fires on a die (8: an I/O die, or every die alike) with a tag (R446). -/
def State.fireTrigger (s : State) (src die tag : Nat) : State :=
  if s.trigLatches src then
    let due := match s.ctl.snapDue with
      | none => (s.now, [die], 2 ^ src, tag)
      | some (c, ds, m, t) => (c, ds ++ [die], m ||| 2 ^ src, if src = srcTrig then tag else t)
    { s with ctl := { s.ctl with snapDue := some due } }
  else if s.ctl.snapCtl.getLsbD 1 && s.ctl.snapCtl.getLsbD (8 + src) && bitsOf s.ctl.snapCtl 31 16 != 0xFFFF then
    { s with ctl := { s.ctl with snapCtl := s.ctl.snapCtl + BitVec.ofNat 64 65536 } }
  else s

/-- The eight dwords of a core's snapshot (R448). -/
def Core.snapshot (co : Core) (cmdsUnit cmdsWalk cmdsRow : Nat) : List W64 :=
  (Engine.all.map fun e =>
    let idle := ((co.cur[e.tag]?).join).isNone
    let held := co.slots.any (·.isSome)
    match ((co.cur[e.tag]?).join).bind fun k => ((co.slots[k]?).join).map fun x => (k, x.eng e) with
    | some (k, en) => BitVec.ofNat 64 (en.pc.toNat * 2 ^ 32 + en.pos.toNat % 65536 * 2 ^ 16 + k * 16 +
        (if en.halted then 8 else 0) + (if (co.stalled[e.tag]?).getD false then 2 else 0) + (if held then 1 else 0))
    | none => BitVec.ofNat 64 ((if idle then 4 else 0) + (if held then 1 else 0))) ++
  [BitVec.ofNat 64 (min cmdsUnit 7 + min cmdsWalk 7 * 8 + min cmdsRow 7 * 64), 0, 0]

/-- A die's snapshot dword (R448). -/
def Die.snapshot (d : Die) : W64 :=
  BitVec.ofNat 64 ((d.copies.filter (·.isSome)).length + min (d.walks.length + d.zeroing.length) 32 * 2 ^ 16 +
    d.pool64.length * 2 ^ 22 + d.pool2m.length * 2 ^ 35)

end Sys2Proof.Machine
end

