-- ==== Sys2Proof/Machine/Fetch.lean ====
section
/-!
DEFINITION. Reading program text (R79 to R83, R170): the bytes at a text offset through the instruction cache, headers,
words, and the check of a branch's target.
-/
namespace Sys2Proof.Machine

/-- A launch's text: virtual address and length (R120). -/
def Launch.textVa (l : Launch) : Nat := bitsOf l.record 63 0
/-- Its length. -/
def Launch.textLen (l : Launch) : Nat := bitsOf l.record 95 64

/-- The length of the text the issuing engine runs: its launch's, or the assist image's (R425). -/
def textLen : M Nat := do
  let h ← here
  let s ← get
  if h.asst then pure s.boot.assistText.length
  else pure (((s.launch? h.ctx.lid).map Launch.textLen).getD 0)

/-- The line of an address in a core's instruction cache (R170). -/
def Core.line? (co : Core) (asid line : Nat) : Option ILine := co.icache.find? fun l => l.asid == asid && l.va == line

/-- The bytes of a line of the instruction cache; one with an error that cannot be corrected traps at the fetched position (R424). -/
def lineBytes (l : ILine) : M (List Byte) := if l.bad then raise { cause := 13, sub := 3 } else pure l.bytes

/-- `n` bytes of text (at most 64) at an offset: each line from the cache, or a request for the first that is missing. -/
def textBytes (off n : Nat) : M (List Byte) := do
  let h ← here
  let s ← get
  if h.asst then pure ((s.boot.assistText.drop off).take n)
  else
    let va := ((s.launch? h.ctx.lid).map Launch.textVa).getD 0 + off
    let asid := asidOf h.ctx.lid
    match s.cores[h.c]? with
    | none => stall
    | some co =>
      let l0 := va / 64 * 64
      match co.line? asid l0 with
      | none => throw (.fetch asid l0)
      | some a => do
        let bs ← lineBytes a
        if va % 64 + n ≤ 64 then pure ((bs.drop (va % 64)).take n)
        else match co.line? asid (l0 + 64) with
          | none => throw (.fetch asid (l0 + 64))
          | some b => do
            let cs ← lineBytes b
            pure (((bs ++ cs).drop (va % 64)).take n)

/-- A section header's fields (R80). -/
structure Header where
  eng    : Nat
  len    : Nat
  waits  : List (BitVec 10)
  retire : Nat
  resv   : Nat
deriving DecidableEq, Repr

/-- The header of 64 bits (R80). -/
def headerOf (w : W64) : Header :=
  { eng := bitsOf w 63 61, len := bitsOf w 60 50,
    waits := [BitVec.ofNat 10 (bitsOf w 49 40), BitVec.ofNat 10 (bitsOf w 39 30), BitVec.ofNat 10 (bitsOf w 29 20),
              BitVec.ofNat 10 (bitsOf w 19 10)],
    retire := bitsOf w 9 8, resv := bitsOf w 7 0 }

/-- R82: whether a header at an offset is malformed in a text of a length. -/
def Header.malformed (hd : Header) (off len : Nat) : Bool :=
  decide (5 ≤ hd.eng) || decide (2 ≤ hd.retire) || hd.resv != 0 || decide (len < off + 8 + 12 * hd.len)

/-- The 64 bits of the header at an offset. -/
def headerAt (off : Nat) : M W64 := do
  let b ← textBytes off 8
  pure (BitVec.ofNat 64 (leNum b))

/-- The 96 bits of the word at an offset. -/
def wordAt (off : Nat) : M W96 := do
  let b ← textBytes off 12
  pure (BitVec.ofNat 96 (leNum b))

/-- The malformed-text trap. -/
def malformedText {α : Type} : M α := raise { cause := 3 }

/-- R83: the check of a branch target, before the branch has any effect. -/
def checkTarget (tgt : BitVec 32) : M Unit := do
  let h ← here
  let len ← textLen
  if tgt.toNat % 4 ≠ 0 ∨ len < tgt.toNat + 8 then malformedText
  else do
    let w ← headerAt tgt.toNat
    if (headerOf w).eng = h.e.tag then pure () else malformedText

end Sys2Proof.Machine
end

