-- ==== Sys2Proof/Machine/Control.lean ====
section
/-!
DEFINITION. The control words common to the engines (R172 to R181, R185): branches, LOOP, YIELD, HALT, TRAP, WSEC, BRK and
the push to another engine's inbound queue.
-/
namespace Sys2Proof.Machine

/-- The text offset of the current section's header. -/
def Here.hdr (h : Here) : Nat := ((h.eng.sect).map (·.hdr)).getD 0
/-- The length of the current section. -/
def Here.slen (h : Here) : Nat := ((h.eng.sect).map (·.len)).getD 0
/-- The index of the issuing word in its section. -/
def Here.widx (h : Here) : Nat := ((h.eng.sect).map (·.widx)).getD 0
/-- POS as it was when the engine entered the current section (R180). -/
def Here.secN (h : Here) : BitVec 32 := ((h.eng.sect).map (·.n)).getD 0

/-- The section finishes and the engine goes on at `tgt`, its next header cycle two cycles on (R163, R172). -/
def jumpTo (tgt : BitVec 32) : M Unit := do
  let s ← get
  modEng fun en => { en.finish with pc := tgt, ready := s.now + 2 }

/-- The target of a J-format word (R93, R173). -/
def branchTarget (h : Here) (off : BitVec 32) : BitVec 32 := BitVec.ofNat 32 h.hdr + off

/-- NOP (R174). -/
def execNop (x : IWord) (s : State) : Host.Outcome State Fault Refusal :=
  run (do
    let _ ← guardOn x.guard
    advance) s

/-- BR (R173). -/
def execBr (x : JWord) (s : State) : Host.Outcome State Fault Refusal :=
  run (do
    let on ← guardOn x.guard
    let h ← here
    if on then do
      checkTarget (branchTarget h x.off)
      jumpTo (branchTarget h x.off)
    else advance) s

/-- The test of R93 on a 64-bit value. -/
def branchTest (v : W64) (bit cond : Nat) : Bool :=
  match cond with
  | 0 => v.getLsbD bit
  | 1 => !v.getLsbD bit
  | 2 => v == 0
  | 3 => v != 0
  | 4 => v.msb
  | _ => !v.msb

/-- The low 64 bits of a vector register, or a scalar register, as TREG names it (R93). -/
def testReg (r : Nat) : M W64 := do
  let h ← here
  let s ← get
  if h.e = .V then do
    require (!h.eng.isBusy s.now r)
    pure (((h.ctx.vregs[r]?).getD 0).setWidth 64)
  else readReg r

/-- BRC (R173). -/
def execBrc (x : JWord) (s : State) : Host.Outcome State Fault Refusal :=
  run (do
    let on ← guardOn x.guard
    let h ← here
    if on then do
      let v ← testReg x.treg.toNat
      if branchTest v x.tbit.toNat x.cond.toNat then do
        checkTarget (branchTarget h x.off)
        jumpTo (branchTarget h x.off)
      else advance
    else advance) s

/-- CALL (R173): the malformed target ranks before the call depth (R406). -/
def execCall (x : JWord) (s : State) : Host.Outcome State Fault Refusal :=
  run (do
    let on ← guardOn x.guard
    let h ← here
    if on then do
      checkTarget (branchTarget h x.off)
      if 8 ≤ h.eng.stack.length then formatTrap 3
      else do
        modEng fun en => { en with stack := en.stack ++ [BitVec.ofNat 32 (h.hdr + 8 + 12 * h.slen)] }
        jumpTo (branchTarget h x.off)
    else advance) s

/-- RET (R175). -/
def execRet (x : IWord) (s : State) : Host.Outcome State Fault Refusal :=
  run (do
    let on ← guardOn x.guard
    let h ← here
    if on then
      match h.eng.stack.getLast? with
      | none => formatTrap 3
      | some t => do
        modEng fun en => { en with stack := en.stack.dropLast }
        jumpTo t
    else advance) s

/-- LSET (R176): the count operand is popped even when the word is guarded off. -/
def execLset (x : IWord) (s : State) : Host.Outcome State Fault Refusal :=
  run (do
    let on ← guardOn x.guard
    let v ← countOf on x.a
    if on then modEng fun en => { en with cnt := en.cnt.set x.sub.toNat (v.setWidth 32 + x.imm) } else pure ()
    advance) s

/-- The copy queue a word names, by the one-queue rule at its decode (R277). -/
def oneQueue (q : Nat) : M Unit := do
  let h ← here
  match h.eng.sect with
  | none => pure ()
  | some sc =>
    match sc.copyQ with
    | none => modEng fun en => { en with sect := some { sc with copyQ := some q } }
    | some p => if p = q then pure () else illegal

/-- The copy queue a word of X names (R277). -/
def copyQueueOf : Instr → Option Nat
  | .cpy x => some (bitsOf x.cmd 33 31)
  | .cpyf f => some (bitsOf f.word.cmd 33 31)
  | .cpyz x => some (bitsOf x.cmd 33 31)
  | .sort x => some (bitsOf x.cmd 33 31)
  | .sortk x => some (bitsOf x.cmd 33 31)
  | .qjoin x => some (bitsOf x.cmd 33 31)
  | _ => none

/-- Whether a modifier may stand before a word of an engine (R97). -/
def modifierFits (e : Engine) (p : PWord) (next : W96) : Bool :=
  match decode e next 0 with
  | .ok i => modifierOk p i
  | .bad .carried => decide (p.order.toNat < 5)
  | .bad _ => false

/-- What decoding a LOOP's body finds (R178): the copy queues its words name (R277), whether a word is illegal there, whether the groups
of one overlap. -/
structure BodyCheck where
  queues  : List Nat := []
  illegal : Bool := false
  overlap : Bool := false
deriving DecidableEq, Repr

/-- A legal word before the rest of a body, with the copy queue it names. -/
def BodyCheck.word (i : Instr) (r : BodyCheck) : BodyCheck := { r with queues := (copyQueueOf i).toList ++ r.queues }

/-- The decode checks of a body's words in turn, `n` bounding them (R177, R178, R97, R108): each word, the forbidden ones, the last one. -/
def bodyCheck (e : Engine) : Nat → List W96 → BodyCheck
  | 0, _ => {}
  | _ + 1, [] => {}
  | n + 1, w :: rest =>
    match decode e w (rest.headD 0) with
    | .bad .overlap =>
      { bodyCheck e n (match rowOf e w with | some r => (match r.build w 0 with | .cpyf _ => rest.tail | _ => rest) | none => rest) with overlap := true }
    | .bad _ => { illegal := true }
    | .ok (.memModifier p) => if rest != [] && modifierFits e p (rest.headD 0) then bodyCheck e n rest else { illegal := true }
    | .ok (.cpyf f) => if rest == [] then { illegal := true } else (bodyCheck e n rest.tail).word (.cpyf f)
    | .ok i => if forbiddenInBody i then { illegal := true } else (bodyCheck e n rest).word i

/-- `n` words of a section from word `w` on, out of the text. -/
def bodyWords (base : Nat) : Nat → Nat → M (List W96)
  | 0, _ => pure []
  | n + 1, w => do
    let b ← wordAt (base + 12 * w)
    let rest ← bodyWords base n (w + 1)
    pure (b :: rest)

/-- The decode checks a LOOP makes of its body, whose words fill the loop buffer (R171, R177, R178): illegal-instruction ranks before
overlap (R406), the one-queue rule is among its causes (R277). -/
def checkBody (e : Engine) (base n w : Nat) : M (List W96) := do
  let ws ← bodyWords base n w
  let r := bodyCheck e n ws
  if r.illegal then illegal
  else do
    r.queues.forM oneQueue
    if r.overlap then raise { cause := 2 } else pure ws

/-- LOOP (R177, R178): the body's checks come whatever the guard; then the first iteration, or past the body. -/
def execLoop (x : IWord) (s : State) : Host.Outcome State Fault Refusal :=
  run (do
    let h ← here
    let nd := x.sub.toNat % 8 + 1
    let len := x.imm.toNat % 64
    if h.slen ≤ h.widx + len then illegal
    else do
      let ws ← checkBody h.e (h.hdr + 8) len (h.widx + 1)
      let on ← guardOn x.guard
      let s ← get
      let total := loopTotal h.eng.cnt nd
      if on && total != 0 then do
        require (x.d = 0 || (List.range nd).all fun j => !h.eng.isBusy s.now (x.d.toNat + j))
        setLoop { word := h.widx, len := len, nd := nd, d := x.d.toNat, iter := 0, total := total,
                  idx := loopIndices h.eng.cnt nd 0, body := ws, lag := false }
        modEng fun en => { en with dv := false }
        modEng (·.goto (h.widx + 1))
      else advance (len + 1)) s

/-- YIELD (R174): a switch point; the engine goes on with the next word. -/
def execYield (x : IWord) (s : State) : Host.Outcome State Fault Refusal :=
  run (do
    let on ← guardOn x.guard
    advance
    if on then modEng fun en => { en with yielded := true } else pure ()) s

/-- HALT (R165, R174): the section finishes, the engine halts, a switch point. -/
def execHalt (x : IWord) (s : State) : Host.Outcome State Fault Refusal :=
  run (do
    let on ← guardOn x.guard
    if on then modEng fun en => { en.finish with halted := true, yielded := true } else advance) s

/-- TRAP (R179): the engine stands after the word; the record carries IMM32 and val(A). Where an engine of a lower tag trapped in
the same cycle, the word stands, its queue operand not popped, and traps again when it re-executes (R409). -/
def execTrap (x : IWord) (s : State) : Host.Outcome State Fault Refusal :=
  run (do
    let s0 ← get
    let on ← guardOn x.guard
    let v ← countOf on x.a
    let h ← here
    let t : TrapReq := { cause := 16, info1 := x.imm, info2 := v }
    if on && h.ctx.trap.any (·.eng.tag < h.e.tag) then set (s0.raise t)
    else if on then do
      advance
      modify (·.raise t)
    else advance) s

/-- A count compared as R162 compares: the signed 32-bit difference. -/
def reached (have_ need : BitVec 32) : Bool := decide (0 ≤ (have_ - need).toInt)

/-- WSEC (R180). -/
def execWsec (x : IWord) (s : State) : Host.Outcome State Fault Refusal :=
  run (do
    let on ← guardOn x.guard
    let v ← countOf on x.a
    let h ← here
    if on then
      match Engine.ofTag x.sub.toNat with
      | none => illegal
      | some f =>
        let en := h.ctx.eng f
        require (en.dropped || reached en.rc (h.secN + (v.setWidth 32 + x.imm) + 1))
    else pure ()
    advance) s

/-- BRK (R181): the breakpoint trap at the word, and the trigger it fires (R446). -/
def execBrk (_ : BitVec 88) (s : State) : Host.Outcome State Fault Refusal :=
  run (do
    let h ← here
    modify fun s => (s.raise { cause := 15 }).fireTrigger srcBrk (dieOf h.c) 0) s

/-- SQPUSH (R184, R185): the guard has no effect; the entry reaches its queue two cycles on, when there is room. -/
def execSqpush (x : RWord) (s : State) : Host.Outcome State Fault Refusal :=
  run (do
    let v ← source true x.a
    let h ← here
    let s ← get
    let q := inqIndex x.sub.toNat h.e.tag
    if ((h.ctx.inqs[q]?).getD []).length + (h.ctx.inpush.filter fun p => p.dst == x.sub.toNat && p.src == h.e.tag).length < 8 then pure ()
    else throw (.later x.sub.toNat)
    modCtx fun c => { c with inpush := c.inpush ++ [{ dst := x.sub.toNat, src := h.e.tag, due := s.now + 2, val := v }] }
    advance) s

end Sys2Proof.Machine
end

