-- ==== Sys2Proof/Machine/LoadStore.lean ====
section
/-!
DEFINITION. LD, ST, the atomics and PLD (R201, R265 to R268): the checks before any access, the accesses issued, and what a
word that must wait for its answer does.
-/
namespace Sys2Proof.Machine

/-- What a memory word asks for; `wi` is the interval number its agent is at (R401). -/
structure MemReq where
  kind   : AccKind
  va     : W64
  size   : Nat
  data   : List Byte
  dest   : Nat
  signed : Bool
  mods   : Mods
  wait   : Bool
  wi     : Nat := 0

/-- The accesses of a request, one for each part, numbered from `id` (R266). -/
def accessesOf (r : MemReq) (agent : Agent) (die : Nat) (who : Waiter) (precise : Bool) (sect word id : Nat) :
    Nat → List (Nat × Nat × AccHome × Nat) → List Access
  | _, [] => []
  | n, (pa, len, home, ofs) :: rest =>
    { id := id + n, group := id, ofs := ofs, total := r.size, agent := agent, die := die, who := who, kind := r.kind,
      home := home, va := r.va + BitVec.ofNat 64 ofs, pa := pa, size := len, data := (r.data.drop ofs).take len,
      mods := r.mods, dest := r.dest, signed := r.signed, precise := precise, performed := false, answer := [], fail := none,
      sent := false, sect := sect, word := word, wi := r.wi } :: accessesOf r agent die who precise sect word id (n + 1) rest

/-- The bytes of a value of `n` bytes. -/
def storeBytes (v : W64) (n : Nat) : List Byte := leBytes v.toNat n

/-- A loaded number of `n` bytes in a register (R267). -/
def loadValue (v n : Nat) (signed : Bool) : W64 :=
  if signed then wrapTo 64 (BitVec.ofNat (8 * n) v).toInt else BitVec.ofNat 64 v

/-- The first uncorrectable line a request of an agent on a die would consume (R424). -/
def State.badLine (s : State) (die : Nat) (kind : AccKind) (ps : List (Nat × Nat × AccHome × Nat)) : Option (Nat × Nat) :=
  if !kind.reads then none
  else s.bad.find? fun (sub, l) => decide (sub ≤ 1) && ps.any fun (pa, _, home, _) => (match home, kind with
    | .mirror _, .load => replica die pa
    | .mirror q, _ => replica q pa
    | _, _ => pa) / 64 == l

/-- How many loads and atomics the engine of a waiter has outstanding, in whichever contexts (R266). -/
def State.outstanding (s : State) (who : Waiter) : Nat :=
  (s.accs.filter fun a => a.kind.reads && a.ofs == 0 && match who, a.who with
    | .engine c _ e, .engine d _ f => c == d && e == f
    | _, _ => false).length

/-- How many writes the agents of a die have issued that are not performed (R387). -/
def State.writesAhead (s : State) (die : Nat) : Nat := (s.accs.filter fun a => a.die == die && a.kind.writes && !a.performed && !a.sent).length

/-- A request issued by the engine at `h` from the state `s0` its word began in (R265, R266). One that must wait for its
answer (a peer, a word in race mode check, one that meets an uncorrectable line, a table word) holds its word: nothing of it takes effect
until then. A write stalls while its die's counter would come to lead too far (R387). -/
def memIssue (h : Here) (s0 : State) (r : MemReq) (fin : List W64 → M Unit) : M Unit := do
  match h.eng.req with
  | .wait _ => stall
  | .answer true d => do
    modEng fun en => { en with req := .none }
    fin d
  | .answer false d =>
    raise { cause := ((d[0]?).getD 0).toNat, sub := ((d[1]?).getD 0).toNat, va := r.va, info2 := (d[2]?).getD 0 }
  | .none => do
    let die := dieOf h.c
    let who := Waiter.engine h.c h.k h.e
    let agent : Agent := { code := agentCode h.e.tag h.k 0 h.c, lid := h.ctx.lid }
    let s ← get
    match s.find die (some h.c) (asidOf h.ctx.lid) r.va r.size r.kind.code with
    | .stop t => raise t
    | .miss mirror off va =>
      throw (.walk die { asid := asidOf h.ctx.lid, mirror := mirror, off := off, va := va, kind := r.kind.code,
                         lid := h.ctx.lid, agent := agent.code, waiters := [who] })
    | .posted va cause sub psize info =>
      throw (.posted die cause sub { asid := asidOf h.ctx.lid, mirror := false, off := 0, va := va, kind := r.kind.code,
                                     lid := h.ctx.lid, agent := agent.code, waiters := [who] } psize info)
    | .peer pkg off => do
      require (!r.kind.reads || decide (s.outstanding who < 16))
      set s0
      modify fun s => { s with accs := s.accs ++ accessesOf r agent die who true h.secN.toNat h.widx s.nextId 0
                                         [(off, r.size, .peer pkg, 0)],
                               nextId := s.nextId + 1 }
      modEng fun en => { en with req := .wait s.nextId }
    | .parts ps =>
      require (!r.kind.reads || decide (s.outstanding who < 16))
      require (!r.kind.writes || s.leadRoom die (s.writesAhead die + 1))
      let precise := r.wait || h.asst || r.mods.race == 1 || (s.badLine die r.kind ps).isSome
      if precise then do
        set s0
        modify fun s => { s with accs := s.accs ++ accessesOf r agent die who true h.secN.toNat h.widx s.nextId 0 ps,
                                 nextId := s.nextId + ps.length }
        modEng fun en => { en with req := .wait s.nextId }
      else do
        require (!r.kind.reads || r.dest == 0 || !h.eng.isBusy s.now r.dest)
        modify fun s => { s with accs := s.accs ++ accessesOf r agent die who false h.secN.toNat h.widx s.nextId 0 ps,
                                 nextId := s.nextId + ps.length }
        if r.kind.reads && r.dest != 0 then modEng fun en => { en with busy := (r.dest, never) :: en.busy } else pure ()
        advance

/-- The loaded value of an answer goes to its register, and the word is done. -/
def finishLoad (dest size : Nat) (signed : Bool) (d : List W64) : M Unit := do
  writeReg dest (loadValue (((d[0]?).getD 0).toNat) size signed) 1
  advance

/-- The access size of an M-format word (R91), and whether it signs. -/
def mSize (x : MWord) : Nat := 2 ^ (x.size.toNat % 4)
/-- SGN. -/
def mSigned (x : MWord) : Bool := x.size.getLsbD 2

/-- LD (R265 to R267). -/
def execLd (x : MWord) (s : State) : Host.Outcome State Fault Refusal :=
  run (do
    let s0 ← get
    let on ← guardOn x.guard
    let b ← source on x.base
    let i ← source on x.index
    if on then do
      let h ← here
      let mods ← modsHere 0
      memIssue h s0 { kind := .load, va := effAddr b i x, size := mSize x, data := [], dest := x.data.toNat,
                      signed := mSigned x, mods := mods, wait := false, wi := h.eng.interval.toNat } (finishLoad x.data.toNat (mSize x) (mSigned x))
    else advance) s

/-- ST (R265 to R267). -/
def execSt (x : MWord) (s : State) : Host.Outcome State Fault Refusal :=
  run (do
    let s0 ← get
    let on ← guardOn x.guard
    let v ← source on x.data
    let b ← source on x.base
    let i ← source on x.index
    if on then do
      let h ← here
      let mods ← modsHere 1
      memIssue h s0 { kind := .store, va := effAddr b i x, size := mSize x, data := storeBytes v (mSize x), dest := 0,
                      signed := false, mods := mods, wait := false, wi := h.eng.interval.toNat } (fun _ => advance)
    else advance) s

/-- An atomic (R265, R268): INDEX is the operand, DATA receives the old value and for ACAS names the expected one. -/
def atomicWord (op : Nat) (x : MWord) : M Unit := do
  let s0 ← get
  let on ← guardOn x.guard
  let b ← source on x.base
  let v ← source on x.index
  if on then do
    let e ← readReg x.data.toNat
    let h ← here
    let mods ← modsHere 2
    let va := b + immOf x.disp
    let n := mSize x
    if va.toNat % n ≠ 0 then raise { cause := 5, va := va }
    else
      memIssue h s0 { kind := .atomic op (mSigned x) (BitVec.ofNat 64 (e.toNat % 2 ^ (8 * n))), va := va, size := n,
                      data := storeBytes v n, dest := x.data.toNat, signed := false, mods := mods, wait := false, wi := h.eng.interval.toNat }
        (finishLoad x.data.toNat n false)
  else advance

/-- AADD (R268). -/
def execAadd (x : MWord) (s : State) : Host.Outcome State Fault Refusal := run (atomicWord 0 x) s
/-- AAND (R268). -/
def execAand (x : MWord) (s : State) : Host.Outcome State Fault Refusal := run (atomicWord 1 x) s
/-- AOR (R268). -/
def execAor (x : MWord) (s : State) : Host.Outcome State Fault Refusal := run (atomicWord 2 x) s
/-- AXOR (R268). -/
def execAxor (x : MWord) (s : State) : Host.Outcome State Fault Refusal := run (atomicWord 3 x) s
/-- AMIN (R268). -/
def execAmin (x : MWord) (s : State) : Host.Outcome State Fault Refusal := run (atomicWord 4 x) s
/-- AMAX (R268). -/
def execAmax (x : MWord) (s : State) : Host.Outcome State Fault Refusal := run (atomicWord 5 x) s
/-- AXCHG (R268). -/
def execAxchg (x : MWord) (s : State) : Host.Outcome State Fault Refusal := run (atomicWord 6 x) s
/-- ACAS (R268). -/
def execAcas (x : MWord) (s : State) : Host.Outcome State Fault Refusal := run (atomicWord 7 x) s

/-- The accepted parameter block's bytes, zero at or beyond PBLEN (R127). -/
def Launch.pbBytes (l : Launch) (off n : Nat) : List Byte :=
  (List.range n).map fun i => if off + i < bitsOf l.record 127 96 then (l.pblock[off + i]?).getD 0 else 0

/-- PLD (R201): bytes of the accepted parameter block; result after 8 cycles (R183). -/
def execPld (x : MWord) (s : State) : Host.Outcome State Fault Refusal :=
  run (do
    let on ← guardOn x.guard
    let b ← source on x.base
    let i ← source on x.index
    if on then do
      let l ← launchHere
      let off := (effAddr b i x).toNat
      let n := mSize x
      if off % n ≠ 0 then formatTrap
      else do
        let v := leNum ((l.map (·.pbBytes off n)).getD [])
        writeReg x.data.toNat (loadValue v n (mSigned x)) 8
        advance
    else advance) s

/-- The memory-modifier word (R96, R97): it and the next word are one unit; the next word takes its fields. -/
def execMemModifier (x : PWord) (s : State) : Host.Outcome State Fault Refusal :=
  run (do
    advance
    modEng fun en => { en with modifier := some x }) s

end Sys2Proof.Machine
end

