-- ==== Sys2Proof/Machine/Tiles.lean ====
section
/-!
DEFINITION. Tile-shape objects, tiles and contraction records (R54 to R78): fields, validation, allocation, and reading and
writing a tile's image by coordinate.
-/
namespace Sys2Proof.Machine

/-- A window axis (R56, R58). -/
structure Axis where
  en     : Bool
  kdim   : Nat
  odim   : Nat
  padlo  : Nat
  dil    : Nat
  stride : Nat
  ext    : Nat
  resv   : Bool
deriving DecidableEq, Repr

/-- A tile-shape object's fields (R56). -/
structure Shape where
  level  : Nat
  type   : Nat
  bxp    : Bool
  grm    : Nat
  vtype  : Nat
  anchor : Int
  ilsb   : Int
  tscale : Nat
  clamp  : Nat
  exts   : List Nat
  strs   : List Int
  axes   : List Axis
  plane  : Nat
  first  : Nat
  count  : Nat
deriving DecidableEq, Repr

/-- Two's complement of `n` bits. -/
def signedOf (n v : Nat) : Int := (BitVec.ofNat n v).toInt

/-- Window axis `a` of an object. -/
def axisOf (o : Obj) (a : Nat) : Axis :=
  let b := 512 + 64 * a
  { en := o.getLsbD (b + 30), kdim := bitsOf o (b + 29) (b + 27), odim := bitsOf o (b + 26) (b + 24),
    padlo := bitsOf o (b + 23) (b + 16), dil := bitsOf o (b + 15) (b + 8), stride := bitsOf o (b + 7) b,
    ext := bitsOf o (b + 63) (b + 32), resv := o.getLsbD (b + 31) }

/-- The fields of an object (R56). -/
def shapeOf (o : Obj) : Shape :=
  { level := bitsOf o 1 0, type := bitsOf o 7 2, bxp := o.getLsbD 8, grm := bitsOf o 9 9, vtype := bitsOf o 15 12,
    anchor := signedOf 16 (bitsOf o 31 16), ilsb := signedOf 8 (bitsOf o 39 32), tscale := bitsOf o 95 64,
    clamp := bitsOf o 127 96, exts := (List.range 6).map fun i => bitsOf o (159 + 64 * i) (128 + 64 * i),
    strs := (List.range 6).map fun i => signedOf 32 (bitsOf o (191 + 64 * i) (160 + 64 * i)),
    axes := [axisOf o 0, axisOf o 1], plane := bitsOf o 671 640, first := bitsOf o 719 704, count := bitsOf o 735 720 }

/-- Extent and stride of dimension `i`. -/
def Shape.ext (v : Shape) (i : Nat) : Nat := (v.exts[i]?).getD 1
/-- The stride. -/
def Shape.str (v : Shape) (i : Nat) : Int := (v.strs[i]?).getD 0

/-- The active window axes. -/
def Shape.windows (v : Shape) : List Axis := v.axes.filter (·.en)

/-- Whether an active axis names dimension `i`. -/
def Shape.named (v : Shape) (i : Nat) : Bool := v.windows.any fun a => a.kdim == i || a.odim == i

/-- Code bits of a code or PB type: 13 to 15 and 16 to 18 (R35, R71). -/
def codeBits (t : Nat) : Nat := if 16 ≤ t then t - 15 else t - 12

/-- Whether a type is BX, a code type, a PB type (R57). -/
def isBX (t : Nat) : Bool := t == 11 || t == 12
/-- A code type. -/
def isCode (t : Nat) : Bool := t == 13 || t == 14 || t == 15
/-- A PB type. -/
def isPB (t : Nat) : Bool := t == 16 || t == 17 || t == 18

/-- A ceiling division. -/
def cdiv (a b : Nat) : Nat := (a + b - 1) / b

/-- The smallest and the largest element offset that a coordinate can reach (R60, R61). -/
def Shape.offsetRange (v : Shape) : Int × Int :=
  let dims := (List.range 6).filter (!v.named ·)
  let lo := dims.foldl (fun s i => s + min 0 (((v.ext i : Int) - 1) * v.str i)) 0
  let hi := dims.foldl (fun s i => s + max 0 (((v.ext i : Int) - 1) * v.str i)) 0
  v.windows.foldl (fun (l, h) a => (l + min 0 (((a.ext : Int) - 1) * v.str a.odim), h + max 0 (((a.ext : Int) - 1) * v.str a.odim)))
    (lo, hi)

/-- The footprint of a type 0 to 15 tile in elements (R61). -/
def Shape.footprint (v : Shape) : Nat := 1 + v.offsetRange.2.toNat

/-- Codebook blocks of a PB row (R71). -/
def Shape.nb (v : Shape) : Nat := cdiv (v.ext 0) 128

/-- The bytes of a PB row record: BND and PERM (R71). -/
def Shape.pbRecord (v : Shape) : Nat := 4 * (v.nb * 2 ^ codeBits v.type + 1) + 2 * v.ext 0

/-- The image's size in bytes, and whether PLANEOFF obeys its row (R61). -/
def Shape.size (v : Shape) : Nat × Bool :=
  let f := v.footprint
  let t := v.type
  if t ≤ 10 then (cdiv (f * typeWidth t) 8, v.plane == 0)
  else if isBX t then
    let mant := if t = 11 then 32 else 16
    if v.bxp then (v.plane + 2 * cdiv f 32, v.plane % 32 == 0 && decide (cdiv f 32 * mant ≤ v.plane))
    else (cdiv f 32 * (mant + 2), v.plane == 0)
  else if isCode t then
    (v.plane + cdiv f 128 * 2 ^ (codeBits t + 1), v.plane % 32 == 0 && decide (cdiv (f * codeBits t) 8 ≤ v.plane))
  else if isPB t then
    (v.plane + v.ext 1 * v.nb * 2 ^ (codeBits t + 1), v.plane % 32 == 0 && decide (((v.ext 1 : Nat) : Int) * v.str 1 ≤ v.plane))
  else if t = 19 then (16 * v.ext 0, v.plane == 0)
  else (4 * (v.ext 0 + 1) + 4 * v.ext 1, v.plane == 0)

/-- R60, R56: an axis's own fields. -/
def Shape.axisOk (v : Shape) (a b : Axis) : Bool :=
  !a.resv &&
    if a.en then
      decide (v.type ≤ 12) && decide (a.kdim < 6) && decide (a.odim < 6) && a.kdim != a.odim &&
        !(b.en && (b.kdim == a.kdim || b.odim == a.kdim || b.kdim == a.odim || b.odim == a.odim)) &&
        v.str a.kdim == 0 && a.dil != 0 && a.stride != 0 && a.ext != 0
    else a.kdim == 0 && a.odim == 0 && a.padlo == 0 && a.dil == 0 && a.stride == 0 && a.ext == 0

/-- R60: the clamp bound of a type: for floats 0 or a positive finite f32 the type represents; for integers no larger than
the type's largest value; otherwise 0. -/
def clampOk (t c : Nat) : Bool :=
  if isFloatT t then
    c == 0 || (decide (c < infBits 10) && ((roundF t rtz (unpackF 10 c).exact).bits ==
      (roundF t rne (unpackF 10 c).exact).bits && decide ((roundF t rtz (unpackF 10 c).exact).bits ≤ maxFin t) &&
      decide ((roundF 10 rne (unpackF t (roundF t rtz (unpackF 10 c).exact).bits).exact).bits = c)))
  else if t ≤ 7 then decide ((c : Int) ≤ intMax t)
  else c == 0

/-- R60, R61, R71, R73, R74: whether TDEF accepts an object. -/
def tileValid (o : Obj) : Bool :=
  let v := shapeOf o
  let ones (l : List Nat) := l.all fun i => v.ext i == 1
  let zeros (l : List Nat) := l.all fun i => v.str i == 0
  bitsOf o 767 736 == 0 && bitsOf o 735 704 == 0 && bitsOf o 703 672 == 0 && bitsOf o 63 40 == 0 && bitsOf o 11 10 == 0 &&
    decide (v.level ≤ 1) && decide (v.type ≤ 20) && (!v.bxp || isBX v.type) &&
    ((List.range 6).all fun i => decide (1 ≤ v.ext i) && decide (v.ext i ≤ 2 ^ 24)) &&
    v.axisOk (axisOf o 0) (axisOf o 1) && v.axisOk (axisOf o 1) (axisOf o 0) && clampOk v.type v.clamp &&
    (if v.type ≤ 15 then v.vtype == 0 && decide (0 ≤ v.offsetRange.1)
     else if isPB v.type then
       v.vtype == 0 && decide (v.ext 0 ≤ 65536) && ones [2, 3, 4, 5] && zeros [0, 2, 3, 4, 5] &&
         decide (v.str 1 % 32 = 0) && decide ((v.pbRecord : Int) ≤ v.str 1)
     else if v.type = 19 then
       [2, 4, 6, 8, 9, 10].contains v.vtype && v.str 0 == 1 && ones [1, 2, 3, 4, 5] && zeros [1, 2, 3, 4, 5]
     else v.vtype == 0 && ones [2, 3, 4, 5] && zeros [0, 1, 2, 3, 4, 5]) &&
    v.size.2 && decide (v.size.1 ≤ if v.level = 0 then 512 * 1024 else 64 * 1024 * 1024)

/-! ## Allocation (R62 to R65, R69) -/

/-- Bytes of a level's unit of allocation. -/
def unitBytes (level : Nat) : Nat := if level = 0 then 2048 else 65536

/-- The live tiles of a core, with their context slots (R62). -/
def Core.liveTiles (co : Core) : List (Nat × Nat × Tile) :=
  (co.slots.zipIdx).flatMap fun (x, k) => ((x.map (·.tiles)).getD []).map fun (t, d) => (k, t, d)

/-- The runs of stripes in use on a core. -/
def Core.usedStripes (co : Core) : List (Nat × Nat) :=
  co.liveTiles.filterMap fun (_, _, d) => let v := shapeOf d.obj; if v.level = 0 then some (v.first, v.count) else none

/-- The runs of granules in use on a die, by all its cores. -/
def State.usedGranules (s : State) (d : Nat) : List (Nat × Nat) :=
  (s.cores.zipIdx).flatMap fun (co, c) =>
    if dieOf c = d then
      co.liveTiles.filterMap fun (_, _, t) => let v := shapeOf t.obj; if v.level = 1 then some (v.first, v.count) else none
    else []

/-- Whether units `a` to `a + n - 1` meet no run. -/
def runFree (used : List (Nat × Nat)) (a n : Nat) : Bool := used.all fun (f, c) => decide (a + n ≤ f) || decide (f + c ≤ a)

/-- The lowest free run of `n` units below `total`, searched from the candidates a run can start at: 0 and the ends (R63, R64). -/
def lowestRun (used : List (Nat × Nat)) (n total : Nat) : Option Nat :=
  (((0 :: used.map fun (f, c) => f + c).filter fun a => decide (a + n ≤ total) && runFree used a n).foldl
    (fun (b : Option Nat) a => some (match b with | none => a | some m => min m a)) none)

/-- The object TDEF seals: SEALED, FIRST and COUNT set (R65). -/
def sealObj (o : Obj) (first count : Nat) : Obj :=
  (o &&& BitVec.ofNat 768 (2 ^ 704 - 1)) ||| BitVec.ofNat 768 (2 ^ 736 + count * 2 ^ 720 + first * 2 ^ 704)

/-- What a new tile's storage holds (R69): where the same launch held it, zero or what was left, which is not specified;
elsewhere zero. -/
def freshBytes (m : List (Nat × Byte)) (base n unit ctr : Nat) (owner : List (Nat × Nat)) (lid : Nat) : List (Nat × Byte) :=
  m.filter fun (a, _) => decide (a < base) || decide (base + n ≤ a) ||
    (owner.contains (a / unit, lid) && Config.tileKeeps ctr a)

/-- The last launch to hold units recorded. -/
def ownUnits (owner : List (Nat × Nat)) (first count lid : Nat) : List (Nat × Nat) :=
  (owner.filter fun (u, _) => decide (u < first) || decide (first + count ≤ u)) ++
    (List.range count).map fun i => (first + i, lid)

/-- The lines of storage units, as `State.bad` numbers them: the SUB, the first line and the lines of a unit. -/
def unitLines (level c first : Nat) : Nat × Nat × Nat :=
  if level = 0 then (2, c * 2 ^ 13 + first * 32, 32) else (1, 2 ^ 34 + dieOf c * 2 ^ 24 + first * 1024, 1024)

/-- Errors that taking over units removes: in units that an earlier tile of the launch did not hold, whose bytes are written as zeros (R69, R424). -/
def freshErrors (bad owner : List (Nat × Nat)) (level c first count lid : Nat) : List (Nat × Nat) :=
  let (sub, l0, n) := unitLines level c first
  bad.filter fun (q, l) => !(q == sub && decide (l0 ≤ l) && decide (l < l0 + count * n) && !owner.contains (first + (l - l0) / n, lid))

/-- A tile allocated for a sealed object: the storage taken over, the handle live from cycle `live` (R65, R66, R69). -/
def State.placeTile (s : State) (c k t : Nat) (o : Obj) (first count live : Nat) : State :=
  let v := shapeOf o
  let lid := ((s.ctx? c k).map (·.lid)).getD 0
  let base := first * unitBytes v.level
  let n := count * unitBytes v.level
  let owner := if v.level = 0 then ((s.cores[c]?).map (·.stripes)).getD [] else ((s.dies[dieOf c]?).map (·.grans)).getD []
  let s := ({ s with bad := freshErrors s.bad owner v.level c first count lid } : State).cleanTable (tileKey c k t)
  let s := if v.level = 0 then
      s.modCore c fun co => { co with scratch := freshBytes co.scratch base n 2048 s.freeCtr co.stripes lid,
                                      stripes := ownUnits co.stripes first count lid }
    else
      s.modDie (dieOf c) fun d => { d with l1 := freshBytes d.l1 base n 65536 s.freeCtr d.grans lid,
                                           grans := ownUnits d.grans first count lid }
  let s := { s with freeCtr := s.freeCtr + 1 }
  s.modCtx c k fun x => { x with tiles := x.tiles ++ [(t, { obj := sealObj o first count, dirty := [], live := live })] }

/-- Where a tile of an object can go on a core: first unit and count (R62 to R64). -/
def State.tileRoom (s : State) (c : Nat) (o : Obj) : Option (Nat × Nat) :=
  let v := shapeOf o
  let n := cdiv v.size.1 (unitBytes v.level)
  match s.cores[c]? with
  | none => none
  | some co =>
    if v.level = 0 then (lowestRun co.usedStripes n 256).map (·, n)
    else (lowestRun (s.usedGranules (dieOf c)) n (((s.dies[dieOf c]?).map (·.gran)).getD 0)).map (·, n)

/-! ## Access by coordinate (R58, R59) -/

/-- The tile a live handle names in a context; one being defined in this cycle is not live yet, nor one a TFREE waits to free (R66, R68,
R207). -/
def State.tile? (s : State) (c k t : Nat) : Option Shape :=
  (s.ctx? c k).bind fun x => (x.tiles.find? fun (h, d) => h == t && decide (d.live ≤ s.now) && d.freeing.isNone).map fun (_, d) => shapeOf d.obj

/-- The element offset of a coordinate; none where a window axis reads padding (R58, R59). -/
def Shape.offset (v : Shape) (pos : List Nat) : Option Nat :=
  let cv (i : Nat) : Int := Int.ofNat ((pos[i]?).getD 0)
  let base := ((List.range 6).filter (!v.named ·)).foldl (fun s i => s + cv i * v.str i) 0
  let step (acc : Option Int) (a : Axis) : Option Int :=
    let sa := cv a.odim * a.stride + cv a.kdim * a.dil - a.padlo
    match acc with
    | none => none
    | some o => if sa < 0 ∨ (a.ext : Int) ≤ sa then none else some (o + sa * v.str a.odim)
  (v.windows.foldl step (some base)).map Int.toNat

/-- The byte of a tile's image. -/
def State.tileByte (s : State) (c : Nat) (v : Shape) (o : Nat) : Byte :=
  if v.level = 0 then Mem.get (((s.cores[c]?).map (·.scratch)).getD []) (v.first * 2048 + o)
  else Mem.get (((s.dies[dieOf c]?).map (·.l1)).getD []) (v.first * 65536 + o)

/-- Bytes of a tile's image. -/
def State.tileBytes (s : State) (c : Nat) (v : Shape) (o n : Nat) : List Byte :=
  (List.range n).map fun i => s.tileByte c v (o + i)

/-- The line of a core's scratchpad or a die's tile pool in which byte `o` of a tile's image lies, as `State.bad` numbers it, with the SUB of
an error there (R407, R424). -/
def Shape.lineOf (v : Shape) (c o : Nat) : Nat × Nat :=
  if v.level = 0 then (2, c * 2 ^ 13 + (v.first * 2048 + o) / 64) else (1, 2 ^ 34 + dieOf c * 2 ^ 24 + (v.first * 65536 + o) / 64)

/-- The first uncorrectable line that reading these runs of bytes of a tile's image consumes (R424). -/
def State.badImage (s : State) (c : Nat) (v : Shape) (runs : List (Nat × Nat)) : Option (Nat × Nat) :=
  s.bad.find? fun (sub, l) => runs.any fun (o, n) =>
    n != 0 && sub == (v.lineOf c o).1 && decide ((v.lineOf c o).2 ≤ l) && decide (l ≤ (v.lineOf c (o + n - 1)).2)

/-- The 64-byte line's PA that a machine-check names, 0 where it lies in no memory (R411). -/
def lineInfo (sub line : Nat) : Nat := if sub ≤ 1 ∧ line < 2 ^ 34 then 64 * line else 0

/-- A little-endian number of a tile's image. -/
def State.tileNum (s : State) (c : Nat) (v : Shape) (o n : Nat) : Nat := leNum (s.tileBytes c v o n)

/-- Where element `o` of a type 0 to 15 tile lies: byte, bit within it, width in bits (R58, R33, R35). -/
def Shape.cell (v : Shape) (o : Nat) : Nat × Nat × Nat :=
  if v.type ≤ 10 then (if typeWidth v.type = 4 then (o / 2, o % 2 * 4, 4) else (o * typeWidth v.type / 8, 0, typeWidth v.type))
  else if v.type = 11 then ((if v.bxp then o else 34 * (o / 32) + 2 + o % 32), 0, 8)
  else if v.type = 12 then ((if v.bxp then o / 2 else 18 * (o / 32) + 2 + o % 32 / 2), o % 2 * 4, 4)
  else let b := codeBits v.type; (o * b / 8, o * b % 8, b)

/-- Where the exponent pair of block `j` of a BX tile lies (R33). -/
def Shape.expAt (v : Shape) (j : Nat) : Nat :=
  if v.bxp then v.plane + 2 * j else if v.type = 11 then 34 * j else 18 * j

/-- The bytes that reading element `o` takes: its own, and the exponent pair of its block. -/
def Shape.reads (v : Shape) (o : Nat) : List (Nat × Nat) :=
  let (b, sh, w) := v.cell o
  (b, cdiv (sh + w) 8) :: (if isBX v.type then [(v.expAt (o / 32), 2)] else [])

/-- The bits of element `o`. -/
def State.elemAt (s : State) (c : Nat) (v : Shape) (o : Nat) : Nat :=
  let (b, sh, w) := v.cell o
  s.tileNum c v b (cdiv (sh + w) 8) / 2 ^ sh % 2 ^ w

/-- The bits of the element at a coordinate; padding reads zero (R59). -/
def State.elem (s : State) (c : Nat) (v : Shape) (coord : List Nat) : Nat :=
  match v.offset coord with
  | none => 0
  | some o => s.elemAt c v o

/-- The exponent bytes of the block of element `o`. -/
def State.expPair (s : State) (c : Nat) (v : Shape) (j : Nat) : Nat × Nat :=
  ((s.tileByte c v (v.expAt j)).toNat, (s.tileByte c v (v.expAt j + 1)).toNat)

/-- The writes that put `bits` into element `o`: byte, mask, value. -/
def Shape.put (v : Shape) (o bits : Nat) : List (Nat × Byte × Byte) :=
  let (b, sh, w) := v.cell o
  let m := (2 ^ w - 1) * 2 ^ sh
  (List.range (cdiv (sh + w) 8)).map fun i =>
    (b + i, BitVec.ofNat 8 (m / 256 ^ i), BitVec.ofNat 8 (bits % 2 ^ w * 2 ^ sh / 256 ^ i))

/-- Whole bytes written to an image. -/
def putBytes (o : Nat) (bs : List Byte) : List (Nat × Byte × Byte) := bs.zipIdx.map fun (b, i) => (o + i, 0xFF, b)

/-- Masked bytes written at a base of a storage. -/
def storeMasked (m : List (Nat × Byte)) (base : Nat) : List (Nat × Byte × Byte) → List (Nat × Byte)
  | [] => m
  | (o, k, b) :: rest => storeMasked (Mem.set m (base + o) ((Mem.get m (base + o) &&& ~~~k) ||| (b &&& k))) base rest

/-- The lines of a tile's image that a write replaces whole carry no error any more (R424). -/
def State.cleanImage (s : State) (c : Nat) (v : Shape) (bytes : List (Nat × Byte × Byte)) : State :=
  { s with bad := s.bad.filter fun b => !((List.range 64).all fun i => bytes.any fun (o, m, _) =>
      m == 0xFF && o % 64 == i && v.lineOf c o == b) }

/-- A write to a tile's image: its storage, and the dirty bit of each 4 KiB it touches (R438). -/
def State.writeTile (s : State) (c k t : Nat) (bytes : List (Nat × Byte × Byte)) : State :=
  match (s.ctx? c k).bind fun x => (x.tiles.find? fun (h, _) => h == t) with
  | none => s
  | some (_, d) =>
    let v := shapeOf d.obj
    let s := s.cleanImage c v bytes
    let s := if v.level = 0 then s.modCore c fun co => { co with scratch := storeMasked co.scratch (v.first * 2048) bytes }
      else s.modDie (dieOf c) fun x => { x with l1 := storeMasked x.l1 (v.first * 65536) bytes }
    s.modCtx c k fun x => { x with tiles := x.tiles.map fun (h, e) =>
      if h = t then (h, { e with dirty := bytes.foldl (fun ds (o, _, _) => if ds.contains (o / 4096) then ds else ds ++ [o / 4096]) e.dirty })
      else (h, e) }

/-! ## Contraction records (R75, R76) -/

/-- A contraction record's fields (R75). -/
structure Contract where
  mtile : Nat
  klog  : Nat
  qlog  : Nat
  ki    : Nat
  qi    : Nat
  mapB  : List Nat
  mapA  : List Nat
  shift : List Nat
  extm1 : List Nat
  men   : Bool
  direct : Bool
  kmask : Nat
  cmask : Nat
  nidx  : Nat
  formB : Nat
  formA : Nat
deriving DecidableEq, Repr

/-- The fields of a record. -/
def contractOf (o : Obj) : Contract :=
  { mtile := bitsOf o 343 336, klog := bitsOf o 335 332, qlog := bitsOf o 331 328, ki := bitsOf o 326 324,
    qi := bitsOf o 322 320, mapB := (List.range 6).map fun i => bitsOf o (283 + 4 * i) (280 + 4 * i),
    mapA := (List.range 6).map fun i => bitsOf o (259 + 4 * i) (256 + 4 * i),
    shift := (List.range 8).map fun l => bitsOf o (197 + 8 * l) (192 + 8 * l),
    extm1 := (List.range 8).map fun l => bitsOf o (79 + 16 * l) (64 + 16 * l), men := o.getLsbD 29, direct := o.getLsbD 28,
    kmask := bitsOf o 27 20, cmask := bitsOf o 19 12, nidx := bitsOf o 11 8, formB := bitsOf o 7 4, formA := bitsOf o 3 0 }

/-- The key's letters in order. -/
def Contract.keyLetters (r : Contract) : List Nat := (List.range 8).filter fun l => r.kmask / 2 ^ l % 2 == 1
/-- EXTM1 of a letter. -/
def Contract.em1 (r : Contract) (l : Nat) : Nat := (r.extm1[l]?).getD 0
/-- SHIFT of a letter. -/
def Contract.sh (r : Contract) (l : Nat) : Nat := (r.shift[l]?).getD 0
/-- The width of a letter's key field: the bit length of EXTM1 (R76). -/
def bitLen (n : Nat) : Nat := if n = 0 then 0 else Nat.log2 n + 1

/-- Whether the key fields of two letters share a bit: they are `sl` and `sm` up, `wl` and `wm` wide (R76). -/
def fieldsMeet (sl wl sm wm : Nat) : Bool := decide (max sl sm < min (sl + wl) (sm + wm))

/-- R75, R76: whether CDEF accepts a record. -/
def recordValid (o : Obj) : Bool :=
  let r := contractOf o
  let letters := r.mapA ++ r.mapB
  let dup (m : List Nat) := ((m.filter (· != 15)).length != ((m.filter (· != 15)).eraseDups).length)
  let width (l : Nat) := bitLen (r.em1 l)
  bitsOf o 767 344 == 0 && !o.getLsbD 327 && !o.getLsbD 323 && bitsOf o 319 304 == 0 && bitsOf o 63 30 == 0 &&
    ((List.range 8).all fun l => bitsOf o (199 + 8 * l) (198 + 8 * l) == 0) && decide (1 ≤ r.nidx) && decide (r.nidx ≤ 8) &&
    decide (r.cmask < 2 ^ r.nidx) && decide (r.kmask < 2 ^ r.nidx) && r.cmask &&& r.kmask == 0 &&
    r.cmask ||| r.kmask == 2 ^ r.nidx - 1 && (letters.all fun l => l == 15 || decide (l < r.nidx)) && !dup r.mapA && !dup r.mapB &&
    ((List.range r.nidx).all fun l => letters.contains l) && decide (r.formA ≤ 2) && decide (r.formB ≤ 1) &&
    (r.keyLetters.all fun l => decide (r.sh l + width l ≤ 63) && r.keyLetters.all fun m => l == m ||
      !fieldsMeet (r.sh l) (width l) (r.sh m) (width m)) &&
    (!r.direct || decide ((r.keyLetters.foldl (fun s l => s + r.em1 l * 2 ^ r.sh l) 0) < 4096)) &&
    (!r.men || (decide (r.qi < r.nidx) && decide (r.ki < r.nidx)))

/-- The record sealed in a slot of a context (R209). -/
def State.record? (s : State) (c k slot : Nat) : Option Contract :=
  (s.ctx? c k).bind fun x => (x.recs.find? fun (j, _, live) => j == slot && decide (live ≤ s.now)).map fun (_, o, _) => contractOf o

end Sys2Proof.Machine
end

