-- ==== Sys2Proof/Machine/Stages.lean ====
section
/-!
DEFINITION. Spans, stage maps, ranks and identity (R138, R139, R145 to R153, R203, R204).
-/
namespace Sys2Proof.Machine

/-- A rectangle relative to the span origin (R146). -/
structure Rect where
  x : Nat
  y : Nat
  w : Nat
  h : Nat
deriving DecidableEq, Repr

/-- The rectangle of a 16-bit field (R146). -/
def rectOf (v : Nat) : Rect := { x := v % 32, y := v / 32 % 32, w := 2 ^ (v / 1024 % 8), h := 2 ^ (v / 8192 % 8) }

/-- The cores of a rectangle, row by row, x varying fastest (R149). -/
def Rect.cores (r : Rect) : List (Nat × Nat) := (List.range (r.w * r.h)).map fun i => (r.x + i % r.w, r.y + i / r.w)

/-- R139, R148: an aligned power-of-two rectangle within a span of `w` by `h`; sides are at most 32. -/
def rectOk (v w h : Nat) : Bool :=
  let r := rectOf v
  decide (v / 1024 % 8 ≤ 5) && decide (v / 8192 % 8 ≤ 5) && r.x % r.w == 0 && r.y % r.h == 0 && decide (r.x + r.w ≤ w) &&
    decide (r.y + r.h ≤ h)

/-- A stage entry (R146). -/
structure StageEnt where
  resv   : Nat
  flexen : Bool
  nrect  : Nat
  flexr  : Nat
  rects  : List Nat
  raw    : Nat
deriving DecidableEq, Repr

/-- Stage entry `i` of a map's bytes. -/
def stageEnt (smap : List Byte) (i : Nat) : StageEnt :=
  let v := leNum ((smap.drop (16 * i)).take 16)
  { resv := v / 2 ^ 92 + v / 2 ^ 80 % 256, flexen := v / 2 ^ 91 % 2 == 1, nrect := v / 2 ^ 88 % 8, flexr := v / 2 ^ 64 % 65536,
    rects := (List.range 4).map fun j => v / 65536 ^ j % 65536, raw := v }

/-- A stage queue's entry (R147). -/
structure QueueEnt where
  cons : Nat
  prod : Nat
  low  : Nat
  high : Nat
  ldepth : Nat
  raw  : Nat
deriving DecidableEq, Repr

/-- Queue entry `q` of a map's bytes. -/
def queueEnt (smap : List Byte) (q : Nat) : QueueEnt :=
  let v := leNum ((smap.drop (128 + 8 * q)).take 8)
  { cons := v / 2 ^ 13 % 8, prod := v / 2 ^ 10 % 8, low := v / 128 % 8, high := v / 16 % 8, ldepth := v % 16, raw := v }

/-- Whether a launch names no stage map: one stage, the whole span, no queues (R145). -/
def Launch.oneStage (l : Launch) : Bool := bitsOf l.record 255 192 == 0

/-- NST: the entries before the first unused one (R148). -/
def nstOf (smap : List Byte) : Nat := ((List.range 8).takeWhile fun i => (stageEnt smap i).nrect != 0).length

/-- NST of a launch. -/
def Launch.nst (l : Launch) : Nat := if l.oneStage then 1 else nstOf l.smap

/-- The rectangles of a stage. -/
def Launch.stageRects (l : Launch) (st : Nat) : List Rect :=
  if l.oneStage then [{ x := 0, y := 0, w := l.spanW, h := l.spanH }]
  else let e := stageEnt l.smap st; (e.rects.take e.nrect).map rectOf

/-- The flex rectangle a stage declares. -/
def Launch.flexRect (l : Launch) (st : Nat) : Option Rect :=
  if l.oneStage then none else let e := stageEnt l.smap st; if e.flexen then some (rectOf e.flexr) else none

/-- The stage a flex core holds now; it starts in the stage that declares its rectangle (R152). -/
def Launch.flexHolds (l : Launch) (st : Nat) (xy : Nat × Nat) : Nat :=
  match l.flexStage.find? fun (i, _) => i == xy.1 + xy.2 * l.spanW with
  | some (_, t) => t
  | none => st

/-- The cores of a stage in rank order (R149). -/
def Launch.stageCores (l : Launch) (st : Nat) : List (Nat × Nat) :=
  (l.stageRects st).flatMap Rect.cores ++
    (((l.flexRect st).map Rect.cores).getD []).filter (fun xy => l.flexHolds st xy == st) ++
    (if st = 0 then [] else (((l.flexRect (st - 1)).map Rect.cores).getD []).filter fun xy => l.flexHolds (st - 1) xy == st)

/-- P: the cores a stage holds (R149). -/
def Launch.stageP (l : Launch) (st : Nat) : Nat := (l.stageCores st).length

/-- The stage a core starts in, and whether it is a flex core (R128, R152). -/
def Launch.startStage (l : Launch) (xy : Nat × Nat) : Nat × Bool :=
  match (List.range l.nst).find? fun st => ((l.stageRects st).flatMap Rect.cores).contains xy with
  | some st => (st, false)
  | none =>
    match (List.range l.nst).find? fun st => (((l.flexRect st).map Rect.cores).getD []).contains xy with
    | some st => (l.flexHolds st xy, true)
    | none => (0, false)

/-- The span's origin as placed. -/
def Launch.origin? (l : Launch) : Option (Nat × Nat) :=
  match l.phase with
  | .placed ox oy _ => some (ox, oy)
  | _ => none

/-- SPANID (R150). -/
def spanId (l : Launch) (x : Ctx) : W64 :=
  let (ox, oy) := (l.origin?).getD (0, 0)
  BitVec.ofNat 64 (x.rely * 2 ^ 21 + x.relx * 2 ^ 16 + bitsOf l.record 364 362 * 2 ^ 13 + bitsOf l.record 361 359 * 2 ^ 10 +
    oy * 32 + ox)

/-- STAGEID (R151); the core counts in the stage its context holds until RNEXT's registers are written. -/
def stageId (l : Launch) (x : Ctx) : W64 :=
  let i := x.relx + x.rely * l.spanW
  let l' := if x.flex then { l with flexStage := (i, x.stage) :: l.flexStage } else l
  let rank := ((l'.stageCores x.stage).findIdx? (· == (x.relx, x.rely))).getD 0
  BitVec.ofNat 64 (l'.stageP x.stage * 2 ^ 18 + rank * 256 + (if x.moved then 128 else 0) + (if x.flex then 64 else 0) +
    (l.nst - 1) * 8 + x.stage)

/-- COREID (R203). -/
def coreId (c k : Nat) : W64 := BitVec.ofNat 64 (k * 2 ^ 13 + dieOf c * 1024 + yOf c * 32 + xOf c)

/-- LAUNCHID (R204). -/
def launchId (l : Launch) : W64 := BitVec.ofNat 64 (bitsOf l.record 383 381 * 2 ^ 36 + genOf l.lid * 4096 + asidOf l.lid)

/-- PBINFO (R204). -/
def pbInfo (l : Launch) (bind : Nat) : W64 := BitVec.ofNat 64 (bind * 2 ^ 32 + bitsOf l.record 127 96)

end Sys2Proof.Machine
end

