-- ==== Sys2Proof/Machine/SysRegs.lean ====
section
/-!
DEFINITION. System registers and the flag file as S reads and writes them (R187, R188, R190, R202), and PBIND (R137).
-/
namespace Sys2Proof.Machine

/-- A system register's content as SRD reads it (R202); FLGCLR reads as 0. -/
def State.sysReg (s : State) (h : Here) (l : Launch) (sel : Nat) : W64 :=
  match sel with
  | 0 => BitVec.ofNat 64 l.ctxmem
  | 1 => BitVec.ofNat 64 l.ctxnum
  | 2 => spanId l h.ctx
  | 3 => stageId l h.ctx
  | 4 => coreId h.c h.k
  | 5 => launchId l
  | 6 => pbInfo l h.ctx.bind
  | 7 => BitVec.ofNat 64 s.now
  | 16 => (h.ctx.scr[0]?).getD 0
  | 17 => (h.ctx.scr[1]?).getD 0
  | 18 => (h.ctx.scr[2]?).getD 0
  | 19 => (h.ctx.scr[3]?).getD 0
  | _ => 0

/-- SRD (R202). -/
def execSrd (x : IWord) (s : State) : Host.Outcome State Fault Refusal :=
  run (do
    let on ← guardOn x.guard
    if on then do
      let h ← here
      let l ← launchHere
      let s ← get
      writeReg x.d.toNat ((l.map fun l => s.sysReg h l x.imm.toNat).getD 0) 1
    else pure ()
    advance) s

/-- SWR (R202): SCR0 to SCR3, and FLGCLR, whose clear takes effect at the end of the cycle (R188). -/
def execSwr (x : IWord) (s : State) : Host.Outcome State Fault Refusal :=
  run (do
    let on ← guardOn x.guard
    let v ← source on x.a
    if on then
      if x.imm.toNat = 20 then modCtx fun c => { c with flagclr := c.flagclr ||| v.setWidth 16 }
      else modCtx fun c => { c with scr := c.scr.set (x.imm.toNat - 16) v }
    else pure ()
    advance) s

/-- FLGRD (R190): the slot as it stands at issue, readable a cycle later (DESIGN CHOICE: R183's table gives FLGRD no latency; log 27). -/
def execFlgrd (x : IWord) (s : State) : Host.Outcome State Fault Refusal :=
  run (do
    let on ← guardOn x.guard
    if on then do
      let h ← here
      writeReg x.d.toNat ((h.ctx.flags[x.imm.toNat]?).getD 0) 1
    else pure ()
    advance) s

/-- PBIND (R137): the binding comes into force when the section that holds it retires. -/
def execPbind (x : RWord) (s : State) : Host.Outcome State Fault Refusal :=
  run (do
    let on ← guardOn x.guard
    let v ← source on x.a
    if on then
      if v.toNat % 8 ≠ 0 ∨ 4096 ≤ v.toNat then formatTrap
      else do
        let h ← here
        modEng fun en => { en with secs := en.secs.map fun o => if o.n = h.secN then { o with bind := some v.toNat } else o }
    else pure ()
    advance) s

end Sys2Proof.Machine
end

