-- ==== Sys2Proof/Machine/Commands.lean ====
section
/-!
DEFINITION. Asynchronous commands (R16, R67, R364, R408): issuing one, the tiles it uses, its arrivals, its completion and
its traps. `Cmd.unit` is 0 the walk unit, 1 a copy queue, 2 the contraction unit, 3 the row engine, 4 a text engine,
5 a BARRIVE on its way.
-/
namespace Sys2Proof.Machine

/-- Cycles of a step along one axis: one for each hop, four across a die boundary every `g` (R14). -/
def legCycles (a b g : Nat) : Nat :=
  let lo := min a b
  let hi := max a b
  (hi - lo) + 3 * (hi / g - lo / g)

/-- The transit of a message between two cores (R14). -/
def transit (c d : Nat) : Nat := legCycles (xOf c) (xOf d) 16 + legCycles (yOf c) (yOf d) 8

/-! ## The tiles a command uses (R67) -/

/-- A tile number of a word. -/
def useIf (b : Bool) (t : BitVec 8) : List Nat := if b then [t.toNat] else []

/-- The handles a word that is not a CPYF names as uses. -/
def wordTiles : Instr → List Nat
  | .aqrd x => useIf (bitsOf x.cmd 33 32 == 0) x.ta
  | .aqwr x => x.ta.toNat :: useIf (bitsOf x.cmd 33 32 == 0) x.td
  | .gather x => x.tb.toNat :: useIf (bitsOf x.cmd 33 32 == 0) x.ta
  | .scatter x => x.ta.toNat :: x.tb.toNat :: useIf (bitsOf x.cmd 33 32 == 0) x.td
  | .gcompact x => [x.ta.toNat, x.tb.toNat, x.td.toNat, bitsOf x.cmd 7 0]
  | .cpy x => useIf (!x.cmd.getLsbD 30) x.ta ++ useIf (!x.cmd.getLsbD 29) x.td
  | .cpyf f => useIf (!f.word.cmd.getLsbD 30) f.word.ta ++ useIf (!f.word.cmd.getLsbD 29) f.word.td
  | .cpyz x => useIf (!x.cmd.getLsbD 29) x.td
  | .sort x => [x.ta.toNat, x.td.toNat]
  | .sortk x => [x.ta.toNat, x.td.toNat]
  | .bmv x => [x.ta.toNat, x.tb.toNat]
  | .bdot x => [x.ta.toNat, x.tb.toNat]
  | .join x => [x.ta.toNat, x.tb.toNat]
  | .bdump x => [x.td.toNat]
  | .cdrain x => x.td.toNat :: useIf (bitsOf x.cmd 33 32 == 2) x.tb
  | .cdrainL x => x.td.toNat :: useIf (bitsOf x.cmd 33 32 == 2) x.tb
  | .nmax x => [x.ta.toNat, x.td.toNat]
  | .nexps x => [x.ta.toNat, x.tb.toNat, x.td.toNat] ++ (if x.cmd.getLsbD 8 then [bitsOf x.cmd 7 0] else [])
  | .nscale x => [x.ta.toNat, x.tb.toNat, x.td.toNat]
  | .nrow x => [x.ta.toNat, x.td.toNat] ++ (if x.cmd.getLsbD 8 then [bitsOf x.cmd 7 0] else [])
  | .nnorm x => [x.ta.toNat, x.td.toNat] ++ useIf (x.cmd.getLsbD 8) x.tb
  | .tokpop x => [x.td.toNat]
  | .vchain x => [x.ta.toNat, x.td.toNat] ++ useIf (x.cmd.getLsbD 0) x.tb
  | _ => []

/-- The handles a command uses; the tiles of a carried word count from its CPYF's issue (R288), and the mask tile of a
JOIN from its entry. -/
def Cmd.tiles (x : Cmd) : List Nat :=
  let r := contractOf x.sealed
  wordTiles x.ins ++
    (match x.ins with
     | .cpyf f => match decode .B f.carried 0 with | .ok i => wordTiles i | .bad _ => []
     | .join _ => if r.men then [r.mtile] else []
     | _ => [])

/-- The tiles a word that is not a CPYF writes. -/
def destTiles : Instr → List Nat
  | .aqwr x => useIf (bitsOf x.cmd 33 32 == 0) x.td
  | .scatter x => useIf (bitsOf x.cmd 33 32 == 0) x.td
  | .gcompact x => [x.td.toNat, bitsOf x.cmd 7 0]
  | .cpy x => useIf (!x.cmd.getLsbD 29) x.td
  | .cpyf f => useIf (!f.word.cmd.getLsbD 29) f.word.td
  | .cpyz x => useIf (!x.cmd.getLsbD 29) x.td
  | .sort x => [x.td.toNat]
  | .sortk x => [x.td.toNat]
  | .bdump x => [x.td.toNat]
  | .cdrain x => [x.td.toNat]
  | .cdrainL x => [x.td.toNat]
  | .nmax x => [x.td.toNat]
  | .nexps x => x.td.toNat :: (if x.cmd.getLsbD 8 then [bitsOf x.cmd 7 0] else [])
  | .nscale x => [x.td.toNat]
  | .nrow x => x.td.toNat :: (if x.cmd.getLsbD 8 then [bitsOf x.cmd 7 0] else [])
  | .nnorm x => [x.td.toNat]
  | _ => []

/-- Whether every tile write a context's engines had issued by cycle `cyc` has taken effect: V's, those of the asynchronous commands and
those of a TOKPOP (R374, R392). -/
def State.tileWritesDone (s : State) (c k cyc : Nat) : Bool :=
  (match s.ctx? c k with | some x => x.twrites.all fun w => decide (cyc < w.issued) | none => true) &&
    s.cmds.all (fun x => !(x.c == c && x.k == k && decide (x.issued ≤ cyc) && destTiles x.ins != [])) &&
    s.text.copies.all (fun x => !(x.c == c && x.k == k && decide (x.issued ≤ cyc)))

/-- Whether a use of a handle of a context that started by cycle `since` has not ended: by a command, a tile write of V, a VCHAIN between
its groups, a token copy or a waiting assist (R67). -/
def State.tileInUse (s : State) (c k t since : Nat) : Bool :=
  s.cmds.any (fun x => x.c == c && x.k == k && decide (x.issued ≤ since) && x.tiles.contains t) ||
    (match s.ctx? c k with
     | some x => x.twrites.any (fun w => w.t == t && decide (w.issued ≤ since)) || (x.eng .V).chained.contains t
     | none => false) ||
    s.text.copies.any (fun x => x.c == c && x.k == k && x.tile == t) ||
    (match s.cores[c]? with
     | some co => (co.assist.active.toList ++ co.assist.waiting).any fun a => a.k == k && (wordTiles a.ins).contains t
     | none => false)

/-- A word that reads these bytes of a tile's image raises machine-check where an error in them cannot be corrected (R424). -/
def imageOk (s : State) (c : Nat) (v : Shape) (runs : List (Nat × Nat)) : M Unit :=
  match s.badImage c v runs with
  | some (sub, l) => raise { cause := 13, sub := sub, info2 := BitVec.ofNat 64 (lineInfo sub l) }
  | none => pure ()

/-- The live tile a word names; a free handle raises the format fault (R68). -/
def tileHere (t : Nat) : M Shape := do
  let h ← here
  tableOk (tileKey h.c h.k t)
  match (← get).tile? h.c h.k t with
  | some v => pure v
  | none => formatTrap

/-- A tile as a command that already uses it reads it: TFREE no longer lets a new use start (R207). -/
def State.usedTile (s : State) (c k t : Nat) : Option Shape :=
  (s.ctx? c k).bind fun x => (x.tiles.find? (·.1 == t)).map fun (_, d) => shapeOf d.obj

/-! ## Barriers as commands name them -/

/-- A live barrier of a context. -/
def Ctx.bar? (x : Ctx) (b : Nat) : Option Barrier := (x.bars.find? (·.1 == b)).map (·.2)

/-- The barrier a word names must be live (R364). -/
def liveBar (b : Nat) : M Unit := do
  let h ← here
  tableOk (barKey h.c h.k b)
  if (h.ctx.bar? b).isSome then pure () else formatTrap

/-! ## Issue -/

/-- A command the issuing word makes. -/
def Here.command (h : Here) (s : State) (ins : Instr) (unit queue bar : Nat) (regs : List W64) (mods : Mods) : Cmd :=
  { id := s.nextId, ins := ins, eng := h.e, c := h.c, k := h.k, lid := h.ctx.lid, secN := h.secN, widx := h.widx, unit := unit,
    queue := queue, bar := bar, regs := regs, mods := mods, carried := false, issued := s.now, state := .waiting, next := 0,
    ranges := [], park := 0, firstFull := none, part := 0, buf := [], ga := h.ctx.ga, sealed := 0, after := [], inflight := [], rank := s.nextId }

/-- A command joins those issued and not completed. -/
def addCmd (x : Cmd) : M Unit := modify fun s => { s with cmds := s.cmds ++ [x], nextId := s.nextId + 1 }

/-- The commands a queue of a context holds, in issue order. -/
def State.queueOf (s : State) (c k unit queue : Nat) : List Cmd :=
  s.cmds.filter fun x => x.c == c && x.k == k && x.unit == unit && x.queue == queue && !x.carried

/-- Whether a command is the head of its queue (R278). -/
def State.isHead (s : State) (x : Cmd) : Bool := ((s.queueOf x.c x.k 1 x.queue).head?).any (·.id == x.id)

/-! ## Arrivals and completion -/

/-- A late completion counted on a die (R423). -/
def Die.countLate (d : Die) : Die := { d with late := min (d.late + 1) (2 ^ 32 - 1) }

/-- An arrival at a barrier of a context, or a late completion when its launch is gone (R365, R423). -/
def State.arrive (s : State) (a : Arrival) (k : Nat) : State :=
  match s.ctx? a.core k with
  | some x =>
    if x.lid = a.lid then s.modCtx a.core k fun x => { x with arrivals := x.arrivals ++ [a] }
    else s.modDie (dieOf a.core) (·.countLate)
  | none => s.modDie (dieOf a.core) (·.countLate)

/-- A command's arrival of `n` bytes with its flags. -/
def State.cmdArrive (s : State) (x : Cmd) (n : Nat) (ref lost : Bool) : State :=
  s.arrive { bar := x.bar, n := n, ref := ref, lost := lost, lid := x.lid, core := x.c, due := s.now, cmd := 0 } x.k

/-- A command completes: its use of tiles and barrier ends, and the interval of its queue or walk unit advances (R401).
The CPYF of a carried word completes with it (R288). -/
def State.complete (s : State) (x : Cmd) : State :=
  let s := if x.unit ≤ 1 then s.bumpInterval x.agent.code else s
  let s := (s.cmds.filter fun y => x.carried && x.after.contains y.id).foldl (fun s y => s.bumpInterval y.agent.code) s
  { s with cmds := s.cmds.filter fun y => y.id != x.id && !(x.carried && x.after.contains y.id),
           accs := s.accs.filter fun a => !(a.who == .cmd x.id && a.performed) }

/-! ## A command that meets a stop condition (R408) -/

/-- INFO2 of a command's trap (R411); a carried word's names its CPYF, whose queue it keeps (R288). -/
def Cmd.info2 (x : Cmd) : W64 :=
  BitVec.ofNat 64 (x.secN.toNat + x.widx % 2048 * 2 ^ 32 + (if x.unit = 1 || x.carried then x.queue % 8 else 0) * 2 ^ 43 + 2 ^ 46)

/-- The row or pass number of a command's trap (R411): a carried word's is its CPYF's row, the last one, since all are performed (R288). -/
def State.trapRow (s : State) (x : Cmd) (row : Nat) : Nat :=
  match (if x.carried then s.cmds.find? fun y => x.after.contains y.id else none) with
  | some y => bitsOf ((y.regs[2]?).getD 0) 63 32 - 1
  | none => row

/-- A stop trap of a command, at its engine's next word boundary: nothing once a stop trap of its launch stands (R408).
A machine-check names its line in INFO2. -/
def State.cmdTrap (s : State) (x : Cmd) (cause sub row : Nat) (va : W64) (line : Option Nat) : State :=
  if s.stopRaised x.lid then s
  else
    let eng := if x.carried then Engine.B else x.eng
    s.modCtx x.c x.k (·.post
      { cause := cause, sub := sub, eng := eng, agent := x.agent.code, va := va, info1 := BitVec.ofNat 32 (s.trapRow x row),
        info2 := match line with | some l => BitVec.ofNat 64 (lineInfo sub l) | none => x.info2, assist := false, multi := false,
        carried := x.carried, cycle := s.now })

/-- A command that traps and is discarded (R296, R325): it is issued no more, and its barrier receives nothing. -/
def State.dropCmd (s : State) (id : Nat) : State := { s with cmds := s.cmds.filter (·.id != id) }

end Sys2Proof.Machine
end

