-- ==== Sys2Proof/Machine/PageWalk.lean ====
section
/-!
DEFINITION. The page walker (R253 to R262): the four levels, TLB fills, first touches and the zero engine, and the
instruction-cache fill (R170).
-/
namespace Sys2Proof.Machine

/-- How a walk ends (R256): a leaf with its level, page base and PTE address; a first touch; or a fault, with its PSIZE and INFO. -/
inductive WalkEnd where
  | leaf (l : Leaf)
  | touch (level : Nat) (pte : W64) (ptePa : Nat)
  | fault (cause sub psize info : Nat)
deriving DecidableEq, Repr

/-- The index of an offset at a level (R254). -/
def walkIndex (off level : Nat) : Nat :=
  if level = 0 then off / 2 ^ 16 % 32 else off / 2 ^ (9 * level + 12) % 512

/-- Whether an entry's fields are malformed at a level (R255, R256). -/
def pteMalformed (p : W64) (level : Nat) : Bool :=
  let type := bitsOf p 3 2
  bitsOf p 63 48 != 0 || bitsOf p 15 12 != 0 || p.getLsbD 1 || decide (2 ≤ type) || (level == 3 && type == 1) ||
    (level == 0 && type == 0) || (!p.getLsbD 11 && bitsOf p 10 8 != 0) || (type == 0 && (p.getLsbD 11 || bitsOf p 10 8 != 0))

/-- The PSIZE a fault at an entry carries: a leaf's size, which at level 0 every entry has, else unknown (R414). -/
def psizeOf (p : W64) (level : Nat) : Nat := if level = 0 ∨ (bitsOf p 3 2 = 1 ∧ level ≤ 2) then level else 3

/-- The levels of a walk from `level` down, the table being at `t` (R256). -/
def State.walkFrom (s : State) (asid : Nat) (mirror : Bool) (off : Nat) : Nat → Nat → WalkEnd
  | fuel, t =>
    let level := fuel
    let at_ := t + 8 * walkIndex off level
    let p : W64 := BitVec.ofNat 64 (s.physNum at_ 8)
    let info := level * 2 ^ 40 + at_
    let go : WalkEnd :=
      if bitsOf p 3 2 = 1 then
        let pa := bitsOf p 47 16 * 256
        if pa % leafSize level ≠ 0 ∨ !s.inDram pa (leafSize level) then .fault 9 3 (psizeOf p level) info
        else .leaf { asid := asid, mirror := mirror, page := off / leafSize level * leafSize level, level := level, pte := p, ptePa := at_ }
      else match fuel with
        | 0 => .fault 9 3 3 info
        | f + 1 => s.walkFrom asid mirror off f (bitsOf p 47 16 * 256)
    if pteMalformed p level then .fault 9 3 (psizeOf p level) info
    else if !p.getLsbD 0 then
      if p.getLsbD 4 ∧ bitsOf p 3 2 = 1 ∧ level ≤ 1 ∧ !p.getLsbD 11 then .touch level p at_
      else .fault 9 0 (psizeOf p level) info
    else go

/-- A whole walk of an offset (R253, R256). -/
def State.pageWalk (s : State) (asid : Nat) (mirror : Bool) (off : Nat) : WalkEnd :=
  if 2 ^ 48 ≤ off then .fault 9 4 3 0
  else if !s.ctl.asidTab.getLsbD 0 then .fault 9 2 3 0
  else
    match s.asidEntry asid with
    | none => .fault 9 2 3 (4 * 2 ^ 40 + (bitsOf s.ctl.asidTab 39 16 * 65536 + 16 * asid))
    | some (_, e) => s.walkFrom asid mirror off 3 (e / 65536 % 2 ^ 32 * 256)

/-! ## Pools (R259) -/

/-- LOWIRQ of a pool after its COUNT or mark changed: set when COUNT falls below LOWMARK (R259). -/
def lowFalls (before mark0 after mark : Nat) : Bool := decide (after < mark) && !decide (before < mark0)

/-- A frame taken from the head of a die's pool (R259, R260). -/
def State.takeFrame (s : State) (d : Nat) (big : Bool) : Option (Nat × State) :=
  match s.dies[d]? with
  | none => none
  | some x =>
    match (if big then x.pool2m else x.pool64) with
    | [] => none
    | pa :: rest =>
      let n := rest.length
      let mark := if big then x.low2m else x.low64
      let low := lowFalls (n + 1) mark n mark
      let x' := if big then { x with pool2m := rest, lowIrq2m := x.lowIrq2m || low }
                else { x with pool64 := rest, lowIrq64 := x.lowIrq64 || low }
      some (pa, s.modDie d fun _ => x')

/-- A frame returned to the head of a pool (R261). -/
def Die.returnFrame (x : Die) (big : Bool) (pa : Nat) : Die :=
  if big then { x with pool2m := pa :: x.pool2m } else { x with pool64 := pa :: x.pool64 }

/-- The PTE a first touch installs (R260): V set, ZT clear, ADDR the frame. -/
def touchedPte (p : W64) (pa : Nat) : W64 :=
  BitVec.ofNat 64 (bitsOf p 15 0 ||| 1) &&& ~~~(16#64) ||| BitVec.ofNat 64 (pa / 256 * 65536)

/-! ## TLBs (R257) -/

/-- A leaf put into a TLB of `n` entries; the one given up is the part's choice (log 9). -/
def tlbInsert (n ctr : Nat) (tlb : List Leaf) (l : Leaf) : List Leaf :=
  if tlb.contains l then tlb
  else if tlb.length < n then l :: tlb
  else l :: tlb.eraseIdx (Config.tlbVictim ctr % n)

/-- The cores whose TLB a walk's waiters fill. -/
def waiterCore : Waiter → Option Nat
  | .engine c _ _ => some c
  | .fetch c _ _ => some c
  | _ => none

/-- A leaf fills the die's TLB and those of the engines that wait for it (R257). -/
def State.fillTlb (s : State) (d : Nat) (l : Leaf) (ws : List Waiter) : State :=
  let s := { s with freeCtr := s.freeCtr + 1 }
  let s := s.modDie d fun x => { x with tlb := tlbInsert 4096 s.freeCtr x.tlb l }
  ((ws.filterMap waiterCore).eraseDups).foldl (fun s c => s.modCore c fun co => { co with tlb := tlbInsert 64 s.freeCtr co.tlb l }) s

/-- WALK: the die's walker resolves its oldest walk (R256, R258): a leaf is filled, a first touch takes a frame for the zero
engine, a fault is posted. -/
def State.walkStep (s : State) (d : Nat) : State :=
  match (s.dies[d]?).map (·.walks) with
  | some (w :: rest) =>
    let s := s.modDie d fun x => { x with walks := rest }
    match s.pageWalk w.asid w.mirror w.off with
    | .leaf l => (s.fillTlb d l w.waiters).modDie d Die.refill
    | .fault cause sub psize info => (s.postWalk d cause sub psize info w).modDie d Die.refill
    | .touch level p at_ =>
      match s.takeFrame d (level == 1) with
      | none => (s.postWalk d 9 1 level (level * 2 ^ 40 + at_) w).modDie d Die.refill
      | some (pa, s) =>
        s.modDie d fun x => { x with zeroing := x.zeroing ++ [{ walk := w, pa := pa, big := level == 1, level := level, pte := p, ptePa := at_ }] }
  | _ => s

/-- WALK (R256). -/
def execWalk (d : Nat) (s : State) : Host.Outcome State Fault Refusal := run (modify (·.walkStep d)) s

/-- The zero engine's frame (R260): zero at every die. -/
def State.zeroFrame (s : State) (pa n : Nat) : State :=
  ({ s with wr := s.wr ++ [.clear pa n], dies := s.dies.map (·.catchUp pa n) } : State).cleanLines pa n

/-- FRAME_ZEROED: the frame is zero; the walker installs the PTE by compare-and-swap, or returns the frame and takes the PTE
it finds by walking again (R260, R261). -/
def State.frameZeroed (s : State) (d : Nat) : State :=
  match (s.dies[d]?).map (·.zeroing) with
  | some (z :: rest) =>
    let s := s.modDie d fun x => { x with zeroing := rest }
    let now : W64 := BitVec.ofNat 64 (s.physNum z.ptePa 8)
    let s := s.zeroFrame z.pa (leafSize z.level)
    if now = z.pte then
      let p := touchedPte z.pte z.pa
      let s := s.physWrite z.ptePa (leBytes p.toNat 8)
      (s.fillTlb d { asid := z.walk.asid, mirror := z.walk.mirror, page := z.walk.off / leafSize z.level * leafSize z.level,
                     level := z.level, pte := p, ptePa := z.ptePa } z.walk.waiters).modDie d Die.refill
    else s.modDie d fun x => ((x.returnFrame z.big z.pa).addWalk z.walk).refill
  | _ => s

/-- FRAME_ZEROED (R260). -/
def execFrameZeroed (d : Nat) (s : State) : Host.Outcome State Fault Refusal := run (modify (·.frameZeroed d)) s

/-! ## The instruction cache (R170) -/

/-- A line put into a core's cache of 1536 lines; the one given up is the part's choice (log 9). -/
def Core.fillLine (co : Core) (ctr : Nat) (l : ILine) : Core :=
  if (co.line? l.asid l.va).isSome then co
  else if co.icache.length < 1536 then { co with icache := l :: co.icache }
  else { co with icache := l :: co.icache.eraseIdx (Config.icacheVictim ctr % 1536) }

/-- A fetch that meets a stop condition traps at its position (R170, R424). -/
def State.fetchTrap (s : State) (c k : Nat) (e : Engine) (t : TrapReq) : State :=
  s.modCtx c k (·.post (t.toTrap c k e false s.now))

/-- The access that fetches a line of another package's memory. -/
def fetchAccess (s : State) (c k : Nat) (e : Engine) (lid line pkg off : Nat) : Access :=
  { id := s.nextId, group := s.nextId, ofs := 0, total := 64, agent := { code := agentCode e.tag k 0 c, lid := lid }, die := dieOf c,
    who := .fetch c k e, kind := .load, home := .peer pkg, va := BitVec.ofNat 64 line, pa := off, size := 64, data := [],
    mods := ⟨0, 0, 0, 0⟩, dest := 0, signed := false, precise := true, performed := false, answer := [], fail := none, sent := false,
    sect := 0, word := 0 }

/-- The first fetch waiting on a core gets its line, or meets what stands against it (R170); one whose engine holds asks again when
it is released (R413). -/
def State.fillFetch (s : State) (c : Nat) : State :=
  match (s.cores[c]?).map (·.misses) with
  | some ((asid, line, e, k) :: rest) =>
    let done (s : State) : State := s.modCore c fun co => { co with misses := co.misses.filter (· != (asid, line, e, k)) }
    let later (s : State) : State := s.modCore c fun co => { co with misses := rest ++ [(asid, line, e, k)] }
    match ((s.ctx? c k).filter fun x => !(x.eng e).held).map (·.lid) with
    | none => done s
    | some lid =>
      let put (s : State) (b : List Byte) : State :=
        (done { s with freeCtr := s.freeCtr + 1 }).modCore c (·.fillLine s.freeCtr { asid := asid, va := line, bytes := b })
      let w (mirror : Bool) (off : Nat) (va : W64) : Walk :=
        { asid := asid, mirror := mirror, off := off, va := va, kind := 3, lid := lid, agent := agentCode e.tag k 0 c, waiters := [.fetch c k e] }
      match s.find (dieOf c) (some c) asid (BitVec.ofNat 64 line) 64 3 with
      | .stop t => done (s.fetchTrap c k e t)
      | .miss mirror off va => later (s.modDie (dieOf c) (·.addWalk (w mirror off va)))
      | .posted va cause sub psize info => done (s.postWalk (dieOf c) cause sub psize info (w false 0 va))
      | .peer pkg off =>
        match s.accs.find? fun a => a.who == .fetch c k e && a.va == BitVec.ofNat 64 line with
        | none => later { s with accs := s.accs ++ [fetchAccess s c k e lid line pkg off], nextId := s.nextId + 1 }
        | some a =>
          if !a.performed then later s
          else
            let s := { s with accs := s.accs.filter (·.id != a.id) }
            match a.fail with
            | some (cause, sub) => done (s.fetchTrap c k e { cause := cause, sub := sub, va := BitVec.ofNat 64 line })
            | none => put s a.answer
      | .parts ps =>
        match s.badLine (dieOf c) .load ps with
        | some (sub, l) => done (s.fetchTrap c k e { cause := 13, sub := sub, info2 := BitVec.ofNat 64 (64 * l) })
        | none =>
          let b := ps.flatMap fun (pa, n, home, _) => match home with
            | .mirror _ => s.phys (replica (dieOf c) pa) n
            | _ => s.dieBytes (dieOf c) pa n
          put s b
  | _ => s

/-- ICACHE_FILL (R170). -/
def execIcacheFill (c : Nat) (s : State) : Host.Outcome State Fault Refusal := run (modify (·.fillFetch c)) s

end Sys2Proof.Machine
end

