-- ==== Sys2Proof/Machine/Peers.lean ====
section
/-!
DEFINITION. Accesses across packages (R247, R453 to R456): the export table at the target, requests, replies and lost links.
-/
namespace Sys2Proof.Machine

/-- A translation made whole in one step, with a first touch from die `d`'s pool (R122, R247): the address and the state. -/
def State.walkNow (s : State) (d asid : Nat) (mirror : Bool) (off kind : Nat) : State × Xlate :=
  match s.xlate d none asid mirror off kind with
  | .miss =>
    match s.pageWalk asid mirror off with
    | .leaf l => (s.fillTlb d l [], l.use mirror off kind)
    | .fault cause sub psize info => (s, .posted cause sub psize info)
    | .touch level p at_ =>
      match s.takeFrame d (level == 1) with
      | none => (s, .posted 9 1 level (level * 2 ^ 40 + at_))
      | some (pa, s) =>
        let q := touchedPte p pa
        let l : Leaf := { asid := asid, mirror := mirror, page := off / leafSize level * leafSize level, level := level, pte := q, ptePa := at_ }
        let s := (s.zeroFrame pa (leafSize level)).physWrite at_ (leBytes q.toNat 8)
        (s.fillTlb d l [], l.use mirror off kind)
  | x => (s, x)

/-- Why a range has no translation: CAUSE, SUB, PSIZE and INFO of the fault (R414), and how far into the range it was met. -/
structure RangeFault where
  cause : Nat
  sub   : Nat
  psize : Nat := 3
  info  : Nat := 0
  ofs   : Nat := 0

/-- Several sectors translated in one step: the parts, or the first fault. -/
def State.partsNow (s : State) (d asid : Nat) (mirror : Bool) (off kind : Nat) :
    List (Nat × Nat) → List (Nat × Nat × AccHome × Nat) → State × Except RangeFault (List (Nat × Nat × AccHome × Nat))
  | [], acc => (s, .ok acc.reverse)
  | (o, n) :: rest, acc =>
    match s.walkNow d asid mirror o kind with
    | (s, .at pa seq) => s.partsNow d asid mirror off kind rest ((pa, n, homeOf pa seq, o - off) :: acc)
    | (s, .posted cause sub psize info) => (s, .error { cause := cause, sub := sub, psize := psize, info := info, ofs := o - off })
    | (s, .miss) => (s, .error { cause := 9, sub := 0, ofs := o - off })

/-- A virtual range of an ASID translated in one step for a unit of the package (R122): global, mirror or capability window. -/
def State.rangeNow (s : State) (d asid : Nat) (va : W64) (size kind : Nat) :
    State × Except RangeFault (List (Nat × Nat × AccHome × Nat)) :=
  match s.target asid va size kind with
  | .ok (.here mirror off) => s.partsNow d asid mirror off kind (sectors off size) []
  | .ok (.peer _ _) => (s, .error { cause := 9, sub := 5 })
  | .error t => (s, .error { cause := t.cause, sub := t.sub })

/-- What a peer request may do at its target (R247): the parts of its bytes, or the answer that refuses it. An export-table entry whose
must-be-zero fields are not zero refuses as a protection fault does (DESIGN CHOICE: R247 names no answer for it; log 27). -/
def State.peerResolve (s : State) (d off size kind : Nat) : State × Except PeerAnswer (List (Nat × Nat × AccHome × Nat)) :=
  let o := off % 2 ^ 32
  if !s.ctl.expTab.getLsbD 0 then (s, .error .protection)
  else
    let e := s.physNum (bitsOf s.ctl.expTab 39 16 * 65536 + 16 * (off / 2 ^ 32 % 4096)) 16
    let base := e % 2 ^ 64
    if e / 2 ^ 127 % 2 = 0 ∨ e / 2 ^ 108 % 2 ^ 17 ≠ 0 ∨ e / 2 ^ 80 % 2 ^ 16 ≠ 0 ∨ 65536 * (e / 2 ^ 64 % 2 ^ 16 + 1) ≤ o ∨
       (kind = 0 ∧ e / 2 ^ 125 % 2 = 0) ∨ (kind ≠ 0 ∧ e / 2 ^ 126 % 2 = 0) ∨ 2 ^ 62 < base + o + size then (s, .error .protection)
    else
      match s.partsNow d (e / 2 ^ 96 % 4096) false (base + o) kind (sectors (base + o) size) [] with
      | (s, .ok ps) => (s, .ok ps)
      | (s, .error f) => (s, .error (if f.cause = 10 then .protection else .translation))

/-- The cause and SUB a refused peer access ends in at its requester (R247); one whose data is uncorrectable is a machine-check there
(R424), with an answer of its own, since R247 names none (DESIGN CHOICE, log 26). -/
def peerFail : PeerAnswer → Nat × Nat
  | .protection => (10, 3)
  | .machineCheck sub => (13, sub)
  | _ => (9, 5)

/-- What a request asks for, as an access has it. -/
def opKind : PeerOp → AccKind
  | .read => .load
  | .write _ => .store
  | .atomic op sg _ expect => .atomic op sg expect

/-- The bytes a request brings. -/
def opData (size : Nat) : PeerOp → List Byte
  | .read => []
  | .write d => d
  | .atomic _ _ x _ => leBytes x.toNat size

/-- What an access asks of its target. -/
def AccKind.peerOp (data : List Byte) : AccKind → PeerOp
  | .load => .read
  | .store => .write data
  | .atomic op sg expect => .atomic op sg (BitVec.ofNat 64 (leNum data)) expect

/-- The compute die whose walker serves a port's requests: the lowest its I/O die connects to (R11, R12). -/
def portDie (p : Nat) : Nat := if p < 4 then 0 else 1

/-- The parts of an access as accesses of their own, at their homes; the first keeps the access's number. -/
def Access.split (a : Access) (id : Nat) : Nat → List (Nat × Nat × AccHome × Nat) → List Access
  | _, [] => []
  | n, (pa, len, home, ofs) :: rest =>
    { a with id := if n = 0 then a.id else id + n, ofs := a.ofs + ofs, home := home, va := a.va + BitVec.ofNat 64 ofs, pa := pa,
             size := len, data := (a.data.drop ofs).take len } :: a.split id (n + 1) rest

/-- An access fails: it is over with nothing done. -/
def State.failAcc (s : State) (id cause sub : Nat) : State :=
  s.modAcc id fun a => { a with performed := true, fail := some (cause, sub) }

/-- Whether a port's link is lost: it stays down after its 2 ms, or was never trained (R456; log 16). -/
def State.portLost (s : State) (p : Nat) : Bool :=
  match s.links.ports[p]? with
  | some x => !x.up && x.downAt.isNone
  | none => true

/-- A message leaves by a port. -/
def State.send (s : State) (m : OutMsg) : State := { s with links := { s.links with out := s.links.out ++ [m] } }

/-- A peer access that may be performed goes to its package (R247, R454): this one's own export table, or a message. -/
def State.peerIssue (s : State) (a : Access) (pkg : Nat) : State :=
  if pkg = bitsOf s.ctl.pkgid 17 0 then
    match s.peerResolve (if a.die < 8 then a.die else 0) a.pa a.size a.kind.code with
    | (s, .ok ps) =>
      { s with accs := s.accs.flatMap fun x => if x.id = a.id then a.split s.nextId 0 ps else [x], nextId := s.nextId + ps.length }
    | (s, .error ans) => s.failAcc a.id (peerFail ans).1 (peerFail ans).2
  else
    let p := s.routePort pkg
    let host := match s.links.ports[p]? with | some x => x.host | none => true
    if host then s.failAcc a.id 10 3
    else if s.portLost p then s.failAcc a.id 14 0
    else (s.send (.request p pkg a.id (BitVec.ofNat 44 a.pa) a.size (a.kind.peerOp a.data))).modAcc a.id fun x => { x with sent := true }

/-- PEER_REQUEST_ARRIVAL: a request from another package becomes accesses of this one, or is refused (R247). -/
def State.peerRequest (s : State) (r : PeerRequest) : State :=
  let kind := opKind r.op
  match s.peerResolve (portDie r.port) r.off.toNat r.size kind.code with
  | (s, .error ans) => s.send (.reply r.port r.src r.id ans)
  | (s, .ok ps) =>
    let a : Access :=
      { id := s.nextId, group := s.nextId, ofs := 0, total := r.size, agent := { code := 7 * 2 ^ 17, lid := 0 }, die := 8,
        who := .package, kind := kind, home := .die 0, va := 0, pa := 0, size := r.size, data := opData r.size r.op,
        mods := ⟨0, 4, 0, 0⟩, dest := r.port, signed := false, precise := true, performed := false, answer := [], fail := none, sent := false,
        sect := r.src, word := r.id }
    { s with accs := s.accs ++ a.split s.nextId 0 ps, nextId := s.nextId + 1 + ps.length }

/-- PEER_REQUEST_ARRIVAL (R247). -/
def execPeerRequestArrival (r : PeerRequest) (s : State) : Host.Outcome State Fault Refusal := run (modify (·.peerRequest r)) s

/-- PEER_REPLY_ARRIVAL: a reply ends the access it answers, or is late (R247, R286, R423). -/
def State.peerReply (s : State) (r : PeerReply) : State :=
  let known := s.accs.any fun a => a.id == r.id && a.sent && !a.performed && (match a.home with | .peer _ => true | _ => false)
  let push := s.cmds.any fun x => x.id == r.id && x.state == .sent
  let late := s.modDie 0 (·.countLate)
  match r.ans with
  | .accepted | .refused | .full =>
    if push then { s with links := { s.links with pushAns := s.links.pushAns ++ [(r.id, r.ans)] } } else late
  | .data b => if known then s.modAcc r.id fun a => { a with performed := true, answer := b } else late
  | .done => if known then s.modAcc r.id fun a => { a with performed := true } else late
  | .protection => if known then s.failAcc r.id 10 3 else late
  | .translation => if known then s.failAcc r.id 9 5 else late
  | .machineCheck sub => if known then s.failAcc r.id 13 sub else late

/-- PEER_REPLY_ARRIVAL (R247). -/
def execPeerReplyArrival (r : PeerReply) (s : State) : Host.Outcome State Fault Refusal := run (modify (·.peerReply r)) s

end Sys2Proof.Machine
end

