-- ==== Sys2Proof/Machine/Tables.lean ====
section
/-!
DEFINITION. The tile and record tables as S changes and reads them (R205 to R210).
-/
namespace Sys2Proof.Machine

/-- The modes of an object's read (R206): CTXMEM's reading order and race mode at core scope. -/
def tableMods : M Mods := do
  let l ← launchHere
  pure { modsOf none ((l.map Launch.ctxmem).getD 0) 0 with scope := 0 }

/-- The 768 bits twelve dwords make. -/
def objOf (d : List W64) : Obj :=
  BitVec.ofNat 768 ((d.zipIdx).foldl (fun n (w, i) => n + w.toNat * 2 ^ (64 * i)) 0)

/-- The read of an object or record at `va` (R206, R209). -/
def readObject (h : Here) (s0 : State) (va : W64) (fin : Obj → M Unit) : M Unit := do
  if va.toNat % 32 ≠ 0 then formatTrap
  else do
    let mods ← tableMods
    memIssue h s0 { kind := .load, va := va, size := 96, data := [], dest := 0, signed := false, mods := mods, wait := true, wi := h.eng.interval.toNat }
      (fun d => fin (objOf d))

/-- The status a table word writes, and its end (R183, R205). -/
def tableStatus (r v : Nat) : M Unit := do
  writeReg r (BitVec.ofNat 64 v) 1
  advance

/-- TDEF's effect once its object is read (R206). -/
def defineTile (h : Here) (t st : Nat) (o : Obj) : M Unit := do
  if !tileValid o then formatTrap
  else do
    let s ← get
    if 256 ≤ (((s.cores[h.c]?).map Core.liveTiles).getD []).length then tableStatus st 1
    else match s.tileRoom h.c o with
      | none => tableStatus st 2
      | some (first, count) => do
        modify fun s => s.placeTile h.c h.k t o first count (s.now + 1)
        tableStatus st 0

/-- TDEF (R206). -/
def execTdef (x : TWord) (s : State) : Host.Outcome State Fault Refusal :=
  run (do
    let s0 ← get
    let on ← guardOn x.guard
    if on then do
      let va ← readReg x.preg.toNat
      let h ← here
      if h.ctx.tiles.any (·.1 == x.td.toNat) then raise { cause := 4 }
      else readObject h s0 va (defineTile h x.td.toNat (bitsOf x.cmd 5 0))
    else advance) s

/-- The last engine of a core with a turn still to come in this cycle, other than the one whose turn it is. -/
def State.laterTurn (s : State) (c : Nat) : Option Nat :=
  (s.agenda.filterMap fun t => match t with
    | .core d e => if d = c ∧ e ≠ s.curEng then some e.tag else none
    | .again d e _ => if d = c ∧ e ≠ s.curEng then some e.tag else none
    | _ => none).getLast?

/-- A word of S that acts on what the other engines use goes last of its cycle, after their words of that cycle (R67, R210). -/
def afterOthers : M Unit := do
  let h ← here
  let s ← get
  match s.laterTurn h.c with
  | some tag => if s.curTry < 5 then throw (.later tag) else stall
  | none => pure ()

/-- TFREE (R66, R67, R207): it acts once every engine has issued in its cycle; from then no new use starts; it waits for those that
did. -/
def execTfree (x : TWord) (s : State) : Host.Outcome State Fault Refusal :=
  run (do
    let on ← guardOn x.guard
    let h ← here
    let s ← get
    let t := x.td.toNat
    if on then
      match h.ctx.tiles.find? (·.1 == t) with
      | none => formatTrap
      | some (_, d) =>
        if s.now < d.live then formatTrap
        else do
          afterOthers
          if s.tileInUse h.c h.k t (d.freeing.getD s.now) then
            modCtx fun y => { y with tiles := y.tiles.map fun (u, d) => if u = t then (u, { d with freeing := some (d.freeing.getD s.now) }) else (u, d) }
          else do
            modCtx fun y => { y with tiles := y.tiles.filter (·.1 != t) }
            advance
    else advance) s

/-- TINFO (R208): a free handle, or one a TDEF defines in this cycle, reads 0. -/
def execTinfo (x : TWord) (s : State) : Host.Outcome State Fault Refusal :=
  run (do
    let on ← guardOn x.guard
    let h ← here
    let s ← get
    if on then do
      tableOk (tileKey h.c h.k x.ta.toNat)
      let j := bitsOf x.cmd 3 0
      let o : Obj := match h.ctx.tiles.find? fun (u, d) => u == x.ta.toNat && decide (d.live ≤ s.now) && d.freeing.isNone with
        | some (_, d) => d.obj
        | none => 0
      writeReg x.preg.toNat (BitVec.ofNat 64 (bitsOf o (64 * j + 63) (64 * j))) 1
    else pure ()
    advance) s

/-- CDEF's effect once its record is read (R209). -/
def defineRecord (h : Here) (slot st : Nat) (o : Obj) : M Unit := do
  if !recordValid o then formatTrap
  else do
    let s ← get
    let n := (((s.cores[h.c]?).map (·.slots)).getD []).foldl (fun n y => n + ((y.map (·.recs)).getD []).length) 0
    if 64 ≤ n then tableStatus st 1
    else do
      modify (·.cleanTable (recordKey h.c h.k slot))
      modCtx fun y => { y with recs := y.recs ++ [(slot, o, s.now + 1)] }
      tableStatus st 0

/-- CDEF (R209). -/
def execCdef (x : TWord) (s : State) : Host.Outcome State Fault Refusal :=
  run (do
    let s0 ← get
    let on ← guardOn x.guard
    if on then do
      let va ← readReg x.preg.toNat
      let h ← here
      if h.ctx.recs.any (·.1 == bitsOf x.cmd 11 6) then raise { cause := 4 }
      else readObject h s0 va (defineRecord h (bitsOf x.cmd 11 6) (bitsOf x.cmd 5 0))
    else advance) s

/-- CFREE (R210): after every engine has issued in its cycle; a JOIN reads its record as it issues (R315), so no read is left to wait for. -/
def execCfree (x : TWord) (s : State) : Host.Outcome State Fault Refusal :=
  run (do
    let on ← guardOn x.guard
    let h ← here
    if on then
      if h.ctx.recs.any (·.1 == bitsOf x.cmd 11 6) then do
        afterOthers
        modCtx fun y => { y with recs := y.recs.filter (·.1 != bitsOf x.cmd 11 6) }
        advance
      else formatTrap
    else advance) s

end Sys2Proof.Machine
end

