-- ==== Sys2Proof/Machine/Barriers.lean ====
section
/-!
DEFINITION. Barriers (R362 to R373): BARINIT, BARRIVE, BWAIT, BTEST, and the end of a cycle, in which a core's barriers take
the cycle's updates.
-/
namespace Sys2Proof.Machine

/-- The places of a core's barrier file taken, those of this cycle's BARINITs counted (R362). -/
def Core.liveBars (co : Core) : Nat :=
  co.slots.foldl (fun n o => match o with
    | some x => n + x.bars.length + (((x.inits.filter fun (b, _, e) => e != 0 && !x.bars.any (·.1 == b)).map (·.1)).eraseDups).length
    | none => n) 0

/-- Whether any use of a context's barrier has not ended (R364). -/
def State.barInUse (s : State) (c k b : Nat) : Bool :=
  s.cmds.any (fun x => x.c == c && x.k == k && x.bar == b && x.unit != 5) ||
    s.text.copies.any (fun x => x.c == c && x.k == k && x.bar == b) ||
    (match s.ctx? c k with
     | some x => x.arrivals.any (·.bar == b)
     | none => false)

/-- BARINIT (R370): the state changes at the end of the cycle (R366). -/
def execBarinit (x : TWord) (s : State) : Host.Outcome State Fault Refusal :=
  run (do
    let on ← guardOn x.guard
    if on then do
      let v ← countOf on x.preg
      let h ← here
      let s ← get
      let b := x.bar.toNat
      let e := v.toNat + bitsOf x.cmd 31 0
      if e = 0 ∨ 2 ^ 32 ≤ e then formatTrap
      else if !(h.ctx.bars.any (·.1 == b)) && !(h.ctx.inits.any fun (q, _, f) => q == b && f != 0) &&
          decide (1024 ≤ ((s.cores[h.c]?).map Core.liveBars).getD 0) then formatTrap 2
      else do
        modify (·.cleanTable (barKey h.c h.k b))
        modCtx fun y => { y with inits := y.inits ++ [(b, h.e.tag, BitVec.ofNat 32 e)] }
    else pure ()
    advance) s

/-- BARINIT.f (R370): it waits for every use to end, then frees the barrier. -/
def execBarinitF (x : TWord) (s : State) : Host.Outcome State Fault Refusal :=
  run (do
    let on ← guardOn x.guard
    if on then do
      let h ← here
      let s ← get
      let b := x.bar.toNat
      if h.ctx.bars.any (·.1 == b) then do
        require (!s.barInUse h.c h.k b)
        modCtx fun y => { y with inits := y.inits ++ [(b, h.e.tag, 0)] }
      else pure ()
    else pure ()
    advance) s

/-- A BARRIVE on its way (R371): a command without a barrier of its own, which releases the engine's earlier writes (R368). -/
def sendArrive (h : Here) (x : TWord) (n : W64) (targets : List Nat) : M Unit := do
  let s ← get
  addCmd { h.command s (.barrive x) 5 0 x.bar.toNat [n] ⟨2, 0, 0, 0⟩ with ranges := targets.map (·, 0), next := s.nextId }
  modify (·.bumpInterval (agentCode h.e.tag h.k 0 h.c))

/-- BARRIVE (R371). -/
def execBarrive (x : TWord) (s : State) : Host.Outcome State Fault Refusal :=
  run (do
    let on ← guardOn x.guard
    if on then do
      let v ← countOf on x.preg
      let h ← here
      let n := v.toNat + bitsOf x.cmd 15 0
      if 2 ^ 32 ≤ n then formatTrap
      else do
        liveBar x.bar.toNat
        sendArrive h x (BitVec.ofNat 64 n) [h.c]
    else pure ()
    advance) s

/-- BARRIVE.r (R371): the barrier it names is one of each target (R367). -/
def execBarriveR (x : TWord) (s : State) : Host.Outcome State Fault Refusal :=
  run (do
    let on ← guardOn x.guard
    if on then do
      let v ← countOf on x.preg
      let h ← here
      let l ← launchHere
      let n := v.toNat + bitsOf x.cmd 15 0
      let rect := bitsOf x.cmd 32 17
      match l with
      | none => formatTrap
      | some l =>
        if 2 ^ 32 ≤ n ∨ !rectOk rect l.spanW l.spanH then formatTrap
        else
          let (ox, oy) := (l.origin?).getD (0, 0)
          sendArrive h x (BitVec.ofNat 64 n) ((rectOf rect).cores.map fun (a, b) => ox + a + 32 * (oy + b))
    else pure ()
    advance) s

/-- BWAIT (R372): the state read is the cycle's start state. -/
def execBwait (x : TWord) (s : State) : Host.Outcome State Fault Refusal :=
  run (do
    let on ← guardOn x.guard
    if on then do
      let h ← here
      let v ← if x.cmd.getLsbD 1 then countOf on x.preg else pure 0
      let p := if x.cmd.getLsbD 1 then v.getLsbD 0 else x.cmd.getLsbD 0
      tableOk (barKey h.c h.k x.bar.toNat)
      match h.ctx.bar? x.bar.toNat with
      | none => formatTrap
      | some b => require (b.phase != p || b.ref || b.lost)
    else pure ()
    advance) s

/-- Write the low 64 bits of a register of V, every other bit zero, its side-car unchanged; or a scalar register (R373). -/
def writeLow (r : Nat) (v : W64) : M Unit := do
  let h ← here
  let s ← get
  if h.e = .V then do
    require (!h.eng.isBusy s.now r)
    modCtx fun y => { y with vregs := y.vregs.set r (v.setWidth 4096) }
  else writeReg r v 1

/-- BTEST (R373): the sticky bits are cleared at the end of the cycle. -/
def execBtest (x : TWord) (s : State) : Host.Outcome State Fault Refusal :=
  run (do
    let on ← guardOn x.guard
    if on then do
      let h ← here
      tableOk (barKey h.c h.k x.bar.toNat)
      let b := h.ctx.bar? x.bar.toNat
      writeLow (bitsOf x.cmd 5 0) ((b.map Barrier.word).getD 0)
      if x.cmd.getLsbD 6 && b.isSome then modCtx fun y => { y with clears := y.clears ++ [x.bar.toNat] } else pure ()
    else pure ()
    advance) s

/-! ## The end of a cycle (R365 to R367) -/

/-- The phases `n` bytes complete at a barrier of COUNT `c` and EXPECT `e`, and the COUNT left (R365). -/
def flipsOf (n c e : Nat) : Nat × Nat :=
  if n < c then (0, c - n)
  else (1 + (n - c) / e, e - (n - c) % e)

/-- An arrival of a cycle's sum (R365). -/
def Barrier.take (b : Barrier) (n : Nat) (ref lost : Bool) : Barrier :=
  let (flips, count) := flipsOf n b.count.toNat b.expect.toNat
  { b with count := BitVec.ofNat 32 count, phase := b.phase != (flips % 2 == 1), ovf := b.ovf || decide (2 ≤ flips),
           ref := b.ref || ref, lost := b.lost || lost }

/-- A BARINIT's barrier (R370). -/
def Barrier.fresh (e : BitVec 32) : Barrier := ⟨e, e, false, false, false, false⟩

/-- A cycle's BARINITs of a context: of each barrier the highest engine tag's (R366). -/
def Ctx.applyInits (x : Ctx) : Ctx :=
  let names := (x.inits.map (·.1)).eraseDups
  let last (b : Nat) := (x.inits.filter (·.1 == b)).foldl (fun (m : Option (Nat × BitVec 32)) (_, t, e) => match m with
    | some (u, f) => if u ≤ t then some (t, e) else some (u, f)
    | none => some (t, e)) none
  let bars := names.foldl (fun bs b => match last b with
    | some (_, e) =>
      if e = 0 then bs.filter (·.1 != b)
      else if bs.any (·.1 == b) then bs.map fun (q, v) => if q = b then (q, .fresh e) else (q, v)
      else bs ++ [(b, .fresh e)]
    | none => bs) x.bars
  { x with bars := bars, inits := [] }

/-- The arrivals that have reached a context are applied, each barrier's as one (R366); those at free barriers are discarded. -/
def Ctx.applyArrivals (x : Ctx) (now : Nat) : Ctx :=
  let due := x.arrivals.filter fun a => decide (a.due ≤ now)
  let bars := x.bars.map fun (b, v) =>
    let mine := due.filter (·.bar == b)
    if mine.isEmpty then (b, v)
    else (b, v.take ((mine.map (·.n)).foldl (· + ·) 0) (mine.any (·.ref)) (mine.any (·.lost)))
  { x with bars := bars, arrivals := x.arrivals.filter fun a => decide (now < a.due) }

/-- BTEST.c's clears, last (R366). -/
def Ctx.applyClears (x : Ctx) : Ctx :=
  { x with bars := x.bars.map fun (b, v) => if x.clears.contains b then (b, { v with ovf := false, lost := false, ref := false })
                                          else (b, v), clears := [] }

/-- A BARRIVE that may be sent: its engine's earlier accesses are performed, and for a remote one the writes it follows are
applied at the span's dies; V's earlier tile writes have taken effect (R368, R238). -/
def State.arriveReady (s : State) (x : Cmd) : Bool :=
  s.allPerformed { code := agentCode x.eng.tag x.k 0 x.c, lid := x.lid } x.next &&
    (match x.ins with
     | .barrive w => !w.cmd.getLsbD 33 || s.causedApplied (dieOf x.c) (s.scopeDies 1 (dieOf x.c) x.lid)
     | _ => true) &&
    (x.eng != .V || match s.ctx? x.c x.k with
      | some y => y.twrites.all fun w => decide (x.issued ≤ w.issued)
      | none => true)

/-- The arrivals of a BARRIVE: at its own context, or through the mesh (R14, R367). -/
def State.sendArrivals (s : State) (x : Cmd) : State :=
  let n := (((x.regs[0]?).getD 0).toNat)
  let remote := match x.ins with | .barrive w => w.cmd.getLsbD 33 | _ => false
  let a (c : Nat) : Arrival := { bar := x.bar, n := n, ref := false, lost := false, lid := x.lid, core := c,
                                 due := s.now + (if remote then transit x.c c else 0), cmd := x.id }
  let s := s.modCmd x.id fun y => { y with state := .sent }
  { s with remote := s.remote ++ x.ranges.map fun (c, _) => a c }

/-- The slot of a core that holds a launch's context. -/
def Core.slotOf (co : Core) (lid : Nat) : Option Nat :=
  (co.slots.zipIdx).findSome? fun (o, k) => match o with | some x => if x.lid = lid then some k else none | none => none

/-- Remote arrivals that reach a core now enter its context's; one for a core without the launch is discarded, counted
late when the launch is gone (R367, R423). -/
def State.landArrivals (s : State) (c : Nat) : State :=
  let due := s.remote.filter fun a => a.core == c && decide (a.due ≤ s.now)
  let s := { s with remote := s.remote.filter fun a => !(a.core == c && decide (a.due ≤ s.now)) }
  due.foldl (fun s a => match (s.cores[c]?).bind (·.slotOf a.lid) with
    | some k => s.modCtx c k fun x => { x with arrivals := x.arrivals ++ [a] }
    | none => if (s.launch? a.lid).isSome then s else s.modDie (dieOf c) (·.countLate)) s

/-- BARRIVEs complete once every target has taken their arrivals (R371). -/
def State.endArrives (s : State) : State :=
  { s with cmds := s.cmds.filter fun x => !(x.unit == 5 && x.state == .sent && !s.remote.any (·.cmd == x.id) &&
      !s.cores.any fun co => co.slots.any fun o => match o with | some y => y.arrivals.any (·.cmd == x.id) | none => false) }

/-- BARRIER_ARRIVAL: a core's barriers at the end of a cycle (R365 to R367). -/
def execBarrierArrival (c : Nat) (s : State) : Host.Outcome State Fault Refusal :=
  run (modify fun s =>
    let s := (s.cmds.filter fun x => x.unit == 5 && x.c == c && x.state == .waiting).foldl
      (fun s x => if s.arriveReady x then s.sendArrivals x else s) s
    let s := s.landArrivals c
    let s := s.modCore c fun co =>
      { co with slots := co.slots.map (Option.map fun x => ((x.applyInits).applyArrivals s.now).applyClears) }
    s.endArrives) s

end Sys2Proof.Machine
end

