-- ==== Sys2Proof/Machine/FenceOps.lean ====
section
/-!
DEFINITION. FENCE (R391 to R393).
-/
namespace Sys2Proof.Machine

/-- Whether the earlier accesses a fence orders are performed: the engine's own on S and A, those of its commands on V, B
and X (R392). `mark` is the first number given out after the fence's issue. -/
def State.fencePerformed (s : State) (h : Here) (mark : Nat) : Bool :=
  if h.e = .S ∨ h.e = .A then s.allPerformed { code := agentCode h.e.tag h.k 0 h.c, lid := h.ctx.lid } mark
  else !s.cmds.any fun x => x.c == h.c && x.k == h.k && x.eng == h.e && x.unit != 5 && decide (x.id < mark)

/-- The agents a fence's release marks: the engine, X's copy queues, A's walk unit (R392, R401). -/
def fenceAgents (h : Here) : List Nat :=
  agentCode h.e.tag h.k 0 h.c ::
    (if h.e = .X then (List.range 8).map fun q => agentCode 5 h.k q h.c
     else if h.e = .A then [agentCode 6 h.k 0 h.c] else [])

/-- The engine a FENCE gives way to in its issue cycle, so that the words the others issue in it count (R392): not more than twice, since
a word of theirs may itself wait for the others. -/
def State.fenceBehind (s : State) (c : Nat) : Option Nat := if s.curTry < 2 then s.laterTurn c else none

/-- Whether what a FENCE waits for is done (R392): the tile writes issued by cycle `cyc`; where it releases, the accesses before `mark`
and the application of what they follow at the dies of its scope; for a full one of package scope and above, at all of them. -/
def State.fenceDone (s : State) (h : Here) (m : Mods) (cyc mark : Nat) : Bool :=
  s.tileWritesDone h.c h.k cyc &&
    (!releases m.order ||
      (s.fencePerformed h mark && s.causedApplied (dieOf h.c) (s.scopeDies m.scope (dieOf h.c) h.ctx.lid) &&
        (!(decide (m.order = 4) && decide (3 ≤ m.scope)) || s.causedApplied (dieOf h.c) (List.range 8))))

/-- FENCE (R392): the tile wait, the release, the full barrier; the acquire needs no wait, since a die serves a read only
once it has applied what its agents follow (log 8). What it orders stands from its issue cycle. -/
def execFence (x : IWord) (s : State) : Host.Outcome State Fault Refusal :=
  run (do
    let on ← guardOn x.guard
    if on then do
      let mods ← modsHere 2
      let h ← here
      let s ← get
      let (cyc, mark) ← match h.eng.fence with
        | some p => pure p
        | none => match s.fenceBehind h.c with
          | some tag => throw (.later tag)
          | none => pure (s.now, s.nextId)
      if s.fenceDone h mods cyc mark then do
        if releases mods.order then modify fun s => (fenceAgents h).foldl State.bumpInterval s else pure ()
        modEng fun en => { en with fence := none }
        advance
      else modEng fun en => { en with fence := some (cyc, mark) }
    else advance) s

end Sys2Proof.Machine
end

