-- ==== Sys2Proof/Machine/Queues.lean ====
section
/-!
DEFINITION. Stage queues (R154 to R156) and range units (R157 to R159): the words of S and A, and the units' service.
A request waits in its queue or unit; its answer completes the word that holds for it.
-/
namespace Sys2Proof.Machine

/-! ## Stage queues -/

/-- The entry of queue `q` of a launch's map, when the queue is present (R147). -/
def Launch.queueEnt? (l : Launch) (q : Nat) : Option QueueEnt :=
  if l.oneStage then none
  else let e := queueEnt l.smap q; if e.ldepth = 0 then none else some e

/-- The core that serves a queue: the origin of RECT0 of its CONS stage (R154). -/
def Launch.servingCore (l : Launch) (q : Nat) : Nat :=
  let (ox, oy) := (l.origin?).getD (0, 0)
  match l.queueEnt? q with
  | some e =>
    let r := rectOf (((stageEnt l.smap e.cons).rects[0]?).getD 0)
    ox + r.x + 32 * (oy + r.y)
  | none => 0

/-- The contents of a queue. -/
def Launch.queue (l : Launch) (q : Nat) : StageQ := (l.squeues[q]?).getD { entries := [], reqs := [] }

/-- A queue changed. -/
def Launch.modQueue (l : Launch) (q : Nat) (f : StageQ → StageQ) : Launch := { l with squeues := l.squeues.modify q f }

/-- A request on its way to a queue (R154). -/
def State.queueRequest (s : State) (lid q : Nat) (r : SqReq) : State :=
  s.modLaunch lid (·.modQueue q fun x => { x with reqs := x.reqs ++ [r] })

/-- The release a push carries, at span scope (R156): the engine's earlier accesses performed, what it follows applied. -/
def releaseSpan (h : Here) : M Unit := do
  let s ← get
  require (s.allPerformed { code := agentCode h.e.tag h.k 0 h.c, lid := h.ctx.lid } s.nextId)
  require (s.causedApplied (dieOf h.c) (s.scopeDies 1 (dieOf h.c) h.ctx.lid))

/-- The request of S's word: it is sent, and the word holds for the answer. -/
def askQueue (h : Here) (l : Launch) (q op : Nat) (try_ : Bool) (data : List W64) : M Unit := do
  let s ← get
  modify (·.queueRequest h.ctx.lid q { c := h.c, k := h.k, op := op, try_ := try_, data := data,
                                       due := s.now + transit h.c (l.servingCore q), held := false, walk := 0 })
  modEng fun en => { en with req := .wait s.now }

/-- The end of a queue word: a try form's status is written (R156). -/
def queueStatus (x : RWord) (ok : Bool) : M Unit := do
  if x.type = 1 then writeReg x.c.toNat (if ok then 1 else 0) 1 else pure ()
  modEng fun en => { en with req := .none }
  advance

/-- The eight registers of a block (R156). -/
def readBlock (r : Nat) : M (List W64) := (List.range 8).mapM fun j => readReg (r + j)

/-- The eight registers of a block written. -/
def writeBlock (r : Nat) (d : List W64) : M Unit := (d.zipIdx).forM fun (v, j) => writeReg (r + j) v 1

/-- QPUSH and QPUSH.t (R156). -/
def pushWord (x : RWord) : M Unit := do
  let on ← guardOn x.guard
  if on then do
    let h ← here
    let l ← launchHere
    match h.eng.req, l with
    | .wait _, _ => stall
    | .answer ok _, _ => queueStatus x ok
    | .none, none => formatTrap
    | .none, some l =>
      match l.queueEnt? x.sub.toNat with
      | none => formatTrap
      | some e =>
        if h.ctx.stage ≠ e.prod then formatTrap
        else do
          releaseSpan h
          let d ← readBlock x.a.toNat
          askQueue h l x.sub.toNat 1 (x.type == 1) d
  else advance

/-- QPOP and QPOP.t (R156): the acquire needs no wait (log 8). -/
def popWord (x : RWord) : M Unit := do
  let on ← guardOn x.guard
  if on then do
    let h ← here
    let l ← launchHere
    match h.eng.req, l with
    | .wait _, _ => stall
    | .answer ok d, _ => do
      if ok then writeBlock x.d.toNat d else pure ()
      queueStatus x ok
    | .none, none => formatTrap
    | .none, some l =>
      match l.queueEnt? x.sub.toNat with
      | none => formatTrap
      | some e => if h.ctx.stage ≠ e.cons then formatTrap else askQueue h l x.sub.toNat 0 (x.type == 1) []
  else advance

/-- QPUSH (R156). -/
def execQpush (x : RWord) (s : State) : Host.Outcome State Fault Refusal := run (pushWord x) s
/-- QPUSH.t (R156). -/
def execQpushT (x : RWord) (s : State) : Host.Outcome State Fault Refusal := run (pushWord x) s
/-- QPOP (R156). -/
def execQpop (x : RWord) (s : State) : Host.Outcome State Fault Refusal := run (popWord x) s
/-- QPOP.t (R156). -/
def execQpopT (x : RWord) (s : State) : Host.Outcome State Fault Refusal := run (popWord x) s

/-- QDEPTH (R155, R156). -/
def execQdepth (x : RWord) (s : State) : Host.Outcome State Fault Refusal :=
  run (do
    let on ← guardOn x.guard
    if on then do
      let h ← here
      let l ← launchHere
      match h.eng.req, l with
      | .wait _, _ => stall
      | .answer _ d, _ => do
        writeReg x.d.toNat ((d[0]?).getD 0) 1
        modEng fun en => { en with req := .none }
        advance
      | .none, none => formatTrap
      | .none, some l =>
        if (l.queueEnt? x.sub.toNat).isNone then formatTrap
        else askQueue h l x.sub.toNat 2 false []
    else advance) s

/-- The answer to a request, on its way back (R154). -/
def SqReq.answer (r : SqReq) (lid now back : Nat) (ok : Bool) (data : List W64) : SqAns :=
  { c := r.c, k := r.k, ok := ok, data := data, due := now + back, walk := r.walk, lid := lid }

/-- The core number an inbox's delivery bears: it comes after every core's push of its cycle (DESIGN CHOICE: R154 orders cores only, log 27). -/
def inboxCore : Nat := 1024
/-- Whether a request is an inbox's delivery (R458). -/
def SqReq.inbox (r : SqReq) : Bool := r.c == inboxCore

/-- The entries a push brings: one, or the whole row of an inbox's delivery (R156, R458). -/
def SqReq.entries (r : SqReq) : List (List W64) := (List.range (r.data.length / 8)).map fun i => (r.data.drop (8 * i)).take 8

/-- A pop or push presented to a queue of depth `n`: it takes effect, answers as a try form, or is held (R154). -/
def serveOne (n lid now serving : Nat) (x : StageQ × List SqAns) (r : SqReq) : StageQ × List SqAns :=
  let (q, out) := x
  let back := transit serving r.c
  let hold := ({ q with reqs := q.reqs ++ [{ r with held := true, due := now + 1 }] }, out)
  if r.op = 0 then
    match q.entries with
    | e :: rest => ({ q with entries := rest }, out ++ [r.answer lid now back true e])
    | [] => if r.try_ then (q, out ++ [r.answer lid now back false []]) else hold
  else if q.entries.length + r.entries.length ≤ n then
    ({ q with entries := q.entries ++ r.entries }, if r.inbox then out else out ++ [r.answer lid now back true []])
  else if r.try_ then (q, out ++ [r.answer lid now back false []])
  else hold

/-- Requests in package core index order; those of one core stay in their order. -/
def byCore (l : List SqReq) : List SqReq := sortBy (fun a b => decide (a.c ≤ b.c)) l

/-- A queue's cycle (R154, R155): QDEPTHs read the occupancy at its start, then the pops, then the pushes. A queue whose contents still
lie in a saved image takes nothing yet (R440). -/
def Launch.serveQueue (l : Launch) (q now : Nat) : Launch :=
  match l.queueEnt? q, l.saved with
  | none, _ => l
  | some _, true => l
  | some e, false =>
    let n := 2 ^ e.ldepth
    let x := l.queue q
    let due := x.reqs.filter fun r => decide (r.due ≤ now)
    let core := l.servingCore q
    let depth := BitVec.ofNat 64 (n * 65536 + x.entries.length)
    let asked := (due.filter (·.op == 2)).map fun r => r.answer l.lid now (transit core r.c) true [depth]
    let first : StageQ × List SqAns := ({ x with reqs := x.reqs.filter fun r => decide (now < r.due) }, asked)
    let (x', out) := (byCore (due.filter (·.op == 0)) ++ byCore (due.filter (·.op == 1))).foldl (serveOne n l.lid now core) first
    { l.modQueue q fun _ => x' with answers := l.answers ++ out }

/-- STAGE_QUEUE_ARRIVAL: requests reach a queue, with those held there (R154). -/
def execStageQueueArrival (lid q : Nat) (s : State) : Host.Outcome State Fault Refusal :=
  run (modify fun s => s.modLaunch lid fun l =>
    if (l.queue q).reqs.any fun r => decide (r.due ≤ s.now) && !r.held then l.serveQueue q s.now else l) s

/-- STAGE_QUEUE_HELD_RETRY: held requests are presented again when no other reaches the queue in the cycle (R154). -/
def execStageQueueHeldRetry (lid q : Nat) (s : State) : Host.Outcome State Fault Refusal :=
  run (modify fun s => s.modLaunch lid fun l =>
    if (l.queue q).reqs.any fun r => decide (r.due ≤ s.now) && r.held then l.serveQueue q s.now else l) s

/-- An engine's word gets its answer: assist mode's while it waits for one (R425). -/
def State.answerEngine (s : State) (c k : Nat) (e : Engine) (ok : Bool) (d : List W64) : State :=
  match s.cores[c]? with
  | none => s
  | some co =>
    match co.assist.active, e, co.assist.eng.req with
    | some a, .S, .wait _ =>
      if a.k = k then s.modCore c fun co => { co with assist := { co.assist with eng := { co.assist.eng with req := .answer ok d } } }
      else s.modEng c k e fun en => match en.req with | .wait _ => { en with req := .answer ok d } | _ => en
    | _, _, _ => s.modEng c k e fun en => match en.req with | .wait _ => { en with req := .answer ok d } | _ => en

/-- STAGE_QUEUE_ANSWER: answers reach a core (R154): S's word, or the walk command that asked. -/
def execStageQueueAnswer (c k : Nat) (s : State) : Host.Outcome State Fault Refusal :=
  run (modify fun s =>
    match s.ctx? c k with
    | none => s
    | some x =>
      match s.launch? x.lid with
      | none => s
      | some l =>
        let mine := l.answers.filter fun a => a.c == c && a.k == k && decide (a.due ≤ s.now)
        let s := s.modLaunch x.lid fun l =>
          { l with answers := l.answers.filter fun a => !(a.c == c && a.k == k && decide (a.due ≤ s.now)) }
        mine.foldl (fun s a =>
          if a.walk = 0 then s.answerEngine c k .S a.ok a.data
          else s.modCmd a.walk fun y => { y with inflight := y.inflight.drop 1,
                                                 buf := y.buf ++ a.data.flatMap fun w => leBytes w.toNat 8 }) s) s

/-! ## Range units -/

/-- A request to the range unit of a stage. -/
def State.rangeRequest (s : State) (lid st : Nat) (r : RuReq) : State :=
  s.modLaunch lid fun l => { l with ranges := l.ranges.modify st fun u => { u with reqs := u.reqs ++ [r] } }

/-- RINIT (R158): S holds until the unit has applied it. -/
def execRinit (x : RWord) (s : State) : Host.Outcome State Fault Refusal :=
  run (do
    let h ← here
    match h.eng.req with
    | .wait _ => stall
    | .answer _ _ => do
      modEng fun en => { en with req := .none }
      advance
    | .none => do
      let on ← guardOn x.guard
      let a ← source on x.a
      let b ← source on x.b
      let c ← source on x.c
      if on then do
        let s ← get
        modify (·.rangeRequest h.ctx.lid h.ctx.stage { c := h.c, k := h.k, eng := h.e, due := s.now, init := some (a, b, c, x.sub.toNat) })
        modEng fun en => { en with req := .wait s.now }
      else advance) s

/-- RNEXT (R159): a start and a length, or after a move two zeros with the core's new stage. -/
def execRnext (x : RWord) (s : State) : Host.Outcome State Fault Refusal :=
  run (do
    let on ← guardOn x.guard
    if on then do
      let h ← here
      match h.eng.req with
      | .wait _ => stall
      | .answer moved d => do
        writeReg x.d.toNat ((d[0]?).getD 0) 1
        writeReg (x.d.toNat + 1) ((d[1]?).getD 0) 1
        if h.e = .S then modCtx fun y => { y with moved := moved, stage := if moved then ((d[2]?).getD 0).toNat else y.stage }
        else pure ()
        modEng fun en => { en with req := .none }
        advance
      | .none => do
        let s ← get
        modify (·.rangeRequest h.ctx.lid h.ctx.stage { c := h.c, k := h.k, eng := h.e, due := s.now, init := none })
        modEng fun en => { en with req := .wait s.now }
    else advance) s

/-- Whether the lowest-numbered queue that `pick` names is past a mark: none counts as past it (R152). -/
def Launch.markOf (l : Launch) (pick : QueueEnt → Bool) (past : QueueEnt → Nat → Nat → Bool) : Bool :=
  match (List.range 16).find? fun q => match l.queueEnt? q with | some e => pick e | none => false with
  | none => true
  | some q => match l.queueEnt? q with
    | some e => past e (l.queue q).entries.length (2 ^ e.ldepth)
    | none => true

/-- The stage a flex core in stage `u` may move to, its rectangle being declared by stage `s0` (R152). -/
def otherStage (s0 u : Nat) : Nat := if u = s0 then s0 + 1 else s0

/-- Whether a move of a flex core to stage `t` is due (R152). -/
def Launch.moveDue (l : Launch) (t : Nat) : Bool :=
  l.markOf (·.cons == t) (fun e n d => decide (e.high * d < 8 * n)) &&
    l.markOf (·.prod == t) (fun e n d => decide (8 * n < e.low * d))

/-- The stage that declares the flex rectangle a core lies in. -/
def Launch.flexHome (l : Launch) (xy : Nat × Nat) : Nat :=
  ((List.range l.nst).find? fun st => (((l.flexRect st).map Rect.cores).getD []).contains xy).getD 0

/-- The length a draw gets (R159). -/
def drawLen (rem min_ : Nat) (k p : Nat) : Nat := if rem = 0 then 0 else min rem (max min_ (cdiv rem (k * p)))

/-- RANGE_UNIT_SERVICE: the unit serves its oldest request (R157 to R159), moving a flex core when it is due and no earlier request of the
core waits at the other unit (R152). -/
def execRangeUnitService (lid st : Nat) (s : State) : Host.Outcome State Fault Refusal :=
  run (modify fun s =>
    match s.launch? lid with
    | none => s
    | some l =>
      match l.ranges[st]? with
      | none => s
      | some u =>
        match u.reqs with
        | [] => s
        | r :: rest =>
          let put (s : State) (f : RangeUnit → RangeUnit) : State :=
            s.modLaunch lid fun l => { l with ranges := l.ranges.modify st fun u => f { u with reqs := rest } }
          match r.init with
          | some (a, b, c, lk) =>
            (put s fun u => { u with base := a, rem := b, kk := 2 ^ lk, min := if c = 0 then 1 else c }).answerEngine r.c r.k r.eng true []
          | none =>
            let x := s.ctx? r.c r.k
            let flex := match x with | some y => y.flex | none => false
            let xy := match x with | some y => (y.relx, y.rely) | none => (0, 0)
            let t := otherStage (l.flexHome xy) st
            let alone := !((l.ranges.zipIdx).any fun (u, j) => j != st && u.reqs.any fun q => q.c == r.c && decide (q.due < r.due))
            if r.eng = .S && flex && alone && l.moveDue t then
              let i := xy.1 + xy.2 * l.spanW
              ((put s id).modLaunch lid fun l => { l with flexStage := (i, t) :: l.flexStage.filter (·.1 != i) }).answerEngine r.c r.k r.eng
                true [0, 0, BitVec.ofNat 64 t]
            else
              let len := drawLen u.rem.toNat u.min.toNat u.kk (l.stageP st)
              (put s fun u => { u with base := u.base + BitVec.ofNat 64 len, rem := u.rem - BitVec.ofNat 64 len }).answerEngine
                r.c r.k r.eng false [u.base, BitVec.ofNat 64 len]) s

end Sys2Proof.Machine
end

