-- ==== Sys2Proof/Machine/MemEvents.lean ====
section
/-!
DEFINITION. Accesses on their way (R266, R378 to R390, R402): reaching the home die, propagation to the other dies, the return
of data to an engine, the acknowledgement of an invalidation (R264).
-/
namespace Sys2Proof.Machine

/-- Stores that are performed leave the list, but for those a word waits for. -/
def State.dropStores (s : State) : State :=
  { s with accs := s.accs.filter fun a => !(a.performed && a.kind == .store && !a.precise && a.fail.isNone) }

/-- The answer to a peer request whose parts are all performed goes back (R247). -/
def State.answerPackage (s : State) (group : Nat) : State :=
  let parts := s.accs.filter fun a => a.who == .package && a.group == group
  match parts with
  | [] => s
  | a :: _ =>
    if parts.any fun a => !a.performed then s
    else
      let ans : PeerAnswer := match parts.findSome? (·.fail) with
        | some (9, _) => .translation
        | some (13, sub) => .machineCheck sub
        | some _ => .protection
        | none => if a.kind.reads then .data (parts.flatMap (·.answer)) else .done
      ({ s with accs := s.accs.filter fun a => !(a.who == Waiter.package && a.group == group) } : State).send (.reply a.dest a.sect a.word ans)

/-- Whether an access writes as it is performed: an ACAS that fails does not (R268). -/
def State.accWrites (s : State) (a : Access) : Bool :=
  match a.kind with
  | .load => false
  | .store => true
  | .atomic op sg expect =>
    (atomicNew op sg (8 * a.size) (leNum (s.phys a.readsAt a.size)) (leNum a.data) expect.toNat).isSome

/-- Whether any sector of the same word races under mode check: the word then has no effect at all (R402). -/
def State.groupRacy (s : State) (a : Access) : Bool :=
  s.ctl.raceEn && a.mods.race == 1 && s.accs.any fun p => p.group == a.group && p.who == a.who && !p.performed &&
    s.racy (sectorOf p.pa p.home) p.agent (match p.kind with | .atomic _ _ _ => true | _ => false)

/-- The uncorrectable line an access consumes, by its SUB (R424): the machine-check comes after the race check (R265). -/
def State.badRead (s : State) (a : Access) : Option Nat :=
  if a.kind.reads then (s.bad.find? fun (sub, l) => decide (sub ≤ 1) && l == a.readsAt / 64).map (·.1) else none

/-- ACCESS_AT_HOME_DIE: the `j`-th access is performed, when its order allows (R378, R382, R402). -/
def State.accessStep (s : State) (j : Nat) : State :=
  match s.accs[j]? with
  | none => s
  | some a =>
    if !s.accReady a then s
    else match a.home with
      | .peer pkg => s.peerIssue a pkg
      | _ =>
        if s.groupRacy a then
          { s with accs := s.accs.map fun p => if p.group = a.group ∧ p.who = a.who ∧ !p.performed then
                                                  { p with performed := true, fail := some (11, 0) } else p }
        else match s.badRead a with
          | some sub => let s := s.failAcc a.id 13 sub; if a.who = .package then s.answerPackage a.group else s
          | none =>
            let writes := s.accWrites a
            let s := (s.raceCheck a writes).2
            let s := s.performLocal a
            let s := if a.who = .package then s.answerPackage a.group else s
            s.dropStores

/-- ACCESS_AT_HOME_DIE (R382). -/
def execAccessAtHomeDie (j : Nat) (s : State) : Host.Outcome State Fault Refusal := run (modify (·.accessStep j)) s

/-- WRITE_PROPAGATE: a write on its way reaches a die (R381, R389). -/
def execWritePropagate (j : Nat) (s : State) : Host.Outcome State Fault Refusal :=
  run (modify fun s =>
    let s := s.applyProp j
    let done := (s.accs.filter fun a => a.who == .package && a.performed).map (·.group)
    ((done.eraseDups).foldl State.answerPackage s).dropStores) s

/-- An engine's word gets the answer of its own access. -/
def State.answerAccess (s : State) (c k : Nat) (e : Engine) (group : Nat) (ok : Bool) (d : List W64) : State :=
  let waits := match s.cores[c]? with
    | some co => co.assist.eng.req == .wait group && e == .S && (match co.assist.active with | some a => a.k == k | none => false)
    | none => false
  let mine := match s.ctx? c k with | some x => (x.eng e).req == .wait group | none => false
  if waits || mine then s.answerEngine c k e ok d else s

/-- The parts of a word's access, in order, once all of them are performed. -/
def State.groupDone (s : State) (who : Waiter) (group : Nat) : Option (List Access) :=
  let parts := s.accs.filter fun a => a.who == who && a.group == group
  if parts.isEmpty || parts.any (fun a => !a.performed) then none
  else some (sortBy (fun a b => decide (a.ofs ≤ b.ofs)) parts)

/-- The dwords of bytes. -/
def dwordsOf (b : List Byte) : List W64 :=
  (List.range (cdiv b.length 8)).map fun i => BitVec.ofNat 64 (leNum ((b.drop (8 * i)).take 8))

/-- A loaded register (R267): the value is written and a later word may read it (R183). -/
def Ctx.loaded (x : Ctx) (e : Engine) (r : Nat) (v : W64) : Ctx :=
  if r = 0 then x
  else
    let x := { x with sregs := x.sregs.modify (fileOf e) (·.set r v) }
    x.modEng e fun en => { en with busy := en.busy.filter fun (q, due) => !(q == r && due == never) }

/-- LOAD_RETURN: the data of an engine's loads and atomics returns (R266, R268). -/
def State.returnLoads (s : State) (c k : Nat) (e : Engine) : State :=
  let who := Waiter.engine c k e
  let groups := ((s.accs.filter (·.who == who)).map (·.group)).eraseDups
  groups.foldl (fun s g =>
    match s.groupDone who g with
    | none => s
    | some parts =>
      let s := { s with accs := s.accs.filter fun a => !(a.who == who && a.group == g) }
      match parts with
      | [] => s
      | a :: _ =>
        let bytes := parts.flatMap (·.answer)
        if a.precise then
          match parts.findSome? fun p => p.fail.map (·, p.readsAt) with
          | some ((cause, sub), pa) =>
            s.answerAccess c k e g false [BitVec.ofNat 64 cause, BitVec.ofNat 64 sub, if cause = 13 then BitVec.ofNat 64 (pa / 64 * 64) else 0]
          | none => s.answerAccess c k e g true (dwordsOf bytes)
        else if a.kind.reads then s.modCtx c k (·.loaded e a.dest (loadValue (leNum bytes) a.total a.signed))
        else s) s

/-- LOAD_RETURN (R266). -/
def execLoadReturn (c k : Nat) (e : Engine) (s : State) : Host.Outcome State Fault Refusal := run (modify (·.returnLoads c k e)) s

/-- INVALIDATION_ACK: an invalidation is acknowledged once every access made through a removed translation is performed (R264). -/
def execInvalidationAck (j : Nat) (s : State) : Host.Outcome State Fault Refusal :=
  run (modify fun s =>
    match s.invals[j]? with
    | none => s
    | some v =>
      if s.accs.any (fun a => v.accs.contains a.id && !a.performed) || s.props.any (fun p => p.mirror.isSome && v.accs.contains p.acc) then s
      else { s with invals := s.invals.eraseIdx j }) s

end Sys2Proof.Machine
end

