-- ==== Sys2Proof/Machine/LaunchOps.lean ====
section
/-!
DEFINITION. Submitting and accepting launches (R120 to R136): the checks in their order, tickets, generations, LAUNCH and
LWAIT, the host mailboxes.
-/
namespace Sys2Proof.Machine

/-! ## Reading for acceptance (R122) -/

/-- Bytes of translated parts as a unit of the package reads them at their homes. -/
def State.readParts (s : State) (ps : List (Nat × Nat × AccHome × Nat)) : List Byte :=
  ps.flatMap fun (pa, n, home, _) => match home with
    | .mirror q => s.phys (replica q pa) n
    | _ => s.phys pa n

/-- Bytes of an ASID's memory read through compute die 1 (R122); none where a translation is missing. A page without R, a window that
does not match MIR, a capability that fails and the peer window are taken so too (DESIGN CHOICE: R121 names no STATUS for them, log 27). -/
def State.readDie1 (s : State) (asid : Nat) (va : W64) (n : Nat) : State × Option (List Byte) :=
  if n = 0 then (s, some [])
  else match s.rangeNow 1 asid va n 0 with
    | (s, .ok ps) => (s, some (s.readParts ps))
    | (s, .error _) => (s, none)

/-- Where a record comes from: a mailbox, a service core's address space (R122, log 4), or a work's own memory. -/
inductive Source where
  | bytes (b : List Byte)
  | service (n : Nat) (va : W64)
  | work (asid : Nat) (va : W64)

/-- `n` bytes of a record from byte `i` on; none where a page has no translation (R122). -/
def State.readSource (s : State) (src : Source) (i n : Nat) : State × Option (List Byte) :=
  match src with
  | .bytes b => (s, some ((b.drop i).take n))
  | .service m va => (s, (s.svcBytes m (va + BitVec.ofNat 64 i) n).toOption)
  | .work asid va => s.readDie1 asid (va + BitVec.ofNat 64 i) n

/-- Whether a record is misaligned (R120); a mailbox's window is not. -/
def Source.misaligned : Source → Bool
  | .bytes _ => false
  | .service _ va => va.toNat % 64 != 0
  | .work _ va => va.toNat % 64 != 0

/-- The ASID a ticket of refusal carries, the record's (R121); a free value where the record cannot be read (log 28). -/
def State.recordAsid (s : State) (src : Source) : State × Nat :=
  match s.readSource src 40 2 with
  | (s, some b) => (s, leNum b % 4096)
  | (s, none) => ({ s with freeCtr := s.freeCtr + 1 }, (Config.freeWord s.freeCtr).toNat % 4096)

/-! ## The checks (R120, R121) -/

/-- R120, R7: the fields of a record. With RINGVA 0 only RINGLOG 0 is taken (DESIGN CHOICE: R120 can also be read to allow 4-16 there,
log 27). -/
def recordFieldsOk (r : BitVec 1024) : Bool :=
  let f (hi lo : Nat) : Nat := bitsOf r hi lo
  let w := 2 ^ f 361 359
  let h := 2 ^ f 364 362
  let any := r.getLsbD 365
  let mem := f 511 448
  f 1023 960 == 0 && f 895 867 == 0 && decide (f 866 864 ≤ 4) && f 703 672 == 0 && f 639 576 % 65536 == 0 &&
    (f 671 640 != 0 || f 639 576 == 0) && f 575 513 == 0 && mem / 2 ^ 12 == 0 && decide (mem % 8 ≤ 4) && decide (mem / 8 % 8 ≤ 4) &&
    decide (mem / 64 % 16 ≤ 3) && f 447 438 == 0 && (f 437 432 == 0 || (decide (16 ≤ f 437 432) && decide (f 437 432 ≤ 48))) &&
    f 399 393 == 0 && decide (1 ≤ f 392 384) && decide (f 392 384 ≤ 256) &&
    (if f 319 256 = 0 then f 380 376 == 0 else decide (4 ≤ f 380 376) && decide (f 380 376 ≤ 16)) &&
    (if any then f 375 366 == 0 else f 375 371 % h == 0 && f 370 366 % w == 0) && decide (f 364 362 ≤ 5) && decide (f 361 359 ≤ 5) &&
    f 358 356 == 0 && f 355 332 == 0 && f 319 256 % 64 == 0 && f 255 192 % 64 == 0 &&
    (if f 127 96 = 0 then f 191 128 == 0 else f 191 128 % 8 == 0) && f 127 96 % 8 == 0 && decide (f 127 96 ≤ 4096) &&
    f 95 64 % 4 == 0 && decide (8 ≤ f 95 64) && decide (f 95 64 ≤ 2 ^ 31 - 4) && f 63 0 % 64 == 0

/-- The cells of a span its stage rectangles and flex rectangles cover, in turn. -/
def mapCells (smap : List Byte) : List (Nat × Nat) :=
  (List.range (nstOf smap)).flatMap fun i =>
    let e := stageEnt smap i
    ((e.rects.take e.nrect).map rectOf ++ (if e.flexen then [rectOf e.flexr] else [])).flatMap Rect.cores

/-- R148: whether acceptance takes a stage map for a span of `w` by `h`. Of the first unused entry only the reserved and must-be-zero fields
are held to zero (R146), every later one whole. -/
def stageMapOk (smap : List Byte) (w h : Nat) : Bool :=
  let nst := nstOf smap
  let cells := mapCells smap
  decide (1 ≤ nst) &&
    ((List.range 8).all fun i =>
      let e := stageEnt smap i
      if nst < i then e.raw == 0
      else if nst = i then e.resv == 0 && (e.rects.drop 1).all (· == 0) && (e.flexen || e.flexr == 0)
      else e.resv == 0 && decide (1 ≤ e.nrect) && decide (e.nrect ≤ 4) &&
        ((List.range 4).all fun j => let r := (e.rects[j]?).getD 0; if j < e.nrect then rectOk r w h else r == 0) &&
        (if e.flexen then decide (i + 1 < nst) && rectOk e.flexr w h else e.flexr == 0)) &&
    decide (cells.length = w * h) && ((List.range (w * h)).all fun i => cells.contains (i % w, i / w)) &&
    ((List.range 16).all fun q =>
      let e := queueEnt smap q
      if e.ldepth = 0 then e.raw == 0
      else e.raw / 65536 == 0 && decide (2 ≤ e.ldepth) && decide (e.ldepth ≤ 8) && decide (e.prod < nst) && decide (e.cons < nst) &&
        decide (e.low ≤ e.high))

/-- A ticket (R121). -/
def ticketOf (asid gen status : Nat) : W64 := BitVec.ofNat 64 (asid * 2 ^ 52 + gen * 2 ^ 28 + status)

/-- The entries a priority level holds: launches not yet placed that were never placed (R124). -/
def State.levelCount (s : State) (prio : Nat) : Nat :=
  (s.place.launches.filter fun l => l.phase == .queued && l.image.isNone && bitsOf l.record 383 381 == prio).length

/-- What a submission's checks give: a status that refuses it, or the accepted bytes. -/
inductive Checked where
  | refused (status asid : Nat)
  | ok (record : BitVec 1024) (pblock smap : List Byte)

/-- The checks of R121 in their order, up to the stage map; `parent` is the launch of a LAUNCH. -/
def State.checkLaunch (s : State) (src : Source) (parent : Option Launch) : State × Checked :=
  if !s.boot.ready then ((s.recordAsid src).1, .refused 4 (s.recordAsid src).2)
  else if src.misaligned then ((s.recordAsid src).1, .refused 1 (s.recordAsid src).2)
  else
    match s.readSource src 0 128 with
    | (s, none) => ((s.recordAsid src).1, .refused 5 (s.recordAsid src).2)
    | (s, some b) =>
      let r : BitVec 1024 := BitVec.ofNat 1024 (leNum b)
      let asid := bitsOf r 331 320
      if !recordFieldsOk r then (s, .refused 1 asid)
      else if (asid == 0) || (s.asidEntry asid).isNone ||
          (match parent with
           | some p => asidOf p.lid != asid || decide (bitsOf p.record 383 381 < bitsOf r 383 381)
           | none => false) then (s, .refused 2 asid)
      else
        match s.readDie1 asid (BitVec.ofNat 64 (bitsOf r 191 128)) (bitsOf r 127 96) with
        | (s, none) => (s, .refused 5 asid)
        | (s, some pb) =>
          match s.readDie1 asid (BitVec.ofNat 64 (bitsOf r 255 192)) (if bitsOf r 255 192 = 0 then 0 else 256) with
          | (s, none) => (s, .refused 5 asid)
          | (s, some sm) =>
            if bitsOf r 255 192 ≠ 0 ∧ !stageMapOk sm (2 ^ bitsOf r 361 359) (2 ^ bitsOf r 364 362) then (s, .refused 1 asid)
            else (s, .ok r pb sm)

/-! ## Acceptance (R121 to R125) -/

/-- The next generation of an ASID: one more, 0xFFFFFF going to 1, past those a launch still bears (R125). -/
def nextGen (used : List Nat) : Nat → Nat → Nat
  | 0, g => g
  | n + 1, g =>
    let g' := if g = 0xFFFFFF then 1 else g + 1
    if used.contains g' then nextGen used n g' else g'

/-- The generation counter of an ASID. -/
def State.genCounter (s : State) (asid : Nat) : Nat :=
  match s.place.gens.find? (·.1 == asid) with
  | some (_, g) => g.toNat
  | none => 0

/-- The stage queues and range units of a launch (R128, R147, R157). -/
def freshRanges (r : BitVec 1024) : List RangeUnit :=
  List.replicate 8 { base := BitVec.ofNat 64 (bitsOf r 767 704), rem := BitVec.ofNat 64 (bitsOf r 831 768), kk := 2 ^ bitsOf r 866 864,
                     min := BitVec.ofNat 64 (max 1 (bitsOf r 863 832)), reqs := [] }

/-- The launch a record makes (R125, R128). -/
def newLaunch (lid : Nat) (r : BitVec 1024) (pb sm : List Byte) (now wall : Nat) : Launch :=
  { lid := lid, record := r ||| BitVec.ofNat 1024 (genOf lid * 2 ^ 332), pblock := pb, smap := sm, phase := .queued, since := wall,
    eligible := now + 1, target := none, pre := none, preAt := 0, hold := false, ending := none, child := none, image := none,
    imageSize := 0, saved := false, toCreate := [], createAt := 0, flexStage := [],
    squeues := List.replicate 16 { entries := [], reqs := [] }, answers := [], ranges := freshRanges r, preempts := 0, refused := 0,
    startCyc := 0, endCyc := 0, spillD := 0, entD := 0, lostC := false, tok6 := false, ltrap := 0, ringSlot := none, ringDue := 0,
    kept := [] }

/-- A checked launch takes a queue entry and its GEN (R121, R125). -/
def State.acceptLaunch (s : State) (r : BitVec 1024) (pb sm : List Byte) : State × Nat :=
  let asid := bitsOf r 331 320
  let used := (s.place.launches.filter fun l => asidOf l.lid == asid).map fun l => genOf l.lid
  let g := nextGen used (used.length + 1) (s.genCounter asid)
  let lid := g * 4096 + asid
  ({ s with place := { s.place with launches := s.place.launches ++ [newLaunch lid r pb sm s.now s.wall],
                                    gens := (asid, BitVec.ofNat 24 g) :: s.place.gens.filter (·.1 != asid) } }, lid)

/-- A submission from the host or a service core: its ticket, and the launch when accepted (R121). -/
def State.submit (s : State) (src : Source) : State × W64 × Option Nat :=
  match s.checkLaunch src none with
  | (s, .refused st asid) => (s, ticketOf asid 0 st, none)
  | (s, .ok r pb sm) =>
    if 64 ≤ s.levelCount (bitsOf r 383 381) then (s, ticketOf (bitsOf r 331 320) 0 3, none)
    else
      let (s, lid) := s.acceptLaunch r pb sm
      (s, ticketOf (asidOf lid) (genOf lid) 0, some lid)

/-! ## The host's mailboxes (R130) -/

/-- MAILBOX_SUBMIT: a write of dword 15 submits the window; while BUSY it is ignored (R130). -/
def State.mailboxWrite (s : State) (m : Nat) (i : Nat) (v : W64) : State :=
  match s.place.boxes[m]? with
  | none => s
  | some b =>
    if b.busy then s
    else
      let b := { b with window := b.window.set i v, busy := i == 15 }
      { s with place := { s.place with boxes := s.place.boxes.set m b } }

/-- MAILBOX_SUBMIT (R130). -/
def execMailboxSubmit (m : Nat) (v : W64) (s : State) : Host.Outcome State Fault Refusal :=
  run (modify fun s => if s.hostsel then s.mailboxWrite m 15 v else s) s

/-- LAUNCH_ACCEPTANCE: the placement unit answers a mailbox's submission (R121, R130). -/
def execLaunchAcceptance (m : Nat) (s : State) : Host.Outcome State Fault Refusal :=
  run (modify fun s =>
    match s.place.boxes[m]? with
    | none => s
    | some b =>
      if !b.busy then s
      else
        let (s, t, _) := s.submit (.bytes (b.window.flatMap fun w => leBytes w.toNat 8))
        { s with place := { s.place with boxes := s.place.boxes.modify m fun b => { b with busy := false, done := true, ticket := t } } }) s

/-! ## LAUNCH and LWAIT (R133 to R136) -/

/-- The release of LAUNCH, at package scope (R133). -/
def releasePackage (h : Here) : M Unit := do
  let s ← get
  require (s.allPerformed { code := agentCode h.e.tag h.k 0 h.c, lid := h.ctx.lid } s.nextId)
  require (s.causedApplied (dieOf h.c) (List.range 8))

/-- A pre-emption asked of a placed launch; one already under way has no further effect, and of one cycle's the first in R429's list gives
the cause (R431). -/
def State.askPreempt (s : State) (lid cause : Nat) : State :=
  s.modLaunch lid fun l => match l.pre, l.ending with
    | none, none => { l with pre := some cause, preAt := s.now }
    | some p, none =>
      if l.preAt = s.now ∧ cause < p ∧ l.image.isNone then { l with pre := some cause, hold := false, child := if p = 1 then none else l.child } else l
    | _, _ => l

/-- The launch yield of R134: S stays at the word and the whole launch is to be pre-empted. -/
def State.launchYield (s : State) (h : Here) (l : Launch) (prio : Nat) (va : W64) (d a : Nat) : State :=
  (s.askPreempt l.lid 1).modLaunch l.lid fun l =>
    if l.pre = some 1 ∧ l.preAt = s.now ∧ l.child.isNone then { l with child := some { prio := prio, idx := h.ctx.relx + h.ctx.rely * l.spanW, va := va, d := d, a := a } } else l

/-- LAUNCH (R133, R134). -/
def execLaunch (x : RWord) (s : State) : Host.Outcome State Fault Refusal :=
  run (do
    let s0 ← get
    let on ← guardOn x.guard
    let va ← source on x.a
    if on then do
      let h ← here
      let l ← launchHere
      match l with
      | none => stall
      | some l => do
        require (match l.child with | some q => q.idx != h.ctx.relx + h.ctx.rely * l.spanW | none => true)
        releasePackage h
        let s ← get
        match s.checkLaunch (.work (asidOf h.ctx.lid) va) (some l) with
        | (s, .refused st asid) => do
          set s
          writeReg x.d.toNat (ticketOf asid 0 st) 1
          advance
        | (s, .ok r pb sm) =>
          if 64 ≤ s.levelCount (bitsOf r 383 381) then set (s0.launchYield h l (bitsOf r 383 381) va x.d.toNat x.a.toNat)
          else do
            let (s, lid) := s.acceptLaunch r pb sm
            set s
            writeReg x.d.toNat (ticketOf (asidOf lid) (genOf lid) 0) 1
            advance
    else advance) s

/-- The state of the launch a ticket names: 0 queued, 1 placed, 2 retired (R135, R449); one stopped or waiting to run again
holds no span and reads as queued. -/
def State.launchState (s : State) (asid gen : Nat) : Nat :=
  match s.launch? (gen * 4096 + asid) with
  | none => 2
  | some l => match l.phase with
    | .placed _ _ _ => 1
    | .recording _ => 1
    | _ => 0

/-- A word that yields at its own position (R135, R166). -/
def yieldHere (child : Nat) : M Unit := modEng fun en => { en with yielded := true, child := some child }

/-- The end of LWAIT. -/
def lwaitDone (x : RWord) (v : W64) : M Unit := do
  writeReg x.d.toNat v 1
  advance

/-- LWAIT's ticket and the state of its launch; a ticket of another ASID raises protection (R135), with SUB 0 and VA 0 (DESIGN CHOICE: R407
lists no SUB for it, log 27); a cycle of stall on a placed child does not count for the watchdog (R169). -/
def lwaitWord (x : RWord) (test : Bool) : M Unit := do
  let s0 ← get
  let on ← guardOn x.guard
  let tk ← source on x.a
  if on then do
    let h ← here
    let s ← get
    if tk.toNat % 16 ≠ 0 then lwaitDone x 3
    else if tk.toNat / 2 ^ 52 ≠ asidOf h.ctx.lid then raise { cause := 10 }
    else
      let gen := tk.toNat / 2 ^ 28 % 2 ^ 24
      let st := s.launchState (asidOf h.ctx.lid) gen
      if test ∨ st = 2 then lwaitDone x (BitVec.ofNat 64 st)
      else if st = 0 then do
        set s0
        yieldHere (gen * 4096 + asidOf h.ctx.lid)
      else do
        set s0
        modEng fun en => { en with child := some (gen * 4096 + asidOf h.ctx.lid), wdc := if en.wdc = 0 then 0 else en.wdc - 1 }
  else advance

/-- LWAIT.w (R135). -/
def execLwaitW (x : RWord) (s : State) : Host.Outcome State Fault Refusal := run (lwaitWord x false) s
/-- LWAIT.t (R135). -/
def execLwaitT (x : RWord) (s : State) : Host.Outcome State Fault Refusal := run (lwaitWord x true) s

end Sys2Proof.Machine
end

