-- ==== Sys2Proof/Machine/Sections.lean ====
section
/-!
DEFINITION. Sections and contexts as the engines move through them (R160 to R169): entry, retirement, the end of the text,
dropping out, the choice of a context, the watchdog; and the results that come due (R183, R184, R188, R214, R238).
-/
namespace Sys2Proof.Machine

/-- A step on an engine of a core. -/
def State.onEngine (s : State) (c : Nat) (e : Engine) : State := { s with curCore := c, curEng := e }

/-! ## Entry (R162) -/

/-- The engines a header's waits name, in ascending tag order (R81). -/
def waitEngines (e : Engine) : List Engine := Engine.all.filter (· != e)

/-- Whether one wait of a header is met for an engine at count `n` (R81, R162, R165). -/
def Ctx.waitMet (x : Ctx) (n : BitVec 32) (f : Engine) (d : BitVec 10) : Bool :=
  d == 0x200#10 || (x.eng f).dropped || reached (x.eng f).rc (n + d.signExtend 32 + 1)

/-- The slip check: every engine that has not dropped out is within the window (R162). -/
def Ctx.slipOk (x : Ctx) (n : BitVec 32) (slipw : Nat) : Bool :=
  x.engs.all fun en => en.dropped || decide ((n - en.rc).toInt < (slipw : Int))

/-- The entry check of R162. -/
def Ctx.entryOk (x : Ctx) (e : Engine) (hd : Header) (slipw : Nat) : Bool :=
  let n := (x.eng e).pos
  (((waitEngines e).zip hd.waits).all fun (f, d) => x.waitMet n f d) && x.slipOk n slipw

/-- SLIPW of a launch (R120). -/
def Launch.slipw (l : Launch) : Nat := bitsOf l.record 392 384

/-- V's parameter registers as a section latches them (R137). -/
def Launch.params (l : Launch) (o : Nat) : List W64 := (List.range 16).map fun j => BitVec.ofNat 64 (leNum (l.pbBytes (o + 8 * j) 8))

/-- The engine enters a section (R162): POS advances; V latches its parameters; a section of length 0 is finished. -/
def enterSection (h : Here) (off : Nat) (hd : Header) : M Unit := do
  let l ← launchHere
  let n := if h.asst then 0 else h.eng.pos
  modEng fun en => { en with
    pos := if h.asst then en.pos else en.pos + 1, pc := BitVec.ofNat 32 (off + 8),
    sect := some { hdr := off, len := hd.len, done := hd.retire == 1, n := n, widx := 0, copyQ := none },
    secs := if h.asst then en.secs else en.secs ++ [{ n := n, done := hd.retire == 1, finished := false, bind := none }] }
  match h.e, l with
  | .V, some l => modCtx fun y => { y with params := l.params y.bind }
  | _, _ => pure ()
  if hd.len = 0 then modEng EngSt.finish else pure ()

/-- A header cycle (R161, R162): up to four headers are read and checked (R82); foreign ones are stepped over; at the
engine's own the entry check is made; a malformed header is the trap's position, and one whose line the cache lacks (R170) is where the
engine stands and where it goes on, with the headers it may still step over for nothing. Assist mode has no waits and no counts (R425). -/
def headerCycle : Nat → M Unit
  | 0 => pure ()
  | n + 1 => do
    let h ← here
    let len ← textLen
    let off := h.eng.pc.toNat
    if off = len then pure ()
    else if len < off + 8 then modify (·.raise { cause := 3 })
    else do
      let s ← get
      match headerAt off s with
      | .error (.fetch asid line) => do
        modify (·.missLine asid line)
        modEng fun en => { en with ahead := n - 3 }
      | .error why => throw why
      | .ok (w, _) =>
        let hd := headerOf w
        if hd.malformed off len then modify (·.raise { cause := 3 })
        else if hd.eng ≠ h.e.tag then do
          modEng fun en => { en with pc := BitVec.ofNat 32 (off + 8 + 12 * hd.len) }
          headerCycle n
        else do
          let l ← launchHere
          if h.asst || h.ctx.entryOk h.e hd ((l.map Launch.slipw).getD 0) then do
            enterSection h off hd
            modEng fun en => { en with ready := s.now + 1 }
          else pure ()

/-- SECTION_ENTRY (R162): beside the four headers of a cycle, those the fetch unit stepped over while the last section issued
cost nothing (R161). -/
def execSectionEntry (c : Nat) (e : Engine) (s : State) : Host.Outcome State Fault Refusal :=
  run (do
    let h ← here
    modEng fun en => { en with ahead := 0 }
    headerCycle (h.eng.ahead + 4)) (s.onEngine c e)

/-- END_OF_TEXT: an engine at the end of the text whose last section has retired halts (R83, R165), a switch point. -/
def execEndOfText (c : Nat) (e : Engine) (s : State) : Host.Outcome State Fault Refusal :=
  run (do
    let h ← here
    let len ← textLen
    if h.eng.pc.toNat = len ∧ h.eng.sect.isNone ∧ h.eng.secs = [] then
      modEng fun en => { en with halted := true, yielded := true }
    else pure ()) (s.onEngine c e)

/-! ## Retirement and dropping out (R163 to R165) -/

/-- Whether an asynchronous command an engine issued in a section (any section for `none`) has not completed (R163, R165). -/
def State.cmdPending (s : State) (c k : Nat) (e : Engine) (n : Option (BitVec 32)) : Bool :=
  let at_ (m : BitVec 32) : Bool := match n with | some n => m == n | none => true
  s.cmds.any (fun x => x.c == c && x.k == k && x.eng == e && at_ x.secN) ||
    s.text.copies.any (fun x => x.c == c && x.k == k && x.eng == e && at_ x.secN)

/-- Whether something a "done" section waits for is left of what an engine issued in it: a command (R163), a flag write (R189), a tile
write of V (R238). -/
def State.pendingOf (s : State) (c k : Nat) (e : Engine) (n : BitVec 32) : Bool :=
  s.cmdPending c k e (some n) ||
    match s.ctx? c k with
    | some x => x.flagw.any (fun f => f.eng == e && f.secN == n) || (e == .V && x.twrites.any fun w => w.secN == n)
    | none => false

/-- The sections of an engine that retire now: finished ones in order, a "done" one when nothing of it is left (R163). -/
def retireCount (pending : BitVec 32 → Bool) : List OpenSec → Nat
  | [] => 0
  | o :: rest => if o.finished && !(o.done && pending o.n) then retireCount pending rest + 1 else 0

/-- SECTION_RETIRE: at the end of a cycle (R163); an S section brings its binding into force (R137). -/
def State.retireSections (s : State) (c k : Nat) (e : Engine) : State :=
  match s.ctx? c k with
  | none => s
  | some x =>
    let en := x.eng e
    let m := retireCount (s.pendingOf c k e) en.secs
    let bind := (en.secs.take m).foldl (fun b o => match o.bind with | some v => v | none => b) x.bind
    s.modCtx c k fun x => { x.modEng e fun en => { en with rc := en.rc + BitVec.ofNat 32 m, secs := en.secs.drop m } with
                            bind := if e = .S then bind else x.bind }

/-- SECTION_RETIRE (R163). -/
def execSectionRetire (c k : Nat) (e : Engine) (s : State) : Host.Outcome State Fault Refusal :=
  run (modify (·.retireSections c k e)) s

/-- A core's slot given up in cycle `now`: the engines whose current context it held have none, which is a switch point (R166). -/
def Core.vacate (co : Core) (k now : Nat) : Core :=
  { co with slots := co.slots.set k none, cur := co.cur.map fun (v : Option Nat) => if v = some k then none else v,
            left := (co.left.zip co.cur).map fun (l, v) => if v = some k then some now else l }

/-- A context ends: its Catalogue entries are discarded and counted, its slot is free (R165, R321, R451). -/
def State.endContext (s : State) (c k : Nat) : State :=
  match s.ctx? c k with
  | none => s
  | some x =>
    let ents := (((s.cores[c]?).map (·.cat)).getD []).countP (·.ctx == k)
    let s := s.modLaunch x.lid fun l =>
      { l with entD := min (l.entD + ents) (2 ^ 32 - 1), spillD := min (l.spillD + x.cat.sp) (2 ^ 32 - 1), lostC := l.lostC || x.cat.lost,
               endCyc := s.now }
    s.modCore c fun co => { co with cat := co.cat.filter (·.ctx != k) }.vacate k s.now

/-- ENGINE_DROP_OUT: a halted engine drops out once its last section has retired and its commands have completed; with the last one the
context ends, unless a stop trap stands in it (R165, R409). -/
def State.dropOut (s : State) (c k : Nat) (e : Engine) : State :=
  match s.ctx? c k with
  | none => s
  | some x =>
    let en := x.eng e
    let s := if en.halted && en.secs.isEmpty && !s.cmdPending c k e none then s.modEng c k e fun en => { en with dropped := true } else s
    match s.ctx? c k with
    | some y => if y.engs.all (·.dropped) && y.trap.isNone then s.endContext c k else s
    | none => s

/-- ENGINE_DROP_OUT (R165). -/
def execEngineDropOut (c k : Nat) (e : Engine) (s : State) : Host.Outcome State Fault Refusal :=
  run (modify (·.dropOut c k e)) s

/-! ## Resident contexts (R166, R167) -/

/-- The header at an offset of a launch's text, where the instruction cache holds it. -/
def Core.cachedHeader (co : Core) (l : Launch) (off : Nat) : Option Header :=
  let va := l.textVa + off
  let line (a : Nat) : Option (List Byte) := (co.line? (asidOf l.lid) a).map (·.bytes)
  match line (va / 64 * 64), (if va % 64 ≤ 56 then some [] else line (va / 64 * 64 + 64)) with
  | some p, some q => some (headerOf (BitVec.ofNat 64 (leNum (((p ++ q).drop (va % 64)).take 8))))
  | _, _ => none

/-- An engine's next own header from an offset and where it stands, found as the fetch unit finds it, over `n` headers at most (R161):
none at a header the cache lacks, a malformed one and the end of the text. -/
def Core.nextHeader (co : Core) (l : Launch) (e : Engine) : Nat → Nat → Option (Nat × Header)
  | 0, _ => none
  | n + 1, off =>
    match co.cachedHeader l off with
    | none => none
    | some hd =>
      if l.textLen < off + 8 ∨ hd.malformed off l.textLen then none
      else if hd.eng ≠ e.tag then co.nextHeader l e n (off + 8 + 12 * hd.len)
      else some (off, hd)

/-- The entry check an engine awaits in a context: whether it would pass (R167); a header not found yet is no bar. -/
def Core.awaitedEntry (co : Core) (l : Launch) (x : Ctx) (e : Engine) (n off : Nat) : Bool :=
  match co.nextHeader l e n off with
  | none => true
  | some (_, hd) => x.entryOk e hd l.slipw

/-- An engine outside a section stands at its next own header in a context once its fetch unit, which runs ahead, has found it (R161,
R162): there its header cycle, and the cut of a trap, find it (R411). -/
def State.standAtHeader (s : State) (c : Nat) (e : Engine) (k : Nat) : State :=
  match s.cores[c]?, s.ctx? c k with
  | some co, some x =>
    let en := x.eng e
    let free := en.sect.isNone && !en.halted && !x.stopping && x.trap.isNone
    match (if free then s.launch? x.lid else none).bind fun l => co.nextHeader l e (en.ahead + 4) en.pc.toNat with
    | some (off, _) => s.modEng c k e fun en => { en with pc := BitVec.ofNat 32 off }
    | none => s
  | _, _ => s

/-- Whether a context is eligible on an engine (R167, R413, R445). -/
def State.eligible (s : State) (c k : Nat) (e : Engine) : Bool :=
  match s.ctx? c k with
  | none => false
  | some x =>
    let en := x.eng e
    !en.halted && !en.held && ((!x.stopping && !x.trap.any (·.cycle != s.now)) || en.req != .none) && (match en.sect, s.launch? x.lid, s.cores[c]? with
       | none, some l, some co => co.awaitedEntry l x e (en.ahead + 4) en.pc.toNat
       | _, _, _ => true) &&
      (match en.child with
       | some lid => s.launchState (asidOf lid) (genOf lid) != 0
       | none => true) &&
      (en.step || !x.engs.any (·.step))

/-- The slots in the order an engine considers them: from the one after the last current one, that one last (R167). -/
def slotOrder (last : Nat) : List Nat := (List.range 4).map fun i => (last + 1 + i) % 4

/-- CONTEXT_SWITCH: the cycle after a switch point the engine has its next context, which issues in this cycle if it is the same one,
or if the engine was idle, and in the next if it is another or follows one that ended in the last cycle (R166, R167); WDC restarts
(R169); a context other than the last one finds the loop buffer to be refilled (R171). -/
def State.switchContext (s : State) (c : Nat) (e : Engine) : State :=
  match s.cores[c]? with
  | none => s
  | some co =>
    let old := (co.cur[e.tag]?).join
    let last := match old with | some k => k | none => (co.last[e.tag]?).getD 3
    let s := match old with
      | some k => s.modEng c k e fun en => { en with yielded := false, wdc := 0 }
      | none => s
    let s := (List.range 4).foldl (fun s k => s.standAtHeader c e k) s
    match (slotOrder last).find? fun k => s.eligible c k e with
    | none => s.modCore c fun co => { co with cur := co.cur.set e.tag none, last := co.last.set e.tag last }
    | some k =>
      let idle := old.isNone && !((co.left[e.tag]?).join.any fun n => n + 1 == s.now)
      let s := s.modCore c fun co =>
        { co with cur := co.cur.set e.tag (some k), last := co.last.set e.tag k, left := co.left.set e.tag none }
      s.modEng c k e fun en =>
        { en with yielded := false, wdc := 0, ready := s.now + (if old = some k ∨ idle then 0 else 1),
                  loop := if k = last then en.loop else en.loop.map fun l => { l with body := [] } }

/-- CONTEXT_SWITCH (R167). -/
def execContextSwitch (c : Nat) (e : Engine) (s : State) : Host.Outcome State Fault Refusal :=
  run (modify (·.switchContext c e)) s

/-- WDOG of a launch in cycles (R120, R169). -/
def Launch.watchdog (l : Launch) : Nat := let w := bitsOf l.record 437 432; 2 ^ (if w = 0 then 26 else w)

/-- Whether an engine's watchdog has expired (R169). -/
def State.watchdogDue (s : State) (x : Ctx) (en : EngSt) : Bool :=
  match s.launch? x.lid with
  | some l => decide (l.watchdog ≤ en.wdc.toNat)
  | none => false

/-- WATCHDOG_EXPIRY: the trap stands at the word or header the engine is at (R169). -/
def execWatchdogExpiry (c : Nat) (e : Engine) (s : State) : Host.Outcome State Fault Refusal :=
  run (do
    let h ← here
    let s ← get
    if !h.asst && s.watchdogDue h.ctx h.eng then raise { cause := 12 } else pure ()) (s.onEngine c e)

/-! ## Results that come due -/

/-- SCALAR_RESULT_WRITEBACK: results due are no longer waited for (R183). -/
def execScalarResultWriteback (c k : Nat) (e : Engine) (s : State) : Host.Outcome State Fault Refusal :=
  run (modify fun s => s.modEng c k e fun en => { en with busy := en.busy.filter fun (_, due) => decide (s.now < due) }) s

/-- An entry enters an operand queue (R213). -/
def Ctx.pushQueue (x : Ctx) (q : Nat) (v : QEntry) : Ctx := { x with opqs := x.opqs.modify q (· ++ [v]) }

/-- VECTOR_RESULT_WRITEBACK: V's results due are no longer waited for, and pushes due enter their queues (R214, R216). -/
def execVectorResultWriteback (c k : Nat) (s : State) : Host.Outcome State Fault Refusal :=
  run (modify fun s => s.modCtx c k fun x =>
    let x := x.modEng .V fun en => { en with busy := en.busy.filter fun (_, due) => decide (s.now < due) }
    let due := x.qpush.filter fun p => decide (p.due ≤ s.now)
    (sortBy (fun p q => decide (p.tag ≤ q.tag)) due).foldl (fun x p => x.pushQueue p.q p.entry) { x with qpush := x.qpush.filter fun p => decide (s.now < p.due) }) s

/-- FLAG_WRITE: at the end of a cycle the clears of FLGCLR, then the writes due, V's before B's (R188). -/
def Ctx.writeFlags (x : Ctx) (now : Nat) : Ctx :=
  let cleared := (x.flags.zipIdx).map fun (v, i) => if x.flagclr.getLsbD i then 0 else v
  let due := x.flagw.filter fun f => decide (f.due ≤ now)
  let ordered := due.filter (·.eng == .V) ++ due.filter (·.eng != .V)
  { x with flags := ordered.foldl (fun fs f => fs.set f.slot f.val) cleared, flagclr := 0, flagw := x.flagw.filter fun f => decide (now < f.due) }

/-- FLAG_WRITE (R188). -/
def execFlagWrite (c k : Nat) (s : State) : Host.Outcome State Fault Refusal :=
  run (modify fun s => s.modCtx c k (·.writeFlags s.now)) s

/-- INBOUND_QUEUE_ARRIVAL: pushed values reach the inbound queues (R184). -/
def execInboundQueueArrival (c k : Nat) (s : State) : Host.Outcome State Fault Refusal :=
  run (modify fun s => s.modCtx c k fun x =>
    let due := x.inpush.filter fun p => decide (p.due ≤ s.now)
    due.foldl (fun x p => { x with inqs := x.inqs.modify (inqIndex p.dst p.src) (· ++ [p.val]) })
      { x with inpush := x.inpush.filter fun p => decide (s.now < p.due) }) s

/-- TILE_STORE_EFFECT: V's tile writes due take effect (R238). -/
def execTileStoreEffect (c k : Nat) (s : State) : Host.Outcome State Fault Refusal :=
  run (modify fun s =>
    match s.ctx? c k with
    | none => s
    | some x =>
      let due := x.twrites.filter fun w => decide (w.due ≤ s.now)
      let s := s.modCtx c k fun x => { x with twrites := x.twrites.filter fun w => decide (s.now < w.due) }
      due.foldl (fun s w => s.writeTile c k w.t w.bytes) s) s

end Sys2Proof.Machine
end

