-- ==== Sys2Proof/Machine/Contexts.lean ====
section
/-!
DEFINITION. A context as it is created (R128, R160, R165).
-/
namespace Sys2Proof.Machine

/-- The Catalogue state of a new context (R318, R328). -/
def CatCtx.zero : CatCtx :=
  { direct := false, sp := 0, lost := false, keys := 0, wraps := 0, invs := 0, clamps := 0, oor := 0, late := [], held := false }

/-- The context of a launch at a place of its span (R128, R137). -/
def freshCtx (l : Launch) (relx rely : Nat) : Ctx :=
  let (st, flex) := l.startStage (relx, rely)
  { lid := l.lid, relx := relx, rely := rely, stage := st, moved := false, flex := flex,
    engs := List.replicate 5 EngSt.zero, sregs := List.replicate 4 (List.replicate 48 0),
    vregs := List.replicate 32 0, cars := List.replicate 32 0, params := l.params 0, opqs := List.replicate 16 [], qpush := [],
    inqs := List.replicate 25 [], inpush := [], flags := List.replicate 16 0, flagw := [], flagclr := 0,
    scr := List.replicate 4 0, bind := 0, ga := 0, cat := CatCtx.zero, sums := [], bars := [], inits := [], arrivals := [],
    clears := [], tiles := [], recs := [], twrites := [], qints := List.replicate 10 0, trap := none, stopping := false }

end Sys2Proof.Machine
end

