-- ==== Sys2Proof/Machine/CmdMem.lean ====
section
/-!
DEFINITION. The memory accesses of asynchronous commands (R282, R324, R376): sent part by part through the die's TLB, with
every fault but a machine-check posted and the command held.
-/
namespace Sys2Proof.Machine

/-- A fault of a command's access is posted and its waiter, the command or a row of it, holds (R282, R413); a fault that no walk found
carries PSIZE 3 and INFO 0. -/
def State.cmdPost (s : State) (x : Cmd) (ag : Agent) (w : Waiter) (va : W64) (kind cause sub psize info : Nat) : State :=
  s.postWalk (dieOf x.c) cause sub psize info
    { asid := asidOf x.lid, mirror := false, off := 0, va := va, kind := kind, lid := x.lid, agent := ag.code, waiters := [w] }

/-- A machine-check of a command (R282, R296, R324, R424): its engine traps and it goes no further. -/
def State.cmdCheck (s : State) (x : Cmd) (sub row : Nat) (va : W64) (line : Nat) : State :=
  (s.cmdTrap x 13 sub row va (some line)).modCmd x.id fun y => { y with state := .held }

/-- An access of a command, or of a row of one: sent, with the number of its group, or not yet: its translation is on a walk, it has been
posted, or the command holds (R282). `row` is what a machine-check's record names; a copy's or walk's race record names row and part
(R403). -/
def State.cmdAccess (s : State) (x : Cmd) (ag : Agent) (kind : AccKind) (va : W64) (size : Nat) (data : List Byte) (mods : Mods)
    (row : Nat) (part : Nat := 0) (w : Waiter := .cmd x.id) : State × Option Nat :=
  let die := dieOf x.c
  let (sect, word) := if x.unit ≤ 1 then (row, part) else (x.secN.toNat, x.widx)
  let held := w == .cmd x.id && (s.cmd? x.id).any (·.state == .held)
  let r : MemReq := { kind := kind, va := va, size := size, data := data, dest := 0, signed := false, mods := mods, wait := true,
                      wi := ((s.interval ag.lid ag.code).getD 0).toNat }
  let send (ps : List (Nat × Nat × AccHome × Nat)) : State × Option Nat :=
    ({ s with accs := s.accs ++ accessesOf r ag die (.cmd x.id) true sect word s.nextId 0 ps,
              nextId := s.nextId + ps.length }, some s.nextId)
  match s.find die none (asidOf x.lid) va size kind.code with
  | .parts ps => send ps
  | .peer pkg off => send [(off, size, .peer pkg, 0)]
  | .miss mirror off v =>
    if held then (s, none)
    else (s.modDie die (·.addWalk { asid := asidOf x.lid, mirror := mirror, off := off, va := v, kind := kind.code, lid := x.lid,
                                    agent := ag.code, waiters := [w] }), none)
  | .posted v cause sub psize info => if held then (s, none) else (s.cmdPost x ag w v kind.code cause sub psize info, none)
  | .stop t => if held then (s, none) else (s.cmdPost x ag w va kind.code t.cause t.sub 3 0, none)

/-- What has become of a command's access. -/
inductive CmdDone where
  | pending
  | data (b : List Byte)
  | failed (cause sub : Nat) (va : W64) (line : Nat)

/-- The outcome of a group of a command's accesses. -/
def State.cmdDone (s : State) (id group : Nat) : CmdDone :=
  let parts := s.accs.filter fun a => a.who == .cmd id && a.group == group
  if parts.any fun a => !a.performed then .pending
  else match parts.findSome? fun a => a.fail.map fun f => (f, a) with
    | some ((cause, sub), a) => .failed cause sub a.va (a.readsAt / 64)
    | none => .data ((sortBy (fun a b => decide (a.ofs ≤ b.ofs)) parts).flatMap (·.answer))

/-- A group of a command's accesses collected. -/
def State.cmdForget (s : State) (id group : Nat) : State :=
  { s with accs := s.accs.filter fun a => !(a.who == .cmd id && a.group == group) }

/-- An access of a command that failed: a machine-check traps, any other fault is posted (R282, R424). `row` is what the record names. -/
def State.cmdFail (s : State) (x : Cmd) (ag : Agent) (w : Waiter) (kind row cause sub : Nat) (va : W64) (line : Nat) : State :=
  if cause = 13 then s.cmdCheck x sub row va line else s.cmdPost x ag w va kind cause sub 3 0

/-- Whether a command's context is being stopped or has trapped, so that no row, pass or entry starts any more (R409, R429). -/
def State.cmdStops (s : State) (x : Cmd) : Bool :=
  match s.ctx? x.c x.k with
  | some y => y.stopping || y.trap.isSome
  | none => true

/-- Whether the accesses a releasing command's writes wait for are performed: those its engine made before it (R394). -/
def State.cmdReleased (s : State) (x : Cmd) : Bool :=
  !releases x.mods.order || s.allPerformed { code := agentCode x.eng.tag x.k 0 x.c, lid := x.lid } x.id

/-- The package's own writes to translated parts: one place, or every replica of a mirror page (R249, R389). -/
def State.writeParts (s : State) (ps : List (Nat × Nat × AccHome × Nat)) (b : List Byte) : State :=
  ps.foldl (fun s (pa, n, home, ofs) =>
    let d := (b.drop ofs).take n
    match home with
    | .mirror _ => (List.range 8).foldl (fun s e => s.physWrite (replica e pa) d) s
    | _ => s.physWrite pa d) s

end Sys2Proof.Machine
end

