-- ==== Sys2Proof/Machine/Grid.lean ====
section
/-!
DEFINITION. Elements of tiles in linear order (R237), BX elements (R31, R32), terms on the grids (R40 to R45) and the drain's
conversion (R50).
-/
namespace Sys2Proof.Machine

/-! ## Elements -/

/-- The mixed-radix digits of a number, the first radix fastest. -/
def digits : List Nat → Nat → List Nat
  | [], _ => []
  | e :: es, n => n % e :: digits es (n / e)

/-- How many elements a tile has. -/
def Shape.numel (v : Shape) : Nat := v.exts.foldl (· * ·) 1

/-- The element offset of a linear index (R237); none outside the tile and in window padding. -/
def Shape.linear (v : Shape) (i : Nat) : Option Nat := if i < v.numel then v.offset (digits v.exts i) else none

/-- The bytes that reading the elements at these linear indices takes. -/
def Shape.linearReads (v : Shape) (l : List Nat) : List (Nat × Nat) :=
  l.flatMap fun i => match v.linear i with | some o => v.reads o | none => []

/-- The bits of a linear element; zero outside the tile. -/
def State.linearElem (s : State) (c : Nat) (v : Shape) (i : Nat) : Nat :=
  match v.linear i with
  | some o => s.elemAt c v o
  | none => 0

/-- Whether a tile has an active window axis (R59). -/
def Shape.windowed (v : Shape) : Bool := !v.windows.isEmpty

/-- The mantissa and selected exponent of a BX element's bits with its block's exponents (R31). -/
def bxPart (t bits : Nat) (ex : Nat × Nat) : Int × Nat :=
  let w := if t = 11 then 8 else 4
  (signedOf (w - 1) (bits % 2 ^ (w - 1)), if bits / 2 ^ (w - 1) % 2 = 1 then ex.2 else ex.1)

/-- A BX element at an offset. -/
def State.bxAt (s : State) (c : Nat) (v : Shape) (o : Nat) : Int × Nat := bxPart v.type (s.elemAt c v o) (s.expPair c v (o / 32))

/-- The exponent bias of a BX value: m · 2^(E - bias) (R31). -/
def bxBias (t : Nat) : Int := if t = 11 then 133 else 129

/-- The value of a BX element; zero where its exponent is 0 (R32). -/
def bxVal (t : Nat) (x : Int × Nat) : FVal :=
  if x.2 = 0 then .fin false 0 0 else .fin (decide (x.1 < 0)) x.1.natAbs ((x.2 : Int) - bxBias t)

/-! ## Grids -/

/-- R41: an exact value placed on a grid of `n` bits: the invalid flag and the bits. -/
def place (grm : Nat) (anchor : Int) (n : Nat) (x : Exact) : Bool × Nat :=
  match x with
  | .nan => (true, 0)
  | .inf _ => (true, 0)
  | .zero _ => (false, 0)
  | .num neg a b e => (false, wrapN n (signedMant neg (roundScaled (if grm = 1 then rtz else rne) a b (e - anchor))))

/-- A grid value's bits as a signed number. -/
def gridInt (n bits : Nat) : Int := (BitVec.ofNat n bits).toInt

/-- R45: the top bits of a grid value that are not all its sign. -/
def wrapSuspect (n bits : Nat) : Bool :=
  let top := bits / 2 ^ (n - 32) % 2 ^ 32
  top != 0 && top != 2 ^ 32 - 1

/-- What a drain makes of a grid value: the bits, whether they are a non-zero subnormal, whether they were clamped. -/
structure Drained where
  bits : Nat
  sub : Bool
  clamped : Bool
deriving DecidableEq, Repr

/-- The clamp bound of a destination: its CLAMP, or the format's largest value (R51, R60). -/
def clampBound (t clamp : Nat) : Nat :=
  if isFloatT t then (if clamp = 0 then maxFin t else (roundF t rtz (unpackF 10 clamp).exact).bits)
  else if clamp = 0 then (intMax t).toNat else clamp

/-- A float's magnitude `m · 2^u` against a bound's bits (R50). -/
def aboveBound (t m : Nat) (u : Int) (b : Nat) : Bool := cmpF (.fin false m u) (unpackF t b) == some 1

/-- R50: one rounding of a grid value of `n` bits to a type 0 to 10. A float is compared with its bound as rounded with unbounded exponent range; a bound
that is subnormal follows R28 and R29 as any such result does. -/
def drainValue (t clamp : Nat) (ilsb anchor : Int) (r : Rounding) (n : Nat) (inv : Bool) (bits : Nat) : Drained :=
  let z := gridInt n bits
  let b := clampBound t clamp
  if isFloatT t then
    if inv then ⟨nanBits t, false, false⟩
    else if z = 0 then ⟨0, false, false⟩
    else
      let neg := decide (z < 0)
      let r := { r with mode := if r.mode = 3 then 0 else r.mode }
      let v := floorLog2 z.natAbs 1 + anchor - fracBits t
      if aboveBound t (roundScaled r z.natAbs 1 (anchor - v)) v b then ⟨signOf t neg + b, decide (b < 2 ^ fracBits t), true⟩
      else
        let u := gridExp t z.natAbs 1 anchor
        let x := packMag t 1 neg (roundScaled r z.natAbs 1 (anchor - u)) u
        ⟨x.bits, x.sub, false⟩
  else if inv then ⟨0, false, false⟩
  else
    let v := if z = 0 then 0 else roundInt { r with mode := if r.mode = 3 then 0 else r.mode } (decide (z < 0)) z.natAbs 1 (anchor - ilsb)
    let hi : Int := b
    let lo : Int := if t % 2 = 1 then 0 else if hi = intMax t then intMin t else -hi
    if hi < v then ⟨wrapN (typeWidth t) hi, false, true⟩
    else if v < lo then ⟨wrapN (typeWidth t) lo, false, true⟩
    else ⟨wrapN (typeWidth t) v, false, false⟩

/-- Random bits `j` of a tile's image in stream order (R332, R336). -/
def State.streamBits (s : State) (c : Nat) (v : Shape) (j n : Nat) : Nat :=
  let size := 8 * v.size.1
  (List.range n).foldl (fun acc i =>
    let k := (j * n + i) % size
    acc + ((s.tileByte c v (k / 8)).toNat / 2 ^ (k % 8) % 2) * 2 ^ i) 0

end Sys2Proof.Machine
end

