-- ==== Sys2Proof/Machine/Catalogue.lean ====
section
/-!
DEFINITION. The Catalogue (R316 to R333): placing keys, spilling, CINIT, the ordered drain, CSTAT; and entering the
contraction unit (R293, R294).
-/
namespace Sys2Proof.Machine

/-! ## Placing a key (R319, R320) -/

/-- The home set of a key (R319). -/
def homeSet (key : Nat) : Nat := key * 0x9E3779B97F4A7C15 % 2 ^ 64 / 2 ^ 55

/-- A term added to an entry (R42). -/
def CatEntry.add (e : CatEntry) (t : Term) : CatEntry := { e with inv := e.inv || t.inv, value := e.value + t.bits }

/-- The entry a term adds to, or the slot it claims; none where it spills (R320). -/
def Core.catPlace (co : Core) (k : Nat) (t : Term) : Option Nat :=
  let mine (slot : Nat) : Bool := co.cat.any fun e => e.slot == slot && e.ctx == k && e.key == t.key
  let free (slot : Nat) : Bool := !co.cat.any fun e => e.slot == slot
  let sets := (List.range 4).map fun i => (homeSet t.key + i) % 512
  let ways := sets.flatMap fun st => (List.range 8).map fun w => w * 512 + st
  if t.direct && decide (t.key < 4096) && (mine t.key || free t.key) then some t.key
  else match ways.find? mine with
    | some slot => some slot
    | none => ways.find? free

/-- A term applied to the Catalogue, where it finds room (R320). -/
def Core.catApply (co : Core) (k : Nat) (t : Term) : Option Core :=
  (co.catPlace k t).map fun slot =>
    if co.cat.any (·.slot == slot) then { co with cat := co.cat.map fun e => if e.slot = slot then e.add t else e }
    else { co with cat := co.cat ++ [{ slot := slot, ctx := k, inv := t.inv, key := t.key, value := t.bits }] }

/-! ## Spilling (R323 to R325) -/

/-- The bytes of a launch's Stacks region a core owns (R323). -/
def Launch.stackSlice (l : Launch) : Nat := bitsOf l.record 671 640 * 65536 / (l.spanW * l.spanH)

/-- The address of byte `b` of a core's slice, by span index (R323). -/
def Launch.stackVa (l : Launch) (idx b : Nat) : W64 := BitVec.ofNat 64 (bitsOf l.record 639 576 + idx * l.stackSlice + b)

/-- How many records a core's spill area holds. -/
def Launch.spillRoom (l : Launch) : Nat := l.stackSlice / 64

/-- The 32 bytes of a term as a record (R323). -/
def termBytes (t : Term) : List Byte :=
  leBytes (t.bits.toNat * 2 ^ 64 + (if t.inv then 2 ^ 63 else 0) + t.key % 2 ^ 63) 32

/-- The agent of a context's spills (R376, R403). -/
def spillAgent (x : Cmd) : Agent := { code := agentCode 6 x.k 1 x.c, lid := x.lid }

/-- One context's Catalogue state changed. -/
def State.modCat (s : State) (c k : Nat) (f : CatCtx → CatCtx) : State := s.modCtx c k fun y => { y with cat := f y.cat }

/-- What the contraction unit runs changed. -/
def State.modRun (s : State) (c : Nat) (f : UnitRun → UnitRun) : State := s.modCore c fun co => { co with run := co.run.map f }

/-- A command leaves the contraction unit. -/
def State.leaveUnit (s : State) (x : Cmd) : State :=
  s.modCore x.c fun co => { co with unitQ := co.unitQ.filter (· != x.id), unitHeld := co.unitHeld.filter (· != x.id),
                                    run := match co.run with
                                      | some r => if r.id = x.id then none else some r
                                      | none => none }

/-- A command stopped by its trap: a carried word is kept and re-enters after restore (R288); any other is discarded (R296, R325). -/
def State.stopCommand (s : State) (x : Cmd) : State :=
  let s := s.leaveUnit x
  if x.carried then (s.modCmd x.id fun y => { y with state := .held }).modCore x.c fun co => { co with unitHeld := x.id :: co.unitHeld }
  else s.dropCmd x.id

/-- A machine-check of a command of the contraction unit (R296, R324, R424): it goes no further, terms it has added remain, and it is kept,
with the context's later ones, at the row or pass it stopped at. -/
def State.unitCheck (s : State) (x : Cmd) (sub line : Nat) : State :=
  let s := s.cmdTrap x 13 sub x.next 0 (some line)
  let s := (s.leaveUnit x).modCmd x.id fun y => { y with state := .held, inflight := [] }
  s.modCore x.c fun co =>
    let mine (id : Nat) : Bool := (s.cmd? id).any fun y => y.k == x.k
    { co with unitHeld := co.unitHeld ++ x.id :: co.unitQ.filter mine, unitQ := co.unitQ.filter (!mine ·) }

/-- A spill that finds no record free (R325): LOST, the command stopped; of its other terms some were applied. -/
def State.spillFull (s : State) (x : Cmd) (r : UnitRun) : State :=
  let co := (r.terms.zipIdx).foldl (fun (co : Core) (t, i) =>
    if Config.spillFullApplied s.freeCtr i then (co.catApply x.k t).getD co else co) ((s.cores[x.c]?).getD Core.zero)
  let s := { s.modCore x.c (fun _ => co) with freeCtr := s.freeCtr + 1 }
  let s := s.modCat x.c x.k fun q => { q with lost := true }
  (s.cmdTrap x 5 1 x.next 0 none).stopCommand x

/-- The memory modes of a spill and of a drain's reads of its records: relaxed, at core scope, stream, no race check (R324). -/
def spillMods : Mods := ⟨0, 0, 1, 3⟩

/-- A held term is sent to the spill area (R324), or meets its end. -/
def State.spillTerm (s : State) (x : Cmd) (r : UnitRun) (t : Term) : State :=
  match s.launch? x.lid, s.ctx? x.c x.k with
  | some l, some y =>
    if l.spillRoom ≤ y.cat.sp then
      if s.stopRaised x.lid then
        (s.modCat x.c x.k fun q => { q with late := q.late ++ [t] }).modRun x.c fun r => { r with heldTerm := none }
      else s.spillFull x r
    else
      let (s, g) := s.cmdAccess x (spillAgent x) .store (l.stackVa (y.relx + y.rely * l.spanW) (32 * y.cat.sp)) 32 (termBytes t) spillMods x.next
      match g with
      | some g => s.modCmd x.id fun z => { z with inflight := [g] }
      | none => s
  | _, _ => s

/-- A spill that a pre-emption or stop overtakes is kept with the context's records (R324). -/
def State.divertTerm (s : State) (x : Cmd) (t : Term) : State :=
  let s := s.modCat x.c x.k fun q => { q with late := q.late ++ [t] }
  (s.modRun x.c fun r => { r with heldTerm := none }).modCmd x.id fun z => { z with state := .running }

/-- The context of a core whose terms a restore could not yet spill, which holds the unit (R324); one that stops lets it go. -/
def State.lateSlot (s : State) (c : Nat) : Option Nat :=
  (List.range 4).find? fun k => match s.ctx? c k with
    | some y => !y.cat.late.isEmpty && !y.stopping && y.trap.isNone
    | none => false

/-- The first term a restore could not place is applied, spilled by an access like any other spill, or posts its fault and holds (R324,
R330). -/
def State.flushLate (s : State) (c k : Nat) : State :=
  match s.ctx? c k with
  | none => s
  | some y =>
    match y.cat.held, y.cat.late, s.launch? y.lid, s.cores[c]? with
    | false, t :: rest, some l, some co =>
      let drop (s : State) : State := s.modCat c k fun q => { q with late := rest }
      match co.catApply k { t with direct := y.cat.direct } with
      | some co => drop (s.modCore c fun _ => co)
      | none =>
        if l.spillRoom ≤ y.cat.sp then
          ((drop s).modCat c k fun q => { q with lost := true }).modCtx c k
            (·.post (({ cause := 5, sub := 1 } : TrapReq).toTrap c k .B false s.now))
        else
          let va := l.stackVa (y.relx + y.rely * l.spanW) (32 * y.cat.sp)
          let ag : Agent := { code := agentCode 6 k 1 c, lid := l.lid }
          let walk (m : Bool) (off : Nat) (v : W64) : Walk :=
            { asid := asidOf l.lid, mirror := m, off := off, va := v, kind := 1, lid := l.lid, agent := ag.code, waiters := [.spill c k] }
          let post (s : State) (v : W64) (cause sub psize info : Nat) : State := s.postWalk (dieOf c) cause sub psize info (walk false 0 v)
          let r : MemReq := { kind := .store, va := va, size := 32, data := termBytes t, dest := 0, signed := false, mods := spillMods, wait := true,
                              wi := ((s.interval ag.lid ag.code).getD 0).toNat }
          let send (ps : List (Nat × Nat × AccHome × Nat)) : State :=
            { s with accs := s.accs ++ accessesOf r ag (dieOf c) (.spill c k) true 0 0 s.nextId 0 ps, nextId := s.nextId + ps.length }
          let mine := s.accs.filter (·.who == .spill c k)
          let done : State := { s with accs := s.accs.filter (·.who != .spill c k) }
          if mine.any (!·.performed) then s
          else match mine.findSome? fun a => a.fail.map (·, a.va) with
            | some ((cause, sub), v) => post done v cause sub 3 0
            | none =>
              if mine != [] then (drop done).modCat c k fun q => { q with sp := q.sp + 1 }
              else match s.find (dieOf c) none (asidOf l.lid) va 32 1 with
                | .parts ps => send ps
                | .peer pkg off => send [(off, 32, .peer pkg, 0)]
                | .miss mirror off v => s.modDie (dieOf c) (·.addWalk (walk mirror off v))
                | .posted v cause sub psize info => post s v cause sub psize info
                | .stop t => post s va t.cause t.sub 3 0
    | _, _, _, _ => s

/-- CATALOGUE_APPLY: the spill the unit waits for goes on, or the `j`-th waiting term is applied (R320, R322, R324). -/
def State.catalogueStep (s : State) (c j : Nat) : State :=
  match (s.cores[c]?).bind (·.run) with
  | none => match s.lateSlot c with
    | some k => s.flushLate c k
    | none => s
  | some r =>
    match s.cmd? r.id with
    | none => s
    | some x =>
      let late := match s.ctx? c x.k with | some y => !y.cat.late.isEmpty | none => false
      match r.heldTerm with
      | some t =>
        match x.inflight with
        | g :: _ =>
          match s.cmdDone x.id g with
          | .pending => s
          | .data _ =>
            let s := (s.cmdForget x.id g).modCmd x.id fun z => { z with inflight := [] }
            (s.modCat c x.k fun q => { q with sp := q.sp + 1 }).modRun c fun r => { r with heldTerm := none }
          | .failed cause sub va line =>
            let s := (s.cmdForget x.id g).modCmd x.id fun z => { z with inflight := [] }
            if cause = 13 then s.unitCheck x sub line else s.cmdPost x (spillAgent x) (.cmd x.id) va 1 cause sub 3 0
        | [] =>
          if s.cmdStops x && (late || x.state == .held) then s.divertTerm x t
          else if x.state = .held then s
          else s.spillTerm x r t
      | none =>
        match r.terms[j % r.terms.length]? with
        | none => s
        | some t =>
          let s := s.modRun c fun r => { r with terms := r.terms.eraseIdx (j % r.terms.length) }
          match ((s.cores[c]?).getD Core.zero).catApply x.k t with
          | some co => s.modCore c fun _ => co
          | none =>
            if s.cmdStops x && late then s.modCat c x.k fun q => { q with late := q.late ++ [t] }
            else s.modRun c fun r => { r with heldTerm := some t }

/-- CATALOGUE_APPLY (R320). -/
def execCatalogueApply (c j : Nat) (s : State) : Host.Outcome State Fault Refusal := run (modify (·.catalogueStep c j)) s

/-! ## Entering the contraction unit (R293) -/

/-- Whether a carried word is to enter a core's unit before any B word (R288). -/
def State.carriedDue (s : State) (c : Nat) : Bool :=
  s.cmds.any fun y => y.c == c && y.state == .done && (match y.ins with | .cpyf _ => true | _ => false) &&
    !s.cmds.any fun z => z.carried && z.after.contains y.id

/-- A B word enters the unit in the cycle it issues; a fifth stalls (R293). -/
def enterUnit (h : Here) (x : Cmd) : M Unit := do
  addCmd x
  modify fun s => s.modCore h.c fun co => { co with unitQ := co.unitQ ++ [x.id] }

/-- The unit has room for the issuing B word. -/
def unitRoom (h : Here) : M Unit := do
  let s ← get
  require (decide ((((s.cores[h.c]?).map (·.unitQ)).getD []).length < 4) && !s.carriedDue h.c)

/-- No memory modes: a command that makes no access of its own under a modifier. -/
def noMods : Mods := ⟨0, 0, 0, 0⟩

/-- CINIT (R331). -/
def execCinit (x : TWord) (s : State) : Host.Outcome State Fault Refusal :=
  run (do
    let on ← guardOn x.guard
    let h ← here
    if on then do
      unitRoom h
      liveBar x.bar.toNat
      enterUnit h (h.command (← get) (.cinit x) 2 0 x.bar.toNat [] noMods)
    else pure ()
    advance) s

/-- CINIT's effect as it starts (R331). -/
def State.initCatalogue (s : State) (c k : Nat) (direct : Bool) : State :=
  let s := s.modCore c fun co => { co with cat := co.cat.filter (·.ctx != k) }
  s.modCat c k fun _ => { direct := direct, sp := 0, lost := false, keys := 0, wraps := 0, invs := 0, clamps := 0, oor := 0, late := [], held := false }

/-! ## CDRAIN (R326 to R332) -/

/-- The fields of a drain: the word, whether it is the list form. -/
def drainWord : Instr → Option (TWord × Bool)
  | .cdrain x => some (x, false)
  | .cdrainL x => some (x, true)
  | _ => none

/-- R332: whether a drain's destination and random-bit tile are right; a free handle is none. -/
def drainOk (x : TWord) (list : Bool) (d r : Option Shape) : Bool :=
  let rnd := bitsOf x.cmd 33 32
  (match d with
   | none => false
   | some v => if list then v.type == 19 && !x.cmd.getLsbD 26 else decide (v.type ≤ 10) && !v.windowed) &&
    (if rnd = 2 then r.isSome else x.tb == 0 && bitsOf x.cmd 31 28 == 0)

/-- A drain's issue (R332). -/
def drainIssue (ins : Instr) (x : TWord) (list : Bool) : M Unit := do
  let on ← guardOn x.guard
  let h ← here
  if on then do
    unitRoom h
    let kb ← if list then pure 0 else readReg x.preg.toNat
    (wordTiles ins).forM fun t => tableOk (tileKey h.c h.k t)
    let s ← get
    if drainOk x list (s.tile? h.c h.k x.td.toNat) (s.tile? h.c h.k x.tb.toNat) then do
      liveBar x.bar.toNat
      enterUnit h (h.command s ins 2 0 x.bar.toNat [kb] noMods)
    else formatTrap
  else pure ()
  advance

/-- CDRAIN (R332). -/
def execCdrain (x : TWord) (s : State) : Host.Outcome State Fault Refusal := run (drainIssue (.cdrain x) x false) s
/-- CDRAIN.l (R332). -/
def execCdrainL (x : TWord) (s : State) : Host.Outcome State Fault Refusal := run (drainIssue (.cdrainL x) x true) s

/-- A record of the spill area as a term (R323). -/
def recordTerm (b : List Byte) : Term :=
  let v := leNum b
  { key := v % 2 ^ 63, inv := v / 2 ^ 63 % 2 == 1, bits := BitVec.ofNat 192 (v / 2 ^ 64), direct := false }

/-- The spill records a drain reads are asked for, from the first not asked for yet on, up to one that is still to be translated or whose
fault is posted (R324, R326); `n` bounds how many. -/
def State.spillAsk (s : State) (x : Cmd) (l : Launch) (idx sp : Nat) : Nat → State
  | 0 => s
  | n + 1 =>
    let j := (((s.cmd? x.id).map (·.inflight)).getD []).length
    if sp ≤ j then s
    else match s.cmdAccess x (spillAgent x) .load (l.stackVa idx (32 * j)) 32 [] spillMods 0 with
      | (s, some g) => (s.modCmd x.id fun y => { y with inflight := y.inflight ++ [g] }).spillAsk x l idx sp n
      | (s, none) => s

/-- The accesses of a drain's reads collected. -/
def State.spillForget (s : State) (x : Cmd) : State :=
  (x.inflight.foldl (fun s g => s.cmdForget x.id g) s).modCmd x.id fun y => { y with inflight := [] }

/-- The spill records of a drain, in order, once all of them have been read; a fault of one is a machine-check, or is posted (R324, R326). -/
def State.spillRead (s : State) (x : Cmd) (l : Launch) (idx sp : Nat) : State × Option (List Term) :=
  if x.inflight.length < sp then (s.spillAsk x l idx sp sp, none)
  else
    let outs := x.inflight.map (s.cmdDone x.id ·)
    if outs.any fun | .pending => true | _ => false then (s, none)
    else match outs.findSome? fun | .failed cause sub va line => some (cause, sub, va, line) | _ => none with
      | some (cause, sub, va, line) => ((s.spillForget x).cmdFail x (spillAgent x) (.cmd x.id) 0 0 cause sub va line, none)
      | none => (s.spillForget x, some (outs.filterMap fun | .data b => some (recordTerm b) | _ => none))

/-- Terms of ascending keys, equal keys merged (R326). -/
def mergeTerms (ts : List Term) : List Term :=
  (sortBy (fun a b : Term => decide (a.key ≤ b.key)) ts).foldl (fun (acc : List Term) t =>
    match acc with
    | u :: rest => if u.key = t.key then { u with inv := u.inv || t.inv, bits := u.bits + t.bits } :: rest else t :: acc
    | [] => [t]) [] |>.reverse

/-- The destination type, clamp and LSB of a drain: the tile's, or VTYPE's with its default bound (R326). -/
def drainType (v : Shape) (list : Bool) : Nat × Nat := if list then (v.vtype, 0) else (v.type, v.clamp)

/-- What a drain makes of its keys, the random bits by key order (R332). -/
def State.drainKeys (s : State) (x : Cmd) (w : TWord) (list : Bool) (v : Shape) (keys : List Term) : List Drained :=
  let rnd := bitsOf w.cmd 33 32
  let n := bitsOf w.cmd 31 28 + 1
  let (t, clamp) := drainType v list
  (keys.zipIdx).map fun (g, j) =>
    let rb := if rnd = 2 then match s.usedTile x.c x.k w.tb.toNat with
        | some r => s.streamBits x.c r j n
        | none => 0 else 0
    drainValue t clamp v.ilsb v.anchor ⟨rnd, rb, n⟩ 192 g.inv g.bits.toNat

/-- Where key number `j` goes: its element offset of a tile, or its record of a list (R327). -/
def drainPlace (v : Shape) (list : Bool) (kb : W64) (g : Term) (j : Nat) : Option Nat :=
  if list then (if j < v.ext 0 then some j else none)
  else if g.key < kb.toNat then none
  else v.linear (g.key - kb.toNat)

/-- The bytes of one drained key. -/
def drainPut (v : Shape) (list : Bool) (place key bits : Nat) : List (Nat × Byte × Byte) :=
  if list then putBytes (16 * place) (leBytes key 8 ++ leBytes bits 8) else v.put place bits

/-- The zeros of ZF: every element no key names (R327). -/
def drainZeros (v : Shape) (kb : W64) (keys : List Term) : List (Nat × Byte × Byte) :=
  ((List.range v.numel).filter fun i => !keys.any fun g => decide (kb.toNat ≤ g.key) && g.key - kb.toNat == i).flatMap fun i =>
    match v.linear i with
    | some o => v.put o 0
    | none => []

/-- The end record of a list with room for one (R327). -/
def drainEnd (v : Shape) (list : Bool) (n : Nat) : List (Nat × Byte × Byte) :=
  if list ∧ n < v.ext 0 then putBytes (16 * n) (List.replicate 8 0xFF ++ List.replicate 8 0) else []

/-- A drain's counters (R328). -/
def drainCounts (v : Shape) (list : Bool) (kb : W64) (keys : List Term) (out : List Drained) (q : CatCtx) : CatCtx :=
  let sat (n : Nat) : Nat := min n (2 ^ 32 - 1)
  { q with keys := sat keys.length, wraps := sat (keys.countP fun g => wrapSuspect 192 g.bits.toNat), invs := sat (keys.countP (·.inv)),
           clamps := sat (out.countP (·.clamped)), oor := sat ((keys.zipIdx).countP fun (g, j) => (drainPlace v list kb g j).isNone),
           sp := 0, lost := false, late := [], held := false }

/-- The drain is over: entries freed, the counters recorded, its barrier told (R326, R328, R332). -/
def State.drainFinish (s : State) (x : Cmd) (v : Shape) (list : Bool) (keys : List Term) (out : List Drained) : State :=
  let kb := (x.regs[0]?).getD 0
  let s := s.modCore x.c fun co => { co with cat := co.cat.filter (·.ctx != x.k) }
  let s := s.modCat x.c x.k (drainCounts v list kb keys out)
  ((s.cmdArrive x 64 false false).leaveUnit x).complete x

/-- The item of a key for the assist image (R426). -/
def drainItem (g : Term) (rb : Nat) : List W64 :=
  [g.bits.setWidth 64, BitVec.ofNat 64 (g.bits.toNat / 2 ^ 64), BitVec.ofNat 64 (g.bits.toNat / 2 ^ 128),
   BitVec.ofNat 64 (g.key + if g.inv then 2 ^ 63 else 0), BitVec.ofNat 64 rb]

/-- The 96 bits of a command's word as two dwords (R426). -/
def wordDwords (i : Instr) : List W64 :=
  let w : W96 := (encode i).getD 0
  [w.setWidth 64, (w >>> 64).setWidth 64]

/-- An assist raised on a core: it waits its turn, and the engine that issued the word is at a switch point (R425). -/
def State.raiseAssist (s : State) (c : Nat) (a : Assist) : State :=
  (s.modCore c fun co => { co with assist := { co.assist with waiting := co.assist.waiting ++ [{ a with raised := s.now }] } }).modEng c a.k a.eng fun en =>
    { en with yielded := true }

/-- FTZ of a launch (R30). -/
def State.ftz (s : State) (lid : Nat) : Bool := match s.launch? lid with | some l => l.ctxnum % 2 == 1 | none => false

/-- The random bits of a drained key (R332). -/
def State.drainRand (s : State) (x : Cmd) (w : TWord) (j : Nat) : Nat :=
  if bitsOf w.cmd 33 32 = 2 then match s.usedTile x.c x.k w.tb.toNat with
    | some r => s.streamBits x.c r j (bitsOf w.cmd 31 28 + 1)
    | none => 0 else 0

/-- The first uncorrectable line of the tile a drain takes its random bits from (R332, R424). -/
def State.drainBad (s : State) (x : Cmd) (w : TWord) : Option (Nat × Nat) :=
  if bitsOf w.cmd 33 32 = 2 then (s.usedTile x.c x.k w.tb.toNat).bind fun r => s.badImage x.c r [(0, r.size.1)] else none

/-- The subnormal assist of a drain from key `j` on; its items are the remaining keys, numbered from 0 (R28, R426). -/
def State.drainAssist (s : State) (x : Cmd) (w : TWord) (list : Bool) (v : Shape) (keys : List Term) (j : Nat) : State :=
  let (t, clamp) := drainType v list
  let rnd := bitsOf w.cmd 33 32
  let d0 := BitVec.ofNat 64 (3 + 0xC4 * 2 ^ 8 + t * 2 ^ 16 + rnd * 2 ^ 24 + bitsOf w.cmd 31 28 * 2 ^ 26)
  let d1 := BitVec.ofNat 64 ((keys.length - j) * 2 ^ 32)
  let d4 := BitVec.ofNat 64 ((v.anchor % 65536).toNat + (v.ilsb % 256).toNat * 2 ^ 16 + (if list then 2 ^ 28 else 0) + clamp * 2 ^ 32)
  let s := s.modCmd x.id fun y => { y with state := .assist, next := j }
  s.raiseAssist x.c
    { k := x.k, unit := 3, ins := x.ins, cmd := x.id, eng := .B, record := [d0, d1] ++ wordDwords x.ins ++ [d4, 0, 0, 0],
      items := ((keys.zipIdx).drop j).map fun (g, i) => drainItem g (s.drainRand x w i), at_ := 0, first := 0, count := keys.length - j, base := [],
      written := [], sum := none }

/-- What the assist routine wrote of a drain's item `i`, as XDONE left it: nine bytes for each item, a mark and the value (R427, R428). -/
def Cmd.routineWrote (x : Cmd) (i : Nat) : Option Nat :=
  match (x.buf.drop (9 * i)).take 9 with
  | m :: v => if m = 1 then some (leNum v) else none
  | [] => none

/-! ## The Collator's line (R279) -/

/-- Whether a command X issues is the Collator's. -/
def isSort : Instr → Bool
  | .sort _ => true
  | .sortk _ => true
  | _ => false

/-- Whether a command is for the Collator now: a drain, save one held in a context that is being stopped; SORTK at the head of its queue, which
runs to completion; SORT, until its context is being stopped (R429). -/
def State.sorts (s : State) (x : Cmd) : Bool :=
  match x.ins with
  | .sortk _ => s.isHead x && x.state != .held
  | .sort _ => s.isHead x && !s.cmdStops x && x.state != .held
  | _ => (drainWord x.ins).isSome && !(x.state == .held && s.cmdStops x)

/-- The commands that reach a core's Collator join its line: the unit's running drain first, then X's, each at the head of its queue (R278,
R279). A SORT whose context is being stopped leaves it between rows (R429). -/
def State.collate (s : State) (c : Nat) : State :=
  let line := ((s.cores[c]?).map (·.collQ)).getD []
  let stays (id : Nat) : Bool := match s.cmd? id with | some x => s.sorts x | none => false
  let drain := ((s.cores[c]?).bind (·.run)).bind fun r => s.cmd? r.id
  let sorts := sortBy (fun a b : Cmd => decide (a.issued < b.issued) || (a.issued == b.issued && decide (a.queue ≤ b.queue)))
    (s.cmds.filter fun x => x.c == c && isSort x.ins && s.sorts x)
  let new := ((drain.toList.filter s.sorts) ++ sorts).filter fun x => !line.contains x.id
  s.modCore c fun co => { co with collQ := line.filter stays ++ new.map (·.id) }

/-- The command a core's Collator serves. -/
def State.collHead (s : State) (c : Nat) : Option Cmd := ((s.cores[c]?).bind fun co => co.collQ.head?).bind s.cmd?

/-- DRAIN_COMPLETE: the running drain, once the Collator serves it, reads its records, sorts, merges, writes and ends, or stops at a subnormal (R326 to R332, R28). -/
def State.drainStep (s : State) (c : Nat) : State :=
  let s := s.collate c
  match (((s.cores[c]?).bind (·.run)).bind fun r => s.cmd? r.id).filter fun x => (s.collHead c).any (·.id == x.id) with
  | none => s
  | some x =>
    match drainWord x.ins, s.launch? x.lid, s.ctx? c x.k with
    | some (w, list), some l, some y =>
      if x.state ≠ .running then s
      else match s.spillRead x l (y.relx + y.rely * l.spanW) y.cat.sp, s.usedTile c x.k w.td.toNat with
        | (s, some recs), some v =>
          match s.drainBad x w with
          | some (sub, line) => s.unitCheck x sub line
          | none =>
          let ents := ((((s.cores[c]?).map (·.cat)).getD []).filter (·.ctx == x.k)).map fun e =>
            ({ key := e.key, inv := e.inv, bits := e.value, direct := false } : Term)
          let keys := mergeTerms (ents ++ recs ++ y.cat.late)
          let out := s.drainKeys x w list v keys
          let kb := (x.regs[0]?).getD 0
          let (t, _) := drainType v list
          let ftz := s.ftz x.lid
          let stop := if ftz || x.buf != [] then none else out.findIdx? (·.sub)
          let n := stop.getD keys.length
          let zeros := if w.cmd.getLsbD 26 && x.buf == [] then drainZeros v kb keys else []
          let puts := (((keys.zip out).zipIdx).take n).flatMap fun ((g, d), j) =>
            match drainPlace v list kb g j with
            | some p =>
              if x.buf = [] then drainPut v list p g.key (if d.sub then flushF t ⟨d.bits, true⟩ else d.bits)
              else if j < x.next then []
              else match x.routineWrote (j - x.next) with
                | some z => drainPut v list p g.key (z % 2 ^ typeWidth t)
                | none => []
            | none => []
          let s := s.writeTile c x.k w.td.toNat (zeros ++ puts)
          match stop with
          | some j => s.drainAssist x w list v keys j
          | none => (s.writeTile c x.k w.td.toNat (drainEnd v list keys.length)).drainFinish x v list keys out
        | (s, _), _ => s
    | _, _, _ => s

/-- DRAIN_COMPLETE (R332). -/
def execDrainComplete (c : Nat) (s : State) : Host.Outcome State Fault Refusal := run (modify (·.drainStep c)) s

/-! ## CSTAT (R333) -/

/-- The value CSTAT reads, and the count at which it sets ALL. -/
def catStatus (co : Core) (k : Nat) (q : CatCtx) (room sel : Nat) : Nat × Nat :=
  match sel with
  | 0 => (co.cat.countP (·.ctx == k), 4096)
  | 1 => (q.sp, room)
  | 2 => (q.keys, q.keys)
  | 3 => (q.wraps, q.keys)
  | 4 => (q.invs, q.keys)
  | 5 => (q.clamps, q.keys)
  | 6 => (q.oor, q.keys)
  | _ => (if q.lost then 1 else 0, 1)

/-- CSTAT's flag slot (R333). -/
def statSlot (v all : Nat) : W64 :=
  BitVec.ofNat 64 (min v 1024 * 65536 + 8 + (if v = 0 then 4 else 0) + (if v = all then 2 else 0) + (if v = 0 then 0 else 1))

/-- A flag write of the issuing word, effective at the end of the third cycle on (R188, R189). -/
def writeFlag (slot : Nat) (v : W64) : M Unit := do
  let h ← here
  let s ← get
  modCtx fun y => { y with flagw := y.flagw ++ [{ eng := h.e, slot := slot, val := v, due := s.now + 3, secN := h.secN }] }

/-- CSTAT (R333). -/
def execCstat (x : TWord) (s : State) : Host.Outcome State Fault Refusal :=
  run (do
    let on ← guardOn x.guard
    if on then do
      let h ← here
      let s ← get
      require (!s.cmds.any fun y => y.c == h.c && y.k == h.k && y.unit == 2)
      match s.cores[h.c]?, s.launch? h.ctx.lid with
      | some co, some l => do
        let (v, all) := catStatus co h.k h.ctx.cat l.spillRoom (bitsOf x.cmd 6 4)
        writeReg x.preg.toNat (BitVec.ofNat 64 v) 1
        writeFlag (bitsOf x.cmd 3 0) (statSlot v all)
      | _, _ => pure ()
    else pure ()
    advance) s

end Sys2Proof.Machine
end

