-- ==== Sys2Proof/Machine/VectorOps.lean ====
section
/-!
DEFINITION. What every V word is written in (R211 to R220): operands, groups, masks, random bits, the operand queues, results
with their side-cars, and the commitment of a float result, which a subnormal hands to the assist routine (R28, R29).
-/
namespace Sys2Proof.Machine

/-! ## Operands (R94, R212, R217) -/

/-- An operand of a V word as it is read: a register's or popped entry's bytes and side-car image, or a parameter (R212). -/
structure VIn where
  data : VReg
  car  : Car
  par  : Option W64

/-- Element `i` of width `w` of a register. -/
def vElem (v : VReg) (w i : Nat) : Nat := (v.toNat >>> (w * i)) % 2 ^ w

/-- The element source (R212). -/
def VIn.elem (v : VIn) (w i : Nat) : Nat := match v.par with | some p => p.toNat % 2 ^ w | none => vElem v.data w i

/-- The scalar source (R212). -/
def VIn.low (v : VIn) : W64 := match v.par with | some p => p | none => v.data.setWidth 64

/-- Elements of width `w` as a register, the first lowest; the others zero. -/
def packElems (w : Nat) (l : List Nat) : VReg := BitVec.ofNat 4096 (l.foldr (fun e acc => e % 2 ^ w + 2 ^ w * acc) 0)

/-- The bytes a guarded-off word pushes for its first source (R212). -/
def VIn.bytes (v : VIn) (w : Nat) : VReg := match v.par with
  | some p => packElems w (List.replicate (4096 / w) (p.toNat % 2 ^ w))
  | none => v.data

/-- A register of V, waited for (R216). -/
def vReg (r : Nat) : M VReg := do
  let h ← here
  let s ← get
  require (!h.eng.isBusy s.now r)
  tableOk (fileKey h.c h.k h.e.tag)
  pure ((h.ctx.vregs[r]?).getD 0)

/-- An operand queue's oldest entry, taken; an empty queue stalls (R95, R214). -/
def popQueue (q : Nat) : M QEntry := do
  let h ← here
  match h.ctx.opqs[q]? with
  | some (v :: rest) => do
    modCtx fun x => { x with opqs := x.opqs.set q rest }
    pure v
  | _ => stall

/-- A source operand of an R-format V word (R94, R212). -/
def vSource (r : BitVec 6) : M VIn := do
  let n := r.toNat
  let h ← here
  if n < 32 then do
    let v ← vReg n
    pure ⟨v, (h.ctx.cars[n]?).getD 0, none⟩
  else if n < 48 then do
    let e ← popQueue (n - 32)
    pure ⟨e.data, e.car, none⟩
  else pure ⟨0, 0, some ((h.ctx.params[n - 48]?).getD 0)⟩

/-- A source a word has only in some forms. -/
def vSourceIf (b : Bool) (r : BitVec 6) : M VIn := if b then vSource r else pure ⟨0, 0, none⟩

/-- The registers of a group (R217). -/
def vGroup (r : BitVec 6) (g : Nat) : M (List VReg) := (List.range g).mapM fun j => vReg (r.toNat + j)

/-- Element `i` of a group: register `i mod g`, position `i div g` (R217). -/
def groupElem (l : List VReg) (w i : Nat) : Nat :=
  match l[i % l.length]? with
  | some v => vElem v w (i / l.length)
  | none => 0

/-- A source that is a group of `g` registers, or for one register any operand, as its elements (R217). -/
def vWide (r : BitVec 6) (g w : Nat) : M (Nat → Nat) := do
  if g ≤ 1 then do
    let v ← vSource r
    pure (v.elem w)
  else do
    let l ← vGroup r g
    pure (groupElem l w)

/-- The elements the mask of a word enables (R88). -/
def vMask (x : RWord) : M (Nat → Bool) :=
  if x.mask = 63 then pure fun _ => true
  else do
    let v ← vReg x.mask.toNat
    pure fun i => v.getLsbD i

/-- The random bits of each element under RND 2 (R49). -/
def vRand (x : RWord) : M (Nat → Nat) :=
  if x.rnd = 2 then do
    let v ← vReg x.rb.toNat
    pure fun i => randBits v i (x.srn.toNat + 1)
  else pure fun _ => 0

/-- The rounding of a word with its random bits (R46, R48). -/
def vRounding (x : RWord) (rb : Nat) : Rounding := ⟨x.rnd.toNat, rb, x.srn.toNat + 1⟩

/-- The registers a code names as a group of `g`. -/
def codeRegs (r : BitVec 6) (g : Nat) : List Nat := if r.toNat < 32 then (List.range (max 1 g)).map (r.toNat + ·) else []

/-! ## Results -/

/-- Whether an operand queue has room for a push issued now (R95, R214). -/
def Ctx.queueRoom (x : Ctx) (q : Nat) : Bool :=
  decide (((x.opqs[q]?).getD []).length + (x.qpush.filter (·.q == q)).length < 4)

/-- The cycle a result of V that is final in cycle `t` reaches its queue: not before one issued earlier (R216). -/
def Ctx.pushDue (x : Ctx) (t : Nat) : Nat :=
  (x.qpush.filter fun p => p.tag == Engine.V.tag && decide (p.due < never)).foldl (fun m p => max m p.due) t

/-- An entry pushed, to reach its queue after `lat` cycles; a full queue stalls, but for a pop that B still makes in this cycle (R95, R214,
R216). -/
def pushEntry (q : Nat) (e : QEntry) (lat : Nat) : M Unit := do
  let h ← here
  let s ← get
  if h.ctx.queueRoom q then
    modCtx fun x => { x with qpush := x.qpush ++ [{ q := q, tag := Engine.V.tag, due := x.pushDue (s.now + lat), entry := e }] }
  else throw (.later Engine.B.tag)

/-- A register written, to be read after `lat` cycles; its side-car only where the word names it (R211, R216). -/
def vWrite (r : Nat) (v : VReg) (car : Option Car) (lat : Nat) : M Unit := do
  let h ← here
  let s ← get
  require (!h.eng.isBusy s.now r)
  modCtx fun x => { x with vregs := x.vregs.set r v, cars := match car with | some k => x.cars.set r k | none => x.cars }
  modEng fun en => { en with busy := (r, s.now + lat) :: en.busy }

/-- The destination of a V word: a register, or a queue, whose image is zero for a result that has none (R213). -/
def vOut (d : Nat) (v : VReg) (car : Option Car) (lat : Nat) : M Unit :=
  if 32 ≤ d then pushEntry (d - 32) { data := v, car := car.getD 0 } lat else vWrite d v car lat

/-- The elements of register `j` of a group of `g` (R217). -/
def groupPart (g j : Nat) (l : List Nat) : List Nat := (l.zipIdx).filterMap fun (e, i) => if i % g = j then some e else none

/-- Elements written to a destination of `g` registers (R217). -/
def vOutGroup (d g w : Nat) (l : List Nat) (lat : Nat) : M Unit :=
  if g ≤ 1 then vOut d (packElems w l) none lat
  else (List.range g).forM fun j => vWrite (d + j) (packElems w (groupPart g j l)) none lat

/-- The end of a V word that keeps V for `n` cycles (R216). -/
def vEnd (n : Nat) : M Unit := do
  advance
  let s ← get
  if n ≤ 1 then pure () else modEng fun en => { en with ready := s.now + n }

/-- The guard of a word that an assist may complete: once assisted it executes, whatever the elements it has written make of its guard
(R28, R428). -/
def vGuard (g : Guard) : M Bool := do
  let h ← here
  match h.eng.req with
  | .answer _ _ => pure true
  | _ => guardOn g

/-- A guarded-off V word: to a queue it pushes its first source (R87, R212), one cycle after its issue, since R216 gives a push of a word
that computes nothing no latency (DESIGN CHOICE, log 27). -/
def vOff (d : Nat) (a : VIn) (w : Nat) : M Unit := do
  if 32 ≤ d then pushEntry (d - 32) { data := a.bytes w, car := a.car } 1 else pure ()
  vEnd 1

/-! ## Subnormal results (R27 to R29, R425, R426) -/

/-- The slot of a queue held for a word under assist (R214). -/
def Ctx.reserveSlot (x : Ctx) (q : Nat) : Ctx := { x with qpush := x.qpush ++ [{ q := q, tag := Engine.V.tag, due := never, entry := { data := 0, car := 0 } }] }

/-- That slot given back. -/
def Ctx.releaseSlot (x : Ctx) (q : Nat) : Ctx :=
  match x.qpush.findIdx? fun p => p.q == q && p.due == never with
  | some i => { x with qpush := x.qpush.eraseIdx i }
  | none => x

/-- Dword 0 of an assist record (R426). -/
def assistHead (unit op dt st rnd srn : Nat) : W64 :=
  BitVec.ofNat 64 (unit + op * 2 ^ 8 + dt * 2 ^ 16 + st * 2 ^ 20 + rnd * 2 ^ 24 + srn * 2 ^ 26)

/-- V's word stands in assist: the state before it, its record and items; the word holds (R425). -/
def vAssist (s0 : State) (ins : Instr) (unit op dt st rnd srn at_ first count : Nat) (desc : List W64) (items : List (List W64))
    (base : List W64) (undo : List (Nat × VReg) := []) (undoTile : Option (Nat × List (Nat × Byte × Byte)) := none) : M Unit := do
  set s0
  let h ← here
  modify fun s => s.raiseAssist h.c
    { k := h.k, unit := unit, ins := ins, cmd := 0, eng := .V,
      record := [assistHead unit op dt st rnd srn, BitVec.ofNat 64 (first + count * 2 ^ 32)] ++ wordDwords ins ++ desc,
      items := items, at_ := at_, first := first, count := count, base := base, written := [], sum := none,
      undo := undo, undoTile := undoTile }
  modEng fun en => { en with held := true }

/-- The items of a V word (R426). -/
def vItems (n : Nat) (a b c : Nat → Nat) (en : Nat → Bool) (rb : Nat → Nat) : List (List W64) :=
  (List.range n).map fun i => [BitVec.ofNat 64 (a i), BitVec.ofNat 64 (b i), BitVec.ofNat 64 (c i), if en i then 1 else 0, BitVec.ofNat 64 (rb i)]

/-- A word under assist takes what the routine left: its result, as dwords (R428). -/
def assistAnswer : M (Option (List Nat)) := do
  let h ← here
  match h.eng.req with
  | .answer _ v => do
    modEng fun en => { en with req := .none }
    pure (some (v.map (·.toNat)))
  | _ => pure none

/-- What a V word is that commits elements: its type, source type, destination group, latency and issue cycles. -/
structure VShape where
  ins   : Instr
  x     : RWord
  dt    : Nat
  st    : Nat
  g     : Nat
  lat   : Nat
  cyc   : Nat

/-- The contents of a destination group as elements. -/
def Ctx.groupOld (x : Ctx) (d g : Nat) : List VReg := (List.range (max 1 g)).map fun j => (x.vregs[d + j]?).getD 0

/-- What the elements of a destination hold until they are written: the results before the offending one, then what the
register held; a queue's new entry has held nothing, so its elements are free values (R28, R428; log 7). -/
def assistBase (x : Ctx) (ctr d g w j : Nat) (res : List FRes) : List W64 :=
  let old := x.groupOld d g
  (res.zipIdx).map fun (r, i) =>
    if i < j then BitVec.ofNat 64 r.bits
    else if d < 32 then BitVec.ofNat 64 (groupElem old w i)
    else BitVec.ofNat 64 ((Config.freeWord (ctr + i)).toNat % 2 ^ w)

/-- The result elements of a word committed: written, flushed under FTZ, or from the first subnormal one on left to the assist
routine, those before it written at once (R28, R29, R221). -/
def vCommit (s0 : State) (v : VShape) (res : List FRes) (items : List (List W64)) : M Unit := do
  let d := v.x.d.toNat
  let w := typeWidth v.dt
  match ← assistAnswer with
  | some vals => do
    modCtx (·.releaseSlot (d - 32))
    vOutGroup d v.g w vals v.lat
    vEnd v.cyc
  | none => do
    let h ← here
    let s ← get
    match (if s.ftz h.ctx.lid then none else res.findIdx? (·.sub)) with
    | none => do
      vOutGroup d v.g w (res.map (flushF v.dt)) v.lat
      vEnd v.cyc
    | some j => do
      if d < 32 then require ((codeRegs v.x.d v.g).all fun r => !h.eng.isBusy s.now r)
      else if h.ctx.queueRoom (d - 32) then pure () else throw (.later Engine.B.tag)
      let base := assistBase h.ctx s.freeCtr d v.g w j res
      vAssist { s0 with freeCtr := s0.freeCtr + res.length } v.ins 0 (opOf ((encode v.ins).getD 0)).toNat v.dt v.st v.x.rnd.toNat
        v.x.srn.toNat 0 j (res.length - j) [0, 0, 0, 0] items base
        (if 32 ≤ d then [] else (List.range (max 1 v.g)).map fun q => (d + q, (h.ctx.vregs[d + q]?).getD 0))
      if 32 ≤ d then modCtx (·.reserveSlot (d - 32))
      else (List.range (max 1 v.g)).forM fun q =>
        modCtx fun y => { y with vregs := y.vregs.set (d + q) (packElems w (groupPart (max 1 v.g) q (base.map (·.toNat)))) }

end Sys2Proof.Machine
end

