-- ==== Sys2Proof/Machine/VectorElem.lean ====
section
/-!
DEFINITION. V's element-wise words and compares (R221, R222), reductions, scans and tests (R232 to R235), approximations (R236).
-/
namespace Sys2Proof.Machine

/-! ## Element-wise words (R221) -/

/-- An exact integer as a result: wrapped, or saturated under .sat (R23, R221). -/
def intRes (t : Nat) (sat : Bool) (z : Int) : FRes := ⟨if sat then satInt t z else wrapN (typeWidth t) z, false⟩

/-- A selected or sign-changed float pattern, which counts as subnormal by its own value (R221). -/
def patRes (t bits : Nat) : FRes := ⟨bits, isSub t bits⟩

/-- a + b. -/
def opAdd (t : Nat) (sat : Bool) (r : Rounding) (a b : Nat) : FRes :=
  if isFloatT t then roundF t r (addF (unpackF t a) (unpackF t b)) else intRes t sat (intVal t a + intVal t b)
/-- a - b. -/
def opSub (t : Nat) (sat : Bool) (r : Rounding) (a b : Nat) : FRes :=
  if isFloatT t then roundF t r (addF (unpackF t a) (unpackF t b).negate) else intRes t sat (intVal t a - intVal t b)
/-- a · b. -/
def opMul (t : Nat) (r : Rounding) (a b : Nat) : FRes :=
  if isFloatT t then roundF t r (mulF (unpackF t a) (unpackF t b)) else intRes t false (intVal t a * intVal t b)
/-- The high half of a · b. -/
def opMulh (t : Nat) (a b : Nat) : FRes := intRes t false (intVal t a * intVal t b / (2 ^ typeWidth t : Nat))
/-- a + b · c. -/
def opMad (t : Nat) (r : Rounding) (a b c : Nat) : FRes :=
  if isFloatT t then roundF t r (fmaF (unpackF t b) (unpackF t c) (unpackF t a)) else intRes t false (intVal t a + intVal t b * intVal t c)
/-- a · b + c and its forms by SUB. -/
def opFma (t sub : Nat) (r : Rounding) (a b c : Nat) : FRes :=
  let u := if 2 ≤ sub then (unpackF t a).negate else unpackF t a
  let z := if sub % 2 = 1 then (unpackF t c).negate else unpackF t c
  roundF t r (fmaF u (unpackF t b) z)
/-- The smaller or the larger. -/
def opSel (t : Nat) (hi : Bool) (a b : Nat) : FRes :=
  if isFloatT t then patRes t (selectF t hi a b)
  else ⟨if (intVal t a ≤ intVal t b) == hi then b else a, false⟩
/-- |a|. -/
def opAbs (t : Nat) (sat : Bool) (a : Nat) : FRes :=
  if isFloatT t then (if isNan t a then ⟨nanBits t, false⟩ else patRes t (a % signBit t))
  else intRes t sat (intVal t a).natAbs
/-- -a. -/
def opNeg (t : Nat) (sat : Bool) (a : Nat) : FRes :=
  if isFloatT t then (if isNan t a then ⟨nanBits t, false⟩ else patRes t (if isNeg t a then a - signBit t else a + signBit t))
  else intRes t sat (-(intVal t a))
/-- Bits moved without arithmetic. -/
def bitRes (z : Nat) : FRes := ⟨z, false⟩

/-- A word of one to three element sources (R221). -/
def elemWord (ins : Instr) (x : RWord) (n lat : Nat) (f : Rounding → Nat → Nat → Nat → FRes) : M Unit := do
  let s0 ← get
  let on ← vGuard x.guard
  let a ← vSource x.a
  let b ← vSourceIf (2 ≤ n) x.b
  let c ← vSourceIf (3 ≤ n) x.c
  let t := x.type.toNat
  let w := typeWidth t
  if on then do
    let en ← vMask x
    let rb ← vRand x
    let m := elemsOf t
    let res := (List.range m).map fun i =>
      if en i then f (vRounding x (rb i)) (a.elem w i) (b.elem w i) (c.elem w i) else bitRes (a.elem w i)
    vCommit s0 { ins := ins, x := x, dt := t, st := t, g := 1, lat := lat, cyc := 1 }
      res (vItems m (a.elem w) (b.elem w) (c.elem w) en rb)
  else vOff x.d.toNat a w

/-- The latency of a word: that of float words, or its integer one (R216). -/
def elemLat (x : RWord) (n : Nat) : Nat := if isFloatT x.type.toNat then 4 else n

/-- SUB 1 saturates (R221). -/
def satOf (x : RWord) : Bool := x.sub == 1

/-- VADD (R221). -/
def execVadd (x : RWord) (s : State) : Host.Outcome State Fault Refusal :=
  run (elemWord (.vadd x) x 2 (elemLat x 2) fun r a b _ => opAdd x.type.toNat (satOf x) r a b) s
/-- VSUB (R221). -/
def execVsub (x : RWord) (s : State) : Host.Outcome State Fault Refusal :=
  run (elemWord (.vsub x) x 2 (elemLat x 2) fun r a b _ => opSub x.type.toNat (satOf x) r a b) s
/-- VMUL (R221). -/
def execVmul (x : RWord) (s : State) : Host.Outcome State Fault Refusal :=
  run (elemWord (.vmul x) x 2 (elemLat x 3) fun r a b _ => opMul x.type.toNat r a b) s
/-- VMULH (R221). -/
def execVmulh (x : RWord) (s : State) : Host.Outcome State Fault Refusal :=
  run (elemWord (.vmulh x) x 2 3 fun _ a b _ => opMulh x.type.toNat a b) s
/-- VMAD (R221). -/
def execVmad (x : RWord) (s : State) : Host.Outcome State Fault Refusal :=
  run (elemWord (.vmad x) x 3 (elemLat x 3) fun r a b c => opMad x.type.toNat r a b c) s
/-- VFMA (R221). -/
def execVfma (x : RWord) (s : State) : Host.Outcome State Fault Refusal :=
  run (elemWord (.vfma x) x 3 4 fun r a b c => opFma x.type.toNat x.sub.toNat r a b c) s
/-- VMIN (R221). -/
def execVmin (x : RWord) (s : State) : Host.Outcome State Fault Refusal :=
  run (elemWord (.vmin x) x 2 (elemLat x 2) fun _ a b _ => opSel x.type.toNat false a b) s
/-- VMAX (R221). -/
def execVmax (x : RWord) (s : State) : Host.Outcome State Fault Refusal :=
  run (elemWord (.vmax x) x 2 (elemLat x 2) fun _ a b _ => opSel x.type.toNat true a b) s
/-- VABS (R221). -/
def execVabs (x : RWord) (s : State) : Host.Outcome State Fault Refusal :=
  run (elemWord (.vabs x) x 1 (elemLat x 2) fun _ a _ _ => opAbs x.type.toNat (satOf x) a) s
/-- VNEG (R221). -/
def execVneg (x : RWord) (s : State) : Host.Outcome State Fault Refusal :=
  run (elemWord (.vneg x) x 1 (elemLat x 2) fun _ a _ _ => opNeg x.type.toNat (satOf x) a) s
/-- VAND (R221). -/
def execVand (x : RWord) (s : State) : Host.Outcome State Fault Refusal :=
  run (elemWord (.vand x) x 2 2 fun _ a b _ => bitRes (a &&& b)) s
/-- VOR (R221). -/
def execVor (x : RWord) (s : State) : Host.Outcome State Fault Refusal :=
  run (elemWord (.vor x) x 2 2 fun _ a b _ => bitRes (a ||| b)) s
/-- VXOR (R221). -/
def execVxor (x : RWord) (s : State) : Host.Outcome State Fault Refusal :=
  run (elemWord (.vxor x) x 2 2 fun _ a b _ => bitRes (a ^^^ b)) s
/-- VNOT (R221). -/
def execVnot (x : RWord) (s : State) : Host.Outcome State Fault Refusal :=
  run (elemWord (.vnot x) x 1 2 fun _ a _ _ => bitRes (2 ^ typeWidth x.type.toNat - 1 - a)) s
/-- VSHL (R221). -/
def execVshl (x : RWord) (s : State) : Host.Outcome State Fault Refusal :=
  run (elemWord (.vshl x) x 2 2 fun _ a b _ => bitRes (a * 2 ^ (b % typeWidth x.type.toNat) % 2 ^ typeWidth x.type.toNat)) s
/-- VSHR (R221). -/
def execVshr (x : RWord) (s : State) : Host.Outcome State Fault Refusal :=
  run (elemWord (.vshr x) x 2 2 fun _ a b _ => bitRes (a / 2 ^ (b % typeWidth x.type.toNat))) s
/-- VSRA (R221): filled with copies of the top bit, whatever the type's sign. -/
def execVsra (x : RWord) (s : State) : Host.Outcome State Fault Refusal :=
  run (elemWord (.vsra x) x 2 2 fun _ a b _ =>
    let w := typeWidth x.type.toNat
    bitRes (wrapN w ((BitVec.ofNat w a).toInt / (2 ^ (b % w) : Nat)))) s

/-- VSEL (R221): a where bit i of vC is 1. -/
def execVsel (x : RWord) (s : State) : Host.Outcome State Fault Refusal :=
  run (do
    let s0 ← get
    let on ← guardOn x.guard
    let a ← vSource x.a
    let b ← vSource x.b
    let w := typeWidth x.type.toNat
    if on then do
      let c ← vReg x.c.toNat
      let en ← vMask x
      let res := (List.range (elemsOf x.type.toNat)).map fun i => bitRes (if en i && !c.getLsbD i then b.elem w i else a.elem w i)
      vCommit s0 { ins := .vsel x, x := x, dt := x.type.toNat, st := x.type.toNat, g := 1, lat := 2, cyc := 1 } res []
    else vOff x.d.toNat a w) s

/-! ## Compares (R222) -/

/-- A relation of two elements: by order -1, 0, 1, or unordered. -/
def elemOrder (t a b : Nat) : Option Int :=
  if isFloatT t then cmpF (unpackF t a) (unpackF t b)
  else some (if intVal t a < intVal t b then -1 else if intVal t a = intVal t b then 0 else 1)

/-- A mask register: bit `i` where `f i` (R222). -/
def maskReg (n : Nat) (f : Nat → Bool) : VReg := packElems 1 ((List.range n).map fun i => if f i then 1 else 0)

/-- A V compare (R222): the mask is written whole, masked-off bits 0. -/
def vCompare (x : RWord) (rel : Option Int → Bool) : M Unit := do
  let on ← guardOn x.guard
  let a ← vSource x.a
  let b ← vSource x.b
  let t := x.type.toNat
  let w := typeWidth t
  if on then do
    let en ← vMask x
    vWrite x.d.toNat (maskReg (elemsOf t) fun i => en i && rel (elemOrder t (a.elem w i) (b.elem w i))) none 2
  else pure ()
  vEnd 1

/-- VCMPEQ (R222). -/
def execVcmpeq (x : RWord) (s : State) : Host.Outcome State Fault Refusal := run (vCompare x (· == some 0)) s
/-- VCMPNE (R222). -/
def execVcmpne (x : RWord) (s : State) : Host.Outcome State Fault Refusal := run (vCompare x (· != some 0)) s
/-- VCMPLT (R222). -/
def execVcmplt (x : RWord) (s : State) : Host.Outcome State Fault Refusal := run (vCompare x (· == some (-1))) s
/-- VCMPLE (R222). -/
def execVcmple (x : RWord) (s : State) : Host.Outcome State Fault Refusal :=
  run (vCompare x fun o => o == some (-1) || o == some 0) s

/-! ## Reductions (R232, R53) -/

/-- A reduction's single result committed (R232): a subnormal one is left to the assist routine, whose items are the inputs. -/
def redCommit (s0 : State) (ins : Instr) (x : RWord) (lat : Nat) (res : FRes) (items : List (List W64)) : M Unit := do
  let d := x.d.toNat
  let t := x.type.toNat
  match ← assistAnswer with
  | some vals => do
    modCtx (·.releaseSlot (d - 32))
    vOut d (BitVec.ofNat 4096 ((vals[0]?).getD 0 % 2 ^ typeWidth t)) none lat
    vEnd 1
  | none => do
    let h ← here
    let s ← get
    if res.sub && !s.ftz h.ctx.lid then do
      if d < 32 then require (!h.eng.isBusy s.now d)
      else if h.ctx.queueRoom (d - 32) then pure () else throw (.later Engine.B.tag)
      let base := assistBase h.ctx s.freeCtr d 1 (typeWidth t) 0 [res]
      vAssist { s0 with freeCtr := s0.freeCtr + 1 } ins 0 (opOf ((encode ins).getD 0)).toNat t t x.rnd.toNat x.srn.toNat 0 0
        (elemsOf t) [0, 0, 0, 0] items base
      if 32 ≤ d then modCtx (·.reserveSlot (d - 32)) else pure ()
    else do
      vOut d (BitVec.ofNat 4096 (flushF t res)) none lat
      vEnd 1

/-- One level of the tree of R53: neighbours added; `a` is the number of its first addition. -/
def treeLevel (t : Nat) (r : Nat → Rounding) (ftz : Bool) : Nat → List FRes → List FRes
  | a, x :: y :: rest =>
    let z := roundF t (r a) (addF (unpackF t x.bits) (unpackF t y.bits))
    (if ftz then ⟨flushF t z, false⟩ else ⟨z.bits, z.sub || x.sub || y.sub⟩) :: treeLevel t r ftz (a + 1) rest
  | _, l => l

/-- The tree of R53 over `2^k` values: the sum, and whether any addition gave a subnormal. -/
def treeSum (t : Nat) (r : Nat → Rounding) (ftz : Bool) : Nat → Nat → List FRes → FRes
  | 0, _, l => (l[0]?).getD ⟨0, false⟩
  | k + 1, a, l => treeSum t r ftz k (a + l.length / 2) (treeLevel t r ftz a l)

/-- The levels of a reduction of type `t`. -/
def log2N (t : Nat) : Nat := Nat.log2 (elemsOf t)

/-- The selected element of VREDMAX or VREDMIN (R232). -/
def redSelect (t : Nat) (hi : Bool) (l : List Nat) : FRes :=
  if isFloatT t then
    match l.filter fun a => !isNan t a with
    | [] => if l = [] then ⟨signOf t hi + infBits t, false⟩ else ⟨nanBits t, false⟩
    | a :: rest => patRes t (rest.foldl (selectF t hi) a)
  else
    match l with
    | [] => ⟨wrapN (typeWidth t) (if hi then intMin t else intMax t), false⟩
    | a :: rest => ⟨rest.foldl (fun m b => (opSel t hi m b).bits) a, false⟩

/-- A reduction word: its result from its enabled inputs (R232). -/
def redWord (ins : Instr) (x : RWord) (f : Bool → (Nat → Rounding) → List (Nat × Bool) → FRes) : M Unit := do
  let s0 ← get
  let on ← guardOn x.guard
  let a ← vSource x.a
  let t := x.type.toNat
  let w := typeWidth t
  if on then do
    let en ← vMask x
    let rb ← vRand x
    let h ← here
    let s ← get
    let n := elemsOf t
    let ins' := (List.range n).map fun i => (a.elem w i, en i)
    let word4 (i : Nat) : Nat := if i + 1 < n then rb i else 0
    redCommit s0 ins x (if isFloatT t then 4 * log2N t else 6) (f (s.ftz h.ctx.lid) (fun i => vRounding x (rb i)) ins')
      (vItems n (a.elem w) (fun _ => 0) (fun _ => 0) en word4)
  else vOff x.d.toNat a w

/-- VREDSUM (R232, R53): an integer sum is exact, 64 bits wide. -/
def execVredsum (x : RWord) (s : State) : Host.Outcome State Fault Refusal :=
  let t := x.type.toNat
  run (if isFloatT t then
      redWord (.vredsum x) x fun ftz r l =>
        treeSum t r ftz (log2N t) 0 (l.map fun (v, e) => ⟨if e then v else signBit t, false⟩)
    else
      redWord (.vredsum x) x fun _ _ l => ⟨wrapN 64 (l.foldl (fun z (v, e) => if e then z + intVal t v else z) 0), false⟩) s

/-- VREDMAX (R232). -/
def execVredmax (x : RWord) (s : State) : Host.Outcome State Fault Refusal :=
  run (redWord (.vredmax x) x fun _ _ l => redSelect x.type.toNat true ((l.filter (·.2)).map (·.1))) s
/-- VREDMIN (R232). -/
def execVredmin (x : RWord) (s : State) : Host.Outcome State Fault Refusal :=
  run (redWord (.vredmin x) x fun _ _ l => redSelect x.type.toNat false ((l.filter (·.2)).map (·.1))) s

/-- The running sums of VSCAN (R233), from a sum: each element's result, and the sum before each. -/
def scanFrom (t : Nat) (ftz : Bool) : Nat → List (Nat × Bool × Rounding) → List (FRes × Nat)
  | _, [] => []
  | z, (v, e, r) :: rest =>
    if e then
      let q := opAdd t false r z v
      let q' : FRes := if ftz then ⟨flushF t q, false⟩ else q
      (q', z) :: scanFrom t ftz q'.bits rest
    else (bitRes v, z) :: scanFrom t ftz z rest

/-- VSCAN (R233): word 1 of the first item left to the assist routine is the sum before it (R426). -/
def execVscan (x : RWord) (s : State) : Host.Outcome State Fault Refusal :=
  run (do
    let s0 ← get
    let on ← vGuard x.guard
    let a ← vSource x.a
    let t := x.type.toNat
    let w := typeWidth t
    if on then do
      let en ← vMask x
      let rb ← vRand x
      let h ← here
      let s ← get
      let n := elemsOf t
      let out := scanFrom t (s.ftz h.ctx.lid) 0 ((List.range n).map fun i => (a.elem w i, en i, vRounding x (rb i)))
      let first := (out.findIdx? (·.1.sub)).getD n
      vCommit s0 { ins := .vscan x, x := x, dt := t, st := t, g := 1, lat := if isFloatT t then n else 6,
                   cyc := if isFloatT t then n / 8 else 1 }
        (out.map (·.1)) (vItems n (a.elem w) (fun i => if i = first then ((out[i]?).map (·.2)).getD 0 else 0) (fun _ => 0) en rb)
    else vOff x.d.toNat a w) s

/-- VPOPC (R234). -/
def execVpopc (x : RWord) (s : State) : Host.Outcome State Fault Refusal :=
  run (do
    let on ← guardOn x.guard
    let a ← vSource x.a
    let w := typeWidth x.type.toNat
    if on then do
      let en ← vMask x
      vOut x.d.toNat (BitVec.ofNat 4096 ((List.range (elemsOf x.type.toNat)).countP fun i => en i && a.elem w i != 0)) none 6
      vEnd 1
    else vOff x.d.toNat a w) s

/-- Whether an element meets VTEST's test (R235); `bit` is bit i of the source. -/
def testElem (t sub v : Nat) (bit : Bool) : Bool :=
  match sub with
  | 0 => v != 0
  | 1 => bit
  | 2 => if isFloatT t then elemOrder t v 0 == some (-1) else decide (intVal t v < 0)
  | 3 => isNan t v
  | _ => isInf t v

/-- VTEST (R235, R187). -/
def execVtest (x : RWord) (s : State) : Host.Outcome State Fault Refusal :=
  run (do
    let on ← guardOn x.guard
    let a ← vSource x.a
    let t := x.type.toNat
    let w := typeWidth t
    if on then do
      let en ← vMask x
      let l := (List.range (elemsOf t)).filter en
      let bit (i : Nat) : Bool := match a.par with | some p => p.getLsbD i | none => a.data.getLsbD i
      writeFlag x.c.toNat (flagSlot (l.countP fun i => testElem t x.sub.toNat (a.elem w i) (bit i)) l.length)
    else pure ()
    vEnd 1) s

/-! ## Approximations (R236) -/

/-- VFRCP of an f32 pattern (R236). -/
def approxRcp (bits : Nat) : FRes :=
  match unpackF 10 bits with
  | .nan => ⟨nanBits 10, false⟩
  | .inf n => ⟨signOf 10 n, false⟩
  | .fin n m e =>
    if m = 0 then ⟨signOf 10 n + infBits 10, false⟩
    else
      let l := Nat.log2 m
      let f7 := m * 128 / 2 ^ l - 128
      let y := roundNat rne (2 * 256 * 2048) (257 + 2 * f7)
      roundF 10 rne (.num n y 1 (-(e + l) - 1 - 11))

/-- The nearest whole number to 2^15 / √k for odd k above 1: a tie is not possible. -/
def nearestRoot (k : Nat) : Nat := (isqrt (2 ^ 32 / k) + 1) / 2

/-- VFRSQ of an f32 pattern (R236). -/
def approxRsq (bits : Nat) : FRes :=
  match unpackF 10 bits with
  | .nan => ⟨nanBits 10, false⟩
  | .inf n => if n then ⟨nanBits 10, false⟩ else ⟨0, false⟩
  | .fin n m e =>
    if m = 0 then ⟨signOf 10 n + infBits 10, false⟩
    else if n then ⟨nanBits 10, false⟩
    else
      let l := Nat.log2 m
      let odd := (e + l) % 2 != 0
      let ev := if odd then e + l - 1 else e + l
      let t := 32 * (if odd then 2 * m else m) / 2 ^ l
      roundF 10 rne (.num false (nearestRoot (2 * t + 1)) 1 (-(ev / 2) - 1 - 11))

/-- VFRCP (R236). -/
def execVfrcp (x : RWord) (s : State) : Host.Outcome State Fault Refusal :=
  run (elemWord (.vfrcp x) x 1 5 fun _ a _ _ => approxRcp a) s
/-- VFRSQ (R236). -/
def execVfrsq (x : RWord) (s : State) : Host.Outcome State Fault Refusal :=
  run (elemWord (.vfrsq x) x 1 5 fun _ a _ _ => approxRsq a) s

end Sys2Proof.Machine
end

