-- ==== Sys2Proof/Machine/VectorConv.lean ====
section
/-!
DEFINITION. V's conversions and width changes (R223 to R225), codes and BX blocks (R226 to R229), and movement (R230, R231).
-/
namespace Sys2Proof.Machine

/-! ## Width changes (R219, R223 to R225) -/

/-- A masked-off element of another width (R219): converted with RND 1, no assist and no flush. -/
def offElem (dst src bits : Nat) : FRes := ⟨(convert dst src rtz bits).bits, false⟩

/-- A BX element of a register with its side-car, its value (R31, R34). -/
def vBx (t bits : Nat) (car : Car) (block : Nat) : FVal :=
  bxVal t (bxPart t bits (bitsOf car (16 * block + 7) (16 * block), bitsOf car (16 * block + 15) (16 * block + 8)))

/-- A value converted to a type of 0 to 10 (R199, R223). -/
def fromValue (dst : Nat) (r : Rounding) (v : FVal) : FRes :=
  if isFloatT dst then roundF dst r v.exact else ⟨roundToInt dst r v.exact, false⟩

/-- Whether any exponent byte of the blocks a register covers is 255 (R32). -/
def badCar (t : Nat) (car : Car) : Bool := (List.range (if t = 11 then 32 else 64)).any fun k => bitsOf car (8 * k + 7) (8 * k) == 255

/-- The registers or entry of a source group, with their side-cars. -/
def vGroupCars (r : BitVec 6) (g : Nat) : M (List (VReg × Car)) :=
  if g ≤ 1 then do
    let v ← vSource r
    pure [(v.data, v.car)]
  else do
    let l ← vGroup r g
    let h ← here
    pure (l.zipIdx.map fun (v, j) => (v, (h.ctx.cars[r.toNat + j]?).getD 0))

/-- The first source of a guarded-off word whose source is a group: vA with eA (R212). -/
def vFirst (r : BitVec 6) (g : Nat) : M VIn :=
  if g ≤ 1 then vSource r
  else do
    let v ← vReg r.toNat
    let h ← here
    pure ⟨v, (h.ctx.cars[r.toNat]?).getD 0, none⟩

/-- VCVT from a BX type (R223, R32). -/
def cvtFromBx (x : RWord) (s0 : State) (on : Bool) : M Unit := do
  let dst := x.type.toNat
  let src := x.sub.toNat
  let ga := max 1 (cvtGroups x).2
  let gd := max 1 (cvtGroups x).1
  if on then do
    let l ← vGroupCars x.a ga
    let en ← vMask x
    let rb ← vRand x
    let h ← here
    if h.eng.req == .none && l.any fun (_, k) => badCar src k then formatTrap
    else do
      let n := 4096 / min (typeWidth dst) (typeWidth src)
      let bits (i : Nat) : Nat := groupElem (l.map (·.1)) (typeWidth src) i
      let val (i : Nat) : FVal := vBx src (bits i) (((l[i % ga]?).map (·.2)).getD 0) (i / ga / 32)
      let res := (List.range n).map fun i =>
        if en i then fromValue dst (vRounding x (rb i)) (val i)
        else if typeWidth dst = typeWidth src then bitRes (bits i)
        else ⟨(fromValue dst rtz (val i)).bits, false⟩
      vCommit s0 { ins := .vcvt x, x := x, dt := dst, st := src, g := gd, lat := 4, cyc := max ga gd }
        res (vItems n bits (fun _ => 0) (fun _ => 0) en rb)
  else do
    let a ← vFirst x.a ga
    vOff x.d.toNat a (typeWidth dst)

/-- VCVT (R223). -/
def execVcvt (x : RWord) (s : State) : Host.Outcome State Fault Refusal :=
  run (do
    let s0 ← get
    let on ← vGuard x.guard
    let dst := x.type.toNat
    let src := x.sub.toNat
    if 11 ≤ src then cvtFromBx x s0 on
    else
      let ga := max 1 (cvtGroups x).2
      let gd := max 1 (cvtGroups x).1
      if on then do
        let a ← vWide x.a ga (typeWidth src)
        let en ← vMask x
        let rb ← vRand x
        let n := 4096 / min (typeWidth dst) (typeWidth src)
        let res := (List.range n).map fun i =>
          if en i then convert dst src (vRounding x (rb i)) (a i)
          else if typeWidth dst = typeWidth src then bitRes (a i) else offElem dst src (a i)
        vCommit s0 { ins := .vcvt x, x := x, dt := dst, st := src, g := gd, lat := 4, cyc := max ga gd }
          res (vItems n a (fun _ => 0) (fun _ => 0) en rb)
      else do
        let a ← vFirst x.a ga
        vOff x.d.toNat a (typeWidth dst)) s

/-- The type a widening word writes (R224). -/
def wideType (x : RWord) : Nat := if 8 ≤ x.type.toNat then 10 else x.type.toNat + (if x.sub = 1 then 4 else 2)

/-- A widening word (R224): `mad` reads a wide accumulator group in A. -/
def widenWord (ins : Instr) (x : RWord) (mad : Bool) (fi : Int → Int → Int → Int) (ff : FVal → FVal → FVal → Exact) : M Unit := do
  let s0 ← get
  let on ← vGuard x.guard
  let t := x.type.toNat
  let dst := wideType x
  let g := widenGroup x
  let w := typeWidth t
  if on then do
    let a ← vWide x.a (if mad then g else 1) (if mad then typeWidth dst else w)
    let b ← vSource x.b
    let c ← vSourceIf mad x.c
    let en ← vMask x
    let rb ← vRand x
    let ta := if mad then dst else t
    let res := (List.range (elemsOf t)).map fun i =>
      if en i then
        if 8 ≤ t then roundF dst (vRounding x (rb i)) (ff (unpackF ta (a i)) (unpackF t (b.elem w i)) (unpackF t (c.elem w i)))
        else intRes dst false (fi (intVal ta (a i)) (intVal t (b.elem w i)) (intVal t (c.elem w i)))
      else if mad then bitRes (a i) else offElem dst t (a i)
    vCommit s0 { ins := ins, x := x, dt := dst, st := t, g := g, lat := 4, cyc := g }
      res (vItems (elemsOf t) a (b.elem w) (c.elem w) en rb)
  else do
    let _ ← vSourceIf (!mad) x.a
    let _ ← vSource x.b
    let _ ← vSourceIf mad x.c
    vEnd 1

/-- VWADD (R224). -/
def execVwadd (x : RWord) (s : State) : Host.Outcome State Fault Refusal :=
  run (widenWord (.vwadd x) x false (fun a b _ => a + b) fun a b _ => addF a b) s
/-- VWMUL (R224). -/
def execVwmul (x : RWord) (s : State) : Host.Outcome State Fault Refusal :=
  run (widenWord (.vwmul x) x false (fun a b _ => a * b) fun a b _ => mulF a b) s
/-- VWMAD (R224): a + b · c on the wide group. -/
def execVwmad (x : RWord) (s : State) : Host.Outcome State Fault Refusal :=
  run (widenWord (.vwmad x) x true (fun a b c => a + b * c) fun a b c => fmaF b c a) s

/-- The type VNRW writes (R225): its width by the factor, unsigned under .u. -/
def narrowType (x : RWord) : Nat :=
  let base := x.type.toNat / 2 * 2 - (if x.sub.getLsbD 0 then 4 else 2)
  base + (if x.sub.getLsbD 1 || x.type.toNat % 2 == 1 then 1 else 0)

/-- VNRW (R225). -/
def execVnrw (x : RWord) (s : State) : Host.Outcome State Fault Refusal :=
  run (do
    let s0 ← get
    let on ← guardOn x.guard
    let t := x.type.toNat
    let dst := narrowType x
    let g := narrowGroup x
    let b ← vSource x.b
    if on then do
      let l ← vGroup x.a g
      let en ← vMask x
      let rb ← vRand x
      let sh := b.low.toNat % typeWidth t
      let res := (List.range (elemsOf dst)).map fun i =>
        let v := groupElem l (typeWidth t) i
        let z := intVal t v
        if en i then bitRes (satInt dst (roundInt (vRounding x (rb i)) (decide (z < 0)) z.natAbs (2 ^ sh) 0)) else offElem dst t v
      vCommit s0 { ins := .vnrw x, x := x, dt := dst, st := t, g := 1, lat := 4, cyc := g } res []
    else do
      let v ← vReg x.a.toNat
      let h ← here
      vOff x.d.toNat ⟨v, (h.ctx.cars[x.a.toNat]?).getD 0, none⟩ (typeWidth t)) s

/-! ## Codes (R226 to R228) -/

/-- VUNPK (R226). -/
def execVunpk (x : RWord) (s : State) : Host.Outcome State Fault Refusal :=
  run (do
    let on ← guardOn x.guard
    let lo ← vReg x.a.toNat
    let p ← vSource x.b
    let h ← here
    if on then do
      let hi ← vReg (x.a.toNat + 1)
      let b := codeBits x.type.toNat
      let win := lo.toNat + hi.toNat * 2 ^ 4096
      let off := p.low.toNat % 4096
      vOut x.d.toNat (packElems 8 ((List.range 512).map fun i => (win >>> (off + i * b)) % 2 ^ b)) none 3
      vEnd 2
    else vOff x.d.toNat ⟨lo, (h.ctx.cars[x.a.toNat]?).getD 0, none⟩ 8) s

/-- VPACK (R227). -/
def execVpack (x : RWord) (s : State) : Host.Outcome State Fault Refusal :=
  run (do
    let on ← guardOn x.guard
    let a ← vSource x.a
    let b := codeBits x.type.toNat
    if on then do
      vOut x.d.toNat (packElems b ((List.range 512).map fun i => a.elem 8 i)) none 3
      vEnd 1
    else vOff x.d.toNat a 8) s

/-- VLUT (R228): codebook `i div 128` of vB. -/
def execVlut (x : RWord) (s : State) : Host.Outcome State Fault Refusal :=
  run (do
    let s0 ← get
    let on ← guardOn x.guard
    let a ← vSource x.a
    let t ← vSource x.b
    let b := codeBits x.type.toNat
    if on then do
      let en ← vMask x
      let res := (List.range 512).map fun i =>
        let c := a.elem 8 i
        if en i then bitRes (vElem t.data 16 (2 ^ b * (i / 128) + c % 2 ^ b)) else offElem 9 3 c
      vCommit s0 { ins := .vlut x, x := x, dt := 9, st := 3, g := 2, lat := 3, cyc := 2 } res []
    else vEnd 1) s

/-! ## BX blocks (R229) -/

/-- The parameters of a BX type: K, B0, T and the distance of EB below EA (R229). -/
def bxParams (t : Nat) : Nat × Nat × Nat × Nat := if t = 11 then (64, 133, 63, 6) else (4, 129, 3, 2)

/-- The larger of two magnitudes of finite values. -/
def maxMag (a b : FVal) : FVal :=
  match a, b with
  | .fin _ m e, .fin _ n f => if cmpF (.fin false m e) (.fin false n f) == some (-1) then .fin false n f else .fin false m e
  | x, _ => x

/-- One element of a block under EA and EB: its byte or nibble (R229). -/
def bxElem (t ea eb : Nat) (r : Rounding) (v : FVal) : Nat :=
  let (k, b0, tt, _) := bxParams t
  match v with
  | .fin n m e =>
    let small := eb != 0 && cmpF (.fin false m e) (.fin false tt ((eb : Int) - b0)) != some 1
    let exp := (if small then eb else ea)
    let z := roundInt r n m 1 (e - ((exp : Int) - b0))
    let z := if small then z else max (-(k : Int)) (min ((k : Int) - 1) z)
    (if small then 2 * k else 0) + wrapN (if t = 11 then 7 else 3) z
  | _ => 0

/-- A block of 32 values: EA, EB and its elements (R229). -/
def bxBlock (t : Nat) (l : List (FVal × Rounding)) : Nat × Nat × List Nat :=
  match (l.map (·.1)).foldl maxMag (.fin false 0 0) with
  | .fin _ m e =>
    if m = 0 then (0, 0, l.map fun _ => 0)
    else
      let ea := (max 1 (min 254 ((Nat.log2 m : Int) + e + 128))).toNat
      let eb := ea - (bxParams t).2.2.2
      (ea, eb, l.map fun (v, r) => bxElem t ea eb { r with mode := if r.mode = 3 then 0 else r.mode } v)
  | _ => (0, 0, [])

/-- Whether a value is a NaN or infinite. -/
def FVal.special : FVal → Bool
  | .fin _ _ _ => false
  | _ => true

/-- VBXN (R229). -/
def execVbxn (x : RWord) (s : State) : Host.Outcome State Fault Refusal :=
  run (do
    let on ← guardOn x.guard
    let t := x.type.toNat
    let src := x.sub.toNat
    let g := bxnGroup x
    if on then do
      let l ← vGroup x.a g
      let rb ← vRand x
      let vals := (List.range (elemsOf t)).map fun i => (unpackF src (groupElem l (typeWidth src) i), vRounding x (rb i))
      if vals.any fun (v, _) => v.special then formatTrap
      else do
        let blocks := (List.range (elemsOf t / 32)).map fun j => bxBlock t ((vals.drop (32 * j)).take 32)
        let car : Car := BitVec.ofNat 512 (packElems 8 (blocks.flatMap fun (ea, eb, _) => [ea, eb])).toNat
        vOut x.d.toNat (packElems (typeWidth t) (blocks.flatMap (·.2.2))) (some car) 6
        vEnd g
    else do
      let v ← vReg x.a.toNat
      let h ← here
      vOff x.d.toNat ⟨v, (h.ctx.cars[x.a.toNat]?).getD 0, none⟩ (typeWidth t)) s

/-! ## Movement (R230, R231) -/

/-- A movement word: each enabled element from the sources (R230). -/
def moveWord (x : RWord) (lat cyc : Nat) (a : VIn) (f : Nat → Nat) : M Unit := do
  let w := typeWidth x.type.toNat
  let en ← vMask x
  vOut x.d.toNat (packElems w ((List.range (elemsOf x.type.toNat)).map fun i => if en i then f i else a.elem w i)) none lat
  vEnd cyc

/-- VPERM (R230). -/
def execVperm (x : RWord) (s : State) : Host.Outcome State Fault Refusal :=
  run (do
    let on ← guardOn x.guard
    let a ← vSource x.a
    let t := x.type.toNat
    let g := indexGroup t
    if on then do
      let ix ← vGroup x.b g
      moveWord x 3 g a fun i => a.elem (typeWidth t) (groupElem ix 16 i % elemsOf t)
    else vOff x.d.toNat a (typeWidth t)) s

/-- VSHUF (R230). -/
def execVshuf (x : RWord) (s : State) : Host.Outcome State Fault Refusal :=
  run (do
    let on ← guardOn x.guard
    let a ← vSource x.a
    let b ← vSource x.b
    let t := x.type.toNat
    let g := indexGroup t
    if on then do
      let ix ← vGroup x.c g
      moveWord x 3 g a fun i =>
        let j := groupElem ix 16 i % (2 * elemsOf t)
        if j < elemsOf t then a.elem (typeWidth t) j else b.elem (typeWidth t) (j - elemsOf t)
    else vOff x.d.toNat a (typeWidth t)) s

/-- VSLIDE (R230). -/
def execVslide (x : RWord) (s : State) : Host.Outcome State Fault Refusal :=
  run (do
    let on ← guardOn x.guard
    let a ← vSource x.a
    let b ← vSource x.b
    let c ← vSource x.c
    let t := x.type.toNat
    if on then
      let n := elemsOf t
      moveWord x 3 1 a fun i =>
        let j := i + c.low.toNat % n
        if j < n then a.elem (typeWidth t) j else b.elem (typeWidth t) (j - n)
    else vOff x.d.toNat a (typeWidth t)) s

/-- VBCAST (R230). -/
def execVbcast (x : RWord) (s : State) : Host.Outcome State Fault Refusal :=
  run (do
    let on ← guardOn x.guard
    let a ← vSource x.a
    let b ← vSource x.b
    let t := x.type.toNat
    if on then moveWord x 2 1 a fun _ => a.elem (typeWidth t) (b.low.toNat % elemsOf t)
    else vOff x.d.toNat a (typeWidth t)) s

/-- The side-car of a BX type as a word writes it: BX8 has 16 pairs, its other bytes are zero (R34). -/
def bxCar (t : Nat) (car : Car) : Car := if t = 11 then BitVec.ofNat 512 (bitsOf car 255 0) else car

/-- VMOV (R230): with a BX type the side-car moves too. -/
def execVmov (x : RWord) (s : State) : Host.Outcome State Fault Refusal :=
  run (do
    let on ← guardOn x.guard
    let a ← vSource x.a
    let t := x.type.toNat
    if on then
      if 11 ≤ t then do
        vOut x.d.toNat a.data (some (bxCar t a.car)) 2
        vEnd 1
      else moveWord x 2 1 a fun i => a.elem (typeWidth t) i
    else vOff x.d.toNat a (typeWidth t)) s

/-- VMOVI (R231): guarded off with a queue destination it pushes the same filled register. -/
def execVmovi (x : IWord) (s : State) : Host.Outcome State Fault Refusal :=
  run (do
    let on ← guardOn x.guard
    let w := typeWidth x.sub.toNat
    if on || decide (32 ≤ x.d.toNat) then vOut x.d.toNat (packElems w (List.replicate (4096 / w) (x.imm.toNat % 2 ^ w))) none 2
    else pure ()
    vEnd 1) s

end Sys2Proof.Machine
end

