-- ==== Sys2Proof/Machine/VectorTiles.lean ====
section
/-!
DEFINITION. V's words over tiles and queues: VTLD and VTST (R237, R238), VQPUSH and VQPOP (R239), VCHAIN (R240, R241).
-/
namespace Sys2Proof.Machine

/-- Cycles of a tile access of V to its result (R216). -/
def tileLat (v : Shape) : Nat := if v.level = 0 then 4 else 40
/-- Cycles it keeps V. -/
def tileCyc (v : Shape) : Nat := if v.level = 0 then 1 else 2

/-- The tiles as V sees them: its own earlier writes made (R238). -/
def State.vView (s : State) (c k : Nat) : State :=
  match s.ctx? c k with
  | some x => x.twrites.foldl (fun s w => s.writeTile c k w.t w.bytes) s
  | none => s

/-- The element index of VTLD and VTST (R237). -/
def tileIndex (h : Here) (x : TWord) : Nat :=
  bitsOf x.cmd 23 0 + (if x.preg = 0 then 0 else ((h.ctx.params[x.preg.toNat - 48]?).getD 0).toNat)

/-- Whether VTLD and VTST take a tile at an index (R237). -/
def tileMoves (v : Shape) (ex : Nat) : Bool :=
  if v.type ≤ 10 then true
  else if isBX v.type then ex % 32 == 0
  else isCode v.type && ex % 8 == 0

/-- The element offset of element `i` of the block whose first linear index is `l0`: its own, or past the last element
that of the block's storage (R237). -/
def blockOffset (v : Shape) (l0 i : Nat) : Option Nat :=
  if l0 + i < v.numel then v.linear (l0 + i) else (v.linear l0).map fun o => o / 32 * 32 + i

/-- What VTLD reads: 512 bytes, and the side-car of a BX tile (R237, R34). Where 32 consecutive elements lie in several blocks of the tile,
their side-car pair is that of the first one's block, and 0, 0 where the first is padding (DESIGN CHOICE: the spec does not say which; log 12). -/
def State.tileLoad (s : State) (c : Nat) (v : Shape) (ex : Nat) : VReg × Option Car :=
  if v.type ≤ 10 then
    let w := typeWidth v.type
    (packElems w ((List.range (4096 / w)).map fun i => s.linearElem c v (ex + i)), none)
  else if isBX v.type then
    let w := typeWidth v.type
    let blocks := (List.range (if v.type = 11 then 16 else 32)).map fun j => ex + 32 * j
    let bits (l0 i : Nat) : Nat := if l0 < v.numel then match blockOffset v l0 i with | some o => s.elemAt c v o | none => 0 else 0
    let pair (l0 : Nat) : List Nat := match v.linear l0 with
      | some o => let e := s.expPair c v (o / 32); [e.1, e.2]
      | none => [0, 0]
    (packElems w (blocks.flatMap fun l0 => (List.range 32).map (bits l0)), some (BitVec.ofNat 512 (packElems 8 (blocks.flatMap pair)).toNat))
  else
    let b := codeBits v.type
    (BitVec.ofNat 4096 (leNum ((List.range 512).map fun i =>
      let o := ex * b / 8 + i
      if o < v.size.1 then s.tileByte c v o else 0)), none)

/-- The bytes of its image that VTLD reads. -/
def tileLoadReads (v : Shape) (ex : Nat) : List (Nat × Nat) :=
  if v.type ≤ 10 then v.linearReads ((List.range (4096 / typeWidth v.type)).map (ex + ·))
  else if isBX v.type then
    (List.range (if v.type = 11 then 16 else 32)).flatMap fun j =>
      let l0 := ex + 32 * j
      if l0 < v.numel then (List.range 32).flatMap fun i => match blockOffset v l0 i with | some o => v.reads o | none => [] else []
  else let o := ex * codeBits v.type / 8; [(o, min 512 (v.size.1 - o))]

/-- What VTST writes of a register or entry (R237). -/
def tileStore (v : Shape) (ex : Nat) (d : VReg) (car : Car) : List (Nat × Byte × Byte) :=
  if v.type ≤ 10 then
    let w := typeWidth v.type
    (List.range (4096 / w)).flatMap fun i => match v.linear (ex + i) with
      | some o => v.put o (vElem d w i)
      | none => []
  else if isBX v.type then
    let w := typeWidth v.type
    (List.range (if v.type = 11 then 16 else 32)).flatMap fun j =>
      let l0 := ex + 32 * j
      if l0 < v.numel then
        ((List.range 32).flatMap fun i => match blockOffset v l0 i with
          | some o => v.put o (vElem d w (32 * j + i))
          | none => []) ++
        (match v.linear l0 with
         | some o => putBytes (v.expAt (o / 32)) (leBytes (bitsOf car (16 * j + 15) (16 * j)) 2)
         | none => [])
      else []
  else
    let b := codeBits v.type
    ((List.range 512).filter fun i => decide (ex * b / 8 + i < v.plane)).map fun i => (ex * b / 8 + i, 0xFF, BitVec.ofNat 8 (vElem d 8 i))

/-- VTLD (R237, R238). Guarded off it moves nothing, to a queue too (R87, R212). -/
def execVtld (x : TWord) (s : State) : Host.Outcome State Fault Refusal :=
  run (do
    let on ← guardOn x.guard
    if on then do
      let h ← here
      let v ← tileHere x.ta.toNat
      let ex := tileIndex h x
      if !tileMoves v ex then formatTrap
      else do
        let view := (← get).vView h.c h.k
        imageOk view h.c v (tileLoadReads v ex)
        let (d, car) := view.tileLoad h.c v ex
        vOut (bitsOf x.cmd 33 28) d car (tileLat v)
        vEnd (tileCyc v)
    else vEnd 1) s

/-- A tile write of V, which takes effect at the end of its latency (R238). -/
def vTileWrite (h : Here) (t : Nat) (v : Shape) (bytes : List (Nat × Byte × Byte)) : M Unit := do
  let s ← get
  modCtx fun y => { y with twrites := y.twrites ++ [{ t := t, bytes := bytes, due := s.now + tileLat v - 1, issued := s.now, secN := h.secN }] }

/-- VTST (R237, R238). Guarded off it pops the queue it names (R87). -/
def execVtst (x : TWord) (s : State) : Host.Outcome State Fault Refusal :=
  run (do
    let on ← guardOn x.guard
    let src := BitVec.ofNat 6 (bitsOf x.cmd 33 28)
    if on then do
      let d ← vSource src
      let h ← here
      let v ← tileHere x.td.toNat
      let ex := tileIndex h x
      if !tileMoves v ex || v.windowed then formatTrap
      else do
        vTileWrite h x.td.toNat v (tileStore v ex d.data d.car)
        vEnd (tileCyc v)
    else do
      let _ ← vSourceIf (decide (32 ≤ src.toNat)) src
      vEnd 1) s

/-! ## VQPUSH and VQPOP (R239) -/

/-- VQPUSH (R239): guarded off it pushes the same entry, one cycle after its issue (DESIGN CHOICE: R216 gives no latency for it; log 27). -/
def execVqpush (x : RWord) (s : State) : Host.Outcome State Fault Refusal :=
  run (do
    let _ ← guardOn x.guard
    let a ← vSource x.a
    pushEntry (x.d.toNat - 32) { data := a.data, car := a.car } 1
    vEnd 1) s

/-- VQPOP (R239): guarded off it pops and writes nothing. -/
def execVqpop (x : RWord) (s : State) : Host.Outcome State Fault Refusal :=
  run (do
    let on ← guardOn x.guard
    let a ← vSource x.a
    if on then vWrite x.d.toNat a.data (some a.car) 1 else pure ()
    vEnd 1) s

/-! ## VCHAIN (R240, R241) -/

/-- A chain descriptor's fields (R240): type, rounding, and each operation with its second operand. -/
structure Chain where
  type : Nat
  rnd  : Nat
  ops  : List (Nat × Nat)

/-- The descriptor of the parameters from `k` on. -/
def chainBits (h : Here) (k : Nat) : BitVec 256 :=
  BitVec.ofNat 256 ((List.range 4).foldl (fun a j => a + (((h.ctx.params[k + j]?).getD 0).toNat) * 2 ^ (64 * j)) 0)

/-- The fields of a descriptor. -/
def chainOf (d : BitVec 256) : Chain :=
  { type := bitsOf d 15 8, rnd := bitsOf d 17 16,
    ops := (List.range (bitsOf d 3 0)).map fun k => (bitsOf d (64 + 24 * k + 7) (64 + 24 * k), bitsOf d (64 + 24 * k + 15) (64 + 24 * k + 8)) }

/-- Whether a descriptor obeys R240 and R241. -/
def chainOk (d : BitVec 256) (second : Bool) : Bool :=
  let n := bitsOf d 3 0
  bitsOf d 63 18 == 0 && bitsOf d 17 16 != 2 && [2, 4, 6, 8, 9, 10].contains (bitsOf d 15 8) && bitsOf d 7 4 == 0 && decide (1 ≤ n) &&
    decide (n ≤ 8) && (List.range 8).all fun k =>
      let opc := bitsOf d (64 + 24 * k + 7) (64 + 24 * k)
      let src := bitsOf d (64 + 24 * k + 15) (64 + 24 * k + 8)
      bitsOf d (64 + 24 * k + 23) (64 + 24 * k + 16) == 0 &&
        if n ≤ k then opc == 0 && src == 0
        else if opc ≤ 5 then decide (src ≤ 17) && (src != 1 || second)
        else decide (opc ≤ 7) && src == 255

/-- One operation of a chain (R240). -/
def chainOp (t opc : Nat) (r : Rounding) (a b : Nat) : FRes :=
  match opc with
  | 0 => opAdd t false r a b
  | 1 => opSub t false r a b
  | 2 => opSub t false r b a
  | 3 => opMul t r a b
  | 4 => opSel t false a b
  | 5 => opSel t true a b
  | 6 => opAbs t false a
  | _ => opNeg t false a

/-- A chain over one element: its value, and whether any result along it was subnormal (R241, R28). -/
def chainElem (ch : Chain) (ftz : Bool) (params : List W64) (a b : Nat) : FRes :=
  ch.ops.foldl (fun (z : FRes) (opc, src) =>
    let y := if src = 0 then a else if src = 1 then b
      else ((params[src - 2]?).getD 0).toNat % 2 ^ typeWidth ch.type
    let q := chainOp ch.type opc ⟨ch.rnd, 0, 1⟩ z.bits y
    if ftz then ⟨flushF ch.type q, false⟩ else ⟨q.bits, z.sub || q.sub⟩) ⟨a, false⟩

/-- Whether VCHAIN takes its tiles (R241): all of the chain's type and of equal extents, the destination without a window. -/
def chainTiles (t : Nat) (a : Shape) (b : Option Shape) (d : Shape) : Bool :=
  a.type == t && d.type == t && a.exts == d.exts && !d.windowed &&
    (match b with | some v => v.type == t && v.exts == d.exts | none => true)

/-- The writes of a group of elements from linear index `l0`. -/
def groupPut (v : Shape) (l0 : Nat) (l : List Nat) : List (Nat × Byte × Byte) :=
  (l.zipIdx).flatMap fun (z, i) => match v.linear (l0 + i) with | some o => v.put o z | none => []

/-- The results of a group of `m` elements from index `l0`, one after another: where the destination is a source too, a
later element sees what an earlier one wrote (R241). -/
def State.chainGroup (s : State) (h : Here) (x : TWord) (ch : Chain) (a : Shape) (b : Option Shape) (d : Shape) (l0 m : Nat) : List FRes :=
  let ftz := s.ftz h.ctx.lid
  let shared := x.td == x.ta || (b.isSome && x.td == x.tb)
  (((List.range m).foldl (fun (acc : State × List FRes) i =>
    let z := chainElem ch ftz h.ctx.params (acc.1.linearElem h.c a (l0 + i))
      (match b with | some v => acc.1.linearElem h.c v (l0 + i) | none => 0)
    (if shared then acc.1.writeTile h.c h.k x.td.toNat (groupPut d (l0 + i) [z.bits]) else acc.1, z :: acc.2)) (s, [])).2).reverse

/-- A tile of VCHAIN: its use starts with the first group, and a TFREE then waits for it (R67, R207). -/
def chainTile (h : Here) (t : Nat) : M Shape := do
  if h.eng.chain = 0 ∧ h.eng.req = .none then tileHere t
  else match (← get).usedTile h.c h.k t with
    | some v => pure v
    | none => formatTrap

/-- VCHAIN (R240, R241): each turn one group of N elements; a group that meets a subnormal is left to the assist routine from
that element on, those before it written (R28). -/
def execVchain (x : TWord) (s : State) : Host.Outcome State Fault Refusal :=
  run (do
    let s0 ← get
    let on ← guardOn x.guard
    if on then do
      let h ← here
      let a ← chainTile h x.ta.toNat
      let b ← if x.cmd.getLsbD 0 then do
          let v ← chainTile h x.tb.toNat
          pure (some v)
        else pure none
      let d ← chainTile h x.td.toNat
      let desc := chainBits h (x.preg.toNat - 48)
      let ch := chainOf desc
      if !chainOk desc (x.cmd.getLsbD 0) || !chainTiles ch.type a b d then formatTrap
      else do
        let ans ← assistAnswer
        let view := (← get).vView h.c h.k
        let n := elemsOf ch.type
        let l0 := h.eng.chain * n
        let m := min n (d.numel - l0)
        let group := (List.range m).map (l0 + ·)
        imageOk view h.c a (a.linearReads group)
        match b with | some v => imageOk view h.c v (v.linearReads group) | none => pure ()
        let ea (i : Nat) : Nat := view.linearElem h.c a (l0 + i)
        let eb (i : Nat) : Nat := match b with | some v => view.linearElem h.c v (l0 + i) | none => 0
        let res := view.chainGroup h x ch a b d l0 m
        match (if ans.isSome then none else res.findIdx? (·.sub)) with
        | some j => do
          vAssist s0 (.vchain x) 1 0x70 ch.type ch.type ch.rnd 0 l0 (l0 + j) (m - j) (dwordsOf (leBytes desc.toNat 32))
            (vItems m ea eb (fun _ => 0) (fun _ => true) (fun _ => 0))
            ((res.zipIdx).map fun (r, i) => BitVec.ofNat 64 (if i < j then r.bits else view.linearElem h.c d (l0 + i)))
            (undoTile := some (x.td.toNat, groupPut d l0 ((List.range j).map fun i => view.linearElem h.c d (l0 + i))))
          if j = 0 then pure () else vTileWrite h x.td.toNat d (groupPut d l0 ((res.take j).map (·.bits)))
        | none => do
          vTileWrite h x.td.toNat d (groupPut d l0 (match ans with | some v => v | none => res.map (·.bits)))
          let s ← get
          if d.numel ≤ l0 + n then vEnd ch.ops.length
          else modEng fun en => { en with chain := en.chain + 1, ready := s.now + ch.ops.length, chained := wordTiles (.vchain x) }
    else vEnd 1) s

end Sys2Proof.Machine
end

