-- ==== Sys2Proof/Machine/RowEngine.lean ====
section
/-!
DEFINITION. The row engine (R334 to R341): NMAX, NEXPS, NSCALE, NROW and NNORM, row by row.
-/
namespace Sys2Proof.Machine

/-! ## The exponential (R337) -/

/-- T, entries 0 to 15 (R337). -/
def expTable0 : List Nat :=
  [0x40000000, 0x402C6BE9, 0x4058F6A8, 0x4085A051, 0x40B268FA, 0x40DF50B8, 0x410C57A2, 0x41397DCC,
   0x4166C34C, 0x41942839, 0x41C1ACA7, 0x41EF50AE, 0x421D1462, 0x424AF7DA, 0x4278FB2B, 0x42A71E6C]

/-- T, entries 16 to 31 (R337). -/
def expTable1 : List Nat :=
  [0x42D561B4, 0x4303C518, 0x433248AE, 0x4360EC8D, 0x438FB0CB, 0x43BE957F, 0x43ED9AC0, 0x441CC0A3,
   0x444C0740, 0x447B6EAD, 0x44AAF702, 0x44DAA054, 0x450A6ABB, 0x453A564D, 0x456A6323, 0x459A9152]

/-- T, entries 32 to 47 (R337). -/
def expTable2 : List Nat :=
  [0x45CAE0F2, 0x45FB521A, 0x462BE4E2, 0x465C9961, 0x468D6FAE, 0x46BE67E0, 0x46EF8210, 0x4720BE55,
   0x47521CC6, 0x47839D7B, 0x47B5408C, 0x47E70611, 0x4818EE22, 0x484AF8D6, 0x487D2646, 0x48AF768A]

/-- T, entries 48 to 63 (R337). -/
def expTable3 : List Nat :=
  [0x48E1E9BA, 0x49147FEE, 0x4947393F, 0x497A15C4, 0x49AD1598, 0x49E038D0, 0x4A137F88, 0x4A46E9D6,
   0x4A7A77D4, 0x4AAE299B, 0x4AE1FF43, 0x4B15F8E6, 0x4B4A169C, 0x4B7E587E, 0x4BB2BEA5, 0x4BE7492B]

/-- T, entries 64 to 79 (R337). -/
def expTable4 : List Nat :=
  [0x4C1BF829, 0x4C50CBB8, 0x4C85C3F1, 0x4CBAE0EF, 0x4CF022CA, 0x4D25899C, 0x4D5B157E, 0x4D90C68B,
   0x4DC69CDD, 0x4DFC988C, 0x4E32B9B4, 0x4E69006E, 0x4E9F6CD4, 0x4ED5FF00, 0x4F0CB70C, 0x4F439514]

/-- T, entries 80 to 95 (R337). -/
def expTable5 : List Nat :=
  [0x4F7A9930, 0x4FB1C37C, 0x4FE91413, 0x50208B0E, 0x50582888, 0x508FEC9C, 0x50C7D765, 0x50FFE8FE,
   0x51382182, 0x5170810B, 0x51A907B4, 0x51E1B59A, 0x521A8AD7, 0x52538786, 0x528CABC3, 0x52C5F7AA]

/-- T, entries 96 to 111 (R337). -/
def expTable6 : List Nat :=
  [0x52FF6B55, 0x533906E0, 0x5372CA68, 0x53ACB607, 0x53E6C9DA, 0x542105FD, 0x545B6A8B, 0x5495F7A1,
   0x54D0AD5A, 0x550B8BD4, 0x55469329, 0x5581C378, 0x55BD1CDB, 0x55F89F70, 0x56344B52, 0x567020A0]

/-- T, entries 112 to 127 (R337). -/
def expTable7 : List Nat :=
  [0x56AC1F75, 0x56E847EF, 0x57249A29, 0x57611642, 0x579DBC57, 0x57DA8C83, 0x581786E6, 0x5854AB9B,
   0x5891FAC1, 0x58CF7474, 0x590D18D3, 0x594AE7FB, 0x5988E209, 0x59C7071C, 0x5A055751, 0x5A43D2C6]

/-- T, entries 128 to 143 (R337). -/
def expTable8 : List Nat :=
  [0x5A82799A, 0x5AC14BEA, 0x5B0049D4, 0x5B3F7377, 0x5B7EC8F2, 0x5BBE4A61, 0x5BFDF7E5, 0x5C3DD19C,
   0x5C7DD7A4, 0x5CBE0A1C, 0x5CFE6923, 0x5D3EF4D7, 0x5D7FAD59, 0x5DC092C7, 0x5E01A53F, 0x5E42E4E3]

/-- T, entries 144 to 159 (R337). -/
def expTable9 : List Nat :=
  [0x5E8451D0, 0x5EC5EC26, 0x5F07B405, 0x5F49A98C, 0x5F8BCCDB, 0x5FCE1E12, 0x60109D51, 0x60534AB7,
   0x60962665, 0x60D9307B, 0x611C6919, 0x615FD05E, 0x61A3666D, 0x61E72B65, 0x622B1F66, 0x626F4292]

/-- T, entries 160 to 175 (R337). -/
def expTable10 : List Nat :=
  [0x62B39509, 0x62F816EB, 0x633CC85B, 0x6381A978, 0x63C6BA64, 0x640BFB41, 0x64516C2E, 0x64970D4F,
   0x64DCDEC3, 0x6522E0AD, 0x6569132F, 0x65AF766A, 0x65F60A7F, 0x663CCF92, 0x6683C5C3, 0x66CAED35]

/-- T, entries 176 to 191 (R337). -/
def expTable11 : List Nat :=
  [0x6712460B, 0x6759D065, 0x67A18C68, 0x67E97A34, 0x683199ED, 0x6879EBB6, 0x68C26FB1, 0x690B2601,
   0x69540EC9, 0x699D2A2C, 0x69E6784D, 0x6A2FF94F, 0x6A79AD56, 0x6AC39485, 0x6B0DAEFF, 0x6B57FCE9]

/-- T, entries 192 to 207 (R337). -/
def expTable12 : List Nat :=
  [0x6BA27E65, 0x6BED3399, 0x6C381CA6, 0x6C8339B2, 0x6CCE8AE1, 0x6D1A1057, 0x6D65CA38, 0x6DB1B8A8,
   0x6DFDDBCC, 0x6E4A33C9, 0x6E96C0C3, 0x6EE382DE, 0x6F307A41, 0x6F7DA710, 0x6FCB096F, 0x7018A185]

/-- T, entries 208 to 223 (R337). -/
def expTable13 : List Nat :=
  [0x70666F76, 0x70B47368, 0x7102AD80, 0x71511DE4, 0x719FC4B9, 0x71EEA226, 0x723DB650, 0x728D015D,
   0x72DC8374, 0x732C3CBA, 0x737C2D55, 0x73CC556D, 0x741CB528, 0x746D4CAC, 0x74BE1C20, 0x750F23AB]

/-- T, entries 224 to 239 (R337). -/
def expTable14 : List Nat :=
  [0x75606374, 0x75B1DBA2, 0x76038C5B, 0x765575C8, 0x76A7980F, 0x76F9F359, 0x774C87CC, 0x779F5590,
   0x77F25CCE, 0x78459DAC, 0x78991854, 0x78ECCCEC, 0x7940BB9E, 0x7994E492, 0x79E947EF, 0x7A3DE5DF]

/-- T, entries 240 to 255 (R337). -/
def expTable15 : List Nat :=
  [0x7A92BE8B, 0x7AE7D21A, 0x7B3D20B6, 0x7B92AA88, 0x7BE86FBA, 0x7C3E7073, 0x7C94ACDE, 0x7CEB2523,
   0x7D41D96E, 0x7D98C9E6, 0x7DEFF6B6, 0x7E476009, 0x7E9F0606, 0x7EF6E8DA, 0x7F4F08AE, 0x7FA765AD]

/-- T of R337: rne(2^(i/256) · 2^30). -/
def expTable : List Nat :=
  expTable0 ++ expTable1 ++ expTable2 ++ expTable3 ++ expTable4 ++ expTable5 ++ expTable6 ++ expTable7 ++
  expTable8 ++ expTable9 ++ expTable10 ++ expTable11 ++ expTable12 ++ expTable13 ++ expTable14 ++ expTable15

/-- The exponential's polynomial: 2^(i/256) · 2^30 and the two terms in `u` (R337). -/
def expMant (i u : Nat) : Nat :=
  let p := 2 ^ 30 + (0x2C5C85FE * u) / 2 ^ 23 + (0x0F5FDF00 * u * u) / 2 ^ 46
  ((expTable[i]?).getD 0) * p / 2 ^ 30

/-- e(x, M) of R337 before its rounding. -/
def expValue (x m : FVal) : Exact :=
  match unpackF 10 (roundF 10 rne (addF x m.negate)).bits with
  | .nan => .nan
  | .inf false => .inf false
  | .inf true => .zero false
  | d =>
    match unpackF 10 (roundF 10 rne (mulF d (unpackF 10 0x3FB8AA3B))).bits with
    | .nan => .nan
    | .inf neg => if neg then .zero false else .inf false
    | .fin neg a e =>
      let num := signedMant neg (a * 2 ^ e.toNat)
      let den : Nat := 2 ^ (-e).toNat
      if 128 * (den : Int) ≤ num then .inf false
      else if num < -(160 * (den : Int)) then .zero false
      else
        let f := (num % (den : Int)).toNat
        .num false (expMant (f * 256 / den) (f * 2 ^ 23 / den % 2 ^ 15)) 1 (num / (den : Int) - 30)

/-! ## Rows (R334) -/

/-- A row tile. -/
def rowTile (v : Shape) : Bool := isFloatT v.type && [2, 3, 4, 5].all fun i => v.ext i == 1

/-- The elements of a row. -/
def State.rowElems (s : State) (c : Nat) (v : Shape) (r : Nat) : List Nat :=
  (List.range (v.ext 0)).map fun i => s.elem c v [i, r, 0, 0, 0, 0]

/-- An element's bits as an f32 of the same value. -/
def asF32 (t bits : Nat) : Nat := (roundF 10 rne (unpackF t bits).exact).bits

/-- The largest non-NaN value of a row, as an f32 (R340). -/
def rowMax (t : Nat) (l : List Nat) : FRes := redSelect 10 true (l.map (asF32 t))

/-- The sum of a row on X96 with anchor -78, as rne32 of its value (R338). -/
def rowSum (t : Nat) (l : List Nat) : Nat :=
  let g := l.map fun b => place 0 (-78) 96 (unpackF t b).exact
  if g.any (·.1) then nanBits 10
  else (roundF 10 rne (exactInt (gridInt 96 (wrapN 96 (g.foldl (fun z (_, b) => z + (b : Int)) 0))) (-78) false)).bits

/-- An exact sum, product or quotient of floats as a value again. -/
def Exact.value : Exact → FVal
  | .nan => .nan
  | .inf n => .inf n
  | .zero n => .fin n 0 0
  | .num n a _ e => .fin n a e

/-! ## NNORM's centre and reciprocal root (R339) -/

/-- floor(log2) of the largest magnitude of finite values; none where all are zero. -/
def topLog (l : List FVal) : Option Int :=
  match l.foldl maxMag (.fin false 0 0) with
  | .fin _ m e => if m = 0 then none else some ((Nat.log2 m : Int) + e)
  | _ => none

/-- A sum of values on X96 with an anchor, as a whole number of its units (R339). -/
def gridSum (anchor : Int) (l : List Exact) : Int :=
  gridInt 96 (wrapN 96 (l.foldl (fun z x => z + ((place 0 anchor 96 x).2 : Int)) 0))

/-- A fraction plus a float that is no smaller than zero, as a numerator, denominator and exponent. -/
def addEps (n d : Nat) (k : Int) : FVal → Nat × Nat × Int
  | .fin _ m e =>
    let lo := min k e
    (n * 2 ^ (k - lo).toNat + m * d * 2 ^ (e - lo).toNat, d, lo)
  | _ => (n, d, k)

/-- rne32(1 ÷ √v) of a fraction; a root of 0 gives +Infinity (R339). -/
def recipRoot (v : Nat × Nat × Int) : Nat :=
  if v.1 = 0 then infBits 10 else (roundF 10 rne (rootOf v.2.1 v.1 (-v.2.2))).bits

/-- μ and s of a row of `l` finite values (R339). -/
def normStats (rms : Bool) (eps : Nat) (l : List FVal) : Nat × Nat :=
  let n := l.length
  let e := (topLog l).getD 0
  let s1 := if (topLog l).isNone then 0 else gridSum (e - 78) (l.map FVal.exact)
  let s2 := if (topLog l).isNone then 0 else gridSum (2 * e - 76) (l.map fun x => (mulV x x).exact)
  let ep := unpackF 10 eps
  if rms then (0, recipRoot (addEps s2.toNat n (2 * e - 76) ep))
  else
    let mu := (roundF 10 rne (if s1 = 0 then .zero false else .num (decide (s1 < 0)) s1.natAbs n (e - 78))).bits
    (mu, recipRoot (addEps (s2 * n * 2 ^ 80 - s1 * s1).toNat (n * n) (2 * e - 156) ep))

/-! ## One row of a command -/

/-- What a row comes to: its elements, its sum, and words 1 to 3 of its items (R426). -/
structure RowOut where
  els : List FRes
  sum : Option Nat
  aux : List (List Nat)

/-- The fields of a row-engine word. -/
def rowWord : Instr → Option TWord
  | .nmax x => some x
  | .nexps x => some x
  | .nscale x => some x
  | .nrow x => some x
  | .nnorm x => some x
  | _ => none

/-- The sum tile of NEXPS and NROW; no other row word has one (R427). -/
def sumTile : Instr → Option Nat
  | .nexps x => if x.cmd.getLsbD 8 then some (bitsOf x.cmd 7 0) else none
  | .nrow x => if x.cmd.getLsbD 8 then some (bitsOf x.cmd 7 0) else none
  | _ => none
/-- One in f32. -/
def oneF32 : Nat := 0x3F800000

/-- Row `r` of a command, from the tile of its inputs (R337 to R340), each of its elements as it stands in the row's turn: of the values that R336
allows two unordered reads, the same one (DESIGN CHOICE, log 27). -/
def State.rowOut (s : State) (x : Cmd) (r : Nat) (a d : Shape) (b : Option Shape) : RowOut :=
  let c := x.c
  let l := s.rowElems c a r
  let vals := l.map (unpackF a.type)
  let rnd (w : TWord) : Rounding := ⟨bitsOf w.cmd 33 32, 0, 1⟩
  let col : Nat := match b with | some v => s.linearElem c v r | none => 0
  let same (w1 w2 : Nat) : List (List Nat) := l.map fun _ => [w1, w2, oneF32]
  match x.ins with
  | .nmax _ => { els := [rowMax a.type l], sum := none, aux := [[0, 0, oneF32]] }
  | .nexps w =>
    let els := vals.map fun v => roundF d.type (rnd w) (expValue v (unpackF 10 col))
    let held := if s.ftz x.lid then els.map (flushF d.type) else els.map (·.bits)
    { els := els, sum := (sumTile x.ins).map fun _ => rowSum d.type held, aux := same col 0 }
  | .nscale w =>
    let els := vals.map fun v =>
      roundF d.type (rnd w) (if bitsOf w.cmd 31 28 = 1 then divF v (unpackF 10 col) else mulF v (unpackF 10 col))
    { els := els, sum := none, aux := same col 0 }
  | .nrow w =>
    let m := (rowMax a.type l).bits
    let held := vals.map fun v => (roundF d.type (rnd w) (expValue v (unpackF 10 m))).bits
    let z := rowSum d.type held
    { els := held.map fun h => roundF d.type (rnd w) (divF (unpackF d.type h) (unpackF 10 z)),
      sum := (sumTile x.ins).map fun _ => z, aux := same m z }
  | .nnorm w =>
    let g (i : Nat) : Nat := match b with | some v => s.elem c v [i, 0, 0, 0, 0, 0] | none => oneF32
    let gt : Nat := match b with | some v => v.type | none => 10
    if vals.any FVal.special then { els := l.map fun _ => ⟨nanBits d.type, false⟩, sum := none, aux := same 0 0 }
    else
      let (mu, sc) := normStats (bitsOf w.cmd 31 28 == 1) (bitsOf ((x.regs[1]?).getD 0) 31 0) vals
      { els := (vals.zipIdx).map fun (v, i) =>
          roundF d.type (rnd w) (mulV (mulV (addF v (unpackF 10 mu).negate).value (unpackF 10 sc)) (unpackF gt (g i))).exact,
        sum := none, aux := (l.zipIdx).map fun (_, i) => [mu, sc, g i] }
  | _ => { els := [], sum := none, aux := [] }

/-! ## Issue (R334, R335, R340) -/

/-- First row and number of rows of a command on its input tile; none where the first lies beyond it (R340). -/
def rowSpan (p : W64) (a : Shape) : Option (Nat × Nat) :=
  let f := bitsOf p 31 0
  let n := bitsOf p 63 32
  if n = 0 then (if f ≤ a.ext 1 then some (f, a.ext 1 - f) else none) else some (f, n)

/-- Whether a column tile serves rows below `top`. -/
def colTile (v : Shape) (top : Nat) : Bool := v.type == 10 && decide (top ≤ v.numel)

/-- R334, R339, R340: whether the tiles and registers of a command are right; `b` is TB's tile, `t` TS's, where named. -/
def rowOk (ins : Instr) (regs : List W64) (a d : Shape) (b t : Option Shape) : Bool :=
  match rowSpan ((regs[0]?).getD 0) a with
  | none => false
  | some (f, n) =>
    let top := f + n
    let nrow := match ins with | .nrow _ => true | _ => false
    let norm := match ins with | .nnorm _ => true | _ => false
    let eps := unpackF 10 (bitsOf ((regs[1]?).getD 0) 31 0)
    rowTile a && decide (a.ext 0 ≤ if nrow then 4096 else 65536) && decide (top ≤ a.ext 1) && !d.windowed &&
      (match ins with
       | .nmax _ => colTile d top
       | _ => rowTile d && d.ext 0 == a.ext 0 && decide (top ≤ d.ext 1)) &&
      (match b with
       | some v => if norm then rowTile v && v.ext 0 == a.ext 0 else colTile v top
       | none => true) &&
      (match t with | some v => colTile v top && !v.windowed | none => true) &&
      (!norm || match eps with | .fin neg m _ => !neg || m == 0 | _ => false)

/-- The tile a word names in a field it may leave unused. -/
def tileIf (b : Bool) (t : Nat) : M (Option Shape) :=
  if b then do
    let v ← tileHere t
    pure (some v)
  else pure none

/-- The issue of a row-engine command (R335): a fifth stalls S. `second` is whether TB names a tile. -/
def rowIssue (ins : Instr) (x : TWord) (second eps : Bool) : M Unit := do
  let on ← guardOn x.guard
  if on then do
    let h ← here
    require (decide ((((← get).cores[h.c]?).map (·.rowQ.length)).getD 0 < 4))
    let p ← readReg x.preg.toNat
    let q ← if eps then readReg (x.preg.toNat + 1) else pure 0
    let a ← tileHere x.ta.toNat
    let d ← tileHere x.td.toNat
    let b ← tileIf second x.tb.toNat
    let sums : Bool := match ins with | .nexps _ => true | .nrow _ => true | _ => false
    let t ← tileIf (sums && x.cmd.getLsbD 8) (bitsOf x.cmd 7 0)
    if !rowOk ins [p, q] a d b t then formatTrap
    else do
      liveBar x.bar.toNat
      let s ← get
      let (f, _) := (rowSpan p a).getD (0, 0)
      addCmd { h.command s ins 3 0 x.bar.toNat [p, q] noMods with next := f }
      modify fun s' => s'.modCore h.c fun co => { co with rowQ := co.rowQ ++ [s.nextId] }
  else pure ()
  advance

/-- NMAX (R340). -/
def execNmax (x : TWord) (s : State) : Host.Outcome State Fault Refusal := run (rowIssue (.nmax x) x false false) s
/-- NEXPS (R337, R338, R340). -/
def execNexps (x : TWord) (s : State) : Host.Outcome State Fault Refusal := run (rowIssue (.nexps x) x true false) s
/-- NSCALE (R340). -/
def execNscale (x : TWord) (s : State) : Host.Outcome State Fault Refusal := run (rowIssue (.nscale x) x true false) s
/-- NROW (R338, R340). -/
def execNrow (x : TWord) (s : State) : Host.Outcome State Fault Refusal := run (rowIssue (.nrow x) x false false) s
/-- NNORM (R339, R340). -/
def execNnorm (x : TWord) (s : State) : Host.Outcome State Fault Refusal := run (rowIssue (.nnorm x) x (x.cmd.getLsbD 8) true) s

/-! ## A row performed (R335, R336) -/

/-- The command the row engine works on: the oldest whose context is not being stopped (R335, R429). -/
def State.rowHead (s : State) (c : Nat) : Option Cmd :=
  ((((s.cores[c]?).map (·.rowQ)).getD []).findSome? fun id => match s.cmd? id with
    | some x => if s.cmdStops x && x.state != .assist then none else some x
    | none => none)

/-- The bytes a row brings to the barrier (R335). -/
def rowBytes (x : Cmd) (d : Shape) : Nat :=
  match x.ins with
  | .nmax _ => 4
  | .nexps w => d.ext 0 * (typeWidth d.type / 8) + (if (sumTile x.ins).isSome then 4 else 0)
  | .nrow w => d.ext 0 * (typeWidth d.type / 8) + (if (sumTile x.ins).isSome then 4 else 0)
  | _ => d.ext 0 * (typeWidth d.type / 8)

/-- The writes of a row's elements: NMAX's is one element of a column tile. -/
def rowPut (x : Cmd) (d : Shape) (r : Nat) (els : List Nat) : List (Nat × Byte × Byte) :=
  match x.ins with
  | .nmax _ => match els, d.linear r with | b :: _, some o => d.put o b | _, _ => []
  | _ => (els.zipIdx).flatMap fun (b, i) => match d.offset [i, r, 0, 0, 0, 0] with | some o => d.put o b | none => []

/-- A row-engine command whose rows are all performed is over (R335). -/
def State.rowEnd (s : State) (id : Nat) (a : Shape) : State :=
  match s.cmd? id with
  | none => s
  | some x =>
    let (f, n) := (rowSpan ((x.regs[0]?).getD 0) a).getD (0, 0)
    if f + n ≤ x.next then (s.modCore x.c fun co => { co with rowQ := co.rowQ.filter (· != x.id) }).complete x else s

/-- A row written, its barrier told, the command at its next row (R335). -/
def State.rowFinish (s : State) (x : Cmd) (w : TWord) (r : Nat) (d : Shape) (els : List Nat) (sum : Option Nat) : State :=
  let s := s.writeTile x.c x.k w.td.toNat (rowPut x d r els)
  let s := match sumTile x.ins, sum with
    | some t, some z => match s.usedTile x.c x.k t with
      | some v => match v.linear r with | some o => s.writeTile x.c x.k t (v.put o z) | none => s
      | none => s
    | _, _ => s
  (s.cmdArrive x (rowBytes x d) false false).modCmd x.id fun y => { y with next := r + 1, state := .running }

/-- The assist of a row from element `j` on (R336, R426); those before it are written. -/
def State.rowAssist (s : State) (x : Cmd) (w : TWord) (r j : Nat) (a d : Shape) (o : RowOut) : State :=
  let single := match x.ins with | .nmax _ => true | _ => false
  let l := s.rowElems x.c a r
  let n := if single then 1 else a.ext 0
  let head := assistHead 2 (opOf ((encode x.ins).getD 0)).toNat d.type a.type (bitsOf w.cmd 33 32) 0
  let item (v : Nat) (aux : List Nat) : List W64 := (v :: aux ++ [0]).map (BitVec.ofNat 64)
  let items := if single then o.els.map fun e => item e.bits [0, 0, oneF32] else (l.zip o.aux).map fun (v, q) => item v q
  let old (i : Nat) : Nat := if single then s.linearElem x.c d r else s.elem x.c d [i, r, 0, 0, 0, 0]
  let base := (o.els.zipIdx).map fun (e, i) => if i < j then e.bits else old i
  let s := s.modCmd x.id fun y => { y with state := .assist }
  let s := s.raiseAssist x.c
    { k := x.k, unit := 2, ins := x.ins, cmd := x.id, eng := .S,
      record := [head, BitVec.ofNat 64 (j + (n - j) * 2 ^ 32)] ++ wordDwords x.ins ++ [BitVec.ofNat 64 (r + a.ext 0 * 2 ^ 32), 0, 0, 0],
      items := items, at_ := 0, first := j, count := n - j, base := base.map (BitVec.ofNat 64), written := [], sum := none,
      undoTile := some (w.td.toNat, rowPut x d r ((List.range o.els.length).map old)) }
  if single then s else s.writeTile x.c x.k w.td.toNat (rowPut x d r base)

/-- The first uncorrectable line that row `r` of a command consumes: the row, and of TB's tile its element or gain row (R424). -/
def State.rowBad (s : State) (x : Cmd) (r : Nat) (a : Shape) (b : Option Shape) : Option (Nat × Nat) :=
  let row (v : Shape) (r : Nat) : List (Nat × Nat) := (List.range (v.ext 0)).flatMap fun i => match v.offset [i, r, 0, 0, 0, 0] with
    | some o => v.reads o
    | none => []
  let norm := match x.ins with | .nnorm _ => true | _ => false
  (s.badImage x.c a (row a r)).or (b.bind fun v => s.badImage x.c v (if norm then row v 0 else v.linearReads [r]))

/-- ROW_ENGINE_ROW_COMPLETE: the row engine's command performs a row, or is over (R335, R336). -/
def State.rowStep (s : State) (c : Nat) : State :=
  match s.rowHead c with
  | none => s
  | some x =>
    if x.state = .assist ∨ x.state = .held then s
    else match rowWord x.ins with
      | none => s
      | some w =>
        match s.usedTile c x.k w.ta.toNat, s.usedTile c x.k w.td.toNat with
        | some a, some d =>
          let (f, n) := (rowSpan ((x.regs[0]?).getD 0) a).getD (0, 0)
          if f + n ≤ x.next then s.rowEnd x.id a
          else
            let named : Bool := match x.ins with | .nexps _ => true | .nscale _ => true | .nnorm v => v.cmd.getLsbD 8 | _ => false
            let b := if named then s.usedTile c x.k w.tb.toNat else none
            match s.rowBad x x.next a b with
            | some (sub, line) => s.cmdCheck x sub x.next 0 line
            | none =>
            let o := s.rowOut x x.next a d b
            let t := match x.ins with | .nmax _ => 10 | _ => d.type
            match (if s.ftz x.lid then none else o.els.findIdx? (·.sub)) with
            | some j => s.rowAssist x w x.next j a d o
            | none => (s.rowFinish x w x.next d (o.els.map (flushF t)) o.sum).rowEnd x.id a
        | _, _ => s

/-- ROW_ENGINE_ROW_COMPLETE (R335). -/
def execRowEngineRowComplete (c : Nat) (s : State) : Host.Outcome State Fault Refusal := run (modify (·.rowStep c)) s

end Sys2Proof.Machine
end

