-- ==== Sys2Proof/Machine/Assist.lean ====
section
/-!
DEFINITION. Subnormal assist (R425 to R428): S enters assist mode; XRD, XWR, XDONE and ARET.
-/
namespace Sys2Proof.Machine

/-! ## Entry (R425) -/

/-- S's request to a stage queue taken back (R425, R429): the word that made it is executed anew. -/
def State.dropQueueWait (s : State) (c k : Nat) : State :=
  match s.ctx? c k with
  | none => s
  | some x =>
    match (x.eng .S).req, s.launch? x.lid with
    | .wait _, some l =>
      let mine (r : SqReq) : Bool := r.c == c && r.k == k && r.walk == 0
      if l.squeues.any fun q => q.reqs.any mine then
        (s.modLaunch x.lid fun l => { l with squeues := l.squeues.map fun q => { q with reqs := q.reqs.filter (!mine ·) } }).modEng c k .S
          fun en => { en with req := .none }
      else s
    | _, _ => s

/-- Whether S of a core stands at a word boundary. -/
def State.atBoundary (s : State) (c : Nat) (e : Engine) : Bool :=
  match ((s.cores[c]?).bind fun co => (co.cur[e.tag]?).join).bind (s.ctx? c ·) with
  | some x => (x.eng e).req == .none && (x.eng e).modifier.isNone
  | none => true

/-- SUBNORMAL_ASSIST_ENTRY: the oldest waiting assist of a core enters at S's word boundary (R425). -/
def State.assistEntry (s : State) (c : Nat) : State :=
  match (s.cores[c]?).map (·.assist) with
  | none => s
  | some a =>
    match a.active, a.waiting with
    | none, q :: rest =>
      if s.now ≤ q.raised then s else
      let cur := ((s.cores[c]?).bind fun co => (co.cur[0]?).join)
      let s := match cur with | some k => s.dropQueueWait c k | none => s
      if s.atBoundary c .S then
        s.modCore c fun co =>
          { co with assist := { active := some q, waiting := rest, regs := List.replicate 48 0, eng := EngSt.zero, saveSlot := cur } }
      else s
    | _, _ => s

/-- SUBNORMAL_ASSIST_ENTRY (R425). -/
def execSubnormalAssistEntry (c : Nat) (s : State) : Host.Outcome State Fault Refusal := run (modify (·.assistEntry c)) s

/-! ## The four words (R426 to R428) -/

/-- The assist a core serves; the words are legal in assist mode only. -/
def assistHere : M (Here × Assist) := do
  let h ← here
  let s ← get
  match h.asst, (s.cores[h.c]?).bind (·.assist.active) with
  | true, some a => pure (h, a)
  | _, _ => illegal

/-- Word `w` of item `i`; 0 outside the unit's items (R427). -/
def Assist.word (a : Assist) (i w : Nat) : W64 :=
  if i < a.at_ then 0 else (((a.items[i - a.at_]?).getD [])[w]?).getD 0

/-- XRD and XRD.rec (R427). -/
def execXrd (x : RWord) (s : State) : Host.Outcome State Fault Refusal :=
  run (do
    let (_, a) ← assistHere
    let on ← guardOn x.guard
    let i ← source on x.a
    if on then
      writeReg x.d.toNat (if x.sub = 5 then (if 7 < i.toNat then 0 else (a.record[i.toNat]?).getD 0) else a.word i.toNat x.sub.toNat) 1
    else pure ()
    advance) s

/-- The assist a core serves changed. -/
def modAssist (c : Nat) (f : Assist → Assist) : M Unit := modify fun s =>
  s.modCore c fun co => { co with assist := { co.assist with active := co.assist.active.map f } }

/-- XWR and XWR.s (R427): .s names the sum element of NEXPS and NROW, and does nothing for another unit. -/
def execXwr (x : RWord) (s : State) : Host.Outcome State Fault Refusal :=
  run (do
    let (h, a) ← assistHere
    let on ← guardOn x.guard
    let i ← source on x.a
    let v ← source on x.b
    if on then
      if x.sub = 1 then modAssist h.c fun a => { a with sum := some (v &&& 0xFFFFFFFF) }
      else if i.toNat < a.first ∨ a.first + a.count ≤ i.toNat then formatTrap
      else modAssist h.c fun a => { a with written := (i.toNat, v) :: a.written }
    else pure ()
    advance) s

/-- Whether a word reduces to one element. -/
def reduces : Instr → Bool
  | .vredsum _ => true
  | .vredmax _ => true
  | .vredmin _ => true
  | _ => false

/-- What the routine wrote of item `i`, or for a reduction of any item: the latest (R427). -/
def Assist.wrote (a : Assist) (i : Nat) : Option W64 :=
  if reduces a.ins then (a.written.head?).map (·.2) else (a.written.find? (·.1 == i)).map (·.2)

/-- The destination as XDONE leaves it: what was written, else what it held (R428). -/
def Assist.final (a : Assist) : List W64 := (a.base.zipIdx).map fun (b, i) => (a.wrote (a.at_ + i)).getD b

/-- XDONE completes what was trapped (R428): V's word takes its elements; a row is written and its bytes subtracted; a drain
goes on with its keys. -/
def State.assistDone (s : State) (c : Nat) (a : Assist) : State :=
  let s := s.leaveAssist c .running true
  if a.unit ≤ 1 then s.modEng c a.k .V fun en => { en with req := .answer true a.final }
  else match s.cmd? a.cmd with
    | none => s
    | some x =>
      match rowWord x.ins with
      | some w =>
        match s.usedTile c x.k w.ta.toNat, s.usedTile c x.k w.td.toNat with
        | some ta, some d => (s.rowFinish x w x.next d (a.final.map (·.toNat)) (a.sum.map (·.toNat))).rowEnd x.id ta
        | _, _ => s
      | none =>
        let item (i : Nat) : List Byte := match a.wrote i with
          | some v => 1 :: leBytes v.toNat 8
          | none => List.replicate 9 0
        s.modCmd x.id fun y => { y with buf := (List.range a.count).flatMap item }

/-- XDONE (R428). -/
def execXdone (x : RWord) (s : State) : Host.Outcome State Fault Refusal :=
  run (do
    let (h, a) ← assistHere
    let on ← guardOn x.guard
    if on then modify (·.assistDone h.c a) else advance) s

/-- The engine that issued what an assist serves traps in its context (R428). -/
def State.assistTrap (s : State) (c : Nat) (a : Assist) (cause : Nat) (info2 : W64) : State :=
  let t : Trap := { ({ cause := cause, info2 := info2 } : TrapReq).toTrap c a.k a.eng true s.now with
                    carried := (s.cmd? a.cmd).any (·.carried) }
  (s.leaveAssist c .held false).modCtx c a.k (·.post t)

/-- ARET (R428): the trapped word executes anew, or raises a stop trap. -/
def execAret (x : RWord) (s : State) : Host.Outcome State Fault Refusal :=
  run (do
    let (h, a) ← assistHere
    let on ← guardOn x.guard
    let v ← source on x.a
    if on then
      let code := v.toNat % 32
      if code = 0 ∨ code = 7 then modify (·.leaveAssist h.c .running false)
      else if code ≤ 16 then modify (·.assistTrap h.c a code (v >>> 32))
      else modify (·.assistTrap h.c a 5 v)
    else advance) s

end Sys2Proof.Machine
end

