-- ==== Sys2Proof/Machine/FetchTurn.lean ====
section
/-!
DEFINITION. An engine's turn: what it does in a cycle (R160 to R167, R85, R97, R425, R444), and what follows its word: the
stall mark (R448), the single step (R445), the watchdog (R169). A service core's word (R131).
-/
namespace Sys2Proof.Machine

/-- What an engine's turn is: nothing; a step of its fetch unit; a word; or a stop met before the word. -/
inductive FetchResult where
  | idle
  | unit (o : Own) (s : State)
  | word (i : Instr) (s : State)
  | stop (why : Stop) (s : State)

/-- Whether word `w` of the section is still within it, and within a LOOP body in progress (R97, R108). -/
def EngSt.holdsWord (en : EngSt) (w : Nat) : Bool :=
  match en.sect, en.loop with
  | some sc, none => decide (w < sc.len)
  | some sc, some l => decide (w < sc.len) && decide (w ≤ l.word + l.len)
  | none, _ => false

/-- Word `w` of the section an engine is in: a LOOP body's from the loop buffer, with no fetch, another's out of the text (R171). -/
def sectionWord (h : Here) (w : Nat) : M W96 :=
  match h.eng.loop with
  | none => wordAt (h.hdr + 8 + 12 * w)
  | some l =>
    if l.word < w ∧ w - l.word ≤ l.body.length then pure ((l.body[w - l.word - 1]?).getD 0) else wordAt (h.hdr + 8 + 12 * w)

/-- Before a word of a LOOP body: its indices are in their registers, for which it waits (R177, R183), and the loop buffer is filled
again after a switch of context, a return from assist mode or a restore (R171). -/
def settleLoop : M Unit := do
  let h ← here
  match h.eng.loop with
  | none => pure ()
  | some l => do
    let s ← get
    require (!l.lag || h.eng.indexFree s.now l)
    if l.lag then setLoop l else pure ()
    if l.body == [] then do
      let ws ← bodyWords (h.hdr + 8) l.len (l.word + 1)
      modEng fun en => { en with loop := en.loop.map fun m => { m with body := ws } }
    else pure ()

/-- The bits of the word an engine stands at: the displaced word in place of a BRK while DV is 1 (R444). -/
def standingWord (h : Here) : M W96 := do
  let w ← sectionWord h h.widx
  pure (if h.eng.dv && opOf w == 0xFF then h.eng.dwr else w)

/-- The word an engine issues: decoded, with the rules of R97 and R108 on the word after it. -/
def fetchWord : M Instr := do
  settleLoop
  let h ← here
  let w ← standingWord h
  let more := h.eng.holdsWord (h.widx + 1)
  match rowOf h.e w with
  | none => illegal
  | some r => do
    let next ← match r.build w 0 with
      | .cpyf _ => if more then sectionWord h (h.widx + 1) else pure 0
      | .memModifier _ => if more then sectionWord h (h.widx + 1) else pure 0
      | _ => pure 0
    match decode h.e w next with
    | .bad .overlap => raise { cause := 2 }
    | .bad _ => illegal
    | .ok (.memModifier p) => if more && modifierFits h.e p next then pure (.memModifier p) else illegal
    | .ok (.cpyf f) => if more then pure (.cpyf f) else illegal
    | .ok i => pure i

/-- The word, header or end an engine with a current context stands at. -/
def State.standing (s : State) (c : Nat) (e : Engine) (en : EngSt) (len : Nat) : FetchResult :=
  if s.now < en.ready then .idle
  else if en.sect.isNone then
    if en.pc.toNat = len then .unit (.endOfText c e) s else .unit (.sectionEntry c e) s
  else match fetchWord s with
    | .ok (i, t) => .word i t
    | .error why => .stop why s

/-- Whether an engine of a context must choose anew: it has halted, yielded or is held, its context is being stopped, or another
engine of it makes a single step (R166, R409, R445). A word already issued completes. -/
def Ctx.switches (x : Ctx) (now : Nat) (en : EngSt) : Bool :=
  en.halted || en.yielded || en.held || ((x.stopping || x.trap.any (·.cycle != now)) && en.req == .none) ||
    (!en.step && x.engs.any (·.step) && en.req == .none)

/-- The engine's current context, its fetch state there and the length of its text. -/
def State.current (s : State) (c : Nat) (e : Engine) : Option (Ctx × EngSt × Nat) :=
  (((s.cores[c]?).bind fun co => (co.cur[e.tag]?).join).bind (s.ctx? c ·)).map fun x =>
    (x, x.eng e, ((s.launch? x.lid).map Launch.textLen).getD 0)

/-- An engine's turn (R166, R167, R425): its choice of a context, where one is due, and what it does in that context. -/
def State.engineFetch (s0 : State) (c : Nat) (e : Engine) : FetchResult :=
  let s := s0.onEngine c e
  match (if e = .S then ((s.cores[c]?).map (·.assist)).filter (·.active.isSome) else none) with
  | some a => if a.eng.halted then .idle else s.standing c e a.eng s.boot.assistText.length
  | none =>
    let choose : FetchResult :=
      let t := s.switchContext c e
      match t.current c e with
      | some (_, en, n) => if t.now < en.ready then .unit (.contextSwitch c e) s else t.standing c e en n
      | none => .unit (.contextSwitch c e) s
    match s.current c e with
    | some (x, en, n) => if x.switches s.now en then choose else s.standing c e en n
    | none => choose

/-- The place an engine stands at, which a completed word changes. -/
def EngSt.place (en : EngSt) : BitVec 32 × Option Nat × Option (Nat × Nat) × Bool :=
  (en.pc, en.sect.map (·.widx), en.loop.map fun l => (l.word, l.iter), en.halted)

/-- What follows an engine's turn on a word or a header, from `s` to `t`: the watchdog trap unless the word trapped (R169,
R406), the mark of a stall (R448), and after a word the breakpoint of a single step (R445). -/
def afterTurn (word : Bool) (c : Nat) (e : Engine) (s t : State) : State :=
  match s.seat with
  | none => t
  | some (k, asst) =>
    match s.ctx? c k, t.ctx? c k with
    | some x, some y =>
      if asst then t
      else
        let en := x.eng e
        let trapped := x.trap.isNone && y.trap.isSome
        if !trapped && s.watchdogDue x (y.eng e) then s.raise { cause := 12 }
        else
          let moved := (y.eng e).place != en.place
          let t := t.modCore c fun co => { co with stalled := co.stalled.set e.tag (!moved) }
          if word && en.step && moved && (y.eng e).modifier.isNone then
            (t.modEng c k e fun en => { en with stepped := true }).modCtx c k
              (·.post (({ cause := 15 } : TrapReq).toTrap c k e false s.now))
          else t
    | _, _ => t

/-- What follows a step of an engine's fetch unit: nothing at a switch point. -/
def afterUnit (o : Own) (c : Nat) (e : Engine) (s t : State) : State :=
  match o with
  | .contextSwitch _ _ => t
  | _ => afterTurn false c e s t

/-- A step by a service core. -/
def State.onService (s : State) (n : Nat) : State := { s with curSvc := n }

end Sys2Proof.Machine
end

