-- ==== Sys2Proof/Machine/Clock.lean ====
section
/-!
DEFINITION. The clock (R5, R169, R462; log 1): what a new cycle changes, and the turns of a cycle in the order the model takes
them: what comes due, the engines in core order and tag order, the units, the memory system, the end of the cycle, the package.
-/
namespace Sys2Proof.Machine

/-- The arithmetic clock in units of 100 MHz at a supply in mV (R462). -/
def mhz100 (mv : Nat) : Nat := if 550 ≤ mv then 18 else 18 - cdiv (550 - mv) 10

/-- The lowest supply of a compute die, whose clock the model's cycle is (R462, R464; log 15). -/
def State.lowestSupply (s : State) : Nat := (s.tele.take 8).foldl (fun m t => min m t.mv) (min s.supply s.capped)

/-- Wall-clock units of 1 µs: a cycle of k · 100 MHz is 1113840 / k of them, for every k of R462 (log 15). -/
def microsecond : Nat := 111384000

/-- The watchdogs of a core's engines after one more cycle (R169): not while assist mode holds S (R425); a cycle in which LWAIT stalls on
a placed child is taken off again by that stall (R135). -/
def Core.watch (co : Core) : Core :=
  let here (k : Nat) (e : Engine) : Bool := (co.cur[e.tag]?).join == some k && !(e == .S && co.assist.active.isSome)
  { co with
    stalled := List.replicate 5 false,
    slots := (co.slots.zipIdx).map fun (o, k) => o.map fun x =>
      { x with engs := (x.engs.zip Engine.all).map fun (en, e) =>
          if here k e && !en.halted then { en with wdc := en.wdc + 1 } else en } }

/-- The cores that hold a context. -/
def State.busyCores (s : State) : List Nat :=
  ((s.cores.zipIdx).filter fun (co, _) => co.slots.any (·.isSome)).map (·.2)

/-- The contexts of a core. -/
def State.slotsOf (s : State) (c : Nat) : List Nat :=
  match s.cores[c]? with
  | some co => ((co.slots.zipIdx).filter fun (x, _) => x.isSome).map (·.2)
  | none => []

/-- The turns that bring a context's due results at the start of a cycle. -/
def dueTurns (c k : Nat) : List Turn :=
  [.own (.scalarResultWriteback c k .S), .own (.scalarResultWriteback c k .A), .own (.scalarResultWriteback c k .B),
   .own (.scalarResultWriteback c k .X), .own (.vectorResultWriteback c k), .own (.inboundQueueArrival c k),
   .own (.stageQueueAnswer c k), .own (.loadReturn c k .S), .own (.loadReturn c k .A), .own (.loadReturn c k .B),
   .own (.loadReturn c k .X)]

/-- The turns of a core's units. -/
def unitTurns (c : Nat) : List Turn :=
  [.own (.icacheFill c), .own (.contractionStart c), .own (.catalogueApply c 0), .own (.catalogueApply c 0),
   .own (.bucketRowComplete c), .own (.contractionComplete c), .own (.drainComplete c), .own (.rowEngineRowComplete c),
   .own (.walkEntryPush c), .own (.sortRow c), .own (.sortkComplete c), .own (.tokpopTileWrite c), .own (.subnormalAssistEntry c)]

/-- The turns of a copy queue's command. -/
def copyTurns (x : Cmd) : List Turn :=
  if x.unit = 1 then
    [.own (.copyPart x.id), .own (.copyRowPerformed x.id), .own (.carriedWordEntry x.id), .own (.joinMarkerComplete x.id),
     .own (.inboxAnswer x.id), .own (.parkResend x.id), .own (.parkLimitExpiry x.id)]
  else []

/-- The turns that end a cycle for a context. -/
def endTurns (c k : Nat) : List Turn :=
  [.own (.flagWrite c k), .own (.tileStoreEffect c k)]

/-- The turns that retire sections and drop engines out, after every update of the cycle. -/
def retireTurns (c k : Nat) : List Turn :=
  (Engine.all.map fun e => Turn.own (.sectionRetire c k e)) ++ Engine.all.map fun e => Turn.own (.engineDropOut c k e)

/-- The turns of a launch's own units: its range units, its stage queues, the contexts to create. -/
def launchUnitTurns (l : Launch) : List Turn :=
  let id := l.lid
  ((List.range 8).filterMap fun st => if ((l.ranges[st]?).map (!·.reqs.isEmpty)).getD false then some (Turn.own (.rangeUnitService id st)) else none) ++
    ((List.range 16).flatMap fun q => if (l.queue q).reqs.isEmpty then [] else [Turn.own (.stageQueueArrival id q), .own (.stageQueueHeldRetry id q)]) ++
    (l.toCreate.map fun c => Turn.own (.contextCreation c id))

/-- The turns of a launch that leaves its span, takes it again or is over. -/
def launchTurns (l : Launch) : List Turn :=
  let id := l.lid
  [.own (.launchStop id), .own (.savePoolReserve id), .own (.preemption id), .own (.preemptionComplete id), .own (.restore id),
   .own (.launchEnd id), .own (.launchRetire id)]

/-- The turns of the launches: of one cycle's requests to leave a span those for a placement come first (R429, R431). -/
def State.launchesTurns (s : State) : List Turn :=
  s.place.launches.flatMap launchUnitTurns ++ (s.place.launches.map fun l => Turn.own (.patienceExpiry l.lid)) ++
    s.place.launches.flatMap launchTurns

/-- The turns of the package's own units. -/
def State.packageTurns (s : State) : List Turn :=
  [.own .faultQueueEnter] ++
    ((List.range 8).map fun i => Turn.own (.childAcceptAfterYield (7 - i))) ++ [.own .completionRecordWrite, .own .ringTailRecheck] ++
    ((List.range s.invals.length).reverse.map fun j => Turn.own (.invalidationAck j)) ++
    ((List.range 8).map fun t => Turn.own (.tokeniseDone t)) ++ ((List.range 16).map fun q => Turn.own (.heldRequestPost q)) ++
    ((List.range 8).flatMap fun d => [Turn.own (.detokeniserTake d), .own (.replyClose d)]) ++
    ((List.range 64).filterMap fun j => if ((s.text.vocab[j]?).getD 0) = 0 then none else some (Turn.own (.vocabCheckDone j))) ++
    ((List.range 256).filterMap fun i => if ((s.links.inboxes[i]?).map (!·.spare.isEmpty)).getD false then some (Turn.own (.inboxOverflowMove i)) else none) ++
    ((List.range 8).map fun p => Turn.own (.linkReservationExpiry p)) ++
    [.own .helloWindowExpiry, .own .imageCheckDone, .own .loadTimerExpiry, .own .snapcmpMatch, .own .snapshotLatch]

/-- The service cores whose next word has the part's own major opcode, custom-0 (R131; log 5). -/
def State.serviceTurns (s : State) : List Turn :=
  if s.boot.ready then
    (List.range 16).filterMap fun n => if (s.serviceWord n).toNat % 128 = 0x0B then some (Turn.service n) else none
  else []

/-- The submitters' turns other than the cores': launches of one cycle are accepted from the mailboxes, then the service cores, then the
cores (R124). -/
def State.submitTurns (s : State) : List Turn :=
  (((s.place.boxes.zipIdx).filter fun (b, _) => b.busy).map fun (_, m) => Turn.own (.launchAcceptance m)) ++ s.serviceTurns

/-- The cores at which an arrival from another is on its way (R367), and those that hold a context. -/
def State.barrierCores (s : State) : List Nat := (s.busyCores ++ s.remote.map (·.core)).eraseDups

/-- The turns of a cycle; a walker takes its frames from those of the cycle's start, before any push (R259). -/
def State.cycleTurns (s : State) : List Turn :=
  let cs := s.busyCores
  let ctxs := cs.flatMap fun c => (s.slotsOf c).map fun k => (c, k)
  [.own .placement] ++ (List.range 8).flatMap (fun d => [Turn.own (.walk d), .own (.frameZeroed d)]) ++
    s.submitTurns ++ ctxs.flatMap (fun (c, k) => dueTurns c k) ++
    cs.flatMap (fun c => Engine.all.map fun e => Turn.core c e) ++
    cs.flatMap unitTurns ++
    (List.range 8).map (fun d => Turn.own (.copyStart d)) ++
    s.cmds.flatMap copyTurns ++ (List.range 8).map (fun d => Turn.own (.copySteal d)) ++
    (List.range s.accs.length).reverse.map (fun j => Turn.own (.accessAtHomeDie j)) ++
    (List.range s.props.length).reverse.map (fun j => Turn.own (.writePropagate j)) ++
    ctxs.flatMap (fun (c, k) => endTurns c k) ++
    s.barrierCores.map (fun c => Turn.own (.barrierArrival c)) ++
    ctxs.flatMap (fun (c, k) => retireTurns c k) ++
    s.launchesTurns ++ s.packageTurns

/-- A new cycle: time moves on, the watchdogs count, supply, clock and straps have been sampled, the cycle's turns are due. -/
def State.tickStep (s : State) : State :=
  let s := { s with now := s.now + 1, wall := s.wall + 1113840 / mhz100 s.lowestSupply, cores := s.cores.map Core.watch, sampled := true }
  { s with agenda := s.cycleTurns }

end Sys2Proof.Machine
end

