-- ==== Sys2Proof/Machine/Contraction.lean ====
section
/-!
DEFINITION. The contraction unit (R293 to R315): BANCH, BMV, BDOT, JOIN and BDUMP, their entry checks, the pre-pass, the terms of
a row or pass, and the unit's steps.
-/
namespace Sys2Proof.Machine

/-! ## Grid anchors (R299, R300) -/

/-- GA's SET, GRM and ANCHOR. -/
def gaSet (ga : W64) : Bool := ga.getLsbD 17
/-- GRM. -/
def gaGrm (ga : W64) : Nat := bitsOf ga 16 16
/-- ANCHOR. -/
def gaAnchor (ga : W64) : Int := signedOf 16 (bitsOf ga 15 0)

/-- BANCH (R300). -/
def execBanch (x : TWord) (s : State) : Host.Outcome State Fault Refusal :=
  run (do
    let on ← guardOn x.guard
    if on then do
      let v ← tileHere x.ta.toNat
      modCtx fun y => { y with ga := BitVec.ofNat 64 (2 ^ 17 + v.grm * 2 ^ 16 + (v.anchor % 65536).toNat) }
    else pure ()
    advance) s

/-- BANCH.r (R300). -/
def execBanchR (x : TWord) (s : State) : Host.Outcome State Fault Refusal :=
  run (do
    let on ← guardOn x.guard
    let v ← source on x.preg
    if on then
      if v.toNat / 2 ^ 17 ≠ 0 then formatTrap
      else modCtx fun y => { y with ga := BitVec.ofNat 64 (2 ^ 17 + v.toNat) }
    else pure ()
    advance) s

/-! ## PB rows (R71, R72) -/

/-- Buckets of a PB row. -/
def Shape.buckets (v : Shape) : Nat := v.nb * 2 ^ codeBits v.type

/-- BND[m] of row r. -/
def State.bnd (s : State) (c : Nat) (v : Shape) (r m : Nat) : Nat := s.tileNum c v (r * (v.str 1).toNat + 4 * m) 4

/-- PERM[p] of row r. -/
def State.perm (s : State) (c : Nat) (v : Shape) (r p : Nat) : Nat :=
  s.tileNum c v (r * (v.str 1).toNat + 4 * (v.buckets + 1) + 2 * p) 2

/-- The codeword of bucket m of row r. -/
def State.codeword (s : State) (c : Nat) (v : Shape) (r m : Nat) : Nat :=
  let n := 2 ^ codeBits v.type
  s.tileNum c v (v.plane + (r * v.nb + m / n) * (2 * n) + 2 * (m % n)) 2

/-- R72: whether a row may be read. -/
def State.pbRowOk (s : State) (c : Nat) (v : Shape) (r : Nat) : Bool :=
  let k := v.ext 0
  let n := 2 ^ codeBits v.type
  s.bnd c v r 0 == 0 && s.bnd c v r v.buckets == k &&
    (List.range v.buckets).all fun m =>
      decide (s.bnd c v r m ≤ s.bnd c v r (m + 1)) &&
        (List.range (s.bnd c v r (m + 1) - s.bnd c v r m)).all fun i =>
          let p := s.perm c v r (s.bnd c v r m + i)
          decide (128 * (m / n) ≤ p) && decide (p ≤ min (128 * (m / n) + 127) (k - 1))

/-! ## Activations (R37, R38, R301) -/

/-- An activation: its integer or mantissa, its selected exponent (0 for i8, and for a value of zero). -/
def State.activation (s : State) (c : Nat) (v : Shape) (off : Option Nat) : Int × Nat :=
  match off with
  | none => (0, 0)
  | some o => if v.type = 2 then (signedOf 8 (s.elemAt c v o), 0) else s.bxAt c v o

/-- Whether an exponent byte of a block that holds one of these elements is 255 (R32). -/
def State.badBlock (s : State) (c : Nat) (v : Shape) (offs : List Nat) : Bool :=
  isBX v.type && ((offs.map (· / 32)).eraseDups).any fun j => let e := s.expPair c v j; e.1 == 255 || e.2 == 255

/-- The non-zero selected exponents of activations. -/
def selected (acts : List (Int × Nat)) : List Nat := (acts.map (·.2)).filter (· != 0)

/-- The largest of some numbers. -/
def maxOf (l : List Nat) : Nat := l.foldl max 0
/-- The smallest of some numbers; 1 where there are none (R37). -/
def eRef : List Nat → Nat
  | [] => 1
  | e :: es => es.foldl min e

/-- R38: the spread is at most 40. -/
def spreadOk (es : List Nat) : Bool := decide (maxOf es ≤ eRef es + 40) || es.isEmpty

/-- R37: what an activation contributes. -/
def contrib (t ref : Nat) (a : Int × Nat) : Int := if t = 2 then a.1 else if a.2 = 0 then 0 else a.1 * 2 ^ (a.2 - ref)

/-- R37: the weight of a bucket register's LSB. -/
def lsbWeight (v : Shape) (ref : Nat) : FVal := if v.type = 2 then unpackF 10 v.tscale else .fin false 1 ((ref : Int) - 133)

/-- The sums of a bucket row, in bucket order (R303). -/
def State.bucketSums (s : State) (c : Nat) (pb : Shape) (r t ref : Nat) (act : Nat → Int × Nat) : List Int :=
  (List.range pb.buckets).map fun m =>
    (List.range (s.bnd c pb r (m + 1) - s.bnd c pb r m)).foldl (fun z i => z + contrib t ref (act (s.perm c pb r (s.bnd c pb r m + i)))) 0

/-- The term of a value under a key, placed by GA on X192 (R41). -/
def termOf (ga : W64) (direct : Bool) (key : Nat) (x : Exact) : Term :=
  let (inv, b) := place (gaGrm ga) (gaAnchor ga) 192 x
  { key := key, inv := inv, bits := BitVec.ofNat 192 b, direct := direct }

/-- The terms of a bucket row under a key (R304): one for each non-empty bucket. -/
def State.bucketTerms (s : State) (c : Nat) (pb : Shape) (r key : Nat) (ga : W64) (direct : Bool) (w : FVal) (sums : List Int) : List Term :=
  (sums.zipIdx).filterMap fun (z, m) =>
    if s.bnd c pb r m = s.bnd c pb r (m + 1) then none
    else some (termOf ga direct key (mulV (mulV (.fin (decide (z < 0)) z.natAbs 0) w) (unpackF 9 (s.codeword c pb r m))).exact)

/-! ## BMV (R306) -/

/-- First row, rows, key base, element offset of a BMV on its PB tile. -/
def bmvArgs (regs : List W64) (pb : Shape) : Nat × Nat × Nat × Nat :=
  let p := (regs[0]?).getD 0
  let f := bitsOf p 31 0
  let n := bitsOf p 63 32
  (f, if n = 0 then pb.ext 1 - f else n, ((regs[1]?).getD 0).toNat, ((regs[2]?).getD 0).toNat)

/-- Whether a BMV may enter (R294, R299, R301, R306). -/
def bmvOk (x : TWord) (regs : List W64) (ga : W64) (a b : Option Shape) : Bool :=
  match a, b with
  | some pb, some v =>
    let (f, n, kb, _) := bmvArgs regs pb
    gaSet ga && isPB pb.type && decide (f < pb.ext 1) && decide (f + n ≤ pb.ext 1) &&
      decide (kb + (n - 1) * 2 ^ bitsOf x.cmd 5 0 < 2 ^ 63) && v.level == 0 && (v.type == 2 || v.type == 11)
  | _, _ => false

/-- The activations a BMV reads: element o + i of tB (R306). -/
def State.bmvAct (s : State) (c : Nat) (v : Shape) (o i : Nat) : Int × Nat := s.activation c v (v.linear (o + i))

/-! ## BDOT (R309) -/

/-- i0, j0, k0, K and the key base of a BDOT. -/
def bdotArgs (regs : List W64) (a : Shape) : Nat × Nat × Nat × Nat × Nat :=
  let p := (regs[0]?).getD 0
  let q := (regs[1]?).getD 0
  let k0 := bitsOf q 31 0
  (bitsOf p 31 0, bitsOf p 63 32, k0, if bitsOf q 63 32 = 0 then a.ext 0 - k0 else bitsOf q 63 32, ((regs[2]?).getD 0).toNat)

/-- Whether a BDOT may enter (R299, R309). -/
def bdotOk (x : TWord) (regs : List W64) (ga : W64) (a b : Option Shape) : Bool :=
  match a, b with
  | some u, some v =>
    let (i0, j0, k0, k, kb) := bdotArgs regs u
    let mi := min 32 (u.ext 1 - i0)
    let nj := min 32 (v.ext 0 - j0)
    gaSet ga && isBX u.type && u.type == v.type && ([2, 3, 4, 5].all fun d => u.ext d == 1 && v.ext d == 1) && v.ext 1 == u.ext 0 &&
      decide (i0 < u.ext 1) && decide (j0 < v.ext 0) && (decide (k0 + k ≤ u.ext 0) || bitsOf ((regs[1]?).getD 0) 63 32 == 0) &&
      decide (kb + (i0 + (mi - 1)) * 2 ^ bitsOf x.cmd 5 0 + j0 + (nj - 1) < 2 ^ 63)
  | _, _ => false

/-- The exact product of two BX elements as a term of the Lens (R41). -/
def bxProduct (t : Nat) (a b : Int × Nat) : Exact := (mulV (bxVal t a) (bxVal t b)).exact

/-- An accumulator of X96: the sum of placed products, all finite (R308). -/
def lensSum (ga : W64) (xs : List Exact) : Nat :=
  xs.foldl (fun acc x => (acc + (place (gaGrm ga) (gaAnchor ga) 96 x).2) % 2 ^ 96) 0

/-- An accumulator handed to the Catalogue (R308, R309). -/
def lensTerm (direct : Bool) (key acc : Nat) : Term :=
  { key := key, inv := false, bits := (BitVec.ofNat 96 acc).signExtend 192, direct := direct }

/-- The largest non-zero exponent byte of the blocks that hold these elements; none where there is none (R308). -/
def State.topExp (s : State) (c : Nat) (v : Shape) (offs : List Nat) : Option Nat :=
  let es := (((offs.map (· / 32)).eraseDups).flatMap fun j => let e := s.expPair c v j; [e.1, e.2]).filter (· != 0)
  if es.isEmpty then none else some (maxOf es)

/-- R308: the exponent test and the count test of a dense command. -/
def denseSpreadOk (t : Nat) (anchor : Int) (ea eb : Option Nat) (count : Nat) : Bool :=
  decide (count ≤ 65536) &&
    match ea, eb with
    | some a, some b => if t = 11 then decide ((a : Int) + b - 266 - anchor ≤ 66) else decide ((a : Int) + b - 258 - anchor ≤ 74)
    | _, _ => true

/-- The element offset of A(k, i) of a tile of two dimensions. -/
def at2 (v : Shape) (d0 d1 : Nat) : Option Nat := v.offset [d0, d1, 0, 0, 0, 0]

/-- A dense element; padding is zero (R59). -/
def State.bxAt? (s : State) (c : Nat) (v : Shape) (o : Option Nat) : Int × Nat := match o with | some o => s.bxAt c v o | none => (0, 0)

/-! ## JOIN's letters (R77, R311) -/

/-- The letters a map names. -/
def mapLetters (m : List Nat) : List Nat := m.filter (· != 15)

/-- The combinations of some letters, the first fastest: each a list of (letter, value). -/
def letterPoints (r : Contract) (ls : List Nat) : List (List (Nat × Nat)) :=
  let ext := ls.map fun l => r.em1 l + 1
  (List.range (ext.foldl (· * ·) 1)).map fun n => ls.zip (digits ext n)

/-- A letter's value at a point. -/
def letterAt (v : List (Nat × Nat)) (l : Nat) : Nat := match v.find? (·.1 == l) with | some (_, x) => x | none => 0

/-- The coordinate of a dense operand at letter values. -/
def denseCoord (m : List Nat) (v : List (Nat × Nat)) : List Nat := m.map fun l => if l = 15 then 0 else letterAt v l

/-- The key of letter values (R78). -/
def Contract.keyOf (r : Contract) (v : List (Nat × Nat)) : Nat := (r.keyLetters.map fun l => letterAt v l * 2 ^ r.sh l).foldl (· + ·) 0

/-- The value a list record's key holds of a letter (R313). -/
def Contract.keyField (r : Contract) (key l : Nat) : Nat := key / 2 ^ r.sh l % 2 ^ bitLen (r.em1 l)

/-- PTR[q] of a BIDX table (R74). -/
def State.bidxPtr (s : State) (c : Nat) (v : Shape) (q : Nat) : Nat := s.tileNum c v (4 * q) 4
/-- IDX[i]. -/
def State.bidxIdx (s : State) (c : Nat) (v : Shape) (i : Nat) : Nat := s.tileNum c v (4 * (v.ext 0 + 1) + 4 * i) 4

/-- R74: whether a BIDX table may be used. -/
def State.bidxOk (s : State) (c : Nat) (v : Shape) : Bool :=
  let nq := v.ext 0
  s.bidxPtr c v 0 == 0 && decide (s.bidxPtr c v nq ≤ v.ext 1) &&
    (List.range nq).all fun q => decide (s.bidxPtr c v q ≤ s.bidxPtr c v (q + 1)) &&
      (List.range (s.bidxPtr c v (q + 1) - s.bidxPtr c v q - 1)).all fun i =>
        decide (s.bidxIdx c v (s.bidxPtr c v q + i) < s.bidxIdx c v (s.bidxPtr c v q + i + 1))

/-- R78's mask test: whether letter values form terms. -/
def State.unmasked (s : State) (c : Nat) (r : Contract) (mask : Option Shape) (v : List (Nat × Nat)) : Bool :=
  if !r.men then true
  else match mask with
    | none => false
    | some t =>
      let q := letterAt v r.qi / 2 ^ r.qlog
      let k := letterAt v r.ki / 2 ^ r.klog
      decide (q < t.ext 0) && (List.range (s.bidxPtr c t (q + 1) - s.bidxPtr c t q)).any fun i => s.bidxIdx c t (s.bidxPtr c t q + i) == k

/-- R77: the extents of a dense operand. -/
def denseExtOk (r : Contract) (m : List Nat) (v : Shape) : Bool :=
  (m.zipIdx).all fun (l, d) => if l = 15 then v.ext d == 1 else v.ext d == r.em1 l + 1

/-- The letters of a list operand have key fields of their own (R315). -/
def listFieldsOk (r : Contract) (m : List Nat) : Bool :=
  let ls := mapLetters m
  ls.all fun l => ls.all fun k => l == k || !fieldsMeet (r.sh l) (bitLen (r.em1 l)) (r.sh k) (bitLen (r.em1 k))

/-- R314: the conditions on a record with a bucket operand. -/
def bucketRecordOk (r : Contract) (a b : Shape) : Bool :=
  let k := (r.mapA[0]?).getD 15
  let row := (r.mapA[1]?).getD 15
  k != 15 && r.cmask == 2 ^ k && row != 15 && r.kmask / 2 ^ row % 2 == 1 && ((r.mapA.drop 2).all (· == 15)) && r.formB == 0 && !r.men &&
    r.mapB.contains k && ((mapLetters r.mapB).all fun l => l == k || r.kmask / 2 ^ l % 2 == 1) &&
    a.ext 0 == r.em1 k + 1 && a.ext 1 == r.em1 row + 1 && b.level == 0

/-- Whether a JOIN may enter (R77, R74, R299, R315). -/
def State.joinOk (s : State) (c : Nat) (ga : W64) (rec_ : Option Contract) (a b mask : Option Shape) : Bool :=
  match rec_, a, b with
  | some r, some u, some v =>
    gaSet ga && decide (r.formB ≤ 1) &&
      (!r.men || match mask with | some t => t.type == 20 && s.bidxOk c t | none => false) &&
      (if r.formA = 2 then isPB u.type && (v.type == 2 || v.type == 11) && denseExtOk r r.mapB v && bucketRecordOk r u v
       else
         (if r.formA = 1 then u.type == 19 && listFieldsOk r r.mapA else isBX u.type && denseExtOk r r.mapA u) &&
           (if r.formB = 1 then v.type == 19 && listFieldsOk r r.mapB else isBX v.type && denseExtOk r r.mapB v) &&
           (r.formA != 0 || r.formB != 0 || u.type == v.type))
  | _, _, _ => false

/-- JOIN's classes of letters: batch, row, column, contraction, each ascending (R311). -/
def Contract.classes (r : Contract) : List Nat × List Nat × List Nat × List Nat :=
  let inA (l : Nat) := r.mapA.contains l
  let inB (l : Nat) := r.mapB.contains l
  (r.keyLetters.filter fun l => inA l && inB l, r.keyLetters.filter fun l => inA l && !inB l, r.keyLetters.filter fun l => !inA l && inB l,
   (List.range 8).filter fun l => r.cmask / 2 ^ l % 2 == 1)

/-- The `g`-th group of 32 of a list. -/
def group32 {α : Type} (l : List α) (g : Nat) : List α := (l.drop (32 * g)).take 32

/-- The letters of the other operand of a bucket record beside k and the row letter, which has one value in both, in ascending order
(R78, R311, R314). -/
def Contract.bucketOthers (r : Contract) : List Nat :=
  (List.range 8).filter fun l => r.mapB.contains l && l != (r.mapA[0]?).getD 15 && l != (r.mapA[1]?).getD 15

/-- How many passes a JOIN has: dense passes, bucket rows, or one for a list form (R312 to R314). -/
def Contract.passes (r : Contract) : Nat :=
  if r.formA = 2 then (r.em1 ((r.mapA[1]?).getD 0) + 1) * (letterPoints r r.bucketOthers).length
  else if r.formA = 1 ∨ r.formB = 1 then 1
  else
    let (nb, nr, nc, _) := r.classes
    (letterPoints r nb).length * cdiv (letterPoints r nr).length 32 * cdiv (letterPoints r nc).length 32

/-- The terms of dense pass `p` (R312). -/
def State.densePass (s : State) (c : Nat) (ga : W64) (r : Contract) (u v : Shape) (mask : Option Shape) (p : Nat) : List Term :=
  let (lb, lr, lc, lk) := r.classes
  let rows := letterPoints r lr
  let cols := letterPoints r lc
  let ng := cdiv cols.length 32
  let mg := cdiv rows.length 32
  let batch := ((letterPoints r lb)[p / ng / mg]?).getD []
  let ks := letterPoints r lk
  (group32 rows (p / ng % mg)).flatMap fun i => (group32 cols (p % ng)).filterMap fun j =>
    let pts := (ks.map fun k => batch ++ i ++ j ++ k).filter fun w => s.unmasked c r mask w
    if pts.isEmpty then none
    else some (lensTerm r.direct (r.keyOf (batch ++ i ++ j)) (lensSum ga (pts.map fun w =>
      bxProduct u.type (s.bxAt? c u (u.offset (denseCoord r.mapA w))) (s.bxAt? c v (v.offset (denseCoord r.mapB w))))))

/-- The records of a KVLIST up to its end: key and value bits (R73). -/
def State.listRecords (s : State) (c : Nat) (v : Shape) : List (Nat × Nat) :=
  (((List.range (v.ext 0)).map fun i => (s.tileNum c v (16 * i) 8, s.tileNum c v (16 * i + 8) 8)).takeWhile fun x => x.1 != 2 ^ 64 - 1)

/-- A list record's value (R73, R313). -/
def listVal (t bits : Nat) : FVal :=
  if isFloatT t then unpackF t (bits % 2 ^ typeWidth t)
  else let z := intVal t (bits % 2 ^ typeWidth t); .fin (decide (z < 0)) z.natAbs 0

/-- The letter values a list record has, where each is within its extent (R313). -/
def Contract.recordPoint (r : Contract) (m : List Nat) (key : Nat) : Option (List (Nat × Nat)) :=
  let v := (mapLetters m).map fun l => (l, r.keyField key l)
  if v.all fun (l, x) => decide (x ≤ r.em1 l) then some v else none

/-- The dense side of a list form: for each record, the letter values of each of its terms, with the record's value (R313). -/
def State.listDense (s : State) (c : Nat) (r : Contract) (lm dm : List Nat) (lst : Shape) : List (List (Nat × Nat) × Nat) :=
  (s.listRecords c lst).flatMap fun (key, bits) =>
    match r.recordPoint lm key with
    | none => []
    | some v => (letterPoints r ((mapLetters dm).filter (!lm.contains ·))).map fun w => (v ++ w, bits)

/-- The terms of a JOIN with a coordinate list (R313). -/
def State.listTerms (s : State) (c : Nat) (ga : W64) (r : Contract) (u v : Shape) (mask : Option Shape) : List Term :=
  let mk (w : List (Nat × Nat)) (x : Exact) : Option Term := if s.unmasked c r mask w then some (termOf ga r.direct (r.keyOf w) x) else none
  if r.formA = 1 ∧ r.formB = 1 then
    (s.listRecords c u).flatMap fun (ka, va) => (s.listRecords c v).filterMap fun (kb, vb) =>
      match r.recordPoint r.mapA ka, r.recordPoint r.mapB kb with
      | some p, some q =>
        if p.all fun (l, x) => (q.find? (·.1 == l)).all fun y => y.2 == x then
          mk (p ++ q) (mulV (listVal u.vtype va) (listVal v.vtype vb)).exact
        else none
      | _, _ => none
  else if r.formA = 1 then
    (s.listDense c r r.mapA r.mapB u).filterMap fun (w, bits) =>
      mk w (mulV (listVal u.vtype bits) (bxVal v.type (s.bxAt? c v (v.offset (denseCoord r.mapB w))))).exact
  else
    (s.listDense c r r.mapB r.mapA v).filterMap fun (w, bits) =>
      mk w (mulV (bxVal u.type (s.bxAt? c u (u.offset (denseCoord r.mapA w)))) (listVal v.vtype bits)).exact

/-- The blocks a list form reads of its dense operand, by element offset (R32). -/
def State.listOffsets (s : State) (c : Nat) (r : Contract) (u v : Shape) : List Nat :=
  if r.formA = 1 ∧ r.formB = 1 then []
  else if r.formA = 1 then (s.listDense c r r.mapA r.mapB u).filterMap fun (w, _) => v.offset (denseCoord r.mapB w)
  else (s.listDense c r r.mapB r.mapA v).filterMap fun (w, _) => u.offset (denseCoord r.mapA w)

/-- The bucket row `p` of a JOIN: its row r, and the point of r and B's other letters (R314). -/
def Contract.bucketPoint (r : Contract) (p : Nat) : Nat × List (Nat × Nat) :=
  let pts := letterPoints r r.bucketOthers
  (p / pts.length, ((r.mapA[1]?).getD 15, p / pts.length) :: (pts[p % pts.length]?).getD [])

/-- The element offset of activation `i` of bucket row `p` (R314). -/
def Contract.bucketOffset (r : Contract) (v : Shape) (pt : List (Nat × Nat)) (i : Nat) : Option Nat :=
  v.offset (denseCoord r.mapB (((r.mapA[0]?).getD 15, i) :: pt))

/-! ## The unit's steps -/

/-- What the pre-pass finds (R296, R301, R308): nothing wrong, a format fault or a spread fault. -/
inductive Prepass where
  | ok | format | spread
deriving DecidableEq, Repr

/-- Format before spread (R406). -/
def prepassOf (format spread : Bool) : Prepass := if format then .format else if spread then .spread else .ok

/-- What a command works on: its tiles, the rows or passes it has, and its record. -/
structure Work where
  u : Shape
  v : Shape
  mask : Option Shape
  rc : Contract
  total : Nat

/-- The work of a contraction command. -/
def State.workOf (s : State) (x : Cmd) : Option Work :=
  let rc := contractOf x.sealed
  match x.ins with
  | .bmv w =>
    match s.usedTile x.c x.k w.ta.toNat, s.usedTile x.c x.k w.tb.toNat with
    | some u, some v => some { u := u, v := v, mask := none, rc := rc, total := (bmvArgs x.regs u).2.1 }
    | _, _ => none
  | .bdot w =>
    match s.usedTile x.c x.k w.ta.toNat, s.usedTile x.c x.k w.tb.toNat with
    | some u, some v => some { u := u, v := v, mask := none, rc := rc, total := 1 }
    | _, _ => none
  | .join w =>
    match s.usedTile x.c x.k w.ta.toNat, s.usedTile x.c x.k w.tb.toNat with
    | some u, some v =>
      some { u := u, v := v, mask := if rc.men then s.usedTile x.c x.k rc.mtile else none, rc := rc, total := rc.passes }
    | _, _ => none
  | _ => none

/-- The pre-pass of a command over its remaining rows or passes (R296, R297, R301, R308). -/
def State.prepass (s : State) (x : Cmd) (w : Work) : Prepass :=
  let c := x.c
  match x.ins with
  | .bmv _ =>
    let (f, n, _, o) := bmvArgs x.regs w.u
    let offs := (List.range (w.u.ext 0)).filterMap fun i => w.v.linear (o + i)
    let acts := offs.map fun q => s.activation c w.v (some q)
    prepassOf (s.badBlock c w.v offs || !((List.range n).drop x.next).all fun i => s.pbRowOk c w.u (f + i)) (!spreadOk (selected acts))
  | .bdot _ =>
    let (i0, j0, k0, k, _) := bdotArgs x.regs w.u
    let ks := (List.range k).map (k0 + ·)
    let oa := ks.flatMap fun q => (List.range (min 32 (w.u.ext 1 - i0))).filterMap fun i => at2 w.u q (i0 + i)
    let ob := ks.flatMap fun q => (List.range (min 32 (w.v.ext 0 - j0))).filterMap fun j => at2 w.v (j0 + j) q
    prepassOf (s.badBlock c w.u oa || s.badBlock c w.v ob)
      (!denseSpreadOk w.u.type (gaAnchor x.ga) (s.topExp c w.u oa) (s.topExp c w.v ob) k)
  | .join _ =>
    if w.rc.formA = 2 then
      let k := w.u.ext 0
      let pts := ((List.range w.total).drop x.next).map w.rc.bucketPoint
      let offs (p : Nat × List (Nat × Nat)) := (List.range k).filterMap fun i => w.rc.bucketOffset w.v p.2 i
      prepassOf (pts.any fun p => s.badBlock c w.v (offs p) || !s.pbRowOk c w.u p.1)
        (pts.any fun p => !spreadOk (selected ((offs p).map fun q => s.activation c w.v (some q))))
    else if w.rc.formA = 1 ∨ w.rc.formB = 1 then
      prepassOf (s.badBlock c (if w.rc.formA = 1 then w.v else w.u) (s.listOffsets c w.rc w.u w.v)) false
    else
      let whole (v : Shape) := (List.range (cdiv v.footprint 32)).map (32 * ·)
      let (_, _, _, lk) := w.rc.classes
      prepassOf (s.badBlock c w.u (whole w.u) || s.badBlock c w.v (whole w.v))
        (!denseSpreadOk w.u.type (gaAnchor x.ga) (s.topExp c w.u (whole w.u)) (s.topExp c w.v (whole w.v))
          ((lk.map fun l => w.rc.em1 l + 1).foldl (· * ·) 1))
  | _ => .ok

/-- The bytes of a PB row a bucket row reads: BND, PERM and the codewords of its blocks (R71, R302). -/
def Shape.pbReads (v : Shape) (r : Nat) : List (Nat × Nat) :=
  let n := 2 ^ codeBits v.type
  [(r * (v.str 1).toNat, v.pbRecord), (v.plane + r * v.nb * (2 * n), v.nb * (2 * n))]

/-- The first uncorrectable line the operand reads of a command's next row or pass consume (R296, R424). -/
def State.badPass (s : State) (x : Cmd) (w : Work) : Option (Nat × Nat) :=
  if s.bad.isEmpty then none
  else
    let c := x.c
    let whole (v : Shape) := s.badImage c v [(0, v.size.1)]
    let elems (v : Shape) (offs : List Nat) := s.badImage c v (offs.flatMap v.reads)
    match x.ins with
    | .bmv _ =>
      let (f, _, _, o) := bmvArgs x.regs w.u
      (s.badImage c w.u (w.u.pbReads (f + x.next))).or (elems w.v ((List.range (w.u.ext 0)).filterMap fun i => w.v.linear (o + i)))
    | .bdot _ =>
      let (i0, j0, k0, k, _) := bdotArgs x.regs w.u
      let ks := (List.range k).map (k0 + ·)
      (elems w.u (ks.flatMap fun q => (List.range (min 32 (w.u.ext 1 - i0))).filterMap fun i => at2 w.u q (i0 + i))).or
        (elems w.v (ks.flatMap fun q => (List.range (min 32 (w.v.ext 0 - j0))).filterMap fun j => at2 w.v (j0 + j) q))
    | .join _ =>
      let mask := w.mask.bind whole
      if w.rc.formA = 2 then
        let (r, pt) := w.rc.bucketPoint x.next
        ((s.badImage c w.u (w.u.pbReads r)).or (elems w.v ((List.range (w.u.ext 0)).filterMap fun i => w.rc.bucketOffset w.v pt i))).or mask
      else ((whole w.u).or (whole w.v)).or mask
    | _ => none

/-- The terms of row or pass `p` of a command, and its bucket sums. Its elements are read as they stand in the turn of the row or pass: of the old and
new values that R298 allows each unordered read, the one that stands (DESIGN CHOICE, log 27). -/
def State.passTerms (s : State) (x : Cmd) (w : Work) (p : Nat) : List Term × List Int :=
  let c := x.c
  let direct := match s.ctx? c x.k with | some y => y.cat.direct | none => false
  match x.ins with
  | .bmv t =>
    let (f, _, kb, o) := bmvArgs x.regs w.u
    let act (i : Nat) := s.bmvAct c w.v o i
    let ref := eRef (selected ((List.range (w.u.ext 0)).map act))
    let sums := s.bucketSums c w.u (f + p) w.v.type ref act
    (s.bucketTerms c w.u (f + p) (kb + p * 2 ^ bitsOf t.cmd 5 0) x.ga direct (lsbWeight w.v ref) sums, sums)
  | .bdot t =>
    let (i0, j0, k0, k, kb) := bdotArgs x.regs w.u
    ((List.range (min 32 (w.u.ext 1 - i0))).flatMap fun i => (List.range (min 32 (w.v.ext 0 - j0))).map fun j =>
      lensTerm direct (kb + (i0 + i) * 2 ^ bitsOf t.cmd 5 0 + (j0 + j)) (lensSum x.ga ((List.range k).map fun q =>
        bxProduct w.u.type (s.bxAt? c w.u (at2 w.u (k0 + q) (i0 + i))) (s.bxAt? c w.v (at2 w.v (j0 + j) (k0 + q))))), [])
  | .join _ =>
    if w.rc.formA = 2 then
      let (r, pt) := w.rc.bucketPoint p
      let act (i : Nat) := s.activation c w.v (w.rc.bucketOffset w.v pt i)
      let ref := eRef (selected ((List.range (w.u.ext 0)).map act))
      let sums := s.bucketSums c w.u r w.v.type ref act
      (s.bucketTerms c w.u r (w.rc.keyOf pt) x.ga w.rc.direct (lsbWeight w.v ref) sums, sums)
    else if w.rc.formA = 1 ∨ w.rc.formB = 1 then (s.listTerms c x.ga w.rc w.u w.v w.mask, [])
    else (s.densePass c x.ga w.rc w.u w.v w.mask p, [])
  | _ => ([], [])

/-- Row or pass `p` goes to the Catalogue, or an operand read of it meets an uncorrectable line (R296). -/
def State.beginPass (s : State) (x : Cmd) (w : Work) (p : Nat) : State :=
  match s.badPass { x with next := p } w with
  | some (sub, line) => s.unitCheck { x with next := p } sub line
  | none =>
  let (terms, sums) := s.passTerms x w p
  s.modCore x.c fun co => { co with run := some { id := x.id, terms := terms, sums := sums.map (BitVec.ofInt 64 ·), heldTerm := none } }

/-- BDUMP's writes (R307): the sums of `n` of its buckets, from its `t0`-th on, into a w32 tile. -/
def dumpBytes (v : Shape) (sums : List W64) (m0 t0 n : Nat) : List (Nat × Byte × Byte) :=
  ((List.range n).map (t0 + ·)).flatMap fun t =>
    let z := if 4096 ≤ m0 + t then 0 else ((sums[m0 + t]?).getD 0).toNat
    (match v.linear (2 * t) with | some o => v.put o (z % 2 ^ 32) | none => []) ++
      (match v.linear (2 * t + 1) with | some o => v.put o (z / 2 ^ 32) | none => [])

/-- A command that fails its pre-pass (R296): discarded, or kept where it was carried (R288); its context's later ones are held.
Once a stop trap of its launch stands nothing is raised, and the command is saved as not performed (R408). -/
def State.prepassTrap (s : State) (x : Cmd) (cause : Nat) : State :=
  let s := if s.stopRaised x.lid then s else (s.cmdTrap x cause 0 x.next 0 none).stopCommand x
  s.modCore x.c fun co =>
    let mine (id : Nat) : Bool := (s.cmd? id).any fun y => y.k == x.k
    { co with unitHeld := co.unitHeld ++ co.unitQ.filter mine, unitQ := co.unitQ.filter (!mine ·) }

/-- Whether a stop leaves this command to be saved, not begun: BMV and JOIN at their boundary (R297, R429). -/
def savedWhole : Instr → Bool
  | .bmv _ => true
  | .join _ => true
  | _ => false

/-- CONTRACTION_START: the unit's oldest command starts when nothing runs and no restored term waits to spill (R293, R324): the pre-pass, then its first row or pass. -/
def State.contractionStart (s : State) (c : Nat) : State :=
  match s.cores[c]? with
  | none => s
  | some co =>
    match co.run, (if (s.lateSlot c).isSome then [] else co.unitQ) with
    | none, id :: _ =>
      match s.cmd? id with
      | none => s.modCore c fun co => { co with unitQ := co.unitQ.drop 1 }
      | some x =>
        if s.cmdStops x && savedWhole x.ins then s
        else
          let s1 := s.modCmd id fun y => { y with state := .running }
          let idle (s : State) : State := s.modCore c fun co => { co with run := some { id := id, terms := [], sums := [], heldTerm := none } }
          match x.ins, s.workOf x with
          | .cinit w, _ => (idle s1).initCatalogue c x.k (w.cmd.getLsbD 0)
          | _, some w =>
            match ((List.range w.total).drop x.next).findSome? fun p => s.badPass { x with next := p } w with
            | some (sub, line) => s.unitCheck x sub line
            | none =>
            match s.prepass x w with
            | .format => s.prepassTrap x 5
            | .spread => s.prepassTrap x 6
            | .ok => s1.beginPass x w x.next
          | _, none => idle s1
    | _, _ => s

/-- CONTRACTION_START (R293). -/
def execContractionStart (c : Nat) (s : State) : Host.Outcome State Fault Refusal := run (modify (·.contractionStart c)) s

/-- The command a unit runs, once the Catalogue has applied what it was given. -/
def State.passDone (s : State) (c : Nat) : Option (Cmd × UnitRun) :=
  match (s.cores[c]?).bind (·.run) with
  | some r => if r.terms.isEmpty && r.heldTerm.isNone then (s.cmd? r.id).map (·, r) else none
  | none => none

/-- BUCKET_ROW_COMPLETE: a row or pass is applied (R295): BMV's barrier receives 64 bytes, the sums are kept (R303), and the next
row or pass begins, unless the command is to be saved here (R297). -/
def State.rowComplete (s : State) (c : Nat) : State :=
  match s.passDone c with
  | none => s
  | some (x, r) =>
    match s.workOf x with
    | none => s
    | some w =>
      if w.total ≤ x.next then s
      else
        let bucket := match x.ins with | .bmv _ => true | .join _ => w.rc.formA == 2 | _ => false
        let s := if bucket then s.modCtx c x.k fun y => { y with sums := r.sums } else s
        let s := match x.ins with | .bmv _ => s.cmdArrive x 64 false false | _ => s
        let x' := { x with next := x.next + 1 }
        let s := s.modCmd x.id fun y => { y with next := y.next + 1 }
        if w.total ≤ x'.next then s
        else if s.cmdStops x then
          (s.modCmd x.id fun y => { y with state := .waiting }).modCore c fun co => { co with run := none }
        else s.beginPass x' w x'.next

/-- BUCKET_ROW_COMPLETE (R295). -/
def execBucketRowComplete (c : Nat) (s : State) : Host.Outcome State Fault Refusal := run (modify (·.rowComplete c)) s

/-- The bytes a command's completion brings to its barrier (R295, R331); BMV and BDUMP bring theirs as they go on. -/
def endBytes (x : Cmd) : Nat :=
  match x.ins with
  | .bmv _ => 0
  | .bdump _ => 0
  | _ => 64

/-- A cycle of BDUMP: the next 32 buckets are written, whose 256 bytes its barrier receives (R307). -/
def State.dumpStep (s : State) (x : Cmd) (w : TWord) : State :=
  match s.usedTile x.c x.k w.td.toNat, s.ctx? x.c x.k with
  | some v, some y =>
    let p := (x.regs[0]?).getD 0
    let n := min 32 (bitsOf p 63 32 - x.next)
    let s := (s.writeTile x.c x.k w.td.toNat (dumpBytes v y.sums (bitsOf p 31 0) x.next n)).modCmd x.id fun z => { z with next := x.next + n }
    let s := if n = 0 then s else s.cmdArrive x (8 * n) false false
    if bitsOf p 63 32 ≤ x.next + n then (s.leaveUnit x).complete x else s
  | _, _ => (s.leaveUnit x).complete x

/-- CONTRACTION_COMPLETE: the unit's command is over (R295), or BDUMP goes on. -/
def State.contractionEnd (s : State) (c : Nat) : State :=
  match s.passDone c with
  | none => s
  | some (x, _) =>
    match x.ins with
    | .bdump w => s.dumpStep x w
    | _ =>
    let ended := match s.workOf x with
      | some w => decide (w.total ≤ x.next)
      | none => (drainWord x.ins).isNone
    if ended then
      let n := endBytes x
      let s := if n = 0 then s else s.cmdArrive x n false false
      (s.leaveUnit x).complete x
    else s

/-- CONTRACTION_COMPLETE (R295). -/
def execContractionComplete (c : Nat) (s : State) : Host.Outcome State Fault Refusal := run (modify (·.contractionEnd c)) s

/-! ## Issue on B (R294, R306, R307, R315) -/

/-- The three registers of a block. -/
def readThree (r : Nat) : M (List W64) := (List.range 3).mapM fun j => readReg (r + j)

/-- Whether a contraction word that X or B names may enter for a context (R294), with the record JOIN latches. -/
def State.contractOk (s : State) (c k : Nat) (ga : W64) (i : Instr) (regs : List W64) (look : Nat → Option Shape) : Bool × Obj :=
  match i with
  | .bmv x => (bmvOk x regs ga (look x.ta.toNat) (look x.tb.toNat), 0)
  | .bdot x => (bdotOk x regs ga (look x.ta.toNat) (look x.tb.toNat), 0)
  | .join x =>
    let slot := bitsOf x.cmd 5 0
    let o : Obj := match (s.ctx? c k).bind fun y => y.recs.find? (fun (j, _, live) => j == slot && decide (live ≤ s.now)) with
      | some (_, o, _) => o
      | none => 0
    let r := s.record? c k slot
    (s.joinOk c ga r (look x.ta.toNat) (look x.tb.toNat) (r.bind fun r => look r.mtile), o)
  | _ => (false, 0)

/-- A contraction word's issue on B. -/
def contractIssue (i : Instr) (x : TWord) (regs : Bool) : M Unit := do
  let on ← guardOn x.guard
  let h ← here
  if on then do
    unitRoom h
    let rs ← if regs then readThree x.preg.toNat else pure []
    (wordTiles i).forM fun t => tableOk (tileKey h.c h.k t)
    match i with | .join _ => tableOk (recordKey h.c h.k (bitsOf x.cmd 5 0)) | _ => pure ()
    let s ← get
    let (ok, o) := s.contractOk h.c h.k h.ctx.ga i rs fun t => s.tile? h.c h.k t
    if ok then do
      liveBar x.bar.toNat
      enterUnit h { h.command s i 2 0 x.bar.toNat rs noMods with sealed := o }
    else formatTrap
  else pure ()
  advance

/-- BMV (R306). -/
def execBmv (x : TWord) (s : State) : Host.Outcome State Fault Refusal := run (contractIssue (.bmv x) x true) s
/-- BDOT (R306, R309). -/
def execBdot (x : TWord) (s : State) : Host.Outcome State Fault Refusal := run (contractIssue (.bdot x) x true) s
/-- JOIN (R315). -/
def execJoin (x : TWord) (s : State) : Host.Outcome State Fault Refusal := run (contractIssue (.join x) x false) s

/-- BDUMP (R307). -/
def execBdump (x : TWord) (s : State) : Host.Outcome State Fault Refusal :=
  run (do
    let on ← guardOn x.guard
    let h ← here
    if on then do
      unitRoom h
      let p ← readReg x.preg.toNat
      let v ← tileHere x.td.toNat
      if v.type ≠ 7 ∨ v.windowed then formatTrap
      else do
        liveBar x.bar.toNat
        enterUnit h (h.command (← get) (.bdump x) 2 0 x.bar.toNat [p] noMods)
    else pure ()
    advance) s

/-- The tile a carried word names, whose use began when its CPYF issued in cycle `since` (R67, R68, R288). -/
def State.carriedTile (s : State) (c k since t : Nat) : Option Shape :=
  (s.ctx? c k).bind fun x => (x.tiles.find? fun (u, d) => u == t && decide (d.live ≤ s.now) && d.freeing.all fun f => decide (since ≤ f)).map
    fun (_, d) => shapeOf d.obj

/-- The checks a carried word meets as it enters the unit, with what it latches there (R288, R294). -/
def State.carriedCheck (s : State) (z : Cmd) (x : Ctx) (since : Nat) : Bool × Cmd :=
  let (ok, o) := s.contractOk z.c z.k x.ga z.ins z.regs (s.carriedTile z.c z.k since)
  (ok && (x.bar? z.bar).isSome, { z with ga := x.ga, sealed := o })

/-- A carried word as it enters: in the unit, ahead of `first` of its commands' rest, or its trap raised and the word kept to be checked
again (R288); `part` 1 marks the latter. -/
def State.carriedEnter (s : State) (z : Cmd) (x : Ctx) (since : Nat) (front : Bool) : State :=
  let (ok, z) := s.carriedCheck z x since
  if ok then
    ({ s with cmds := s.cmds.map fun y => if y.id = z.id then { z with part := 0 } else y } : State).modCore z.c fun co =>
      { co with unitQ := if front then z.id :: co.unitQ else co.unitQ ++ [z.id] }
  else ((s.modCmd z.id fun y => { y with part := 1 }).cmdTrap z 5 0 0 0 none).stopCommand { z with part := 1 }

/-- CARRIED_WORD_ENTRY: the carried word of a CPYF whose rows are all performed enters the unit when it has room, its entry
checks made now (R288, R293). -/
def State.carriedEntry (s : State) (id : Nat) : State :=
  match s.cmd? id with
  | none => s
  | some y =>
    match y.ins with
    | .cpyf f =>
      let room := decide ((((s.cores[y.c]?).map (·.unitQ)).getD []).length < 4)
      if y.state ≠ .done || !room || s.cmdStops y || s.cmds.any (fun z => z.carried && z.after.contains id) then s
      else match decode .B f.carried 0, s.ctx? y.c y.k with
        | .ok i, some x =>
          let regs := y.regs.drop 5
          let bar := match i with | .bmv w => w.bar.toNat | .bdot w => w.bar.toNat | .join w => w.bar.toNat | _ => 0
          let z : Cmd := { y with id := s.nextId, ins := i, unit := 2, bar := bar, regs := regs, mods := noMods, carried := true, issued := s.now,
                                  state := .waiting, next := 0, ranges := [], after := [id], inflight := [], buf := [] }
          ({ s with cmds := s.cmds ++ [z], nextId := s.nextId + 1 } : State).carriedEnter z x y.issued false
        | _, _ => s
    | _ => s

/-- CARRIED_WORD_ENTRY (R288). -/
def execCarriedWordEntry (id : Nat) (s : State) : Host.Outcome State Fault Refusal := run (modify (·.carriedEntry id)) s

end Sys2Proof.Machine
end

