-- ==== Sys2Proof/Machine/Inboxes.lean ====
section
/-!
DEFINITION. Expert inboxes (R457, R458): what a push is answered, and the overflow area.
-/
namespace Sys2Proof.Machine

/-- ESZM1's entry size in bytes. -/
def inboxEntry (reg : W64) : Nat := 64 * (bitsOf reg 45 40 + 1)
/-- The launch an inbox is bound to. -/
def inboxLid (reg : W64) : Nat := bitsOf reg 35 12 * 4096 + bitsOf reg 11 0

/-- Whether a launch is queued, placed or stopped (R458): it is not over. -/
def Launch.living (l : Launch) : Bool := match l.phase with | .recording _ => false | _ => true

/-- The bound launch and its queue's entry, where a push may go (R458). -/
def State.inboxTarget (s : State) (reg : W64) : Option (Launch × QueueEnt) :=
  if reg.getLsbD 63 then
    match s.launch? (inboxLid reg) with
    | some l => if l.living then (l.queueEnt? (bitsOf reg 39 36)).map (l, ·) else none
    | none => none
  else none

/-- The entries an overflow area holds (R458): in the upper half of OVCORE's slice. -/
def inboxRoom (l : Launch) (reg : W64) : Nat := l.stackSlice / 2 / inboxEntry reg

/-- The address of a place of the overflow area. -/
def inboxVa (l : Launch) (reg : W64) (i : Nat) : W64 :=
  l.stackVa (bitsOf reg 55 46) (l.stackSlice - l.stackSlice / 2 + i * inboxEntry reg)

/-- Whether the queue has room for a whole entry now, beside the deliveries on their way to it, its launch holding its span, its image restored
(R440, R458). -/
def Launch.inboxFits (l : Launch) (q : QueueEnt) (reg : W64) : Bool :=
  let x := l.queue (bitsOf reg 39 36)
  let coming := (x.reqs.filter (·.inbox)).foldl (fun n r => n + r.entries.length) 0
  l.origin?.isSome && !l.saved && decide (x.entries.length + coming + inboxEntry reg / 64 ≤ 2 ^ q.ldepth)

/-- Cycles of an inbox's delivery from its I/O die (DESIGN CHOICE: R14 gives the transit between cores only, log 27). -/
def inboxLeg : Nat := 1

/-- A row sent to the bound queue as consecutive entries: a push by the rules of R154, which enters the mesh at the serving core's die
(R11, R458). -/
def State.inboxDeliver (s : State) (reg : W64) (row : List Byte) : State :=
  s.modLaunch (inboxLid reg) fun l => l.modQueue (bitsOf reg 39 36) fun x =>
    { x with reqs := x.reqs ++ [{ c := inboxCore, k := 0, op := 1, try_ := false, data := dwordsOf (row.take (inboxEntry reg)),
                                  due := s.now + inboxLeg, held := false, walk := 0 }] }

/-- One inbox changed. -/
def State.modInbox (s : State) (ib : Nat) (f : Inbox → Inbox) : State :=
  { s with links := { s.links with inboxes := s.links.inboxes.modify ib f } }

/-- The next place of the overflow area: the one after the newest entry's (the spec names no order of places). -/
def nextPlace (room : Nat) (spare : List Nat) : Nat := match spare.getLast? with | some i => (i + 1) % room | none => 0

/-- The core whose slice holds an inbox's overflow, where its launch holds a span; else core 0 (DESIGN CHOICE: a launch without a span has no core for
the fault to name, log 23). -/
def overflowCore (l : Launch) (reg : W64) : Nat :=
  match l.origin? with
  | some (ox, oy) => ox + bitsOf reg 55 46 % l.spanW + 32 * (oy + bitsOf reg 55 46 / l.spanW)
  | none => 0

/-- A row appended to the overflow area; a fault is posted as a spill's is, and the push is answered full (R458). -/
def State.inboxAppend (s : State) (ib : Nat) (l : Launch) (reg : W64) (spare : List Nat) (row : List Byte) : State × PeerAnswer :=
  let i := nextPlace (inboxRoom l reg) spare
  let va := inboxVa l reg i
  match s.rangeNow 0 (asidOf l.lid) va (inboxEntry reg) 1 with
  | (s, .ok ps) => ((s.writeParts ps row).modInbox ib fun x => { x with spare := x.spare ++ [i] }, .accepted)
  | (s, .error f) =>
    (s.postFault { bits := faultBits (va.toNat + f.ofs) l.lid 0 f.sub f.cause 0 f.psize 1 (agentCode 6 0 1 (overflowCore l reg)) 0 f.info, inService := false, waiters := [],
                   stop := false, lid := l.lid }, .full)

/-- What a push to inbox `ib` meets (R458). -/
def State.inboxArrive (s : State) (ib : Nat) (row : List Byte) : State × PeerAnswer :=
  match s.links.inboxes[ib]? with
  | none => (s, .refused)
  | some x =>
    match s.inboxTarget x.reg with
    | none => (s, .refused)
    | some (l, q) =>
      if row.length ≠ inboxEntry x.reg then (s, .refused)
      else if x.spare = [] ∧ l.inboxFits q x.reg then (s.inboxDeliver x.reg row, .accepted)
      else if x.spare.length < inboxRoom l x.reg then s.inboxAppend ib l x.reg x.spare row
      else (s, .full)

/-- The push to inbox `ib` by a port before `p` that a turn is. -/
def lowerPush (ib p : Nat) : Turn → Option InboxPush
  | .event (.inboxPushArrival j q) => if j = ib ∧ q.port < p then some q else none
  | _ => none

/-- One push met and answered (R458). -/
def State.inboxTake (s : State) (ib : Nat) (p : InboxPush) : State :=
  let (s, ans) := s.inboxArrive ib p.row
  s.send (.reply p.port p.src p.id ans)

/-- INBOX_PUSH_ARRIVAL: a push from another package is answered, after those of the cycle that reach the inbox by lower ports (R458). -/
def execInboxPushArrival (ib : Nat) (p : InboxPush) (s : State) : Host.Outcome State Fault Refusal :=
  run (modify fun s =>
    let lower := sortBy (fun a b : InboxPush => decide (a.port ≤ b.port)) (s.agenda.filterMap (lowerPush ib p.port))
    let s := { s with agenda := s.agenda.filter fun t => (lowerPush ib p.port t).isNone }
    (lower.foldl (fun s q => s.inboxTake ib q) s).inboxTake ib p) s

/-- INBOX_OVERFLOW_MOVE: the oldest overflow entry moves into the queue whole, when it has room (R458). -/
def State.inboxMove (s : State) (ib : Nat) : State :=
  match s.links.inboxes[ib]? with
  | none => s
  | some x =>
    match x.spare, s.inboxTarget x.reg with
    | i :: rest, some (l, q) =>
      if l.inboxFits q x.reg then
        match s.rangeNow 0 (asidOf l.lid) (inboxVa l x.reg i) (inboxEntry x.reg) 0 with
        | (s, .ok ps) => (s.inboxDeliver x.reg (s.readParts ps)).modInbox ib fun y => { y with spare := rest }
        | (s, .error _) => s
      else s
    | _, _ => s

/-- INBOX_OVERFLOW_MOVE (R458). -/
def execInboxOverflowMove (ib : Nat) (s : State) : Host.Outcome State Fault Refusal := run (modify (·.inboxMove ib)) s

/-- Whether another bound inbox of a launch names the same OVCORE (R457). -/
def State.inboxClash (s : State) (ib : Nat) (v : W64) : Bool :=
  (s.links.inboxes.zipIdx).any fun (x, j) => j != ib && x.reg.getLsbD 63 && bitsOf x.reg 35 0 == bitsOf v 35 0 &&
    bitsOf x.reg 55 46 == bitsOf v 55 46

/-- A write of INBOXn (R457): reserved bits read zero; one that would share an overflow area is ignored and V reads 0. -/
def State.bindInbox (s : State) (ib : Nat) (v : W64) : State :=
  let w := BitVec.ofNat 64 (bitsOf v 63 63 * 2 ^ 63 + bitsOf v 55 0)
  if w.getLsbD 63 && s.inboxClash ib w then s.modInbox ib fun x => { x with reg := x.reg &&& ~~~(1#64 <<< 63) }
  else s.modInbox ib fun x => { x with reg := w, spare := if w = x.reg then x.spare else [] }

/-- INBOX_BIND_WRITE (R457). -/
def execInboxBindWrite (ib : Nat) (v : W64) (s : State) : Host.Outcome State Fault Refusal := run (modify (·.bindInbox ib v)) s

end Sys2Proof.Machine
end

