-- ==== Sys2Proof/Machine/Copies.lean ====
section
/-!
DEFINITION. Copy queues and copy engines (R277 to R290): CPY, CPYF, CPYZ, CQSTAT, QFENCE, QJOIN, rows and their performance, stealing,
inbox pushes with parking. A command's rows stand in `ranges` while no engine holds them.
-/
namespace Sys2Proof.Machine

/-! ## Queues (R277, R278) -/

/-- A queue holds 16 commands; X stalls at a seventeenth (R277). -/
def queueRoomFor (q : Nat) : M Unit := do
  let h ← here
  let s ← get
  require (decide ((s.queueOf h.c h.k 1 q).length < 16))

/-! ## A copy's fields (R280) -/

/-- The word of a copy. -/
def copyWord : Instr → Option TWord
  | .cpy x => some x
  | .cpyf f => some f.word
  | .cpyz x => some x
  | _ => none

/-- What a copy moves: its fields and the copy block. -/
structure CopyArgs where
  w    : TWord
  zero : Bool
  sm   : Bool
  dm   : Bool
  ib   : Bool
  src  : W64
  dst  : W64
  rowb : Nat
  nrow : Nat
  sstr : Int
  dstr : Int

/-- A copy from its word and its five registers. -/
def copyArgs (w : TWord) (zero : Bool) (r : List W64) : CopyArgs :=
  let reg (i : Nat) : W64 := (r[i]?).getD 0
  { w := w, zero := zero, sm := !zero && w.cmd.getLsbD 30, dm := w.cmd.getLsbD 29, ib := !zero && w.cmd.getLsbD 28, src := reg 0, dst := reg 1,
    rowb := bitsOf (reg 2) 31 0, nrow := bitsOf (reg 2) 63 32, sstr := (reg 3).toInt, dstr := (reg 4).toInt }

/-- What a command moves. -/
def Cmd.copy? (x : Cmd) : Option CopyArgs :=
  match x.ins with
  | .cpyz w => some (copyArgs w true x.regs)
  | i => (copyWord i).map fun w => copyArgs w false x.regs

/-- Where row `r` begins at the source, as a byte offset of a tile (R280). -/
def CopyArgs.srcAt (a : CopyArgs) (r : Nat) : Int := a.src.toNat + (r : Int) * a.sstr
/-- Where it begins at the destination. -/
def CopyArgs.dstAt (a : CopyArgs) (r : Nat) : Int := a.dst.toNat + (r : Int) * a.dstr

/-- R281: whether every row lies within a tile's image. -/
def rowsWithin (at_ : Nat → Int) (a : CopyArgs) (v : Shape) : Bool :=
  a.rowb == 0 || a.nrow == 0 || [0, a.nrow - 1].all fun r => decide (0 ≤ at_ r) && decide (at_ r + a.rowb ≤ v.size.1)

/-- R458: the destination an inbox push may have. -/
def inboxDst (d : W64) : Bool := bitsOf d 63 62 == 2 && bitsOf d 43 8 == 0

/-- R281, R458: whether a copy with these tiles may be issued. -/
def copyOk (a : CopyArgs) (s d : Option Shape) : Bool :=
  (match s with | some v => rowsWithin a.srcAt a v | none => true) &&
    (match d with | some v => rowsWithin a.dstAt a v && !v.windowed | none => true) &&
    (!a.ib || (a.nrow == 1 && a.dm && inboxDst a.dst))

/-! ## Issue (R287, R288) -/

/-- The five registers of a copy block. -/
def readCopy (r : Nat) : M (List W64) := (List.range 5).mapM fun j => readReg (r + j)

/-- The X registers a carried word's fields name, read at issue (R288). -/
def readCarried (w : W96) : M (List W64) :=
  match decode .B w 0 with
  | .ok (.bmv x) => readThree x.preg.toNat
  | .ok (.bdot x) => readThree x.preg.toNat
  | _ => pure []

/-- The issue of CPY, CPYF and CPYZ. -/
def copyIssue (i : Instr) (x : TWord) (zero : Bool) (col n : Nat) (carried : M (List W64)) : M Unit := do
  let q := bitsOf x.cmd 33 31
  oneQueue q
  let on ← guardOn x.guard
  if on then do
    queueRoomFor q
    let rs ← readCopy x.preg.toNat
    let more ← carried
    let mods ← modsHere col
    let a := copyArgs x zero rs
    let sv ← tileIf (!zero && !a.sm) x.ta.toNat
    let dv ← tileIf (!a.dm) x.td.toNat
    if !copyOk a sv dv then formatTrap
    else do
      liveBar x.bar.toNat
      let h ← here
      addCmd { h.command (← get) i 1 q x.bar.toNat (rs ++ more) mods with
               ranges := if a.rowb = 0 ∨ a.nrow = 0 then [] else [(0, a.nrow - 1)] }
  else pure ()
  advance n

/-- CPY (R280 to R287). -/
def execCpy (x : TWord) (s : State) : Host.Outcome State Fault Refusal := run (copyIssue (.cpy x) x false 2 1 (pure [])) s
/-- CPYF (R288): the carried word stands in the next word slot. -/
def execCpyf (x : FWord) (s : State) : Host.Outcome State Fault Refusal :=
  run (copyIssue (.cpyf x) x.word false 2 2 (readCarried x.carried)) s
/-- CPYZ (R287). -/
def execCpyz (x : TWord) (s : State) : Host.Outcome State Fault Refusal := run (copyIssue (.cpyz x) x true 1 1 (pure [])) s

/-! ## Queue status and order (R289, R290) -/

/-- Rows of ranges. -/
def rangeRows (l : List (Nat × Nat)) : Nat := l.foldl (fun n (a, b) => n + (b + 1 - a)) 0

/-- The rows of a command not yet performed (R289): a copy's; a SORT's; no other command has rows. -/
def State.rowsLeft (s : State) (x : Cmd) : Nat :=
  match x.copy? with
  | some a => if a.ib then (if x.ranges = [] ∧ x.state = .done then 0 else 1)
    else rangeRows x.ranges + (s.slotsFor (dieOf x.c) x.id).foldl (fun n (_, t) =>
      n + rangeRows t.todo + t.batch.length + (if t.cur.isSome then 1 else 0)) x.heldRows.length
  | none => rangeRows x.ranges

/-- CQSTAT's value (R289). -/
def State.queueStatus (s : State) (c k q : Nat) : W64 :=
  let l := s.queueOf c k 1 q
  match l with
  | [] => 0
  | x :: _ =>
    let join := match x.ins with | .qjoin _ => true | _ => false
    let park := match x.state with | .parked _ => true | _ => false
    BitVec.ofNat 64 (min (s.rowsLeft x) (2 ^ 24 - 1) * 2 ^ 16 + (if x.state = .held then 2 ^ 11 else 0) + (if park then 2 ^ 10 else 0) +
      (if join then 2 ^ 9 else 0) + min l.length 31)

/-- CQSTAT (R289). -/
def execCqstat (x : TWord) (s : State) : Host.Outcome State Fault Refusal :=
  run (do
    let on ← guardOn x.guard
    if on then do
      let h ← here
      let s ← get
      writeReg x.preg.toNat (s.queueStatus h.c h.k (bitsOf x.cmd 33 31)) 1
    else pure ()
    advance) s

/-- The commands of a context in the queues of a mask. -/
def State.maskedCmds (s : State) (c k mask : Nat) : List Cmd :=
  s.cmds.filter fun x => x.c == c && x.k == k && x.unit == 1 && mask.testBit x.queue

/-- QFENCE (R290). -/
def execQfence (x : TWord) (s : State) : Host.Outcome State Fault Refusal :=
  run (do
    let on ← guardOn x.guard
    if on then do
      let h ← here
      let s ← get
      require (s.maskedCmds h.c h.k (bitsOf x.cmd 7 0) == [])
    else pure ()
    advance) s

/-- QJOIN (R290): a marker that waits for the commands issued before it to the queues of its mask. -/
def execQjoin (x : TWord) (s : State) : Host.Outcome State Fault Refusal :=
  run (do
    let q := bitsOf x.cmd 33 31
    oneQueue q
    let on ← guardOn x.guard
    if on then do
      queueRoomFor q
      let h ← here
      let s ← get
      addCmd { h.command s (.qjoin x) 1 q 1024 [] noMods with after := (s.maskedCmds h.c h.k (bitsOf x.cmd 7 0)).map (·.id) }
    else pure ()
    advance) s

/-- JOIN_MARKER_COMPLETE (R290). -/
def State.joinStep (s : State) (id : Nat) : State :=
  match s.cmd? id with
  | some x =>
    match x.ins with
    | .qjoin _ => if s.isHead x && !s.cmds.any (fun y => x.after.contains y.id) then s.dropCmd id else s
    | _ => s
  | none => s

/-- JOIN_MARKER_COMPLETE (R290). -/
def execJoinMarkerComplete (id : Nat) (s : State) : Host.Outcome State Fault Refusal := run (modify (·.joinStep id)) s

/-! ## Copies that overlap (R284, R375)

A space is the package's memory (0), its mirror pages (1), another package's memory, or a tile of the context. -/

/-- The space of a tile's image. -/
def tileSpace (t : Nat) : Nat := 2 ^ 20 + t

/-- Where a write of a copy goes: space and address; none where its translation is not at hand. -/
def State.writePlace (s : State) (x : Cmd) (va : W64) (n : Nat) : Option (Nat × Nat) :=
  match s.find (dieOf x.c) none (asidOf x.lid) va n AccKind.store.code with
  | .parts ((pa, _, .mirror _, _) :: _) => some (1, pa)
  | .parts ((pa, _, _, _) :: _) => some (0, pa)
  | .peer pkg off => some (2 + pkg, off)
  | _ => none

/-- Whether pieces hold a byte of a space. -/
def holdsByte (l : List (Nat × Nat × Nat)) (sp b : Nat) : Bool := l.any fun (q, a, n) => q == sp && decide (a ≤ b) && decide (b < a + n)

/-- Whether two commands are copies of different queues, and of one context where the space is a tile. -/
def Cmd.rival (x y : Cmd) (sp : Nat) : Bool :=
  x.id != y.id && y.unit == 1 && y.copy?.isSome && !(x.c == y.c && x.k == y.k && x.queue == y.queue) &&
    (decide (sp < 2 ^ 20) || (x.lid == y.lid && x.c == y.c && x.k == y.k))

/-- Whether `x`'s data stays over `y`'s in a sector: the part's choice, made per sector (R375). -/
def Cmd.outlasts (x y : Cmd) (sp sec : Nat) : Bool :=
  let r (z : Cmd) := Config.sectorRank sp sec z.rank
  decide (r y < r x) || (r x == r y && decide (y.rank < x.rank))

/-- Whether a copy has begun. -/
def Cmd.begun (x : Cmd) : Bool := x.state != .waiting || x.written != []

/-- Whether another queue's copy has a write on its way to bytes of a piece. -/
def State.rivalWrites (s : State) (x : Cmd) (sp a n : Nat) : Bool :=
  s.cmds.any fun y => x.rival y sp && (s.slotsFor (dieOf y.c) y.id).any fun (_, t) =>
    match t.place with
    | some (q, b, m) => q == sp && decide (a < b + m) && decide (b < a + n)
    | none => false

/-- The bytes of a piece that a copy still writes. -/
def Cmd.freeBytes (x : Cmd) (sp a n : Nat) : List Nat := ((List.range n).map (a + ·)).filter fun b => !holdsByte x.masked sp b

/-- A copy has written a piece: copies of other queues that have begun leave its bytes as they are in every sector where it prevails,
those saved with a launch too. -/
def State.noteWrite (s : State) (x : Cmd) (sp a n : Nat) : State :=
  let free := x.freeBytes sp a n
  let pieces := (List.range (n / 64 + 2)).flatMap fun i =>
    (runsOf (free.filter fun b => b / 64 == a / 64 + i)).map fun (b, m) => (sp, b, m)
  let f (y : Cmd) : Cmd :=
    if y.id = x.id then { y with written := y.written ++ pieces }
    else if x.rival y sp && y.begun then { y with masked := y.masked ++ pieces.filter fun (q, b, _) => x.outlasts y q (b / 64) }
    else y
  { s with cmds := s.cmds.map f,
           place := { s.place with launches := s.place.launches.map fun l => { l with kept := l.kept.map fun k => { k with cmds := k.cmds.map f } } } }

/-- What a copy that starts leaves as it is: what other queues' copies under way have written where they prevail. -/
def State.startMask (s : State) (x : Cmd) : List (Nat × Nat × Nat) :=
  s.cmds.flatMap fun y => y.written.filter fun (q, b, _) => y.rival x q && y.outlasts x q (b / 64)

/-- The number of a row's part that begins at an address, the row itself at another (R282, R403). -/
def partNumber (row : W64) (ofs : Nat) : Nat := (row.toNat % 64 + ofs) / 64

/-! ## Copy engines (R279, R283) -/

/-- A copy engine freed. -/
def State.freeSlot (s : State) (d e : Nat) : State := s.modDie d fun x => { x with copies := x.copies.set e none }

/-- The lowest idle copy engine of a die. -/
def Die.idleEngine (x : Die) : Option Nat := x.copies.findIdx? (·.isNone)

/-- An engine's new assignment. -/
def newSlot (id : Nat) (todo : List (Nat × Nat)) : CopySlot :=
  { id := id, cur := none, buf := [], batch := [], todo := todo, part := 0, acc := none }

/-- A copy whose last row is performed: it completes, or with a carried word waits for that to enter and complete (R282, R288). -/
def State.copyDone (s : State) (x : Cmd) : State :=
  match x.ins with
  | .cpyf _ => s.modCmd x.id fun y => { y with state := .done }
  | _ => s.complete x

/-- Whether a copy has rows that no engine has: those not begun, or held rows released. -/
def Cmd.idleRows (x : Cmd) : Bool := (x.state == .running && x.ranges != []) || x.heldRows.any (!·.wait)

/-- The copy commands of a die that may start, or go on with rows that no engine has, in the order of R279. -/
def State.startable (s : State) (d : Nat) : List Cmd :=
  sortBy (fun a b : Cmd => decide (a.issued < b.issued) || (a.issued == b.issued && (decide (a.c < b.c) || (a.c == b.c && decide (a.queue ≤ b.queue)))))
    (s.cmds.filter fun x => x.unit == 1 && dieOf x.c == d && x.copy?.isSome && (x.state == .waiting || (x.idleRows && s.slotsFor d x.id == [])) && s.isHead x && !s.cmdStops x)

/-- COPY_START: the commands that may start get the free engines of their die (R279); one without rows completes (R280). -/
def State.copyStarts (s : State) (d : Nat) : State :=
  (s.startable d).foldl (fun s x =>
    if x.ranges = [] ∧ x.heldRows = [] then (s.cmdArrive x 0 false false).copyDone x
    else match (s.dies[d]?).bind Die.idleEngine with
      | some e =>
        let s := s.modDie d fun y => { y with copies := y.copies.set e (some (newSlot x.id x.ranges)) }
        s.modCmd x.id fun y => { y with state := if y.state = .held then .held else .running, ranges := [], masked := y.masked ++ (if x.state = .waiting then s.startMask x else []) }
      | none => s) s

/-- COPY_START (R279). -/
def execCopyStart (d : Nat) (s : State) : Host.Outcome State Fault Refusal := run (modify (·.copyStarts d)) s

/-- The ranges a command's unstarted rows are held as, its held rows among them (R283, R429). -/
def State.heldRanges (s : State) (x : Cmd) : Nat :=
  x.ranges.length + x.heldRows.length + (s.slotsFor (dieOf x.c) x.id).foldl (fun n (_, t) => n + t.todo.length) 0

/-- The upper `m` rows taken from ranges: what stays, what goes. -/
def takeUpper : List (Nat × Nat) → Nat → List (Nat × Nat) × List (Nat × Nat)
  | [], _ => ([], [])
  | (a, b) :: rest, m =>
    let (stay, gone) := takeUpper rest m
    let left := m - rangeRows gone
    if left = 0 then ((a, b) :: stay, gone)
    else if b + 1 - a ≤ left then (stay, (a, b) :: gone)
    else ((a, b - left) :: stay, (b + 1 - left, b) :: gone)

/-- The engine an idle one steals from: the most unstarted rows, 2 or more, the lowest number on ties; not of a command
that holds 16 ranges (R283), nor of one whose context is being stopped. -/
def State.victim (s : State) (d : Nat) : Option (Nat × CopySlot) :=
  ((((s.dies[d]?).map (·.copies)).getD []).zipIdx.foldl (fun (best : Option (Nat × CopySlot)) (o, e) =>
    match o with
    | none => best
    | some t =>
      let ok := match s.cmd? t.id with | some x => decide (s.heldRanges x < 16) && !s.cmdStops x | none => false
      let r := rangeRows t.todo
      if !ok || decide (r < 2) then best
      else match best with
        | some (_, u) => if rangeRows u.todo < r then some (e, t) else best
        | none => some (e, t)) none)

/-- COPY_STEAL (R283). -/
def State.copySteal (s : State) (d : Nat) : State :=
  match (s.dies[d]?).bind Die.idleEngine, s.victim d with
  | some e, some (f, t) =>
    if s.startable d ≠ [] then s
    else
      let (stay, gone) := takeUpper t.todo (rangeRows t.todo / 2)
      (s.modSlot d f fun u => { u with todo := stay }).modDie d fun y => { y with copies := y.copies.set e (some (newSlot t.id gone)) }
  | _, _ => s

/-- COPY_STEAL (R283). -/
def execCopySteal (d : Nat) (s : State) : Host.Outcome State Fault Refusal := run (modify (·.copySteal d)) s

/-! ## Parts and rows (R282) -/

/-- The bytes of the part at an address: at most 64, within one sector (R282). -/
def partSize (va left : Nat) : Nat := min (64 - va % 64) left

/-- A copy that meets a lost link completes with the link-lost flag (R286, R456). -/
def State.copyLost (s : State) (x : Cmd) : State :=
  let d := dieOf x.c
  let s := (s.slotsFor d x.id).foldl (fun s (e, _) => s.freeSlot d e) s
  let s := { s with accs := s.accs.filter fun a => !(a.who == Waiter.cmd x.id) }
  ((s.cmdArrive x 0 false true).modCmd x.id fun y => { y with ranges := [], heldRows := [] }).copyDone x

/-- A row that met a fault restarts from its first byte (R282): a machine-check traps, a lost link ends the command, any other fault is
posted and the row holds. -/
def State.copyFault (s : State) (x : Cmd) (d e kind row cause sub : Nat) (va : W64) (line : Nat := 0) : State :=
  if cause = 14 then s.copyLost x
  else if e < 16 then (if cause = 13 then s.holdRow x.id row else s).cmdFail x x.agent (.row x.id row) kind row cause sub va line
  else s.cmdFail x x.agent (.cmd x.id) kind row cause sub va line

/-- Whether an engine may begin a row beside rows that hold: were they and the rows under way saved too, the command would still be held as
at most 16 ranges (R283, R437). -/
def State.mayBegin (s : State) (x : Cmd) : Bool :=
  x.heldRows == [] || decide (s.heldRanges x + (s.slotsFor (dieOf x.c) x.id).foldl
    (fun n (_, t) => n + t.batch.length + (if t.cur.isSome then 1 else 0)) 0 < 16)

/-- An engine takes a held row that was released: it reads it, or writes the bytes read before (R282). -/
def CopySlot.takeHeld (t : CopySlot) (h : HeldRow) : CopySlot :=
  match h.data with
  | none => { t with cur := some h.row, buf := [], part := 0 }
  | some b => { t with batch := t.batch ++ [(h.row, b)] }

/-- The next row an engine starts, one held and released before one not begun (R429: none once the context is being stopped). -/
def State.slotTake (s : State) (x : Cmd) (d e : Nat) (t : CopySlot) : State :=
  if t.cur.isSome || s.cmdStops x || (t.batch != [] && !acquires x.mods.order) then s
  else match x.heldRows.find? (!·.wait), t.todo with
    | some h, _ => (s.modSlot d e (·.takeHeld h)).modCmd x.id fun y => { y with heldRows := y.heldRows.filter (·.row != h.row) }
    | none, (a, b) :: rest =>
      if s.mayBegin x then s.modSlot d e fun t => { t with cur := some a, buf := [], part := 0, todo := if a = b then rest else (a + 1, b) :: rest }
      else s
    | none, [] => s

/-- A row read whole joins the rows to be written. -/
def CopySlot.readDone (t : CopySlot) (r : Nat) (b : List Byte) : CopySlot :=
  { t with cur := none, buf := [], batch := t.batch ++ [(r, b)], part := 0, acc := none }

/-- An engine's row gains its bytes: a tile's at once, memory's part by part (R282). -/
def State.slotRead (s : State) (x : Cmd) (a : CopyArgs) (d e : Nat) (t : CopySlot) : State :=
  match t.cur with
  | none => s
  | some r =>
    if a.zero then s.modSlot d e (·.readDone r (List.replicate a.rowb 0))
    else if !a.sm then
      match s.usedTile x.c x.k a.w.ta.toNat with
      | some v =>
        match s.badImage x.c v [((a.srcAt r).toNat, a.rowb)] with
        | some (sub, line) => s.copyFault x d e 0 r 13 sub 0 line
        | none => s.modSlot d e (·.readDone r (s.tileBytes x.c v (a.srcAt r).toNat a.rowb))
      | none => s
    else match t.acc with
      | some g =>
        match s.cmdDone x.id g with
        | .pending => s
        | .data b =>
          (s.cmdForget x.id g).modSlot d e fun t =>
            if t.buf.length + b.length < a.rowb then { t with buf := t.buf ++ b, acc := none } else t.readDone r (t.buf ++ b)
        | .failed cause sub va line => (s.cmdForget x.id g).copyFault x d e 0 r cause sub va line
      | none =>
        let va := BitVec.ofInt 64 (a.srcAt r) + BitVec.ofNat 64 t.buf.length
        let (s, g) := s.cmdAccess x x.agent .load va (partSize va.toNat (a.rowb - t.buf.length)) [] x.mods r (partNumber (BitVec.ofInt 64 (a.srcAt r)) t.buf.length) (.row x.id r)
        s.modSlot d e fun t => { t with acc := g }

/-- Whether every row of a command has been read (R394). -/
def State.allRead (s : State) (x : Cmd) : Bool :=
  x.ranges == [] && (x.heldRows.all fun h => h.data.isSome) && (s.slotsFor (dieOf x.c) x.id).all fun (_, t) => t.cur.isNone && t.todo == []

/-- A push leaves for its inbox (R286): its engine is free again. A destination that names no package is posted as any fault is;
one whose link is lost completes. -/
def State.copyPush (s : State) (x : Cmd) (d e : Nat) (a : CopyArgs) (row : List Byte) : State :=
  let ib := bitsOf a.dst 7 0
  match s.target (asidOf x.lid) a.dst 1 1 with
  | .ok (.peer pkg _) =>
    let s := (s.freeSlot d e).modCmd x.id fun y => { y with state := .sent, buf := row, part := 0 }
    if pkg = bitsOf s.ctl.pkgid 17 0 then
      let (s, ans) := s.inboxArrive ib row
      { s with links := { s.links with pushAns := s.links.pushAns ++ [(x.id, ans)] } }
    else if s.portLost (s.routePort pkg) then s.copyLost x
    else s.send (.push (s.routePort pkg) pkg x.id ib row)
  | .error t => (s.copyFault x d e 1 0 t.cause t.sub a.dst).modCmd x.id fun y => if e < 16 then y else { y with ranges := [(0, 0)] }
  | .ok _ => s

/-- An engine writes the first of its rows that are read (R282, R394). -/
def State.slotWrite (s : State) (x : Cmd) (a : CopyArgs) (d e : Nat) (t : CopySlot) : State :=
  match t.batch with
  | [] => s
  | (r, b) :: _ =>
    if t.cur.isSome || decide (a.rowb ≤ t.part) || (acquires x.mods.order && !s.allRead x) || !s.cmdReleased x then s
    else if a.ib then s.copyPush x d e a b
    else if !a.dm then
      let o := (a.dstAt r).toNat
      let bytes := (putBytes o b).filter fun (i, _, _) => !holdsByte x.masked (tileSpace a.w.td.toNat) i
      ((s.writeTile x.c x.k a.w.td.toNat bytes).noteWrite x (tileSpace a.w.td.toNat) o a.rowb).modSlot d e fun t => { t with part := a.rowb }
    else
      let va := BitVec.ofInt 64 (a.dstAt r) + BitVec.ofNat 64 t.part
      let n := partSize va.toNat (a.rowb - t.part)
      match t.acc with
      | some g =>
        match s.cmdDone x.id g with
        | .pending => s
        | .data _ =>
          let (sp, at_, m) := t.place.getD (0, 0, n)
          let s := if t.place.isSome then s.noteWrite x sp at_ m else s
          (s.cmdForget x.id g).modSlot d e fun t => { t with part := t.part + m, acc := none, place := none }
        | .failed cause sub va line =>
          ((s.cmdForget x.id g).modSlot d e fun t => { t with place := none }).copyFault x d e 1 r cause sub va line
      | none =>
        let send (m : Nat) (place : Option (Nat × Nat × Nat)) (skip : List Nat) : State :=
          let (s, g) := s.cmdAccess x x.agent .store va m ((b.drop t.part).take m) x.mods r (partNumber (BitVec.ofInt 64 (a.dstAt r)) t.part)
            (.row x.id r)
          let s := match g with | some i => s.modAcc i fun y => { y with skip := skip } | none => s
          s.modSlot d e fun t => { t with acc := g, place := g.bind fun _ => place }
        match s.writePlace x va n with
        | none => send n none []
        | some (sp, at_) =>
          if s.rivalWrites x sp at_ n then s
          else
            let free := x.freeBytes sp at_ n
            if sp < 2 then send n (some (sp, at_, n)) (((List.range n).filter fun i => !free.contains (at_ + i)))
            else match runsOf free with
              | [] => s.modSlot d e fun t => { t with part := t.part + n }
              | (f, m) :: _ => if at_ < f then s.modSlot d e fun t => { t with part := t.part + (f - at_) } else send m (some (sp, at_, m)) []

/-- One engine's place in a die's copies, while it works for a command. -/
def State.slotAt (s : State) (d e id : Nat) : Option CopySlot :=
  match ((s.dies[d]?).bind (·.copies[e]?)).join with
  | some t => if t.id = id then some t else none
  | none => none

/-- Adjacent ranges in order, merged. -/
def mergeRanges (l : List (Nat × Nat)) : List (Nat × Nat) :=
  (sortBy (fun a b : Nat × Nat => decide (a.1 ≤ b.1)) l).foldl (fun (acc : List (Nat × Nat)) (a, b) =>
    match acc with
    | (c, e) :: rest => if a ≤ e + 1 then (c, max e b) :: rest else (a, b) :: acc
    | [] => [(a, b)]) [] |>.reverse

/-- An engine of a command whose context is being stopped gives its unstarted rows back once no row is in flight; one read before all
were (R394) goes back among them (R285, R429). -/
def State.slotYield (s : State) (x : Cmd) (d e : Nat) (t : CopySlot) : State :=
  if !s.cmdStops x || t.acc.isSome then s
  else
    let stuck := acquires x.mods.order && !s.allRead x && t.cur.isNone
    if (t.cur.isSome || t.batch != []) && !stuck then s
    else
      let rows := t.todo ++ ((t.cur.toList ++ t.batch.map (·.1)).map fun r => (r, r))
      (s.freeSlot d e).modCmd x.id fun y => { y with ranges := mergeRanges (y.ranges ++ rows) }

/-- The rows of a command that are held go back among its unstarted rows when its context is being stopped (R285, R429). -/
def State.heldYield (s : State) (id : Nat) : State :=
  match s.cmd? id with
  | some x =>
    if s.cmdStops x && x.heldRows != [] then
      s.modCmd id fun y => { y with ranges := mergeRanges (y.ranges ++ y.heldRows.map fun h => (h.row, h.row)), heldRows := [] }
    else s
  | none => s

/-- A turn of one engine: it starts a row, reads, writes. -/
def State.slotTurn (s : State) (id d e : Nat) : State :=
  let go (f : State → Cmd → CopyArgs → CopySlot → State) (s : State) : State :=
    match s.cmd? id, s.slotAt d e id with
    | some x, some t => match x.copy? with | some a => f s x a t | none => s
    | _, _ => s
  let s := go (fun s x _ t => s.slotTake x d e t) s
  let s := go (fun s x a t => s.slotRead x a d e t) s
  let s := go (fun s x a t => s.slotWrite x a d e t) s
  go (fun s x _ t => s.slotYield x d e t) s

/-- COPY_PART: the engines of a command go on with their rows (R282). -/
def execCopyPart (id : Nat) (s : State) : Host.Outcome State Fault Refusal :=
  run (modify fun s => match s.cmd? id with
    | some x => ((List.range 16).foldl (fun s e => s.slotTurn id (dieOf x.c) e) s).heldYield id
    | none => s) s

/-- A row written: its bytes are subtracted, and its engine goes on, or is free (R282). -/
def State.rowPerformed (s : State) (x : Cmd) (a : CopyArgs) (d e : Nat) : State :=
  match s.slotAt d e x.id with
  | none => s
  | some t =>
    let s := if t.batch != [] && decide (a.rowb ≤ t.part) then
        (s.cmdArrive x a.rowb false false).modSlot d e fun t => { t with batch := t.batch.drop 1, part := 0 }
      else s
    match s.slotAt d e x.id with
    | some t => if t.cur.isNone && t.batch == [] && t.todo == [] then s.freeSlot d e else s
    | none => s

/-- COPY_ROW_PERFORMED: rows written are counted; with the last one the command is over (R282). -/
def State.copyRows (s : State) (id : Nat) : State :=
  match s.cmd? id with
  | none => s
  | some x =>
    match x.copy? with
    | none => s
    | some a =>
      let d := dieOf x.c
      if x.state ≠ .running ∧ x.state ≠ .held then s
      else
        let s := (List.range 16).foldl (fun s e => s.rowPerformed x a d e) s
        match s.cmd? id with
        | none => s
        | some y => if y.ranges = [] ∧ y.heldRows = [] ∧ s.slotsFor d id = [] ∧ (y.state = .running ∨ y.state = .held) then s.copyDone y else s

/-- COPY_ROW_PERFORMED (R282). -/
def execCopyRowPerformed (id : Nat) (s : State) : Host.Outcome State Fault Refusal := run (modify (·.copyRows id)) s

/-! ## Inbox pushes (R286) -/

/-- The port a push leaves by, where it leaves the package. -/
def State.pushPort (s : State) (a : CopyArgs) : Option Nat :=
  let pkg := bitsOf a.dst 61 44
  if pkg = bitsOf s.ctl.pkgid 17 0 then none else some (s.routePort pkg)

/-- A push completes as refused: zero bytes and the refused flag (R286), counted on its launch (R451). -/
def State.pushRefused (s : State) (x : Cmd) : State :=
  ((s.cmdArrive x 0 true false).complete x).modLaunch x.lid fun l => { l with refused := min (l.refused + 1) (2 ^ 32 - 1) }

/-- INBOX_ANSWER: a push is over, refused, or parks (R286); a lost link ends it; an answer to none is late (R423). -/
def State.pushAnswer (s : State) (id : Nat) : State :=
  match s.cmd? id with
  | none =>
    if s.links.pushAns.any (·.1 == id) then
      ({ s with links := { s.links with pushAns := s.links.pushAns.filter (·.1 != id) } } : State).modDie 0 Die.countLate
    else s
  | some x =>
    match s.links.pushAns.find? (·.1 == id), x.copy? with
    | some (_, ans), _ =>
      let s := { s with links := { s.links with pushAns := s.links.pushAns.filter (·.1 != id) } }
      match ans with
      | .accepted => (s.cmdArrive x x.buf.length false false).complete x
      | .refused => s.pushRefused x
      | _ => s.modCmd id fun y => { y with state := .parked s.wall, firstFull := some (y.firstFull.getD s.wall) }
    | none, some a =>
      let waits := match x.state with | .sent => true | .parked _ => true | _ => false
      match s.pushPort a with
      | some p => if a.ib && waits && s.portLost p then s.copyLost x else s
      | none => s
    | none, none => s

/-- INBOX_ANSWER (R286). -/
def execInboxAnswer (id : Nat) (s : State) : Host.Outcome State Fault Refusal := run (modify (·.pushAnswer id)) s

/-- PARK_RESEND: a parked push is sent again 1 µs after its answer (R286). -/
def State.parkResend (s : State) (id : Nat) : State :=
  match s.cmd? id with
  | none => s
  | some x =>
    match x.state, x.copy? with
    | .parked since, some a =>
      if s.cmdStops x || decide (s.wall < since + microsecond) then s
      else s.copyPush x (dieOf x.c) 16 a x.buf
    | _, _ => s

/-- PARK_RESEND (R286). -/
def execParkResend (id : Nat) (s : State) : Host.Outcome State Fault Refusal := run (modify (·.parkResend id)) s

/-- The park limit of a launch in wall-clock units (R120). -/
def Launch.parkLimit (l : Launch) : Nat := let p := bitsOf l.record 431 416; (if p = 0 then 100 else p) * microsecond

/-- PARK_LIMIT_EXPIRY: a parked push whose launch's limit has passed since its first full answer is refused (R286); time without
the span does not count (R430). -/
def State.parkExpiry (s : State) (id : Nat) : State :=
  match s.cmd? id with
  | none => s
  | some x =>
    match x.state, x.firstFull, s.launch? x.lid with
    | .parked _, some t, some l =>
      if l.parkLimit ≤ x.park + (s.wall - t) && !s.cmdStops x then s.pushRefused x else s
    | _, _, _ => s

/-- PARK_LIMIT_EXPIRY (R286). -/
def execParkLimitExpiry (id : Nat) (s : State) : Host.Outcome State Fault Refusal := run (modify (·.parkExpiry id)) s

end Sys2Proof.Machine
end

