-- ==== Sys2Proof/Machine/Collator.lean ====
section
/-!
DEFINITION. The Collator (R279, R291, R292): SORT and SORTK.
-/
namespace Sys2Proof.Machine

/-! ## Issue -/

/-- The rows a SORT names: the first, and how many (R291). -/
def sortRows (reg : W64) (a d : Shape) : Nat × Nat :=
  let f := bitsOf reg 31 0
  let n := bitsOf reg 63 32
  (f, if n = 0 then min (a.ext 1) (d.ext 1) - f else n)

/-- R291: whether SORT takes its tiles and rows. -/
def sortOk (reg : W64) (a d : Shape) : Bool :=
  let (f, n) := sortRows reg a d
  isCode a.type && isPB d.type && codeBits a.type == codeBits d.type && a.ext 0 == d.ext 0 && decide (f < a.ext 1) && decide (f < d.ext 1) &&
    decide (f + n ≤ a.ext 1) && decide (f + n ≤ d.ext 1) && a.str 0 == 1 && a.str 1 % 128 == 0 && decide ((a.ext 0 : Int) ≤ a.str 1) &&
    [2, 3, 4, 5].all fun i => a.ext i == 1

/-- SORT (R291). -/
def execSort (x : TWord) (s : State) : Host.Outcome State Fault Refusal :=
  run (do
    let q := bitsOf x.cmd 33 31
    oneQueue q
    let on ← guardOn x.guard
    if on then do
      queueRoomFor q
      let r ← readReg x.preg.toNat
      let a ← tileHere x.ta.toNat
      let d ← tileHere x.td.toNat
      if !sortOk r a d then formatTrap
      else do
        liveBar x.bar.toNat
        let h ← here
        let (f, n) := sortRows r a d
        addCmd { h.command (← get) (.sort x) 1 q x.bar.toNat [r] noMods with next := f, ranges := [(f, f + n - 1)] }
    else pure ()
    advance) s

/-- R292: whether SORTK takes its tiles. -/
def sortkOk (a d : Shape) : Bool := a.type == 19 && d.type == 19 && a.vtype == d.vtype && decide (a.ext 0 ≤ d.ext 0)

/-- SORTK (R292). -/
def execSortk (x : TWord) (s : State) : Host.Outcome State Fault Refusal :=
  run (do
    let q := bitsOf x.cmd 33 31
    oneQueue q
    let on ← guardOn x.guard
    if on then do
      queueRoomFor q
      let a ← tileHere x.ta.toNat
      let d ← tileHere x.td.toNat
      if !sortkOk a d then formatTrap
      else do
        liveBar x.bar.toNat
        let h ← here
        addCmd (h.command (← get) (.sortk x) 1 q x.bar.toNat [] noMods)
    else pure ()
    advance) s

/-! ## A row sorted (R291) -/

/-- The bytes of the source that sorting row `r` reads: its codes and their codebooks (R291). -/
def sortReads (r : Nat) (a : Shape) : List (Nat × Nat) :=
  let st := (a.str 1).toNat
  let size := 2 ^ (codeBits a.type + 1)
  (List.range (a.ext 0)).flatMap (fun k => a.reads (r * st + k)) ++
    (List.range (cdiv (a.ext 0) 128)).map fun j => (a.plane + (r * st + 128 * j) / 128 * size, size)

/-- The bank of an index (R291). -/
def bankOf (ew k : Nat) : Nat := k * 2 ^ ew / 32 % 64

/-- How many smaller indices of the list lie in the same bank: the round an index is taken in. -/
def roundOf (ew : Nat) (l : List Nat) (k : Nat) : Nat := l.countP fun j => decide (j < k) && bankOf ew j == bankOf ew k

/-- The order in which a bucket's ascending indices are written: rounds in turn, each in ascending bank order (R291). -/
def interleave (ew : Nat) (l : List Nat) : List Nat :=
  let key (k : Nat) : Nat := roundOf ew l k * 64 + bankOf ew k
  sortBy (fun a b => decide (key a ≤ key b)) l

/-- The buckets of a row of codes, in order of block and code. -/
def codeBuckets (ew b : Nat) (codes : List Nat) : List (List Nat) :=
  let nb := cdiv codes.length 128
  (List.range (nb * 2 ^ b)).map fun m =>
    let j := m / 2 ^ b
    interleave ew ((List.range 128).filterMap fun i => if codes[128 * j + i]? = some (m % 2 ^ b) then some (128 * j + i) else none)

/-- The bounds of buckets: the running sums, the last one the whole (R71). -/
def boundsOf (l : List (List Nat)) : List Nat := (l.foldl (fun (acc : List Nat) q => (acc.headD 0 + q.length) :: acc) [0]).reverse

/-- The writes of row `r`: its codebooks, BND and PERM (R291). -/
def State.sortRowBytes (s : State) (c ew r : Nat) (a d : Shape) : List (Nat × Byte × Byte) :=
  let b := codeBits a.type
  let nb := d.nb
  let st := (a.str 1).toNat
  let codes := (List.range (a.ext 0)).map fun k => s.elemAt c a (r * st + k)
  let size := 2 ^ (b + 1)
  let books := (List.range nb).flatMap fun j =>
    putBytes (d.plane + (r * nb + j) * size) (s.tileBytes c a (a.plane + (r * st + 128 * j) / 128 * size) size)
  let buckets := codeBuckets ew b codes
  let base := r * (d.str 1).toNat
  books ++ putBytes base ((boundsOf buckets).flatMap fun v => leBytes v 4) ++
    putBytes (base + 4 * (nb * 2 ^ b + 1)) (buckets.flatten.flatMap fun k => leBytes k 2)

/-! ## The Collator at work (R279) -/

/-- A command of the Collator is over. -/
def State.collEnd (s : State) (x : Cmd) : State :=
  (s.modCore x.c fun co => { co with collQ := co.collQ.filter (· != x.id) }).complete x

/-- A machine-check of a command of the Collator: it goes no further (R408, R424). -/
def State.collCheck (s : State) (x : Cmd) (row sub line : Nat) : State :=
  (s.cmdCheck x sub row 0 line).modCore x.c fun co => { co with collQ := co.collQ.filter (· != x.id) }

/-- SORT_ROW: the Collator's SORT performs a row (R291). -/
def State.sortStep (s : State) (c : Nat) : State :=
  let s := s.collate c
  match s.collHead c with
  | none => s
  | some x =>
    match x.ins with
    | .sort w =>
      match s.usedTile c x.k w.ta.toNat, s.usedTile c x.k w.td.toNat, x.ranges with
      | some a, some d, (r, last) :: _ =>
        match s.badImage c a (sortReads r a) with
        | some (sub, line) => s.collCheck x r sub line
        | none =>
        let s := s.writeTile c x.k w.td.toNat (s.sortRowBytes c (bitsOf w.cmd 1 0) r a d)
        let s := s.cmdArrive x (d.str 1).toNat false false
        if r = last then s.collEnd x else s.modCmd x.id fun y => { y with next := r + 1, ranges := [(r + 1, last)] }
      | _, _, _ => s
    | _ => s

/-- SORT_ROW (R291). -/
def execSortRow (c : Nat) (s : State) : Host.Outcome State Fault Refusal := run (modify (·.sortStep c)) s

/-- SORTK_COMPLETE: the Collator's SORTK writes the sorted list (R292). -/
def State.sortkStep (s : State) (c : Nat) : State :=
  let s := s.collate c
  match s.collHead c with
  | none => s
  | some x =>
    match x.ins with
    | .sortk w =>
      match s.usedTile c x.k w.ta.toNat, s.usedTile c x.k w.td.toNat with
      | some a, some d =>
        match s.badImage c a [(0, a.size.1)] with
        | some (sub, line) => s.collCheck x 0 sub line
        | none =>
        let recs := sortBy (fun p q : Nat × Nat => decide (p.1 ≤ q.1)) (s.listRecords c a)
        let body := recs.flatMap fun (k, v) => leBytes k 8 ++ leBytes (v % 2 ^ typeWidth d.vtype) 8
        let tail := if recs.length < d.ext 0 then List.replicate 8 0xFF ++ List.replicate 8 0 else []
        let s := s.writeTile c x.k w.td.toNat (putBytes 0 (body ++ tail))
        (s.cmdArrive x (body ++ tail).length false false).collEnd x
      | _, _ => s
    | _ => s

/-- SORTK_COMPLETE (R292). -/
def execSortkComplete (c : Nat) (s : State) : Host.Outcome State Fault Refusal := run (modify (·.sortkStep c)) s

end Sys2Proof.Machine
end

