-- ==== Sys2Proof/Machine/Text.lean ====
section
/-!
DEFINITION. The text engines (R342 to R361): requests and their checks, vocabulary images, tokenising, the request queues, TOKPOP, the
detokenisers, TOKPUSH and TOKEND.
-/
namespace Sys2Proof.Machine

/-- The text system changed. -/
def State.modText (s : State) (f : TextSt → TextSt) : State := { s with text := f s.text }

/-- One tokeniser, with its detokeniser, changed. -/
def State.modTok (s : State) (t : Nat) (f : TokSt → TokSt) : State := s.modText fun x => { x with toks := x.toks.modify t f }

/-! ## Reply frames (R346, R347) -/

/-- A reply frame leaves: REQID, SEQ, LEN, status and FINAL, then its payload (R343, R346). -/
def State.replyFrame (s : State) (port conn : Nat) (reqid : W64) (seq status : Nat) (final : Bool) (payload : List Byte) : State :=
  let head := reqid.toNat + seq % 2 ^ 32 * 2 ^ 64 + payload.length * 2 ^ 96 + status * 2 ^ 112 + (if final then 2 ^ 119 else 0)
  let tag : BitVec 32 := BitVec.ofNat 32 (bitsOf ((s.text.ports[port]?).getD 0) 63 32)
  s.modText fun x => { x with frames := x.frames ++ [{ port := port, conn := conn, tag := tag, bytes := leBytes head 16 ++ payload }] }

/-- A request ended by one final frame with a status and no payload (R345). -/
def State.refuseText (s : State) (port conn : Nat) (reqid : W64) (status : Nat) : State := s.replyFrame port conn reqid 0 status true []

/-! ## Vocabulary images (R349 to R351) -/

/-- Non-zero bytes of memory in a range. -/
def cellsIn (m : List (Nat × Byte)) (pa n : Nat) : List (Nat × Byte) := m.filter fun x => decide (pa ≤ x.1) && decide (x.1 < pa + n)

/-- A little-endian number of an image at an offset. -/
def imgNum (img : List (Nat × Byte)) (pa o n : Nat) : Nat := leNum (Mem.getList img (pa + o) n)

/-- The 64-byte header of an image (R350). -/
def imgHead (img : List (Nat × Byte)) (pa : Nat) : BitVec 512 := BitVec.ofNat 512 (imgNum img pa 0 64)

/-- NTOK of an image. -/
def imgTokens (img : List (Nat × Byte)) (pa : Nat) : Nat := bitsOf (imgHead img pa) 63 32

/-- The bytes an image's tables reach to (R350). -/
def imgReach (h : BitVec 512) : Nat :=
  [64, bitsOf h 191 160 + 256, bitsOf h 223 192 + 32, bitsOf h 255 224 + 1024, bitsOf h 287 256 + 16 * 2 ^ bitsOf h 100 96,
   bitsOf h 319 288 + 4 * (bitsOf h 63 32 + 1) + bitsOf h 351 320].foldl max 0

/-- The header's own rules (R350, R351). -/
def imgHeadOk (h : BitVec 512) : Bool :=
  bitsOf h 31 0 == 0x42564E57 && bitsOf h 511 352 == 0 && bitsOf h 127 101 == 0 && decide (1 ≤ bitsOf h 100 96) &&
    decide (bitsOf h 100 96 ≤ 20) && decide (bitsOf h 95 64 ≤ 262143) && decide (1 ≤ bitsOf h 63 32) && decide (bitsOf h 63 32 ≤ 262144) &&
    [191, 223, 255, 287, 319].all (fun hi => bitsOf h hi (hi - 31) % 64 == 0) && decide (imgReach h ≤ 2 ^ 30) &&
    decide (bitsOf h 95 64 < 2 ^ bitsOf h 100 96) && decide (bitsOf h 159 128 < bitsOf h 63 32)

/-- The slots of the merge hash table: LEFT, RIGHT, RANK, RESULT (R350). -/
def imgSlot (img : List (Nat × Byte)) (pa : Nat) (h : BitVec 512) (i : Nat) : Nat × Nat × Nat × Nat :=
  let o := bitsOf h 287 256 + 16 * i
  (imgNum img pa o 4, imgNum img pa (o + 4) 4, imgNum img pa (o + 8) 4, imgNum img pa (o + 12) 4)

/-- START[t] of the token-string table. -/
def imgStart (img : List (Nat × Byte)) (pa : Nat) (h : BitVec 512) (t : Nat) : Nat := imgNum img pa (bitsOf h 319 288 + 4 * t) 4

/-- R351: whether an image passes its check. -/
def imgOk (img : List (Nat × Byte)) (pa : Nat) : Bool :=
  let h := imgHead img pa
  let ntok := bitsOf h 63 32
  imgHeadOk h && ((List.range 256).all fun i => decide (imgNum img pa (bitsOf h 191 160 + i) 1 ≤ 15)) &&
    ((List.range 256).all fun i => decide (imgNum img pa (bitsOf h 255 224 + 4 * i) 4 < ntok)) &&
    (let used := ((List.range (2 ^ bitsOf h 100 96)).map (imgSlot img pa h)).filter fun e => e.1 != 0xFFFFFFFF
     used.length == bitsOf h 95 64 && used.all fun (l, r, _, z) => decide (l < ntok) && decide (r < ntok) && decide (z < ntok)) &&
    imgStart img pa h 0 == 0 && imgStart img pa h ntok == bitsOf h 351 320 &&
    (List.range ntok).all fun t => decide (imgStart img pa h t ≤ imgStart img pa h (t + 1)) &&
      decide (imgStart img pa h (t + 1) - imgStart img pa h t ≤ 255)

/-- PA of a vocabulary slot's register. -/
def vocabPa (v : W64) : Nat := bitsOf v 39 8 * 256

/-- A write of VOCABv (R349): V from 0 to 1 starts a check; V to 0 clears OK. -/
def State.writeVocab (s : State) (j : Nat) (v : W64) : State :=
  let old := (s.text.vocab[j]?).getD 0
  let fields := bitsOf v 63 63 * 2 ^ 63 + bitsOf v 39 8 * 2 ^ 8
  let kept := if !v.getLsbD 63 then bitsOf old 61 61 * 2 ^ 61 else if old.getLsbD 63 then bitsOf old 62 61 * 2 ^ 61 else 0
  s.modText fun x => { x with vocab := x.vocab.set j (BitVec.ofNat 64 (fields + kept)) }

/-- VOCAB_WRITE (R349). -/
def execVocabWrite (j : Nat) (v : W64) (s : State) : Host.Outcome State Fault Refusal := run (modify (·.writeVocab j v)) s

/-- VOCAB_CHECK_DONE: OK or ERR is set, and the image as it was checked is what its requests use (R349, R351). -/
def State.checkVocab (s : State) (j : Nat) : State :=
  let v := (s.text.vocab[j]?).getD 0
  if v.getLsbD 63 && bitsOf v 62 61 == 0 then
    let pa := vocabPa v
    let ok := imgOk s.memNow pa
    let cells := if ok then cellsIn s.memNow pa (imgReach (imgHead s.memNow pa)) else []
    s.modText fun x => { x with vocab := x.vocab.set j (v ||| BitVec.ofNat 64 (if ok then 2 ^ 62 else 2 ^ 61)), checked := x.checked.set j cells }
  else s

/-- VOCAB_CHECK_DONE (R349). -/
def execVocabCheckDone (j : Nat) (s : State) : Host.Outcome State Fault Refusal := run (modify (·.checkVocab j)) s

/-- Whether an image is still as it was checked (R349). -/
def State.imageKept (s : State) (pa : Nat) (img : List (Nat × Byte)) : Bool := cellsIn s.memNow pa (imgReach (imgHead img pa)) == img

/-! ## Requests arrive (R343 to R345) -/

/-- A request frame's 24-byte header. -/
def frameHead (b : List Byte) : BitVec 192 := BitVec.ofNat 192 (leNum (b.take 24))

/-- R345's first check. -/
def frameOk (b : List Byte) : Bool :=
  let h := frameHead b
  decide (24 ≤ b.length) && b.length == 24 + bitsOf h 191 160 && decide (bitsOf h 191 160 ≤ 2 ^ 20) && bitsOf h 159 130 == 0 &&
    bitsOf h 95 92 == 0 && bitsOf h 79 70 == 0

/-- The queue a frame's ASID binds to: the lowest with V = 1 (R348). -/
def State.boundQueue (s : State) (asid : Nat) : Option Nat :=
  s.text.rqbind.findIdx? fun r => r.getLsbD 63 && bitsOf r 11 0 == asid

/-- The launch a request queue is bound to. -/
def rqLid (r : W64) : Nat := bitsOf r 35 12 * 4096 + bitsOf r 11 0

/-- A number below `n` that is not in use: the part's choice (R344, R356; log 7), the first free one from a free value on. -/
def freshFrom (ctr n : Nat) (used : List Nat) : Nat :=
  let k := (Config.freeWord ctr).toNat
  (((List.range n).map fun i => (k + i) % n).find? fun i => !used.contains i).getD 0

/-- A text request meets the checks of R345 in order, and enters the tokeniser of its port that holds fewer (R344). -/
def State.textRequest (s : State) (m : UetMessage) : State :=
  let h := frameHead m.body
  let reqid : W64 := BitVec.ofNat 64 (bitsOf h 63 0)
  if !frameOk m.body then s.refuseText m.port m.conn reqid 1
  else match s.boundQueue (bitsOf h 91 80) with
    | none => s.refuseText m.port m.conn reqid 2
    | some q =>
      let vocab := bitsOf h 69 64
      let v := (s.text.vocab[vocab]?).getD 0
      if !v.getLsbD 62 then s.refuseText m.port m.conn reqid 4
      else
        let reqs (t : Nat) : List TextReq := ((s.text.toks[t]?).map (·.reqs)).getD []
        let t := if (reqs (2 * m.port + 1)).length < (reqs (2 * m.port)).length then 2 * m.port + 1 else 2 * m.port
        if 64 ≤ (reqs t).length then s.refuseText m.port m.conn reqid 3
        else
          let r : TextReq :=
            { slot := freshFrom s.freeCtr 64 ((reqs t).map (·.slot)), port := m.port, conn := m.conn, reqid := reqid,
              lid := rqLid ((s.text.rqbind[q]?).getD 0), queue := q, vocab := vocab, vpa := vocabPa v,
              image := (s.text.checked[vocab]?).getD [],
              maxReply := if bitsOf h 127 96 = 0 then 2 ^ 32 - 1 else bitsOf h 127 96, raw := h.getLsbD 129, bos := h.getLsbD 128,
              text := m.body.drop 24, tokens := none, posted := false, popped := false }
          ({ s with freeCtr := s.freeCtr + 1 } : State).modTok t fun x => { x with reqs := x.reqs ++ [r] }

/-- REQUEST_ARRIVAL: a tagged send with the port's request tag is a text request; any other message goes to the receive
ring (R343). -/
def execRequestArrival (m : UetMessage) (s : State) : Host.Outcome State Fault Refusal :=
  run (modify fun s =>
    let tag := bitsOf ((s.text.ports[m.port]?).getD 0) 31 0
    if m.tagged && m.tag.toNat == tag && tag != 0 then s.textRequest m
    else s.modText fun x => { x with ring := x.ring ++ [m] }) s

/-- UNRELIABLE_PACKET_ARRIVAL: dropped and counted (R342). -/
def execUnreliablePacketArrival (p : Nat) (s : State) : Host.Outcome State Fault Refusal :=
  run (modify (·.modText fun x => { x with dropped := x.dropped.modify p (· + 1) })) s

/-- RMA_READ_ARRIVAL: refused with a UET access error (R342). -/
def execRmaReadArrival (p : Nat) (s : State) : Host.Outcome State Fault Refusal :=
  run (modify (·.modText fun x => { x with rmaErrors := x.rmaErrors.modify p (· + 1) })) s

/-! ## Tokenising (R352, R353) -/

/-- The probes of a pair from slot `st` on: RANK and RESULT (R352). -/
def probePair (slot : Nat → Nat × Nat × Nat × Nat) (n l r : Nat) : Nat → Nat → Option (Nat × Nat)
  | 0, _ => none
  | fuel + 1, st =>
    let (a, b, rank, res) := slot (st % n)
    if a = 0xFFFFFFFF then none
    else if a = l ∧ b = r then some (rank, res)
    else probePair slot n l r fuel (st + 1)

/-- R352: a pair looked up. -/
def lookupPair (img : List (Nat × Byte)) (pa l r : Nat) : Option (Nat × Nat) :=
  let h := imgHead img pa
  let lg := bitsOf h 100 96
  let st := (l * 2 ^ 32 + r) * 0x9E3779B97F4A7C15 % 2 ^ 64 / 2 ^ (64 - lg)
  probePair (imgSlot img pa h) (2 ^ lg) l r (2 ^ lg) st

/-- The best merge of a piece: the lowest rank, the leftmost of equal ranks (R353). -/
def bestMerge (look : Nat → Nat → Option (Nat × Nat)) (q : List Nat) : Option (Nat × Nat × Nat) :=
  ((q.zip (q.drop 1)).zipIdx).foldl (fun best ((l, r), j) =>
    match look l r, best with
    | some (rank, res), some (j', rank', res') => if rank < rank' then some (j, rank, res) else some (j', rank', res')
    | some (rank, res), none => some (j, rank, res)
    | none, b => b) none

/-- A piece merged until no pair is found (R353). -/
def mergePiece (look : Nat → Nat → Option (Nat × Nat)) : Nat → List Nat → List Nat
  | 0, q => q
  | fuel + 1, q =>
    match bestMerge look q with
    | some (j, _, res) => mergePiece look fuel (q.take j ++ [res] ++ q.drop (j + 2))
    | none => q

/-- The pieces of a text: cut between bytes whose classes split (R353). -/
def cutPieces (split : Byte → Byte → Bool) : List Byte → List (List Byte)
  | [] => []
  | b :: rest =>
    match cutPieces split rest, rest with
    | p :: ps, c :: _ => if split b c then [b] :: p :: ps else (b :: p) :: ps
    | ps, _ => [b] :: ps

/-- The tokens of a text (R353). -/
def tokenise (img : List (Nat × Byte)) (pa : Nat) (raw bos : Bool) (text : List Byte) : List Nat :=
  let h := imgHead img pa
  let cls (b : Byte) : Nat := imgNum img pa (bitsOf h 191 160 + b.toNat) 1
  let split (a b : Byte) : Bool :=
    let i := 16 * cls a + cls b
    !raw && (imgNum img pa (bitsOf h 223 192 + i / 8) 1).testBit (i % 8)
  let b2t (b : Byte) : Nat := imgNum img pa (bitsOf h 255 224 + 4 * b.toNat) 4
  (if bos then [bitsOf h 159 128] else []) ++
    (cutPieces split text).flatMap fun p => mergePiece (lookupPair img pa) p.length (p.map b2t)

/-- The tokens of a request whose image has changed: not specified, or status 4 (R349; log 7). -/
def freeTokens (ctr n : Nat) : Option (List Nat) :=
  let k := Config.freeWord ctr
  if k.getLsbD 0 then none else some ((List.range (k.toNat / 2 % (n + 2))).map fun i => (Config.freeWord (ctr + 1 + i)).toNat % 2 ^ 32)

/-- TOKENISE_DONE: the oldest request not yet tokenised gets its tokens (R353), or is ended with status 4. -/
def State.tokeniseStep (s : State) (t : Nat) : State :=
  match ((s.text.toks[t]?).map (·.reqs)).bind (·.find? (·.tokens.isNone)) with
  | none => s
  | some r =>
    let toks := if s.imageKept r.vpa r.image then some (tokenise r.image r.vpa r.raw r.bos r.text) else freeTokens s.freeCtr r.text.length
    let s := if s.imageKept r.vpa r.image then s else { s with freeCtr := s.freeCtr + r.text.length + 3 }
    match toks with
    | some l => s.modTok t fun x => { x with reqs := x.reqs.map fun q => if q.slot = r.slot then { q with tokens := some l } else q }
    | none => (s.modTok t fun x => { x with reqs := x.reqs.filter (·.slot != r.slot) }).refuseText r.port r.conn r.reqid 4

/-- TOKENISE_DONE (R353). -/
def execTokeniseDone (t : Nat) (s : State) : Host.Outcome State Fault Refusal := run (modify (·.tokeniseStep t)) s

/-! ## Request queues (R348) -/

/-- HELD_REQUEST_POST: tokenised requests enter their queue while it has room, in tokeniser order and each tokeniser's in
arrival order (R348). -/
def State.postHeld (s : State) (q : Nat) : State :=
  let waiting := (s.text.toks.zipIdx).flatMap fun (x, t) =>
    (x.reqs.filter fun r => r.queue == q && r.tokens.isSome && !r.posted).map fun r => (t, r.slot)
  let go := waiting.take (64 - ((s.text.rq[q]?).getD []).length)
  let s := s.modText fun x => { x with rq := x.rq.modify q (· ++ go.map fun (t, sl) => { tk := t, slot := sl }) }
  s.modText fun x => { x with toks := (x.toks.zipIdx).map fun (y, t) =>
    { y with reqs := y.reqs.map fun r => if go.contains (t, r.slot) then { r with posted := true } else r } }

/-- HELD_REQUEST_POST (R348). -/
def execHeldRequestPost (q : Nat) (s : State) : Host.Outcome State Fault Refusal := run (modify (·.postHeld q)) s

/-- Every record of a queue, and every request held for it, is answered with status 2 (R348). -/
def State.unbindQueue (s : State) (q : Nat) : State :=
  let gone := s.text.toks.flatMap fun x => x.reqs.filter fun r => r.queue == q && !r.popped
  let s := s.modText fun x =>
    { x with toks := x.toks.map fun y => { y with reqs := y.reqs.filter fun r => !(r.queue == q && !r.popped) }, rq := x.rq.set q [] }
  gone.foldl (fun s r => s.refuseText r.port r.conn r.reqid 2) s

/-- A write of RQBINDq (R348): a withdrawn or changed binding answers what it held. -/
def State.bindQueue (s : State) (q : Nat) (v : W64) : State :=
  let old := (s.text.rqbind[q]?).getD 0
  let s := if !v.getLsbD 63 || bitsOf old 35 0 != bitsOf v 35 0 then s.unbindQueue q else s
  s.modText fun x => { x with rqbind := x.rqbind.set q (BitVec.ofNat 64 (bitsOf v 63 63 * 2 ^ 63 + bitsOf v 38 0)) }

/-- RQBIND_WRITE (R348). -/
def execRqbindWrite (q : Nat) (v : W64) (s : State) : Host.Outcome State Fault Refusal := run (modify (·.bindQueue q v)) s

/-- The placement unit clears V of the queues bound to a launch that retires (R348). -/
def State.unbindLaunch (s : State) (lid : Nat) : State :=
  (List.range 16).foldl (fun s q =>
    let r := (s.text.rqbind[q]?).getD 0
    if r.getLsbD 63 && rqLid r == lid then s.bindQueue q (r &&& ~~~(1#64 <<< 63)) else s) s

/-! ## TOKPOP (R356, R358, R359) -/

/-- A request handle (R356). -/
def handleOf (lid tk slot tag : Nat) : W64 := BitVec.ofNat 64 (genOf lid * 2 ^ 40 + asidOf lid * 2 ^ 28 + tag * 2 ^ 16 + tk * 64 + slot)

/-- R358: whether TOKPOP may use a tile and a queue. -/
def popOk (v : Shape) (bind : W64) (lid stage : Nat) : Bool :=
  v.type == 7 && !v.windowed && bind.getLsbD 63 && rqLid bind == lid && bitsOf bind 38 36 == stage

/-- A record popped: its four registers, the open handle, the copy of its tokens. -/
def popRecord (x : TWord) (v : Shape) (rcd : RqRecord) (r : TextReq) (q : Nat) : M Unit := do
  let h ← here
  let s ← get
  let toks := r.tokens.getD []
  let k := min toks.length v.numel
  let opens := ((s.text.toks[rcd.tk]?).map (·.opens)).getD []
  let before := (((s.text.toks[rcd.tk]?).map (·.tags)).getD []).filter (·.1 == r.slot)
  let tag := freshFrom s.freeCtr 4096 ((opens.filter (·.slot == r.slot)).map (·.tag) ++ before.map (·.2))
  let now := s.now
  let p := x.preg.toNat
  writeReg p (handleOf h.ctx.lid rcd.tk r.slot tag) 1
  writeReg (p + 1) r.reqid 1
  writeReg (p + 2) (BitVec.ofNat 64 (r.maxReply * 2 ^ 32 + toks.length % 2 ^ 32)) 1
  writeReg (p + 3) (BitVec.ofNat 64 (2 ^ 63 + (if k < toks.length then 2 ^ 22 else 0) + r.vocab * 2 ^ 16 + (if r.raw then 2 else 0) +
    (if r.bos then 1 else 0))) 1
  modify fun s => { s with freeCtr := s.freeCtr + 1 }
  modify fun s => s.modText fun y =>
    { y with rq := y.rq.modify q (·.drop 1),
             copies := y.copies ++ [{ c := h.c, k := h.k, lid := h.ctx.lid, eng := h.e, secN := h.secN, tile := x.td.toNat, bar := x.bar.toNat,
                                      tokens := toks.take k, tk := rcd.tk, slot := r.slot, issued := now }] }
  modify fun s => s.modTok rcd.tk fun y =>
    { y with reqs := y.reqs.map fun z => if z.slot = r.slot then { z with popped := true } else z,
             tags := (r.slot, tag) :: y.tags.filter (·.1 != r.slot),
             opens := y.opens ++ [{ slot := r.slot, tag := tag, lid := h.ctx.lid, port := r.port, conn := r.conn, reqid := r.reqid, vpa := r.vpa,
                                    image := r.image, left := r.maxReply, seq := 0, hold := [], cut := false, badTok := false,
                                    trunc := decide (k < toks.length) }] }
  advance

/-- TOKPOP at an empty queue: the try form says so, the other stalls (R358). -/
def popEmpty (x : TWord) (try_ : Bool) : M Unit := do
  if try_ then writeReg (x.preg.toNat + 3) 0 1 else stall
  advance

/-- The two forms of TOKPOP. -/
def popText (x : TWord) (try_ : Bool) : M Unit := do
  let on ← guardOn x.guard
  if on then do
    let h ← here
    let v ← tileHere x.td.toNat
    let q := bitsOf x.cmd 3 0
    let s ← get
    if !popOk v ((s.text.rqbind[q]?).getD 0) h.ctx.lid h.ctx.stage then formatTrap
    else do
      liveBar x.bar.toNat
      match (s.text.rq[q]?).getD [] with
      | [] => popEmpty x try_
      | rcd :: _ =>
        match ((s.text.toks[rcd.tk]?).map (·.reqs)).bind (·.find? (·.slot == rcd.slot)) with
        | some r => popRecord x v rcd r q
        | none => stall
  else advance

/-- TOKPOP (R358). -/
def execTokpop (x : TWord) (s : State) : Host.Outcome State Fault Refusal := run (popText x false) s
/-- TOKPOP.t (R358). -/
def execTokpopT (x : TWord) (s : State) : Host.Outcome State Fault Refusal := run (popText x true) s

/-- A token copy performed: the tile written, 4 bytes a token subtracted, the request's place in the tokeniser free (R344, R358). -/
def State.copyTokens (s : State) (y : TokCopy) : State :=
  let s := match s.usedTile y.c y.k y.tile with
    | some v => s.writeTile y.c y.k y.tile ((y.tokens.zipIdx).flatMap fun (t, i) => match v.linear i with | some o => v.put o t | none => [])
    | none => s
  let s := s.arrive { bar := y.bar, n := 4 * y.tokens.length, ref := false, lost := false, lid := y.lid, core := y.c, due := s.now, cmd := 0 } y.k
  (s.modTok y.tk fun x => { x with reqs := x.reqs.filter fun r => !(r.slot == y.slot && r.popped) }).modText fun x =>
    { x with copies := x.copies.filter fun z => decide (z ≠ y) }

/-- TOKPOP_TILE_WRITE: the token copies of a core are performed (R358). -/
def execTokpopTileWrite (c : Nat) (s : State) : Host.Outcome State Fault Refusal :=
  run (modify fun s => (s.text.copies.filter (·.c == c)).foldl State.copyTokens s) s

/-! ## TOKPUSH and TOKEND (R360, R361) -/

/-- A command sent to the detokeniser its handle names (R356). -/
def sendText (h : Here) (i : Instr) (x : TWord) (handle : W64) (tokens : Option (List Nat)) (count : Nat) : M Unit := do
  let s ← get
  addCmd { h.command s i 4 0 x.bar.toNat [handle] noMods with state := .sent }
  modify fun t => t.modTok (bitsOf handle 8 6) fun y => { y with cmds := y.cmds ++ [{ id := s.nextId, handle := handle, tokens := tokens, count := count }] }

/-- TOKPUSH (R360): the tokens are read as it issues; a count of zero sends nothing. -/
def execTokpush (x : TWord) (s : State) : Host.Outcome State Fault Refusal :=
  run (do
    let on ← guardOn x.guard
    if on then do
      let hd ← readReg x.preg.toNat
      let ec ← readReg (x.preg.toNat + 1)
      let h ← here
      let v ← tileHere x.ta.toNat
      let e := bitsOf ec 31 0
      let c := bitsOf ec 63 32
      if v.type ≠ 7 ∨ v.numel < e + c then formatTrap
      else do
        liveBar x.bar.toNat
        let s ← get
        if c = 0 then pure ()
        else do
          imageOk s h.c v (v.linearReads ((List.range c).map (e + ·)))
          sendText h (.tokpush x) x hd (some ((List.range c).map fun i => s.linearElem h.c v (e + i))) c
    else pure ()
    advance) s

/-- TOKEND (R360). -/
def execTokend (x : TWord) (s : State) : Host.Outcome State Fault Refusal :=
  run (do
    let on ← guardOn x.guard
    if on then do
      let hd ← readReg x.preg.toNat
      let h ← here
      liveBar x.bar.toNat
      sendText h (.tokend x) x hd none 0
    else pure ()
    advance) s

/-! ## Detokenising (R354, R355) -/

/-- What must follow the first byte of a well-formed UTF-8 sequence (R354: Table 3-7). -/
def utf8Rest (b : Nat) : Option (List (Nat × Nat)) :=
  let t := (0x80, 0xBF)
  if b ≤ 0x7F then some []
  else if 0xC2 ≤ b ∧ b ≤ 0xDF then some [t]
  else if b = 0xE0 then some [(0xA0, 0xBF), t]
  else if (0xE1 ≤ b ∧ b ≤ 0xEC) ∨ b = 0xEE ∨ b = 0xEF then some [t, t]
  else if b = 0xED then some [(0x80, 0x9F), t]
  else if b = 0xF0 then some [(0x90, 0xBF), t, t]
  else if 0xF1 ≤ b ∧ b ≤ 0xF3 then some [t, t, t]
  else if b = 0xF4 then some [(0x80, 0x8F), t, t]
  else none

/-- Whether bytes are a whole well-formed sequence (2), a proper first part of one (1), or neither (0). -/
def utf8Kind : List Byte → Nat
  | [] => 1
  | b :: l =>
    match utf8Rest b.toNat with
    | none => 0
    | some r =>
      if l.length ≤ r.length && ((l.zip r).all fun (c, lo, hi) => decide (lo ≤ c.toNat) && decide (c.toNat ≤ hi)) then
        (if l.length = r.length then 2 else 1)
      else 0

/-- The loop of R354: the hold buffer after it, and the bytes released. -/
def drainHold : Nat → List Byte → List Byte × List Byte
  | 0, h => (h, [])
  | fuel + 1, h =>
    match h with
    | [] => ([], [])
    | b :: rest =>
      match utf8Kind h with
      | 2 => ([], h)
      | 1 => (h, [])
      | _ => let (k, out) := drainHold fuel rest; (k, b :: out)

/-- A byte passes through the hold buffer (R354). -/
def holdByte (acc : List Byte × List Byte) (b : Byte) : List Byte × List Byte :=
  let (h, out) := acc
  let (k, more) := drainHold 5 (h ++ [b])
  (k, out ++ more)

/-- The string EF BF BD. -/
def replacement : List Byte := [0xEF, 0xBF, 0xBD]

/-- The string of a token; one of NTOK or more is EF BF BD (R354). Of a changed image it is not specified (R349; log 7). -/
def State.tokenString (s : State) (o : OpenHandle) (ctr t : Nat) : List Byte :=
  let h := imgHead o.image o.vpa
  let n := imgTokens o.image o.vpa
  if n ≤ t then replacement
  else if s.imageKept o.vpa o.image then
    Mem.getList o.image (o.vpa + bitsOf h 319 288 + 4 * (n + 1) + imgStart o.image o.vpa h t) (imgStart o.image o.vpa h (t + 1) - imgStart o.image o.vpa h t)
  else (List.range ((Config.freeWord ctr).toNat % 256)).map fun i => (Config.freeWord (ctr + 1 + i)).setWidth 8

/-- A token taken for a handle: its bytes, or discarded once MAXREPLY have been taken (R355). -/
def State.takeToken (s : State) (acc : OpenHandle × List Byte) (t i : Nat) : OpenHandle × List Byte :=
  let (o, out) := acc
  if o.left = 0 then ({ o with cut := true }, out)
  else
    let (h, more) := (s.tokenString o (s.freeCtr + 256 * i) t).foldl holdByte (o.hold, [])
    ({ o with left := o.left - 1, hold := h, badTok := o.badTok || decide (imgTokens o.image o.vpa ≤ t) }, out ++ more)

/-- Bytes in pieces of at most 4096. -/
def framesOf : Nat → List Byte → List (List Byte)
  | 0, _ => []
  | fuel + 1, l => if l = [] then [] else l.take 4096 :: framesOf fuel (l.drop 4096)

/-- One open handle replaced. -/
def State.modOpen (s : State) (d : Nat) (o : OpenHandle) (f : OpenHandle → OpenHandle) : State :=
  s.modTok d fun x => { x with opens := x.opens.map fun z => if z.slot = o.slot ∧ z.tag = o.tag then f z else z }

/-- The frames of released bytes, SEQ rising by one with each (R355). -/
def State.sendFrames (s : State) (d : Nat) (o : OpenHandle) (out : List Byte) : State :=
  let fs := framesOf (out.length + 1) out
  let s := (fs.zipIdx).foldl (fun s (f, i) => s.replyFrame o.port o.conn o.reqid (o.seq + i) 0 false f) s
  s.modOpen d o fun z => { z with seq := z.seq + fs.length }

/-- The status of a reply that ends, given whether its launch has retired: the lowest that applies (R347). -/
def OpenHandle.status (o : OpenHandle) (retired : Bool) : Nat :=
  if o.cut then 5 else if retired then 6 else if o.badTok then 7 else if o.trunc then 8 else 0

/-- A reply ends: the final frame with what the hold buffer releases, the handle closed (R354, R355, R357). -/
def State.closeReply (s : State) (d : Nat) (o : OpenHandle) (retired : Bool) : State :=
  let tail := if o.hold = [] then [] else replacement
  (s.replyFrame o.port o.conn o.reqid o.seq (o.status retired) true tail).modTok d fun x =>
    { x with opens := x.opens.filter fun z => !(z.slot == o.slot && z.tag == o.tag) }

/-- DETOKENISER_TAKE: the oldest command that reached a detokeniser is taken (R355, R360, R361). -/
def State.detokenise (s : State) (d : Nat) : State :=
  match (s.text.toks[d]?).map fun x => (x.cmds, x.opens) with
  | some (t :: rest, opens) =>
    let s := s.modTok d fun x => { x with cmds := rest }
    match s.cmd? t.id with
    | none => s.modDie 0 Die.countLate
    | some x =>
      match opens.find? fun o => handleOf o.lid d o.slot o.tag == t.handle && o.lid == x.lid with
      | none => (s.cmdArrive x 0 true false).complete x
      | some o =>
        match t.tokens with
        | none => ((s.closeReply d o false).cmdArrive x 64 false false).complete x
        | some l =>
          let (o', out) := (l.zipIdx).foldl (fun acc (t, i) => s.takeToken acc t i) (o, [])
          let s := { s with freeCtr := s.freeCtr + 256 * l.length }
          let s := (s.modOpen d o fun _ => o').sendFrames d o' out
          (s.cmdArrive x (4 * t.count) false false).complete x
  | _ => s

/-- DETOKENISER_TAKE (R361). -/
def execDetokeniserTake (d : Nat) (s : State) : Host.Outcome State Fault Refusal := run (modify (·.detokenise d)) s

/-- REPLY_CLOSE: the open handles of launches that have retired are ended with status 6 (R357), which their records tell (R451). -/
def State.closeRetired (s : State) (d : Nat) : State :=
  let ended (lid : Nat) : Bool := match s.launch? lid with | some l => (match l.phase with | .recording _ => true | _ => false) | none => true
  ((((s.text.toks[d]?).map (·.opens)).getD []).filter fun o => ended o.lid).foldl (fun s o =>
    (s.closeReply d o true).modLaunch o.lid fun l => { l with tok6 := l.tok6 || o.status true == 6 }) s

/-- REPLY_CLOSE (R357). -/
def execReplyClose (d : Nat) (s : State) : Host.Outcome State Fault Refusal := run (modify (·.closeRetired d)) s

end Sys2Proof.Machine
end

