-- ==== Sys2Proof/Machine/Image.lean ====
section
/-!
DEFINITION. The saved image (R434 to R441): the ZRB coder, the sections of a context's and a launch's body, the trap record (R411),
the whole image; and reading each of them back with its checks.
-/
namespace Sys2Proof.Machine

/-! ## The ZRB coder (R439) -/

/-- A list cut into pieces of `n` elements, at most `fuel` of them. -/
def chunks {α : Type} (n : Nat) : Nat → List α → List (List α)
  | 0, _ => []
  | _ + 1, [] => []
  | f + 1, x :: l => (x :: l).take n :: chunks n f ((x :: l).drop n)

/-- The first tag that reproduces a block after `prev`: zeros, a copy, eight bytes repeated, the bytes themselves (R439). -/
def zrbTag (prev : Option (List Byte)) (b : List Byte) : Nat :=
  if b.all (· == 0) then 0
  else if prev = some b then 1
  else if b = (List.replicate 8 (b.take 8)).flatten then 2
  else 3

/-- The payload of a tag. -/
def zrbPayload (tag : Nat) (b : List Byte) : List Byte := if tag = 2 then b.take 8 else if tag = 3 then b else []

/-- A run of 64-byte blocks coded: groups of 32, each a tag word and its payloads (R439). -/
def zrbEncode (blocks : List (List Byte)) : List Byte :=
  let tagged := (blocks.zip (none :: blocks.map some)).map fun (b, p) => (zrbTag p b, b)
  (chunks 32 tagged.length tagged).flatMap fun g =>
    leBytes ((g.zipIdx).foldl (fun n ((t, _), j) => n + t * 4 ^ j) 0) 8 ++ g.flatMap fun (t, b) => zrbPayload t b

/-- One block decoded from its tag: the block and the bytes left (R439). -/
def zrbBlock (tag : Nat) (prev : Option (List Byte)) (b : List Byte) : Option (List Byte × List Byte) :=
  match tag with
  | 0 => some (List.replicate 64 0, b)
  | 1 => prev.map (·, b)
  | 2 => if (b.take 8).length = 8 then some ((List.replicate 8 (b.take 8)).flatten, b.drop 8) else none
  | _ => if (b.take 64).length = 64 then some (b.take 64, b.drop 64) else none

/-- `n` blocks of a group, their tags at the low end of `tags`; the blocks come out newest first. -/
def zrbGroup : Nat → Nat → List (List Byte) → List Byte → Option (List (List Byte) × List Byte)
  | 0, _, acc, b => some (acc, b)
  | n + 1, tags, acc, b =>
    match zrbBlock (tags % 4) acc.head? b with
    | some (blk, rest) => zrbGroup n (tags / 4) (blk :: acc) rest
    | none => none

/-- A stream decoded, newest block first: `left` blocks, or as many whole groups as it has where the header gives no count;
refused where it ends early, is too long, or names a block before the first (R439). -/
def zrbDecode : Nat → Option Nat → List (List Byte) → List Byte → Option (List (List Byte))
  | 0, _, _, _ => none
  | f + 1, left, acc, b =>
    match left, b with
    | some 0, [] => some acc
    | some 0, _ :: _ => none
    | none, [] => some acc
    | _, b =>
      let n := match left with | some k => min k 32 | none => 32
      let tags := leNum (b.take 8)
      if (b.take 8).length ≠ 8 ∨ tags / 4 ^ n ≠ 0 then none
      else match zrbGroup n tags acc (b.drop 8) with
        | some (acc, rest) => zrbDecode f (left.map (· - n)) acc rest
        | none => none

/-- The bytes of a stream. -/
def zrbBytes (left : Option Nat) (b : List Byte) : Option (List Byte) := (zrbDecode (b.length + 1) left [] b).map fun l => l.reverse.flatten

/-! ## Sections (R435) -/

/-- Zeros after bytes up to a length. -/
def padTo (n : Nat) (b : List Byte) : List Byte := b ++ List.replicate (n - b.length) 0
/-- Zeros after bytes up to a multiple of 64. -/
def pad64 (b : List Byte) : List Byte := padTo (cdiv b.length 64 * 64) b

/-- A section: its descriptor and its content (R435). -/
def sectionBytes (kind count : Nat) (b : List Byte) : List Byte :=
  leBytes (kind + count % 2 ^ 24 * 2 ^ 8 + b.length * 2 ^ 32) 64 ++ pad64 b

/-- The content and COUNT of the section of a kind at the head of a body, and what follows it; none where its descriptor is wrong. -/
def takeSection (kind : Nat) (b : List Byte) : Option (Nat × List Byte × List Byte) :=
  let d := leNum (b.take 64)
  let len := d / 2 ^ 32 % 2 ^ 64
  let body := (b.drop 64).take (cdiv len 64 * 64)
  if d / 2 ^ 96 = 0 ∧ d % 256 = kind ∧ (b.take 64).length = 64 ∧ body.length = cdiv len 64 * 64 ∧ (body.drop len).all (· == 0) then
    some (d / 2 ^ 8 % 2 ^ 24, body.take len, (b.drop 64).drop (cdiv len 64 * 64))
  else none

/-- The sections of the kinds `k` to `k + n - 1`, in order, with what follows them. -/
def takeSections : Nat → Nat → List Byte → Option (List (Nat × List Byte) × List Byte)
  | 0, _, b => some ([], b)
  | n + 1, k, b =>
    match takeSection k b with
    | none => none
    | some (count, body, rest) => (takeSections n (k + 1) rest).map fun (l, rest) => ((count, body) :: l, rest)

/-- A number of `n` bytes at offset `o`. -/
def numAt (b : List Byte) (o n : Nat) : Nat := leNum ((b.drop o).take n)

/-! ## Kind 1: the engines -/

/-- An engine at its cut: a modifier without its word is not performed (R97, R429); nothing is held or waited for. -/
def EngSt.cut (en : EngSt) : EngSt :=
  let en := match en.modifier, en.sect with
    | some _, some sc => { en with sect := some { sc with widx := sc.widx - 1 }, pc := en.pc - 12 }
    | _, _ => en
  { en with modifier := none, held := false, req := .none, child := none, fence := none, yielded := false, busy := [], ready := 0 }

/-- Two 32-bit values of a list as a dword. -/
def pairAt (l : List (BitVec 32)) (i : Nat) : Nat := ((l[2 * i]?).getD 0).toNat + ((l[2 * i + 1]?).getD 0).toNat * 2 ^ 32

/-- The 256 bytes of an engine's slot (R435). -/
def engineSlot (en : EngSt) : List Byte :=
  let (lp, idx) := match en.loop with
    | some l => (l.word % 2048 + l.len % 64 * 2 ^ 11 + (l.nd - 1) * 2 ^ 17, l.idx)
    | none => (0, [])
  let bit (b : Bool) (i : Nat) : Nat := if b then 2 ^ i else 0
  padTo 256 (([en.pc.toNat + en.pos.toNat * 2 ^ 32, en.rc.toNat,
    en.wdc.toNat + bit en.halted 49 + bit en.dv 50 + bit en.step 51 + bit en.stepped 52 + en.stack.length * 2 ^ 54] ++
    (List.range 3).map (pairAt en.cnt) ++ [lp] ++ (List.range 3).map (pairAt idx) ++ (List.range 4).map (pairAt en.stack) ++
    [en.dwr.toNat % 2 ^ 64, en.dwr.toNat / 2 ^ 64]).flatMap fun v => leBytes v 8)

/-- The section a restored PC lies in, at one of its words: the one the engine was in (log 17). -/
def EngSt.sectAt (k : EngSt) (pc : Nat) : Option Sect :=
  match k.sect with
  | none => none
  | some sc =>
    let o := pc - (sc.hdr + 8)
    if sc.hdr + 8 ≤ pc ∧ o % 12 = 0 ∧ o / 12 < sc.len then some { sc with widx := o / 12 } else none

/-- `n` 32-bit values from dword `i` of a slot. -/
def halves (b : List Byte) (i n : Nat) : List (BitVec 32) := (List.range n).map fun j => BitVec.ofNat 32 (numAt b (8 * i + 4 * j) 4)

/-- The LOOP of a slot; D of the LOOP word comes from `loopD` (R171, R435). -/
def slotLoop (b : List Byte) (loopD : Nat → Nat) : Option LoopSt :=
  let v := numAt b 48 8
  let len := v / 2 ^ 11 % 64
  let nd := v / 2 ^ 17 % 8 + 1
  let cnt := halves b 3 6
  let idx := (halves b 7 6).take nd
  if len = 0 then none
  else some { word := v % 2048, len := len, nd := nd, d := loopD (v % 2048), total := loopTotal cnt nd, idx := idx, body := [], lag := false,
              iter := ((idx.zipIdx).foldl (fun n (x, k) => n + x.toNat * loopTotal cnt k) 0) }

/-- R441: whether an engine's slot is in range. -/
def slotOk (b : List Byte) : Bool :=
  let v := numAt b 16 8
  let w := numAt b 48 8
  let nd := w / 2 ^ 17 % 8 + 1
  v / 2 ^ 53 % 2 == 0 && v / 2 ^ 58 == 0 && decide (v / 2 ^ 54 % 16 ≤ 8) && w / 2 ^ 20 == 0 && (b.drop 128).all (· == 0) &&
    numAt b 124 4 == 0 &&
    (w / 2 ^ 11 % 64 == 0 || (decide (w / 2 ^ 11 % 64 ≤ 32) && decide (nd ≤ 6) && ((halves b 7 nd).zip (halves b 3 nd)).all fun (i, n) => decide (i.toNat < n.toNat)))

/-- The engine a slot restores, over what stayed with the launch (R435, R440). -/
def slotEngine (k : EngSt) (b : List Byte) (loopD : Nat → Nat) : EngSt :=
  let v := numAt b 16 8
  let pc := numAt b 0 4
  let sect := k.sectAt pc
  let gone (o : OpenSec) : Bool := match k.sect, sect with | some sc, none => o.n == sc.n | _, _ => false
  { k with
    pc := BitVec.ofNat 32 pc, pos := BitVec.ofNat 32 (numAt b 4 4), rc := BitVec.ofNat 32 (numAt b 8 4), cnt := halves b 3 6,
    loop := if sect.isSome then slotLoop b loopD else none, stack := (halves b 10 8).take (v / 2 ^ 54 % 16), wdc := BitVec.ofNat 49 v,
    halted := v / 2 ^ 49 % 2 == 1, dv := v / 2 ^ 50 % 2 == 1, step := v / 2 ^ 51 % 2 == 1, stepped := v / 2 ^ 52 % 2 == 1,
    dwr := BitVec.ofNat 96 (numAt b 112 12), sect := sect, chain := if pc = k.pc.toNat then k.chain else 0,
    chained := if pc = k.pc.toNat then k.chained else [],
    secs := k.secs.map fun o => if gone o then { o with finished := true } else o,
    dropped := k.dropped && v / 2 ^ 49 % 2 == 1 }

/-! ## Kinds 2 to 5 -/

/-- Kind 2: the registers of S, A, B and X. -/
def regBytes (x : Ctx) : List Byte := x.sregs.flatMap fun r => r.flatMap fun v => leBytes v.toNat 8

/-- Kind 3: v0 to v31, then e0 to e31. -/
def vectorBytes (x : Ctx) : List Byte := (x.vregs.flatMap fun v => leBytes v.toNat 512) ++ x.cars.flatMap fun v => leBytes v.toNat 64

/-- An operand queue's 2312 bytes (R436). -/
def opQueueBytes (q : List QEntry) : List Byte :=
  padTo 2312 (leBytes q.length 8 ++ q.flatMap fun e => leBytes e.data.toNat 512 ++ leBytes e.car.toNat 64)

/-- The inbound queues in the order of R436: receiver and sender tags. -/
def inqOrder : List (Nat × Nat) := [(0, 1), (0, 3), (0, 4), (1, 0), (1, 3), (1, 4), (3, 0), (3, 1), (3, 4), (4, 0), (4, 1), (4, 3)]

/-- Kind 4 (R436). -/
def stateBytes (x : Ctx) : List Byte :=
  padTo 38080 ((x.opqs.flatMap opQueueBytes) ++
    (inqOrder.flatMap fun (r, t) => let q := (x.inqs[inqIndex r t]?).getD []; padTo 72 (leBytes q.length 8 ++ q.flatMap fun v => leBytes v.toNat 8)) ++
    (x.flags ++ x.scr ++ [BitVec.ofNat 64 x.bind, x.ga]).flatMap (fun v => leBytes v.toNat 8) ++
    leBytes ((if x.cat.direct then 1 else 0) + if x.cat.lost then 2 else 0) 8 ++ leBytes x.cat.sp 8 ++
    [x.cat.keys, x.cat.wraps, x.cat.invs, x.cat.clamps, x.cat.oor].flatMap fun v => leBytes v 4)

/-- R436, R441: whether a kind-4 section is in range. -/
def stateOk (b : List Byte) : Bool :=
  b.length == 38080 && ((List.range 16).all fun q => decide (numAt b (2312 * q) 8 ≤ 4)) &&
    ((List.range 12).all fun q => decide (numAt b (36992 + 72 * q) 8 ≤ 8)) && decide (numAt b 38016 8 < 4096) && numAt b 38016 8 % 8 == 0 &&
    numAt b 38024 8 / 2 ^ 18 == 0 && decide (numAt b 38032 8 < 4) && (b.drop 38068).all (· == 0)

/-- Dwords from an offset. -/
def dwordsAt (b : List Byte) (o n : Nat) : List W64 := (List.range n).map fun i => BitVec.ofNat 64 (numAt b (o + 8 * i) 8)

/-- The context a body's kinds 1 to 4 restore over an empty one of its place. -/
def loadState (x : Ctx) (engs : List EngSt) (regs vecs b : List Byte) : Ctx :=
  let opq (q : Nat) : List QEntry := (List.range (numAt b (2312 * q) 8)).map fun i =>
    { data := BitVec.ofNat 4096 (numAt b (2312 * q + 8 + 576 * i) 512), car := BitVec.ofNat 512 (numAt b (2312 * q + 8 + 576 * i + 512) 64) }
  let inq (j : Nat) : List W64 := dwordsAt b (36992 + 72 * j + 8) (numAt b (36992 + 72 * j) 8)
  let cat := numAt b 38032 8
  { x with
    engs := engs, sregs := (List.range 4).map fun r => dwordsAt regs (384 * r) 48,
    vregs := (List.range 32).map (fun i => BitVec.ofNat 4096 (numAt vecs (512 * i) 512)),
    cars := (List.range 32).map (fun i => BitVec.ofNat 512 (numAt vecs (16384 + 64 * i) 64)),
    opqs := (List.range 16).map opq,
    inqs := (inqOrder.zipIdx).foldl (fun l ((r, t), j) => l.set (inqIndex r t) (inq j)) (List.replicate 25 []),
    flags := dwordsAt b 37856 16, scr := dwordsAt b 37984 4, bind := numAt b 38016 8, ga := BitVec.ofNat 64 (numAt b 38024 8),
    cat := { direct := cat % 2 == 1, sp := numAt b 38040 8, lost := cat / 2 == 1, keys := numAt b 38048 4, wraps := numAt b 38052 4,
             invs := numAt b 38056 4, clamps := numAt b 38060 4, oor := numAt b 38064 4, late := [], held := false } }

/-- Kind 5: a barrier's 16 bytes (R363). -/
def barrierBytes (p : Nat × Barrier) : List Byte := leBytes (p.1 + p.2.expect.toNat * 2 ^ 32 + p.2.word.toNat * 2 ^ 64) 16

/-- R363, R441: a barrier read back. -/
def loadBarrier (v : Nat) : Option (Nat × Barrier) :=
  let e := v / 2 ^ 32 % 2 ^ 32
  let w := v / 2 ^ 64
  let n := w / 2 ^ 32
  if v % 2 ^ 32 < 1024 ∧ 1 ≤ e ∧ 1 ≤ n ∧ n ≤ e ∧ w % 2 ^ 32 / 16 = 1 then
    some (v % 1024, { expect := BitVec.ofNat 32 e, count := BitVec.ofNat 32 n, phase := w % 2 == 1, ovf := w / 8 % 2 == 1,
                      lost := w / 4 % 2 == 1, ref := w / 2 % 2 == 1 })
  else none

/-- The items of `n` bytes a section holds, each read by `f`; none where one is refused or bytes are left. -/
def loadItems {α : Type} (n : Nat) (b : List Byte) (f : List Byte → Option α) : Option (List α) :=
  if b.length % n = 0 then (chunks n b.length b).mapM f else none

/-! ## Kind 6: commands (R437) -/

/-- A command record's fields. -/
structure CmdRec where
  word    : W96
  unit    : Nat
  queue   : Nat
  ranges  : List (Nat × Nat)
  carried : Bool
  parked  : Bool
  regs    : List W64
  next    : Nat
  park    : Nat
  after   : W96
deriving DecidableEq, Repr

/-- Whether a command is parked (R286). -/
def Cmd.parked (x : Cmd) : Bool := match x.state with | .parked _ => true | _ => false

/-- A command as it is saved (R437, R430); `wall` is the time now. -/
def Cmd.record (x : Cmd) (wall : Nat) : CmdRec :=
  { word := (encode x.ins).getD 0, unit := x.unit, queue := if x.unit = 1 then x.queue else 0,
    ranges := if x.parked then [(0, 0)] else x.ranges, carried := x.carried, parked := x.parked, regs := x.regs.take 8, next := x.next,
    park := (x.park + match x.firstFull with | some t => wall - t | none => 0) / microsecond,
    after := match x.ins with | .cpyf f => f.carried | _ => 0 }

/-- The 256 bytes of a record (R437). -/
def CmdRec.bytes (r : CmdRec) : List Byte :=
  padTo 16 (leBytes r.word.toNat 12) ++ leBytes r.unit 1 ++ leBytes r.queue 1 ++ leBytes r.ranges.length 1 ++
    leBytes ((if r.carried then 1 else 0) + if r.parked then 2 else 0) 1 ++ leBytes 0 4 ++ padTo 64 (r.regs.flatMap fun v => leBytes v.toNat 8) ++
    leBytes r.next 8 ++ leBytes r.park 8 ++ padTo 128 (r.ranges.flatMap fun (a, b) => leBytes a 4 ++ leBytes b 4) ++
    padTo 24 (leBytes r.after.toNat 12)

/-- Ranges in ascending order, each with its first row not after its last. -/
def rangesOk : List (Nat × Nat) → Bool
  | [] => true
  | (a, b) :: rest => decide (a ≤ b) && (match rest with | (c, _) :: _ => decide (b < c) | [] => true) && rangesOk rest

/-- A record read back, its ranges checked (R437, R441). -/
def loadRecord (b : List Byte) : Option CmdRec :=
  let n := numAt b 18 1
  let ranges := (List.range n).map fun i => (numAt b (104 + 8 * i) 4, numAt b (108 + 8 * i) 4)
  if b.length = 256 ∧ numAt b 12 4 = 0 ∧ numAt b 16 1 ≤ 4 ∧ numAt b 17 1 ≤ 7 ∧ (numAt b 16 1 = 1 ∨ numAt b 17 1 = 0) ∧ n ≤ 16 ∧
      numAt b 19 1 < 4 ∧ numAt b 20 4 = 0 ∧ rangesOk ranges ∧ ((b.drop (104 + 8 * n)).take (128 - 8 * n)).all (· == 0) ∧ numAt b 244 12 = 0 then
    some { word := BitVec.ofNat 96 (numAt b 0 12), unit := numAt b 16 1, queue := numAt b 17 1, ranges := ranges,
           carried := numAt b 19 1 % 2 == 1, parked := numAt b 19 1 / 2 == 1, regs := dwordsAt b 24 8, next := numAt b 88 8,
           park := numAt b 96 8, after := BitVec.ofNat 96 (numAt b 232 12) }
  else none

/-- The unit and queue a command's word goes to, its barrier, and the column its memory modes come from (R99, R437). -/
def cmdPlace : Instr → Option (Nat × Nat × Nat × Option Nat)
  | .aqrd x => some (0, 0, x.bar.toNat, some 0)
  | .gather x => some (0, 0, x.bar.toNat, some 0)
  | .aqwr x => some (0, 0, x.bar.toNat, some 1)
  | .scatter x => some (0, 0, x.bar.toNat, some 1)
  | .gcompact x => some (0, 0, x.bar.toNat, none)
  | .cpy x => some (1, bitsOf x.cmd 33 31, x.bar.toNat, some 2)
  | .cpyf f => some (1, bitsOf f.word.cmd 33 31, f.word.bar.toNat, some 2)
  | .cpyz x => some (1, bitsOf x.cmd 33 31, x.bar.toNat, some 1)
  | .sort x => some (1, bitsOf x.cmd 33 31, x.bar.toNat, none)
  | .sortk x => some (1, bitsOf x.cmd 33 31, x.bar.toNat, none)
  | .qjoin x => some (1, bitsOf x.cmd 33 31, 1024, none)
  | .bmv x => some (2, 0, x.bar.toNat, none)
  | .bdot x => some (2, 0, x.bar.toNat, none)
  | .join x => some (2, 0, x.bar.toNat, none)
  | .bdump x => some (2, 0, x.bar.toNat, none)
  | .cinit x => some (2, 0, x.bar.toNat, none)
  | .cdrain x => some (2, 0, x.bar.toNat, none)
  | .cdrainL x => some (2, 0, x.bar.toNat, none)
  | .nmax x => some (3, 0, x.bar.toNat, none)
  | .nexps x => some (3, 0, x.bar.toNat, none)
  | .nscale x => some (3, 0, x.bar.toNat, none)
  | .nrow x => some (3, 0, x.bar.toNat, none)
  | .nnorm x => some (3, 0, x.bar.toNat, none)
  | .tokpush x => some (4, 0, x.bar.toNat, none)
  | .tokend x => some (4, 0, x.bar.toNat, none)
  | _ => none

/-- The engine whose words go to a unit. -/
def unitEngine (u : Nat) : Engine := match u with | 0 => .A | 1 => .X | 2 => .B | 3 => .S | _ => .X

/-- The instruction of a record, where its word goes to the record's unit and queue (R437, R441). -/
def CmdRec.instr (r : CmdRec) : Option Instr :=
  match decode (unitEngine r.unit) r.word r.after with
  | .ok i => match cmdPlace i with
    | some (u, q, _, _) => if u = r.unit ∧ q = r.queue then some i else none
    | none => none
  | .bad _ => none

/-! ## Kinds 7 to 10 -/

/-- The regions of 4 KiB of a tile's image (R438). -/
def Shape.regions (v : Shape) : Nat := cdiv v.size.1 4096

/-- Kind 7: a tile's head, object and dirty map, padded to 64 bytes (R435). -/
def tileRecord (t : Nat) (d : Tile) : List Byte :=
  let v := shapeOf d.obj
  let n := v.regions
  pad64 (padTo 16 (leBytes t 1 ++ leBytes v.level 1 ++ leBytes 0 2 ++ leBytes n 4) ++ leBytes d.obj.toNat 96 ++
    leBytes ((d.dirty.filter (decide <| · < n)).eraseDups.foldl (fun m j => m + 2 ^ j) 0) (cdiv n 8))

/-- Tiles read back from a kind-7 section: handle, unsealed object, dirty regions (R441). -/
def loadTiles : Nat → List Byte → Option (List (Nat × Obj × List Nat))
  | _, [] => some []
  | 0, _ => none
  | f + 1, b =>
    let o : Obj := BitVec.ofNat 768 (numAt b 16 96)
    let raw : Obj := o &&& BitVec.ofNat 768 (2 ^ 704 - 1)
    let v := shapeOf raw
    let n := numAt b 4 4
    let size := cdiv (112 + cdiv n 8) 64 * 64
    let map := numAt b 112 (cdiv n 8)
    if numAt b 1 1 = v.level ∧ numAt b 2 2 = 0 ∧ numAt b 8 8 = 0 ∧ o.getLsbD 736 ∧ bitsOf o 767 737 = 0 ∧ tileValid raw ∧ n = v.regions ∧
        (b.take size).length = size ∧ map / 2 ^ n = 0 ∧ ((b.drop (112 + cdiv n 8)).take (size - 112 - cdiv n 8)).all (· == 0) then
      (loadTiles f (b.drop size)).map fun l => (numAt b 0 1, raw, (List.range n).filter (map.testBit ·)) :: l
    else none

/-- The bytes of a region of a tile, zero past its image. -/
def State.regionBytes (s : State) (c : Nat) (v : Shape) (j : Nat) : List Byte :=
  padTo 4096 (s.tileBytes c v (4096 * j) (min 4096 (v.size.1 - 4096 * j)))

/-- Kind 9: a sealed record. -/
def recordBytes (r : Nat × Obj × Nat) : List Byte := padTo 32 (leBytes r.1 1) ++ leBytes r.2.1.toNat 96

/-- A sealed record read back (R441). -/
def loadSealed (b : List Byte) : Option (Nat × Obj × Nat) :=
  let o : Obj := BitVec.ofNat 768 (numAt b 32 96)
  if numAt b 0 1 < 64 ∧ numAt b 1 31 = 0 ∧ recordValid o then some (numAt b 0 1, o, 0) else none

/-! ## A context's body -/

/-- The dirty regions of a tile in order. -/
def Tile.dirtyRegions (d : Tile) : List Nat := (List.range (shapeOf d.obj).regions).filter (d.dirty.contains ·)

/-- The Catalogue records of a context: its entries, then the terms whose spill a stop overtook (R330, R324). -/
def State.catRecords (s : State) (c k : Nat) (x : Ctx) : List Term :=
  (((((s.cores[c]?).map (·.cat)).getD []).filter (·.ctx == k)).map fun e => ({ key := e.key, inv := e.inv, bits := e.value, direct := false } : Term)) ++
    x.cat.late

/-- The commands of a context not completed, in issue order (R435). -/
def State.savedCmds (s : State) (c k : Nat) : List Cmd := s.cmds.filter fun x => x.c == c && x.k == k

/-- A context's body: kinds 1 to 10 (R435). -/
def State.contextBody (s : State) (c k : Nat) (x : Ctx) : List Byte :=
  let cmds := s.savedCmds c k
  let terms := s.catRecords c k x
  let store := x.tiles.flatMap fun (_, d) => d.dirtyRegions.map fun j => s.regionBytes c (shapeOf d.obj) j
  sectionBytes 1 5 (x.engs.flatMap fun en => engineSlot en.cut) ++
    sectionBytes 2 (Config.imageCount 2).toNat (regBytes x) ++ sectionBytes 3 (Config.imageCount 3).toNat (vectorBytes x) ++
    sectionBytes 4 (Config.imageCount 4).toNat (stateBytes x) ++ sectionBytes 5 x.bars.length (x.bars.flatMap barrierBytes) ++
    sectionBytes 6 cmds.length (cmds.flatMap fun y => (y.record s.wall).bytes) ++
    sectionBytes 7 x.tiles.length (x.tiles.flatMap fun (t, d) => tileRecord t d) ++ sectionBytes 8 store.length store.flatten ++
    sectionBytes 9 x.recs.length (x.recs.flatMap recordBytes) ++ sectionBytes 10 terms.length (terms.flatMap termBytes)

/-- A context as an image holds it. -/
structure Saved where
  relx  : Nat
  rely  : Nat
  ctx   : Ctx
  cmds  : List CmdRec
  tiles : List (Nat × Obj × List Nat)
  store : List (List Byte)
  terms : List Term

/-- A context's body read back over the context its place would have anew; `keep` is what stayed with the launch (R440, R441). -/
def loadBody (x : Ctx) (keep : Kept) (loopD : Engine → Nat → Nat) (body : List Byte) : Option Saved :=
  match takeSections 10 1 body with
  | some ([(n1, b1), (_, b2), (_, b3), (_, b4), (n5, b5), (n6, b6), (n7, b7), (n8, b8), (n9, b9), (n10, b10)], []) =>
    match loadItems 16 b5 (fun b => loadBarrier (leNum b)), loadItems 256 b6 loadRecord, loadTiles b7.length b7, loadItems 128 b9 loadSealed,
        loadItems 32 b10 (fun b => some (recordTerm b)) with
    | some bars, some cmds, some tiles, some recs, some terms =>
      let slots := chunks 256 5 b1
      let engs := ((slots.zip Engine.all).map fun (b, e) => slotEngine ((keep.engs[e.tag]?).getD EngSt.zero) b (loopD e))
      let distinct (l : List Nat) : Bool := l.length == l.eraseDups.length
      if n1 = 5 ∧ b1.length = 1280 ∧ slots.all slotOk ∧ b2.length = 1536 ∧ b3.length = 18432 ∧ stateOk b4 ∧ n5 = bars.length ∧
          n6 = cmds.length ∧ n7 = tiles.length ∧ n9 = recs.length ∧ n10 = terms.length ∧ b8.length = 4096 * n8 ∧
          n8 = (tiles.map fun (_, _, d) => d.length).sum ∧ distinct (bars.map (·.1)) ∧ distinct (tiles.map (·.1)) ∧ distinct (recs.map (·.1)) ∧
          cmds.all (·.instr.isSome) then
        some { relx := x.relx, rely := x.rely,
               ctx := { loadState x engs b2 b3 b4 with bars := bars, recs := recs, qints := keep.qints, moved := keep.moved, params := keep.params },
               cmds := cmds, tiles := tiles, store := chunks 4096 n8 b8, terms := terms }
      else none
    | _, _, _, _, _ => none
  | _ => none

/-! ## The trap record (R411) -/

/-- An engine's slot of the trap record. -/
def trapSlot (en : EngSt) (carried : Bool) : Nat :=
  let en := en.cut
  let (hdr, widx) := match en.sect with | some sc => (sc.hdr, sc.widx) | none => (en.pc.toNat, 0)
  let inLoop := match en.sect, en.loop with | some sc, some l => decide (l.word < sc.widx) | _, _ => false
  en.rc.toNat + en.pos.toNat * 2 ^ 32 + hdr % 2 ^ 32 * 2 ^ 64 + widx % 2048 * 2 ^ 96 + (if en.sect.isNone && !en.halted then 2 ^ 108 else 0) +
    (if inLoop then 2 ^ 109 else 0) + (if en.halted then 2 ^ 110 else 0) + (if carried then 2 ^ 111 else 0)

/-- The 128 bytes of a context's trap record, zero where it has none (R411, R434). -/
def trapRecord (x : Ctx) : List Byte :=
  match x.trap with
  | none => List.replicate 128 0
  | some t =>
    ((x.engs.zip Engine.all).flatMap fun (en, e) => leBytes (trapSlot en (t.carried && e == .B)) 16) ++
      leBytes (((if t.multi then 2 ^ 157 else 0) + (if t.assist then 2 ^ 158 else 0) + t.sub % 16 * 2 ^ 159 + t.cause % 32 * 2 ^ 163 +
        t.agent % 2 ^ 20 * 2 ^ 168 + asidOf x.lid * 2 ^ 188 + genOf x.lid * 2 ^ 200 + t.va.toNat * 2 ^ 224 + t.info1.toNat * 2 ^ 288 +
        t.info2.toNat * 2 ^ 320)) 48

/-! ## A launch's body and the whole image (R434) -/

/-- The flex cores of a launch with the stage that declares each, in span index order. -/
def Launch.flexCores (l : Launch) : List (Nat × Nat) :=
  (List.range (l.spanW * l.spanH)).filterMap fun i =>
    ((List.range l.nst).find? fun st => (((l.flexRect st).map Rect.cores).getD []).contains (i % l.spanW, i / l.spanW)).map (i, ·)

/-- A launch's body: kinds 11 to 13 (R435). -/
def Launch.body (l : Launch) : List Byte :=
  let qs := (List.range 16).filter fun q => (l.queueEnt? q).isSome
  let flex := l.flexCores
  sectionBytes 11 qs.length (qs.flatMap fun q => let e := (l.queue q).entries; leBytes e.length 8 ++ e.flatMap fun d => padTo 64 (d.flatMap fun v => leBytes v.toNat 8)) ++
    sectionBytes 12 8 (l.ranges.flatMap fun u => leBytes u.base.toNat 8 ++ leBytes u.rem.toNat 8 ++ leBytes u.kk 8 ++ leBytes u.min.toNat 8) ++
    sectionBytes 13 flex.length (flex.flatMap fun (i, st) => leBytes (l.flexHolds st (i % l.spanW, i / l.spanW)) 1)

/-- The stage queues of a kind-11 section, for the queues named, each with its depth (R441). -/
def loadQueues : List (Nat × Nat) → List Byte → Option (List (Nat × List (List W64)))
  | [], b => if b = [] then some [] else none
  | (q, depth) :: rest, b =>
    let n := numAt b 0 8
    if (b.take (8 + 64 * n)).length = 8 + 64 * n ∧ n ≤ depth then
      (loadQueues rest (b.drop (8 + 64 * n))).map fun l => (q, (List.range n).map fun i => dwordsAt b (8 + 64 * i) 8) :: l
    else none

/-- A range unit read back (R157, R441). -/
def loadUnit (b : List Byte) : Option RangeUnit :=
  let k := numAt b 16 8
  if [1, 2, 4, 8, 16].contains k ∧ numAt b 24 8 ≠ 0 then
    some { base := BitVec.ofNat 64 (numAt b 0 8), rem := BitVec.ofNat 64 (numAt b 8 8), kk := k, min := BitVec.ofNat 64 (numAt b 24 8), reqs := [] }
  else none

/-- A launch's body read back into it (R440, R441). -/
def Launch.loadBody (l : Launch) (body : List Byte) : Option Launch :=
  match takeSections 3 11 body with
  | some ([(n11, b11), (n12, b12), (n13, b13)], rest) =>
    let qs := (List.range 16).filterMap fun q => (l.queueEnt? q).map fun e => (q, 2 ^ e.ldepth)
    let flex := l.flexCores
    match loadQueues qs b11, loadItems 32 b12 loadUnit with
    | some queues, some units =>
      let stages := (flex.zip b13).map fun ((i, st), v) => (i, st, v.toNat)
      if n11 = qs.length ∧ n12 = 8 ∧ units.length = 8 ∧ n13 = flex.length ∧ b13.length = flex.length ∧ rest.all (· == 0) ∧
          stages.all (fun (_, st, v) => v == st || v == st + 1) then
        some { l with squeues := queues.foldl (fun x (q, e) => x.set q { entries := e, reqs := (l.queue q).reqs.filter (·.inbox) }) (List.replicate 16 { entries := [], reqs := [] }),
                      ranges := units, flexStage := stages.map fun (i, _, v) => (i, v) }
      else none
    | _, _ => none
  | _ => none

/-- A launch's contexts with their cores and slots, in span index order. -/
def State.contextsOf (s : State) (lid : Nat) : List (Nat × Nat × Ctx) :=
  let all := (s.cores.zipIdx).flatMap fun (co, c) => (co.slots.zipIdx).filterMap fun (o, k) => match o with
    | some x => if x.lid = lid then some (c, k, x) else none
    | none => none
  sortBy (fun a b : Nat × Nat × Ctx => decide (a.2.2.rely < b.2.2.rely) || (a.2.2.rely == b.2.2.rely && decide (a.2.2.relx ≤ b.2.2.relx))) all

/-- A context block: header, trap record, coded body, padded to 64 bytes (R434). -/
def State.contextBlock (s : State) (c k : Nat) (x : Ctx) : List Byte :=
  let body := s.contextBody c k x
  let zrb := zrbEncode (chunks 64 body.length body)
  pad64 (padTo 128 ([x.relx, x.rely, k, x.stage].flatMap (fun v => leBytes v 1) ++ leBytes (if x.trap.isSome then 1 else 0) 4 ++
    leBytes zrb.length 8 ++ leBytes (body.length / 64) 8) ++ trapRecord x ++ zrb)

/-- The whole image of a launch, and the offset of each context's block (R434). -/
def State.image (s : State) (l : Launch) (cause : Nat) : List Byte × List Nat :=
  let ctxs := s.contextsOf l.lid
  let zrb := zrbEncode (chunks 64 l.body.length l.body)
  let head := pad64 (padTo 256 (leBytes 0x53564E57 4 ++ leBytes 1 2 ++ leBytes ctxs.length 2 ++ leBytes zrb.length 8 ++
    leBytes (launchId l).toNat 8 ++ leBytes cause 1) ++ zrb)
  ctxs.foldl (fun (b, offs) (c, k, x) => (b ++ s.contextBlock c k x, offs ++ [b.length])) (head, [])

/-- The region an image asks for: the uncompressed size of its sections, in 4 KiB units (R433). -/
def State.imageUnits (s : State) (l : Launch) : Nat :=
  cdiv ((s.contextsOf l.lid).foldl (fun n (c, k, x) => n + (s.contextBody c k x).length) l.body.length) 4096

/-! ## An image read back (R440, R441) -/

/-- What stayed with a launch for a place of its span. -/
def Launch.keptAt (l : Launch) (relx rely : Nat) : Option Kept := l.kept.find? fun k => k.relx == relx && k.rely == rely

/-- D of the LOOP word at an index of the section an engine was in: as it stood, or as the text has it. -/
def State.loopD (s : State) (l : Launch) (keep : Kept) (e : Engine) (w : Nat) : Nat :=
  let en := (keep.engs[e.tag]?).getD EngSt.zero
  match en.loop, en.sect with
  | some lp, some sc =>
    if lp.word = w then lp.d
    else bitsOf (BitVec.ofNat 96 (leNum (((s.readDie1 (asidOf l.lid) (BitVec.ofNat 64 (l.textVa + sc.hdr + 8 + 12 * w)) 12).2).getD []))) 73 68
  | none, some sc => bitsOf (BitVec.ofNat 96 (leNum (((s.readDie1 (asidOf l.lid) (BitVec.ofNat 64 (l.textVa + sc.hdr + 8 + 12 * w)) 12).2).getD []))) 73 68
  | _, none => 0

/-- A context block read back, with the offset of the next one. -/
def State.loadBlock (s : State) (l : Launch) (pa : Nat) : Option (Saved × Nat) :=
  let h := s.phys pa 128
  let relx := numAt h 0 1
  let rely := numAt h 1 1
  let len := numAt h 8 8
  let end_ := cdiv (256 + len) 64 * 64
  match l.keptAt relx rely with
  | none => none
  | some keep =>
    if relx < l.spanW ∧ rely < l.spanH ∧ numAt h 2 1 < 4 ∧ numAt h 3 1 < l.nst ∧ numAt h 4 4 < 2 ∧ numAt h 24 104 = 0 ∧ len ≤ 2 ^ 32 ∧ numAt h 16 8 ≤ 2 ^ 32 then
      match zrbBytes (some (numAt h 16 8)) (s.phys (pa + 256) len) with
      | some body =>
        ((loadBody { freshCtx l relx rely with stage := numAt h 3 1 } keep (s.loopD l keep) body).filter fun x => decide (x.ctx.cat.sp ≤ l.spillRoom)).map (·, end_)
      | none => none
    else none

/-- `n` context blocks from an address. -/
def State.loadBlocks (s : State) (l : Launch) : Nat → Nat → Option (List Saved)
  | 0, _ => some []
  | n + 1, pa => match s.loadBlock l pa with
    | some (x, size) => (s.loadBlocks l n (pa + size)).map (x :: ·)
    | none => none

/-- A launch's image read back: the launch with its body, and its contexts; none where it is refused (R441). -/
def State.loadImage (s : State) (l : Launch) (pa : Nat) : Option (Launch × List Saved) :=
  let h := s.phys pa 256
  let len := numAt h 8 8
  if numAt h 0 4 = 0x53564E57 ∧ numAt h 4 2 = 1 ∧ numAt h 16 8 = (launchId l).toNat ∧ numAt h 24 1 < 4 ∧ numAt h 25 231 = 0 ∧ len ≤ 2 ^ 32 then
    match (zrbBytes none (s.phys (pa + 256) len)).bind l.loadBody with
    | none => none
    | some l' =>
      match s.loadBlocks l' (numAt h 6 2) (pa + cdiv (256 + len) 64 * 64) with
      | some xs => if (xs.map fun x => (x.relx, x.rely)).eraseDups.length = xs.length ∧ xs ≠ [] then some (l', xs) else none
      | none => none
  else none

end Sys2Proof.Machine
end

