-- ==== Sys2Proof/Machine/Walks.lean ====
section
/-!
DEFINITION. A's walk commands (R269 to R276): AQRD, AQWR, GATHER, SCATTER, GCOMPACT and PREF. A command works entry by entry: `next` is the
first element of the entry it is at, `part` and `buf` what it has of it.
-/
namespace Sys2Proof.Machine

/-! ## The walk descriptor (R271) -/

/-- A walk descriptor's fields. -/
structure Desc where
  etype : Nat
  strs  : List Int
  exts  : List Nat

/-- The 64 bytes at WOFF of the accepted parameter block. -/
def Launch.descBits (l : Launch) (woff : Nat) : BitVec 512 := BitVec.ofNat 512 (leNum (l.pbBytes woff 64))

/-- The fields of a descriptor. -/
def descOf (d : BitVec 512) : Desc :=
  { etype := bitsOf d 451 448, strs := (List.range 6).map fun i => signedOf 32 (bitsOf d (256 + 32 * i + 31) (256 + 32 * i)),
    exts := (List.range 6).map fun i => bitsOf d (32 * i + 31) (32 * i) }

/-- R271: whether WOFF and the descriptor obey their rules. -/
def descOk (woff : Nat) (d : BitVec 512) : Bool :=
  woff % 8 == 0 && decide (woff + 64 ≤ 4096) && bitsOf d 511 452 == 0 && bitsOf d 255 192 == 0 && decide ((descOf d).etype ≤ 12) &&
    (descOf d).exts.all fun e => decide (1 ≤ e) && decide (e ≤ 2 ^ 24)

/-- The number of walk elements. -/
def Desc.count (d : Desc) : Nat := d.exts.foldl (· * ·) 1

/-- The position of element `f` from a base (R271). -/
def Desc.pos (d : Desc) (base : Int) (f : Nat) : Int :=
  ((digits d.exts f).zip d.strs).foldl (fun p (i, st) => p + (i : Int) * st) base

/-! ## What a command is -/

/-- The word of a walk command that moves elements. -/
def walkWord : Instr → Option TWord
  | .aqrd x => some x
  | .aqwr x => some x
  | .gather x => some x
  | .scatter x => some x
  | _ => none

/-- Where elements come from: 0 a tile, 1 memory, 2 a stage queue. -/
def walkSource : Instr → Nat
  | .aqrd x => bitsOf x.cmd 33 32
  | .gather x => bitsOf x.cmd 33 32
  | _ => 0

/-- Where elements go: 0 a tile, 1 memory, 2 a stage queue, 3 an operand queue, 4 the queue iqA of S. -/
def walkDest : Instr → Nat
  | .aqrd x => if bitsOf x.cmd 31 26 = 48 then 4 else 3
  | .gather _ => 3
  | .aqwr x => bitsOf x.cmd 33 32
  | .scatter x => bitsOf x.cmd 33 32
  | _ => 0

/-- The element type of a command. -/
def walkType (l : Launch) : Instr → Nat
  | .aqrd x => (descOf (l.descBits (bitsOf x.cmd 11 0))).etype
  | .aqwr x => (descOf (l.descBits (bitsOf x.cmd 11 0))).etype
  | .gather x => bitsOf x.cmd 3 0
  | .scatter x => bitsOf x.cmd 3 0
  | _ => 0

/-- A register a command read at issue. -/
def Cmd.reg (x : Cmd) (i : Nat) : W64 := (x.regs[i]?).getD 0

/-- How many elements a command moves; of a stage queue, how many entries (R272 to R274). -/
def Cmd.walkCount (x : Cmd) (l : Launch) : Nat :=
  match x.ins with
  | .aqrd w => let d := descOf (l.descBits (bitsOf w.cmd 11 0)); if bitsOf w.cmd 33 32 = 2 then (d.exts[0]?).getD 0 else d.count
  | .aqwr w => (descOf (l.descBits (bitsOf w.cmd 11 0))).count
  | _ => (x.reg 2).toNat

/-- The elements of one entry: of an operand queue, of a stage queue's 64 bytes; one at a time to memory and to iqA; eight
stage-queue entries to an operand entry (R272, R273). -/
def Cmd.walkEntry (x : Cmd) (l : Launch) : Nat :=
  let w := typeWidth (walkType l x.ins)
  if walkSource x.ins = 2 then 8
  else match walkDest x.ins with
    | 1 => 1
    | 2 => 512 / w
    | 4 => 1
    | _ => 4096 / w

/-- The index an index tile holds at `j0 + j` (R274). -/
def State.walkIndex (s : State) (x : Cmd) (tb j : Nat) : Int :=
  match s.usedTile x.c x.k tb with
  | some v => let b := s.linearElem x.c v ((x.reg 1).toNat + j); if v.type = 6 then signedOf 32 b else (b : Int)
  | none => 0

/-- Where element `f` of a walk lies: a tile's linear index or an address, and for a type of 4 bits which half of its byte
(R271, R274). -/
def State.walkPos (s : State) (x : Cmd) (l : Launch) (f : Nat) : Int × Nat :=
  let tile := walkSource x.ins = 0 && walkDest x.ins != 1
  let indexed (tb : BitVec 8) : Int × Nat :=
    let i := s.walkIndex x tb.toNat f
    if tile then (i, 0)
    else ((x.reg 0).toNat + (i * (typeWidth (walkType l x.ins) : Nat)) / 8, (i % 2).toNat)
  match x.ins with
  | .aqrd w => ((descOf (l.descBits (bitsOf w.cmd 11 0))).pos (x.reg 0).toInt f, f % 2)
  | .aqwr w => ((descOf (l.descBits (bitsOf w.cmd 11 0))).pos (x.reg 0).toInt f, f % 2)
  | .gather w => indexed w.tb
  | .scatter w => indexed w.tb
  | _ => (0, 0)

/-- An element of a tile at a signed linear index; zero outside the tile (R271). -/
def State.elemAtIndex (s : State) (c : Nat) (v : Shape) (p : Int) : Nat := if p < 0 then 0 else s.linearElem c v p.toNat

/-! ## Issue (R269, R270) -/

/-- R272: the conditions on a walk over a BX tile. -/
def bxWalkOk (d : Desc) (base : W64) : Bool :=
  (d.strs[0]?).getD 0 == 1 && (d.exts[0]?).getD 0 % 32 == 0 && base.toInt % 32 == 0 &&
    (List.range 6).all fun i => i == 0 || (d.exts[i]?).getD 0 == 1 || (d.strs[i]?).getD 0 % 32 == 0

/-- R272, R273: whether a descriptor and the tiles of AQRD or AQWR fit; `a`, `d` are the tiles named, `q` the queue at the right stage. -/
def walkOk (i : Instr) (w : Nat) (bits : BitVec 512) (base : W64) (a d : Option Shape) (q : Bool) : Bool :=
  let de := descOf bits
  let fits (v : Option Shape) : Bool := match v with | some v => v.type == de.etype | none => false
  descOk w bits &&
    (match i with
     | .aqrd x =>
       match bitsOf x.cmd 33 32 with
       | 0 => fits a && (!isBX de.etype || bxWalkOk de base)
       | 1 => decide (de.etype ≤ 10)
       | _ => q && (de.exts.drop 1).all (· == 1) && de.strs.all (· == 0)
     | .aqwr x =>
       fits a && (match bitsOf x.cmd 33 32 with
         | 0 => fits d && !(d.map Shape.windowed).getD true
         | 1 => decide (de.etype ≤ 10)
         | _ => q)
     | _ => false)

/-- A's walk unit holds up to four commands of a context; a fifth stalls (R269). -/
def walkRoom : M Unit := do
  let h ← here
  let s ← get
  require (decide ((s.queueOf h.c h.k 0 0).length < 4))

/-- A walk command joins its context's. -/
def addWalkCmd (i : Instr) (x : TWord) (regs : List W64) (mods : Mods) : M Unit := do
  liveBar x.bar.toNat
  let h ← here
  addCmd { h.command (← get) i 0 0 x.bar.toNat regs mods with state := .running }

/-- The issue of AQRD and AQWR (R270 to R273). -/
def walkIssue (i : Instr) (x : TWord) (col : Nat) : M Unit := do
  let on ← guardOn x.guard
  if on then do
    walkRoom
    let base ← readReg x.preg.toNat
    let from_ ← if col = 1 then readReg (x.preg.toNat + 1) else pure 0
    let mods ← modsHere col
    let h ← here
    let l ← launchHere
    let a ← tileIf (walkSource i == 0) x.ta.toNat
    let d ← tileIf (walkDest i == 0) x.td.toNat
    match l with
    | none => formatTrap
    | some l =>
      let q : Bool := match l.queueEnt? (bitsOf x.cmd 25 22) with
        | some e => h.ctx.stage == (if col = 1 then e.prod else e.cons)
        | none => false
      if walkOk i (bitsOf x.cmd 11 0) (l.descBits (bitsOf x.cmd 11 0)) base a d q then addWalkCmd i x [base, from_] mods
      else formatTrap
  else pure ()
  advance

/-- AQRD (R272). -/
def execAqrd (x : TWord) (s : State) : Host.Outcome State Fault Refusal := run (walkIssue (.aqrd x) x 0) s
/-- AQWR (R273). -/
def execAqwr (x : TWord) (s : State) : Host.Outcome State Fault Refusal := run (walkIssue (.aqwr x) x 1) s

/-- The issue of GATHER and SCATTER (R270, R274). -/
def indexIssue (i : Instr) (x : TWord) (col : Nat) : M Unit := do
  let on ← guardOn x.guard
  if on then do
    walkRoom
    let r0 ← readReg x.preg.toNat
    let r1 ← readReg (x.preg.toNat + 1)
    let r2 ← readReg (x.preg.toNat + 2)
    let mods ← modsHere col
    let et := bitsOf x.cmd 3 0
    let a ← tileIf (walkSource i == 0) x.ta.toNat
    let b ← tileHere x.tb.toNat
    let d ← tileIf (walkDest i == 0) x.td.toNat
    let fits (v : Option Shape) : Bool := match v with | some v => v.type == et | none => true
    if (b.type == 6 || b.type == 7) && fits a && fits d && !(d.map Shape.windowed).getD false then addWalkCmd i x [r0, r1, r2] mods
    else formatTrap
  else pure ()
  advance

/-- GATHER (R274). -/
def execGather (x : TWord) (s : State) : Host.Outcome State Fault Refusal := run (indexIssue (.gather x) x 0) s
/-- SCATTER (R274). -/
def execScatter (x : TWord) (s : State) : Host.Outcome State Fault Refusal := run (indexIssue (.scatter x) x 1) s

/-- R275: whether GCOMPACT takes its tiles: source, mask, destination, index list. -/
def compactOk (a b d i : Shape) (same : Bool) : Bool :=
  let ones (v : Shape) : Bool := (List.range 6).all fun j => decide (j < 2) || v.ext j == 1
  decide (a.type ≤ 10) && d.type == a.type && d.ext 0 == a.ext 0 && ones a && ones d && b.type == 3 && decide (a.ext 1 ≤ b.ext 0) &&
    i.type == 7 && decide (a.ext 1 + 1 ≤ i.ext 0) && decide (a.ext 1 ≤ d.ext 1) && !d.windowed && !i.windowed && !same

/-- GCOMPACT (R275). -/
def execGcompact (x : TWord) (s : State) : Host.Outcome State Fault Refusal :=
  run (do
    let on ← guardOn x.guard
    if on then do
      walkRoom
      let a ← tileHere x.ta.toNat
      let b ← tileHere x.tb.toNat
      let d ← tileHere x.td.toNat
      let i ← tileHere (bitsOf x.cmd 7 0)
      if compactOk a b d i (x.td == x.ta || x.td == x.tb) then addWalkCmd (.gcompact x) x [] noMods
      else formatTrap
    else pure ()
    advance) s

/-- PREF (R276): it changes no visible state. -/
def execPref (x : MWord) (s : State) : Host.Outcome State Fault Refusal :=
  run (do
    let on ← guardOn x.guard
    let _ ← source on x.base
    let _ ← source on x.index
    advance) s

/-! ## Entries into a queue (R272, R274) -/

/-- The element of 4 bits or whole bytes that a loaded element is. -/
def elemOfBytes (w nib : Nat) (b : List Byte) : Nat := if w = 4 then leNum b / 16 ^ nib % 16 else leNum b

/-- The elements of an operand entry as a walk over a BX tile makes it, with their exponents (R272, R34). -/
def State.bxEntry (s : State) (x : Cmd) (l : Launch) (v : Shape) (first m : Nat) : QEntry :=
  let w := typeWidth v.type
  let runs := (List.range (m / 32)).map fun j => (s.walkPos x l (first + 32 * j)).1
  let inside (p : Int) : Bool := decide (0 ≤ p) && decide (p.toNat < v.numel)
  let bits (p : Int) (i : Nat) : Nat :=
    if inside p then match blockOffset v p.toNat i with | some o => s.elemAt x.c v o | none => 0 else 0
  let pair (p : Int) : List Nat :=
    if inside p then match v.linear p.toNat with | some o => let e := s.expPair x.c v (o / 32); [e.1, e.2] | none => [0, 0] else [0, 0]
  { data := packElems w (runs.flatMap fun p => (List.range 32).map (bits p)),
    car := BitVec.ofNat 512 (packElems 8 (runs.flatMap pair)).toNat }

/-- The next entry of a command whose elements are at hand: those of a tile, or those collected in `buf`. -/
def State.walkEntryOf (s : State) (x : Cmd) (l : Launch) (m : Nat) : QEntry :=
  let t := walkType l x.ins
  let w := typeWidth t
  match walkSource x.ins, (walkWord x.ins).bind fun w => s.usedTile x.c x.k w.ta.toNat with
  | 0, some v =>
    if isBX v.type && walkDest x.ins != 4 then s.bxEntry x l v x.next m
    else { data := packElems w ((List.range m).map fun i => s.elemAtIndex x.c v (s.walkPos x l (x.next + i)).1), car := 0 }
  | 2, _ => { data := BitVec.ofNat 4096 (leNum x.buf), car := 0 }
  | _, _ =>
    let n := cdiv w 8
    { data := packElems w ((List.range m).map fun i => leNum ((x.buf.drop (n * i)).take n)), car := 0 }

/-- An element as iqA takes it: sign-extended for i types (R272). -/
def iqValue (t v : Nat) : W64 := if t ≤ 6 ∧ t % 2 = 0 then wrapTo 64 (signedOf (typeWidth t) v) else BitVec.ofNat 64 v

/-- The entry at hand is pushed where its queue has room (R95, R213, R272). -/
def State.walkPush (s : State) (x : Cmd) (l : Launch) (m : Nat) : State :=
  let e := s.walkEntryOf x l m
  let done (s : State) : State := s.modCmd x.id fun y => { y with next := x.next + m, part := 0, buf := [] }
  match s.ctx? x.c x.k with
  | none => s
  | some y =>
    if walkDest x.ins = 4 then
      let q := inqIndex 0 1
      if ((y.inqs[q]?).getD []).length + (y.inpush.filter fun p => p.dst == 0 && p.src == 1).length < 8 then
        let v := iqValue (walkType l x.ins) (vElem e.data (typeWidth (walkType l x.ins)) 0)
        done (s.modCtx x.c x.k fun z => { z with inpush := z.inpush ++ [{ dst := 0, src := 1, due := s.now, val := v }] })
      else s
    else
      let q := ((walkWord x.ins).map fun w => bitsOf w.cmd 31 26 - 32).getD 0
      if y.queueRoom q then done (s.modCtx x.c x.k fun z => { z with qpush := z.qpush ++ [{ q := q, tag := Engine.A.tag, due := s.now + 1, entry := e }] })
      else s

/-- One more element of an entry read from memory (R271, R282). -/
def State.walkLoad (s : State) (x : Cmd) (l : Launch) : State :=
  let w := typeWidth (walkType l x.ins)
  let (p, nib) := s.walkPos x l (x.next + x.part)
  match x.inflight with
  | g :: _ =>
    match s.cmdDone x.id g with
    | .pending => s
    | .data b => (s.cmdForget x.id g).modCmd x.id fun y =>
        { y with inflight := [], part := x.part + 1, buf := x.buf ++ leBytes (elemOfBytes w nib b) (cdiv w 8) }
    | .failed cause sub va line =>
      ((s.cmdForget x.id g).modCmd x.id fun y => { y with inflight := [] }).cmdFail x x.agent (.cmd x.id) 0 (x.next / x.walkEntry l) cause sub va line
  | [] =>
    let (s, g) := s.cmdAccess x x.agent .load (BitVec.ofInt 64 p) (cdiv w 8) [] x.mods (x.next / x.walkEntry l) x.part
    match g with
    | some g => s.modCmd x.id fun y => { y with inflight := [g] }
    | none => s

/-- One more stage-queue entry asked for, or counted when its answer has come (R272, R154). -/
def State.walkPop (s : State) (x : Cmd) (l : Launch) : State :=
  let q := ((walkWord x.ins).map fun w => bitsOf w.cmd 25 22).getD 0
  if x.part < x.buf.length / 64 then s.modCmd x.id fun y => { y with part := x.buf.length / 64 }
  else if x.inflight != [] then s
  else
    (s.queueRequest x.lid q { c := x.c, k := x.k, op := 0, try_ := false, data := [], due := s.now + transit x.c (l.servingCore q),
                              held := false, walk := x.id }).modCmd x.id fun y => { y with inflight := [0] }

/-- A turn of AQRD or GATHER: the entry it forms gains an element, or is pushed. -/
def State.feedTurn (s : State) (x : Cmd) (l : Launch) : State :=
  let m := min (x.walkEntry l) (x.walkCount l - x.next)
  match walkSource x.ins with
  | 0 => s.walkPush x l m
  | 1 => if x.part < m then s.walkLoad x l else s.walkPush x l m
  | _ => if x.part < m then s.walkPop x l else s.walkPush x l m

/-! ## Entries out of a tile (R273, R274) -/

/-- Element `f` that AQWR or SCATTER takes from its source tile. -/
def State.walkTaken (s : State) (x : Cmd) (w : TWord) (f : Nat) : Nat :=
  match s.usedTile x.c x.k w.ta.toNat with
  | some v => s.linearElem x.c v ((x.reg 1).toNat + f)
  | none => 0

/-- Whether element `f` falls within the destination tile. -/
def State.walkLands (s : State) (x : Cmd) (l : Launch) (w : TWord) (f : Nat) : Option Nat :=
  match s.usedTile x.c x.k w.td.toNat with
  | some v => let p := (s.walkPos x l f).1; if p < 0 then none else v.linear p.toNat
  | none => none

/-- One element put into the destination tile. -/
def State.walkPut (s : State) (x : Cmd) (l : Launch) (w : TWord) (f : Nat) : State :=
  match s.walkLands x l w f, s.usedTile x.c x.k w.td.toNat with
  | some o, some v => s.writeTile x.c x.k w.td.toNat (v.put o (s.walkTaken x w f))
  | _, _ => s

/-- A turn of a command that writes memory: the byte of a 4-bit element is read first; `part` is 1 then, and 2 while the
store is on its way. -/
def State.walkStore (s : State) (x : Cmd) (l : Launch) (w : TWord) : State :=
  let wd := typeWidth (walkType l x.ins)
  let (p, nib) := s.walkPos x l x.next
  let v := s.walkTaken x w x.next
  let row := x.next
  match x.inflight with
  | g :: _ =>
    match s.cmdDone x.id g with
    | .pending => s
    | .data b => (s.cmdForget x.id g).modCmd x.id fun y =>
        if x.part = 2 then { y with inflight := [], part := 0, buf := [], next := x.next + 1 } else { y with inflight := [], part := 1, buf := b }
    | .failed cause sub va line =>
      ((s.cmdForget x.id g).modCmd x.id fun y => { y with inflight := [] }).cmdFail x x.agent (.cmd x.id) (if x.part = 2 then 1 else 0) row cause sub va line
  | [] =>
    if wd = 4 ∧ x.part = 0 then
      let (s, g) := s.cmdAccess x x.agent .load (BitVec.ofInt 64 p) 1 [] x.mods row 0
      match g with
      | some g => s.modCmd x.id fun y => { y with inflight := [g] }
      | none => s
    else
      let data := if wd = 4 then
          let old := leNum x.buf
          leBytes (if nib = 0 then old / 16 * 16 + v else old % 16 + v * 16) 1
        else leBytes v (wd / 8)
      let (s, g) := s.cmdAccess x x.agent .store (BitVec.ofInt 64 p) data.length data x.mods row 0
      match g with
      | some g => s.modCmd x.id fun y => { y with inflight := [g], part := 2 }
      | none => s

/-- A turn of a command that fills stage-queue entries (R273): the push releases at span scope (R156). -/
def State.walkFill (s : State) (x : Cmd) (l : Launch) (w : TWord) (m : Nat) : State :=
  let q := bitsOf w.cmd 25 22
  let wd := typeWidth (walkType l x.ins)
  if x.part ≠ 0 then
    if x.inflight = [] then s.modCmd x.id fun y => { y with next := x.next + m, part := 0, buf := [] } else s
  else if s.allPerformed x.agent s.nextId && s.allPerformed { code := agentCode x.eng.tag x.k 0 x.c, lid := x.lid } x.id &&
      s.causedApplied (dieOf x.c) (s.scopeDies 1 (dieOf x.c) x.lid) then
    let e := packElems wd ((List.range m).map fun i => s.walkTaken x w (x.next + i))
    let data := (List.range 8).map fun j => BitVec.ofNat 64 (vElem e 64 j)
    (s.queueRequest x.lid q { c := x.c, k := x.k, op := 1, try_ := false, data := data, due := s.now + transit x.c (l.servingCore q),
                              held := false, walk := x.id }).modCmd x.id fun y => { y with inflight := [0], part := m }
  else s

/-- A turn of AQWR or SCATTER; a release waits for what came before it (R394). -/
def State.spillTurn (s : State) (x : Cmd) (l : Launch) (w : TWord) : State :=
  let m := min (x.walkEntry l) (x.walkCount l - x.next)
  if !s.cmdReleased x then s
  else match walkDest x.ins with
    | 0 => ((List.range m).foldl (fun s i => s.walkPut x l w (x.next + i)) s).modCmd x.id fun y => { y with next := x.next + m }
    | 1 => s.walkStore x l w
    | _ => s.walkFill x l w m

/-! ## GCOMPACT (R275) -/

/-- A row of one tile put into a row of another. -/
def State.rowCopy (s : State) (x : Cmd) (w : TWord) (a d : Shape) (r k : Nat) : State :=
  s.writeTile x.c x.k w.td.toNat ((List.range (a.ext 0)).flatMap fun i => match d.offset [i, k, 0, 0, 0, 0] with
    | some o => d.put o (s.elem x.c a [i, r, 0, 0, 0, 0])
    | none => [])

/-- An element of the list of surviving rows. -/
def State.listPut (s : State) (x : Cmd) (t : Nat) (v : Shape) (k z : Nat) : State :=
  match v.linear k with
  | some o => s.writeTile x.c x.k t (v.put o z)
  | none => s

/-- The whole of GCOMPACT (R275). -/
def State.compact (s : State) (x : Cmd) (w : TWord) : State :=
  let t := bitsOf w.cmd 7 0
  match s.usedTile x.c x.k w.ta.toNat, s.usedTile x.c x.k w.tb.toNat, s.usedTile x.c x.k w.td.toNat, s.usedTile x.c x.k t with
  | some a, some b, some d, some v =>
    let (s, k) := (List.range (a.ext 1)).foldl (fun (acc : State × Nat) r =>
      if acc.1.linearElem x.c b r = 0 then acc
      else ((acc.1.rowCopy x w a d r acc.2).listPut x t v acc.2 r, acc.2 + 1)) (s, 0)
    let s := s.listPut x t v k 0xFFFFFFFF
    let zero (r : Nat) : List (Nat × Byte × Byte) := (List.range (d.ext 0)).flatMap fun i => match d.offset [i, r, 0, 0, 0, 0] with
      | some o => d.put o 0
      | none => []
    let s := s.writeTile x.c x.k w.td.toNat ((List.range (d.ext 1 - k)).flatMap fun i => zero (k + i))
    (s.cmdArrive x (cdiv (d.ext 0 * typeWidth d.type * d.ext 1) 8) false false).complete x
  | _, _, _, _ => s

/-! ## The walk unit (R269) -/

/-- The bytes a finished command subtracts (R269, R272 to R274). -/
def State.walkBytes (s : State) (x : Cmd) (l : Launch) (w : TWord) : Nat :=
  let n := x.walkCount l
  let wd := typeWidth (walkType l x.ins)
  match walkDest x.ins with
  | 3 => 512 * cdiv n (x.walkEntry l)
  | 4 => 8 * n
  | 2 => 64 * cdiv n (x.walkEntry l)
  | 1 => cdiv (n * wd) 8
  | _ => cdiv ((List.range n).countP (fun f => (s.walkLands x l w f).isSome) * wd) 8

/-- The first uncorrectable line of the tiles that the next entry of a walk consumes (R424). -/
def State.walkBad (s : State) (x : Cmd) (l : Launch) : Option (Nat × Nat) :=
  let fs := (List.range (min (x.walkEntry l) (x.walkCount l - x.next))).map (x.next + ·)
  let ahead := fs.map fun f => (x.reg 1).toNat + f
  let at_ (t : BitVec 8) (l : List Nat) : Option (Nat × Nat) := (s.usedTile x.c x.k t.toNat).bind fun v => s.badImage x.c v (v.linearReads l)
  let walked (t : BitVec 8) : Option (Nat × Nat) := at_ t ((fs.map fun f => (s.walkPos x l f).1).filterMap fun p => if p < 0 then none else some p.toNat)
  let whole (t : BitVec 8) : Option (Nat × Nat) := (s.usedTile x.c x.k t.toNat).bind fun v => s.badImage x.c v [(0, v.size.1)]
  match x.ins with
  | .aqrd w => if walkSource x.ins = 0 then walked w.ta else none
  | .gather w => (at_ w.tb ahead).or (if walkSource x.ins = 0 then walked w.ta else none)
  | .aqwr w => at_ w.ta ahead
  | .scatter w => (at_ w.tb ahead).or (at_ w.ta ahead)
  | .gcompact w => (whole w.ta).or (whole w.tb)
  | _ => none

/-- A turn of a walk command: what a posted fault held starts again at the first element of its entry (R282); once its context is
being stopped no entry starts (R429). -/
def State.walkTurn (s : State) (x : Cmd) : State :=
  match s.launch? x.lid with
  | none => s
  | some l =>
    if x.state = .held then
      (if walkSource x.ins = 2 then s else s.modCmd x.id fun y => { y with part := 0, buf := [] })
    else if x.part = 0 && x.inflight == [] && s.cmdStops x then s
    else match s.walkBad x l with
    | some (sub, line) => s.cmdCheck x sub (x.next / x.walkEntry l) 0 line
    | none => match x.ins, walkWord x.ins with
      | .gcompact w, _ => s.compact x w
      | _, some w =>
        if x.walkCount l ≤ x.next then (s.cmdArrive x (s.walkBytes x l w) false false).complete x
        else if 3 ≤ walkDest x.ins then s.feedTurn x l
        else s.spillTurn x l w
      | _, none => s

/-- WALK_ENTRY_PUSH: the oldest walk command of each of a core's contexts goes on (R269). -/
def State.walkCommands (s : State) (c : Nat) : State :=
  (List.range 4).foldl (fun s k => match s.queueOf c k 0 0 with
    | x :: _ => s.walkTurn x
    | [] => s) s

/-- WALK_ENTRY_PUSH (R269, R272). -/
def execWalkEntryPush (c : Nat) (s : State) : Host.Outcome State Fault Refusal := run (modify (·.walkCommands c)) s

end Sys2Proof.Machine
end

