-- ==== Sys2Proof/Machine/Restore.lean ====
section
/-!
DEFINITION. Restoring a launch (R440, R330): its contexts on free cores, tiles and their regions, Catalogue records, commands; and
the room this takes.
-/
namespace Sys2Proof.Machine

/-! ## Tiles (R70, R440) -/

/-- Units of a storage read zero again. -/
def zeroUnits (m : List (Nat × Byte)) (base n : Nat) : List (Nat × Byte) := m.filter fun (a, _) => decide (a < base) || decide (base + n ≤ a)

/-- A saved tile allocated, its regions written, the rest zero (R70). -/
def State.restoreTile (s : State) (c k : Nat) (t : Nat × Obj × List Nat) (regions : List (List Byte)) : Option State :=
  let (h, o, dirty) := t
  (s.tileRoom c o).map fun (first, count) =>
    let v := shapeOf (sealObj o first count)
    let s := s.placeTile c k h o first count 0
    let base := first * unitBytes v.level
    let n := count * unitBytes v.level
    let s := if v.level = 0 then s.modCore c fun co => { co with scratch := zeroUnits co.scratch base n }
      else s.modDie (dieOf c) fun d => { d with l1 := zeroUnits d.l1 base n }
    s.writeTile c k h ((dirty.zip regions).flatMap fun (j, b) => putBytes (4096 * j) (b.take (v.size.1 - 4096 * j)))

/-- The saved tiles of a context in their order, the regions in the same order. -/
def State.restoreTiles (s : State) (c k : Nat) : List (Nat × Obj × List Nat) → List (List Byte) → Option State
  | [], _ => some s
  | t :: ts, st => (s.restoreTile c k t (st.take t.2.2.length)).bind fun s => s.restoreTiles c k ts (st.drop t.2.2.length)

/-! ## The Catalogue (R330) -/

/-- A saved record applied as a term of its context, in the context's MODE; one that finds no entry is to be spilled before the unit
runs a command (R320, R324). -/
def State.restoreTerm (s : State) (c k : Nat) (t : Term) : State :=
  match s.cores[c]?, s.ctx? c k with
  | some co, some y =>
    match co.catApply k { t with direct := y.cat.direct } with
    | some co => s.modCore c fun _ => co
    | none => s.modCat c k fun q => { q with late := q.late ++ [t] }
  | _, _ => s

/-! ## Commands (R437, R440) -/

/-- The record a command saved number `j` is restored from, as it stood when it was issued, where that stayed with the launch. -/
def Kept.cmdAt (keep : Kept) (j : Nat) (i : Instr) (unit queue : Nat) : Option Cmd :=
  match keep.cmds[j]? with
  | some y => if y.ins = i ∧ y.unit = unit ∧ (y.carried ∨ y.queue = queue) then some y else none
  | none => none

/-- A command as its record alone gives it: the section its engine was in, the memory modes CTXMEM gives. -/
def freshCmd (l : Launch) (c k : Nat) (x : Ctx) (now : Nat) (i : Instr) (e : Engine) (unit queue bar : Nat) (col : Option Nat) : Cmd :=
  let sealed : Obj := match i with
    | .join w => match x.recs.find? (·.1 == bitsOf w.cmd 5 0) with | some (_, o, _) => o | none => 0
    | _ => 0
  { id := 0, ins := i, eng := e, c := c, k := k, lid := l.lid, secN := (x.eng e).pos - 1, widx := ((x.eng e).sect.map (·.widx)).getD 0,
    unit := unit, queue := queue, bar := bar, regs := [], mods := match col with | some j => modsOf none l.ctxmem j | none => noMods,
    carried := false, issued := now, state := .waiting, next := 0, ranges := [], park := 0, firstFull := none, part := 0, buf := [],
    ga := x.ga, sealed := sealed, after := [], inflight := [] }

/-- The CPYF of a saved carried word, with its number: the last before it that carries the word and has no row left (R288). -/
def recordOwner (recs : List CmdRec) (j : Nat) (r : CmdRec) : Option (CmdRec × Nat) :=
  if r.carried then ((recs.take j).zipIdx.filter fun (q, _) => q.unit == 1 && q.ranges == [] && q.after == r.word).getLast? else none

/-- The commands a saved command waits for: a QJOIN those saved before it in the queues of its mask (R290); a carried word its CPYF. -/
def recordAfter (recs : List CmdRec) (j base : Nat) (r : CmdRec) (i : Instr) : List Nat :=
  match i with
  | .qjoin w => ((recs.take j).zipIdx.filter fun (q, _) => q.unit == 1 && (bitsOf w.cmd 7 0).testBit q.queue).map fun (_, n) => base + n
  | _ => ((recordOwner recs j r).map fun (_, n) => base + n).toList

/-- A saved command restored as number `id` (R437, R440, R430); `part` is 1 for a carried word whose entry checks are still to pass (R288). -/
def restoredCmd (l : Launch) (keep : Kept) (c k : Nat) (x : Ctx) (now wall base : Nat) (recs : List CmdRec) (j : Nat) (r : CmdRec) : Option Cmd :=
  match r.instr with
  | none => none
  | some i =>
    match cmdPlace i with
    | none => none
    | some (u, q, bar, col) =>
      let e := if r.carried then Engine.X else unitEngine u
      let kept := keep.cmdAt j i u q
      let y := kept.getD (freshCmd l c k x now i e u q bar col)
      let resend := r.parked && y.buf != []
      some { y with id := base + j, rank := (kept.map (·.rank)).getD (base + j), c := c, k := k, lid := l.lid, regs := r.regs, carried := r.carried,
                    state := if resend then .parked 0 else .waiting, next := r.next, ranges := if resend then [] else r.ranges,
                    queue := ((recordOwner recs j r).map (·.1.queue)).getD y.queue,
                    park := r.park * microsecond, firstFull := if r.parked then some wall else none,
                    part := if r.carried then ((kept.map (·.part)).getD 1) else 0,
                    buf := if resend || (u == 0 && walkSource i == 2) then y.buf else [], after := recordAfter recs j base r i, inflight := [] }

/-- A command whose trap stopped it re-enters the contraction unit ahead of the others (R288). -/
def Kept.heldCarried (keep : Kept) (j : Nat) : Bool := match keep.cmds[j]? with | some y => y.carried && y.state == .held | none => false

/-- A text command sent anew (R437). -/
def State.resendText (s : State) (x : Cmd) : State :=
  let ec := (x.regs[1]?).getD 0
  let tokens : Option (List Nat) := match x.ins with
    | .tokpush w => (s.usedTile x.c x.k w.ta.toNat).map fun v => (List.range (bitsOf ec 63 32)).map fun i => s.linearElem x.c v (bitsOf ec 31 0 + i)
    | _ => none
  let handle := (x.regs[0]?).getD 0
  (s.modCmd x.id fun y => { y with state := .sent }).modTok (bitsOf handle 8 6) fun y =>
    { y with cmds := y.cmds ++ [{ id := x.id, handle := handle, tokens := tokens, count := (tokens.map (·.length)).getD 0 }] }

/-- The saved commands of a context issued again to their queues and units, in their saved order (R440); a carried word whose entry checks
failed meets them again (R288, R412). -/
def State.restoreCmds (s : State) (l : Launch) (keep : Kept) (c k : Nat) (x : Ctx) (recs : List CmdRec) : State :=
  let base := s.nextId
  let cmds := (recs.zipIdx).filterMap fun (r, j) => restoredCmd l keep c k x s.now s.wall base recs j r
  let s := { s with cmds := s.cmds ++ cmds, nextId := s.nextId + recs.length }
  let first := ((recs.zipIdx).filter fun (_, j) => keep.heldCarried j).map fun (_, j) => base + j
  let again (z : Cmd) : Bool := z.carried && z.part == 1
  let unit2 := (cmds.filter fun z => z.unit == 2 && !again z).map (·.id)
  let s := s.modCore c fun co =>
    { co with unitQ := co.unitQ ++ unit2.filter (first.contains ·) ++ unit2.filter (!first.contains ·),
              rowQ := co.rowQ ++ (cmds.filter (·.unit == 3)).map (·.id) }
  let s := (cmds.filter again).foldl (fun s z =>
    s.carriedEnter z x (((s.cmds.find? fun y => z.after.contains y.id).map (·.issued)).getD s.now) true) s
  (cmds.filter (·.unit == 4)).foldl State.resendText s

/-! ## A context, and the launch -/

/-- Whether a core's tables have room for a saved context's names (R440, R62, R209, R362), and its contraction unit and row engine for the
context's commands (R293, R335). -/
def Core.tablesFit (co : Core) (x : Saved) : Bool :=
  decide (co.liveTiles.length + x.tiles.length ≤ 256) && decide (co.liveBars + x.ctx.bars.length ≤ 1024) &&
    decide (co.slots.foldl (fun n y => n + ((y.map (·.recs)).getD []).length) 0 + x.ctx.recs.length ≤ 64) &&
    decide (co.unitQ.length + x.cmds.countP (·.unit == 2) ≤ 4) && decide (co.rowQ.length + x.cmds.countP (·.unit == 3) ≤ 4)

/-- The core a place of a span lies on. -/
def placeCore (ox oy relx rely : Nat) : Nat := ox + relx + 32 * (oy + rely)

/-- A saved context on its core of a new span, where the core has room for it (R440). -/
def State.restoreContext (s : State) (l : Launch) (ox oy : Nat) (x : Saved) : Option State :=
  let c := placeCore ox oy x.relx x.rely
  match s.cores[c]? with
  | none => none
  | some co =>
    match co.slots.findIdx? (·.isNone) with
    | none => none
    | some k =>
      if !co.tablesFit x then none
      else
        let s := s.modCore c fun co => { co with slots := co.slots.set k (some x.ctx) }
        (s.restoreTiles c k x.tiles x.store).map fun s =>
          let s := x.terms.foldl (fun s t => s.restoreTerm c k t) s
          match l.keptAt x.relx x.rely with
          | some keep => s.restoreCmds l keep c k x.ctx x.cmds
          | none => s

/-- Every saved context of a launch restored; none where a core has no room. -/
def State.restoreContexts (s : State) (l : Launch) (ox oy : Nat) : List Saved → Option State
  | [] => some s
  | x :: xs => (s.restoreContext l ox oy x).bind fun s => s.restoreContexts l ox oy xs

/-- A launch's region of the save pool freed (R433). -/
def State.freeImage (s : State) (lid : Nat) : State :=
  { s with place := { s.place with saveAlloc := s.place.saveAlloc.filter (·.1 != lid) } }

/-- RESTORE: a placed launch's image is loaded onto its span, or refused, which ends it; it waits for room another launch took
since it was placed (R440, R441). -/
def State.restoreStep (s : State) (lid : Nat) : State :=
  match s.launch? lid with
  | none => s
  | some l =>
    match l.phase, l.image, l.ending with
    | .placed ox oy _, some pa, none =>
      if !l.saved then s
      else match s.loadImage l pa with
        | none => s.modLaunch lid fun l => { l with ending := some 3 }
        | some (l', xs) =>
          match s.restoreContexts { l' with kept := l.kept } ox oy xs with
          | none => s
          | some t => (t.modLaunch lid fun _ => { l' with image := none, imageSize := 0, saved := false, toCreate := [], kept := [] }).freeImage lid
    | _, _, _ => s

/-- RESTORE (R440). -/
def execRestore (lid : Nat) (s : State) : Host.Outcome State Fault Refusal := run (modify (·.restoreStep lid)) s

end Sys2Proof.Machine
end

