-- ==== Sys2Proof/Machine/Placement.lean ====
section
/-!
DEFINITION. The placement unit (R138 to R144, R128): candidates, the choice of a place, patience, victims and reservations, and the
contexts of a new launch.
-/
namespace Sys2Proof.Machine

/-! ## Cores and rectangles (R140) -/

/-- Priority of a launch (R120). -/
def Launch.prio (l : Launch) : Nat := bitsOf l.record 383 381

/-- The cores of a launch's rectangle at an origin. -/
def Launch.spanCores (l : Launch) (ox oy : Nat) : List Nat :=
  (List.range (l.spanW * l.spanH)).map fun i => ox + i % l.spanW + 32 * (oy + i / l.spanW)

/-- The launches a core holds a context of, or is to hold one of, from the cycle of placement on (R142). -/
def State.residents (s : State) (c : Nat) : List Nat :=
  ((((s.cores[c]?).map (·.slots)).getD []).filterMap fun o => o.map (·.lid)) ++
    (s.place.launches.filter fun l => l.toCreate.contains c).map (·.lid)

/-- Whether a reservation keeps a launch off a rectangle: one for another launch of equal or higher priority (R140, R144). The rectangle
victims are cleared from is kept for the launch that waits for it, from those of lower priority and those of its own that clear none (R143). -/
def State.reserved (s : State) (l : Launch) (cores : List Nat) : Bool :=
  s.place.resv.any (fun (lid, ox, oy) => lid != l.lid && match s.launch? lid with
    | some r => decide (l.prio ≤ r.prio) && (r.spanCores ox oy).any (cores.contains ·)
    | none => false) ||
  s.place.launches.any fun r => r.lid != l.lid && r.phase == .queued && r.ending.isNone && match r.target with
    | some (ox, oy) => (decide (l.prio < r.prio) || (l.prio == r.prio && l.target.isNone)) && (r.spanCores ox oy).any (cores.contains ·)
    | none => false

/-- Whether a rectangle is free for a launch (R140), a pre-empted one's cores having room for what it saved (R440). -/
def State.rectFree (s : State) (l : Launch) (o : Nat × Nat) : Bool :=
  let cores := l.spanCores o.1 o.2
  (cores.all fun c => decide ((s.residents c).length < 4)) && !s.reserved l cores &&
    match l.image with
    | none => true
    | some pa => match s.loadImage l pa with
      | some (l', xs) => (s.restoreContexts { l' with kept := l.kept } o.1 o.2 xs).isSome
      | none => true

/-- The Morton index of an origin (R141). -/
def morton (o : Nat × Nat) : Nat := (List.range 5).foldl (fun n i => n + o.1 / 2 ^ i % 2 * 4 ^ i + o.2 / 2 ^ i % 2 * (2 * 4 ^ i)) 0

/-- The candidate origins of a launch (R141). -/
def Launch.candidates (l : Launch) : List (Nat × Nat) :=
  if l.record.getLsbD 365 then
    (List.range (32 / l.spanH)).flatMap fun j => (List.range (32 / l.spanW)).map fun i => (i * l.spanW, j * l.spanH)
  else [(bitsOf l.record 370 366, bitsOf l.record 375 371)]

/-- The least element by a key; the first of several. -/
def leastBy {α : Type} (key : α → Nat) : List α → Option α
  | [] => none
  | x :: xs => match leastBy key xs with
    | some y => if key y < key x then some y else some x
    | none => some x

/-- The place of a launch now: of its free candidates the one whose busiest core holds the fewest contexts, then the lowest Morton
index (R141); one whose victims were pre-empted goes to the rectangle they left (R143). -/
def State.choosePlace (s : State) (l : Launch) : Option (Nat × Nat) :=
  let busiest (o : Nat × Nat) : Nat := (l.spanCores o.1 o.2).foldl (fun m c => max m (s.residents c).length) 0
  match l.target with
  | some o => if s.rectFree l o then some o else none
  | none => leastBy (fun o => busiest o * 4096 + morton o) (l.candidates.filter (s.rectFree l ·))

/-! ## The order of placement (R142) -/

/-- Whether a launch may be placed in this cycle. -/
def State.mayPlace (s : State) (l : Launch) : Bool := l.phase == .queued && decide (l.eligible ≤ s.now) && l.ending.isNone

/-- The launches that wait, in the order they are examined: by level, those for restore first (R142). -/
def State.placeOrder (s : State) : List Launch :=
  (List.range 8).flatMap fun i =>
    let lvl := 7 - i
    (s.place.restoreQ.filterMap fun lid => match s.launch? lid with
      | some l => if l.prio = lvl ∧ l.image.isSome then some l else none
      | none => none) ++ s.place.launches.filter fun l => l.prio == lvl && l.image.isNone

/-- The queued entries of a level that stood before the one placed go behind the others of their level (R142: round-robin); a launch
accepted later stands behind all of them (DESIGN CHOICE: R142 does not place it, log 27). -/
def rotateLevel (l : Launch) (ls : List Launch) : List Launch :=
  let before := (ls.takeWhile fun m => m.lid != l.lid).filter fun m => m.phase == .queued && m.image.isNone && m.prio == l.prio
  ls.filter (fun m => !before.any (·.lid == m.lid)) ++ before

/-- A launch placed at an origin (R142): its reservation ends, its contexts are to be created. -/
def State.placeAt (s : State) (l : Launch) (o : Nat × Nat) : State :=
  let places := match l.image with
    | none => l.spanCores o.1 o.2
    | some _ => l.kept.map fun k => placeCore o.1 o.2 k.relx k.rely
  let ls := if l.image.isNone then rotateLevel l s.place.launches else s.place.launches
  { s with place := { s.place with
      resv := s.place.resv.filter (·.1 != l.lid), restoreQ := s.place.restoreQ.filter (· != l.lid),
      launches := ls.map fun m => if m.lid = l.lid then
        { m with phase := .placed o.1 o.2 s.now, target := none, toCreate := places, createAt := s.now + 32 } else m } }

/-- A parent whose child has been placed waits for restore as any other (R134). -/
def State.freeParents (s : State) : State :=
  { s with place := { s.place with launches := s.place.launches.map fun l => match l.phase with
      | .waitChild ch => match s.launch? ch with
        | some m => if m.phase = .queued ∧ m.image.isNone then l else { l with phase := .queued }
        | none => { l with phase := .queued }
      | _ => l } }

/-- PLACEMENT: the first launch in order that has a free candidate is placed (R142). -/
def State.placement (s : State) : State :=
  let s := s.freeParents
  match (s.placeOrder.filter (s.mayPlace ·)).findSome? fun l => (s.choosePlace l).map (l, ·) with
  | some (l, o) => s.placeAt l o
  | none => s

/-- PLACEMENT (R142). -/
def execPlacement (s : State) : Host.Outcome State Fault Refusal := run (modify State.placement) s

/-- CONTEXT_CREATION: 32 cycles after placement a new launch's context is created on a core of its span (R128, R142). -/
def State.createContext (s : State) (c lid : Nat) : State :=
  match s.launch? lid, (s.cores[c]?).bind fun co => co.slots.findIdx? (·.isNone) with
  | some l, some k =>
    match l.phase with
    | .placed ox oy _ =>
      if l.image.isSome || decide (s.now < l.createAt) || !l.toCreate.contains c then s
      else
        let x := freshCtx l (xOf c - ox) (yOf c - oy)
        (s.modCore c fun co => { co with slots := co.slots.set k (some x) }).modLaunch lid fun l =>
          { l with toCreate := l.toCreate.filter (· != c), startCyc := s.now }
    | _ => s
  | _, _ => s

/-- CONTEXT_CREATION (R128). -/
def execContextCreation (c lid : Nat) (s : State) : Host.Outcome State Fault Refusal := run (modify (·.createContext c lid)) s

/-! ## Patience (R143, R144) -/

/-- Placement patience in wall-clock units (R120). -/
def Launch.patience (l : Launch) : Nat := let p := bitsOf l.record 415 400; (if p = 0 then 200 else p) * microsecond

/-- When a launch was placed. -/
def Launch.placedAt (l : Launch) : Nat := match l.phase with | .placed _ _ t => t | _ => 0

/-- The launch of a core without a free slot that is cleared from it: the lowest priority, then the most recently placed (R143). -/
def State.victimOf (s : State) (c : Nat) : Option Launch :=
  let ls := (s.residents c).filterMap s.launch?
  if ls.length < 4 then none else leastBy (fun l => l.prio * 2 ^ 64 + (2 ^ 64 - 1 - l.placedAt)) ls

/-- The victims of a candidate (R143). -/
def State.victims (s : State) (l : Launch) (o : Nat × Nat) : List Launch := (l.spanCores o.1 o.2).filterMap s.victimOf

/-- Whether a launch to be cleared from a rectangle still holds its span. -/
def State.clearing (s : State) (l : Launch) (o : Nat × Nat) : Bool :=
  (s.victims l o).any fun v => v.pre.isSome || v.ending.isSome

/-- A reservation for a launch: at its candidate of lowest Morton index, unless another overlaps it (R144). -/
def State.reserve (s : State) (l : Launch) : State :=
  match leastBy morton l.candidates with
  | none => s
  | some o =>
    let mine := l.spanCores o.1 o.2
    let overlaps := s.place.resv.any fun (lid, ox, oy) => match s.launch? lid with
      | some r => (r.spanCores ox oy).any (mine.contains ·)
      | none => false
    if overlaps then s else { s with place := { s.place with resv := s.place.resv ++ [(l.lid, o.1, o.2)] } }

/-- PATIENCE_EXPIRY: victims of lower priority are pre-empted for a launch whose patience has ended, or a rectangle is reserved
(R143, R144). -/
def State.patienceEnd (s : State) (lid : Nat) : State :=
  match s.launch? lid with
  | none => s
  | some l =>
    if l.phase ≠ .queued ∨ s.wall < l.since + l.patience ∨ l.ending.isSome ∨ s.place.resv.any (·.1 == lid) then s
    else if (match l.target with | some o => s.clearing l o || s.rectFree l o | none => false) then s
    else
      let good := l.candidates.filter fun o => (s.victims l o).all fun v => decide (v.prio < l.prio)
      let worst (o : Nat × Nat) : Nat := (s.victims l o).foldl (fun m v => max m (v.prio + 1)) 0
      match leastBy (fun o => worst o * 4096 + morton o) good with
      | some o =>
        let s := (s.victims l o).foldl (fun s v => s.askPreempt v.lid 0) s
        s.modLaunch lid fun l => { l with target := some o }
      | none => (s.modLaunch lid fun l => { l with target := none }).reserve l

/-- PATIENCE_EXPIRY (R143). -/
def execPatienceExpiry (lid : Nat) (s : State) : Host.Outcome State Fault Refusal := run (modify (·.patienceEnd lid)) s

end Sys2Proof.Machine
end

