-- ==== Sys2Proof/Machine/Preempt.lean ====
section
/-!
DEFINITION. Leaving a span (R410, R429 to R433, R442): the reservation in the save pool, stopping every context at its cut, the image
written, the contexts gone; a launch stopped, queued for restore, or waiting for its child's entry (R134); PREQ.
-/
namespace Sys2Proof.Machine

/-! ## The save pool (R432, R433) -/

/-- A free region of the save pool of `n` units of 4 KiB: the lowest. -/
def State.poolSpace (s : State) (n : Nat) : Option Nat :=
  let base := bitsOf s.ctl.savePool 39 16 * 16
  (lowestRun (s.place.saveAlloc.map fun (_, pa, size) => (pa / 4096 - base, cdiv size 4096)) n (bitsOf s.ctl.savePool 63 44 * 16)).map fun i =>
    (base + i) * 4096

/-- A launch's region is `n` units at `pa`. -/
def State.takeRegion (s : State) (lid pa n : Nat) : State :=
  let s := s.freeImage lid
  { s.modLaunch lid (fun l => { l with image := some pa, imageSize := 4096 * n }) with
    place := { (s.modLaunch lid (fun l => { l with image := some pa, imageSize := 4096 * n })).place with
               saveAlloc := s.place.saveAlloc ++ [(lid, pa, 4096 * n)] } }

/-- SAVE_POOL_RESERVE: a launch asked to leave its span gets its region, of the size its sections had when it was asked; without space a
stop ends it, any other cause waits (R433). -/
def State.saveReserve (s : State) (lid : Nat) : State :=
  match s.launch? lid with
  | none => s
  | some l =>
    match l.phase, l.pre, l.image, l.ending with
    | .placed _ _ _, some cause, none, none =>
      if l.toCreate ≠ [] then s
      else
        let n := if l.imageSize = 0 then s.imageUnits l else l.imageSize / 4096
        match s.poolSpace n with
        | some pa => s.takeRegion lid pa n
        | none => s.modLaunch lid fun l => if cause = 2 then { l with ending := some 2 } else { l with imageSize := 4096 * n }
    | _, _, _, _ => s

/-- SAVE_POOL_RESERVE (R433). -/
def execSavePoolReserve (lid : Nat) (s : State) : Host.Outcome State Fault Refusal := run (modify (·.saveReserve lid)) s

/-! ## Stopping a context (R429) -/

/-- Whether an assist of a context is in progress or waits (R425, R429). -/
def Core.assists (co : Core) (k : Nat) : Bool := (co.assist.active.toList ++ co.assist.waiting).any (·.k == k)

/-- Whether a waiter is of a context: an engine, a fetch, or a command that holds. -/
def State.holdsFor (s : State) (c k : Nat) (w : Waiter) : Bool :=
  match w with
  | .engine d j _ => d == c && j == k
  | .fetch d j _ => d == c && j == k
  | .cmd id => (s.cmd? id).any fun x => x.c == c && x.k == k && x.state == .held
  | .row id _ => (s.cmd? id).any fun x => x.c == c && x.k == k
  | .spill d j => d == c && j == k
  | .package => false

/-- The agents of a context held on posted faults are released without retry; the entries remain, a fault that still waited for
room does not (R410, R429). A walk under way for its engines goes on only for others. -/
def State.releaseHeld (s : State) (c k : Nat) : State :=
  let mine := s.holdsFor c k
  let s := { s with faults := { s.faults with
    entries := s.faults.entries.map fun (f : FaultEntry) => { f with waiters := f.waiters.filter (!mine ·) },
    waiting := (s.faults.waiting.map fun (f : FaultEntry) => { f with waiters := f.waiters.filter (!mine ·) }).filter fun (f : FaultEntry) => f.stop || f.waiters != [],
    raised := s.faults.raised.map fun (f : FaultEntry) => { f with waiters := f.waiters.filter (!mine ·) } } }
  let engine (w : Waiter) : Bool := match w with | .cmd _ => false | .row _ _ => false | w => mine w
  let cut (w : Walk) : Walk := { w with waiters := w.waiters.filter (!engine ·) }
  let s := s.modDie (dieOf c) fun d =>
    { d with walks := d.walks.filterMap (fun (w : Walk) => if w.waiters.any engine ∧ (cut w).waiters = [] then none else some (cut w)),
             missq := d.missq.filter fun (w : Walk) => !w.waiters.any engine,
             zeroing := d.zeroing.map fun (z : Zeroing) => { z with walk := cut z.walk } }
  let s := s.modDie (dieOf c) Die.refill
  (s.modCore c fun co => { co with misses := co.misses.filter fun (m : Nat × Nat × Engine × Nat) => m.2.2.2 != k }).modCtx c k fun x =>
    { x with engs := x.engs.map fun (en : EngSt) => { en with held := false }, cat := { x.cat with held := false } }

/-- A context is stopped once no assist of it is left: no engine issues, the word that waits for a queue is abandoned (R429). -/
def State.stopContext (s : State) (c k : Nat) : State :=
  match s.cores[c]? with
  | none => s
  | some co =>
    if co.assists k then s
    else ((s.modCtx c k fun x => { x.settleLoops s.now with stopping := true }).releaseHeld c k).dropQueueWait c k

/-- PREEMPTION: the contexts of a launch whose region is reserved stop (R429). -/
def State.preempt (s : State) (lid : Nat) : State :=
  match s.launch? lid with
  | none => s
  | some l =>
    match l.phase, l.image, l.saved, l.ending with
    | .placed _ _ _, some _, false, none => (s.contextsOf lid).foldl (fun s (c, k, _) => s.stopContext c k) s
    | _, _, _, _ => s

/-- PREEMPTION (R429). -/
def execPreemption (lid : Nat) (s : State) : Host.Outcome State Fault Refusal := run (modify (·.preempt lid)) s

/-- The assists of a context raised in the cycle of its stop trap are dropped (R409). -/
def State.dropAssists (s : State) (c k : Nat) : State :=
  match s.cores[c]? with
  | none => s
  | some co =>
    let gone := co.assist.waiting.filter fun a => a.k == k && a.raised == s.now
    let s := s.modCore c fun co => { co with assist := { co.assist with waiting := co.assist.waiting.filter (!gone.contains ·) } }
    gone.foldl (fun s a => s.letGo c a .held false) s

/-- The posted faults of a context raised in the cycle of its stop trap are dropped (R409). -/
def State.dropPosted (s : State) (c k : Nat) : State :=
  let mine (w : Waiter) : Bool :=
    match w with
    | .engine d j _ => d == c && j == k
    | .fetch d j _ => d == c && j == k
    | .cmd id => (s.cmd? id).any fun x => x.c == c && x.k == k
    | .row id _ => (s.cmd? id).any fun x => x.c == c && x.k == k
    | .spill d j => d == c && j == k
    | .package => false
  let gone := s.faults.raised.filter fun f => !f.stop && f.waiters.any mine
  let s := { s with faults := { s.faults with raised := s.faults.raised.filter fun f => f.stop || !f.waiters.any mine } }
  (gone.flatMap (·.waiters)).foldl State.releaseWaiter s

/-- The class of a launch's last stop trap (R451). -/
def lastTrap (blocks : List ((Nat × Nat × Ctx) × Nat)) : Option Nat :=
  (blocks.foldl (fun (b : Option Trap) ((_, _, x), _) => match x.trap, b with
    | some t, some u => if u.cycle ≤ t.cycle then some t else some u
    | some t, none => some t
    | none, b => b) none).map (·.cause)

/-- LAUNCH_STOP: a launch in which a stop trap stands is to leave its span; one that was asked to before, or in this cycle for a cause that
comes first in R429's list, keeps that cause and stops when it has (R410, R431); LTRAP is the class of the last trap (R451). -/
def State.stopLaunch (s : State) (lid : Nat) : State :=
  let trapped := (s.contextsOf lid).filter fun (_, _, x) => x.trap.isSome
  if trapped.isEmpty then s
  else
    let s := (trapped.filter fun (_, _, x) => x.trap.any (·.cycle == s.now)).foldl (fun s (c, k, _) => (s.dropAssists c k).dropPosted c k) s
    s.modLaunch lid fun l =>
      let l := { l with ltrap := (lastTrap (trapped.map fun x => (x, 0))).getD l.ltrap }
      match l.ending, l.image with
      | none, none => if l.pre.isNone ∨ (l.pre = some 3 ∧ l.preAt = s.now) then { l with pre := some 2, preAt := s.now, hold := false } else l
      | _, _ => l

/-- LAUNCH_STOP (R410). -/
def execLaunchStop (lid : Nat) (s : State) : Host.Outcome State Fault Refusal := run (modify (·.stopLaunch lid)) s

/-! ## When a context can be saved (R429) -/

/-- Whether a stage-queue request of a walk command is held at its queue. -/
def State.walkWaits (s : State) (x : Cmd) : Bool :=
  match s.launch? x.lid with
  | some l => l.squeues.any fun q => q.reqs.any fun r => r.walk == x.id && r.held
  | none => false

/-- Whether a walk command stands between entries: nothing in flight, or only an entry its full queue does not take (R429). -/
def State.walkQuiet (s : State) (x : Cmd) : Bool :=
  if x.inflight == [] then
    x.part == 0 || x.state == .held || (decide (3 ≤ walkDest x.ins) && match s.launch? x.lid with
      | some l => decide (min (x.walkEntry l) (x.walkCount l - x.next) ≤ x.part)
      | none => true)
  else s.walkWaits x

/-- Whether a contraction or Catalogue command is at the point R297 saves it at, or cannot run before one that is (R296, R330). -/
def Core.unitQuiet (co : Core) (cmds : List Cmd) (x : Cmd) : Bool :=
  let runs := co.run.any (·.id == x.id)
  if runs then x.state == .held && (drainWord x.ins).isSome
  else savedWhole x.ins || !co.unitQ.contains x.id ||
    ((co.unitQ.takeWhile (· != x.id)).any fun id => cmds.any fun y => y.id == id && y.k == x.k && savedWhole y.ins)

/-- Whether a command of a stopped context has reached the point of R429's table. -/
def State.cmdQuiet (s : State) (x : Cmd) : Bool :=
  match x.unit with
  | 0 => !((s.queueOf x.c x.k 0 0).head?).any (·.id == x.id) || s.walkQuiet x
  | 1 => s.slotsFor (dieOf x.c) x.id == [] && x.heldRows == [] && x.state != .sent && (x.copy?.isNone || x.state != .running || x.ranges != []) &&
      (match x.ins with | .sortk _ => !s.isHead x | _ => true)
  | 2 => match s.cores[x.c]? with | some co => co.unitQuiet s.cmds x | none => true
  | 3 => x.state != .assist
  | _ => false

/-- Whether a stopped context's engines and units have come to rest. -/
def State.contextQuiet (s : State) (c k : Nat) (x : Ctx) : Bool :=
  x.stopping && ((s.cores[c]?).any fun co => !co.assists k) &&
    (x.engs.all fun en => en.req == .none && !en.loop.any (·.lag) && en.busy.all fun (_, due) => due != never) &&
    x.qpush == [] && x.inpush == [] && x.flagw == [] && x.flagclr == 0 && x.twrites == [] && x.arrivals == [] && x.inits == [] &&
    x.clears == [] && (s.savedCmds c k).all (s.cmdQuiet ·) && !s.text.copies.any (fun y => y.c == c && y.k == k)

/-- Whether every access of a launch has been performed. -/
def State.accessesDone (s : State) (lid : Nat) : Bool := !s.accs.any fun a => a.agent.lid == lid && !a.performed

/-! ## Leaving the span -/

/-- A context gone from its core, its commands with it: nothing of it is left in a queue or unit. -/
def State.evict (s : State) (c k : Nat) : State :=
  let ids := (s.savedCmds c k).map (·.id)
  let keep (l : List Nat) : List Nat := l.filter (!ids.contains ·)
  let d := dieOf c
  let mine (w : Waiter) : Bool := match w with
    | .engine e j _ => e == c && j == k
    | .fetch e j _ => e == c && j == k
    | .cmd id => ids.contains id
    | .row id _ => ids.contains id
    | .spill e j => e == c && j == k
    | .package => false
  let s := { s with cmds := s.cmds.filter fun (x : Cmd) => !ids.contains x.id, accs := s.accs.filter fun (a : Access) => !mine a.who,
                    faults := { s.faults with entries := s.faults.entries.map fun (f : FaultEntry) => { f with waiters := f.waiters.filter (!mine ·) } },
                    links := { s.links with pushAns := s.links.pushAns.filter fun (m : Nat × PeerAnswer) => !ids.contains m.1 } }
  let s := s.modDie d fun y =>
    { y with copies := y.copies.map fun (o : Option CopySlot) => match o with | some t => if ids.contains t.id then none else some t | none => none,
             walks := y.walks.map fun (w : Walk) => { w with waiters := w.waiters.filter (!mine ·) },
             missq := y.missq.filter fun (w : Walk) => !w.waiters.any mine,
             zeroing := y.zeroing.map fun (z : Zeroing) => { z with walk := { z.walk with waiters := z.walk.waiters.filter (!mine ·) } } }
  s.modCore c fun co =>
    { co with cat := co.cat.filter (fun (e : CatEntry) => e.ctx != k), unitQ := keep co.unitQ, unitHeld := keep co.unitHeld, rowQ := keep co.rowQ,
              collQ := keep co.collQ, run := match co.run with | some r => if ids.contains r.id then none else some r | none => none,
              misses := co.misses.filter (fun (m : Nat × Nat × Engine × Nat) => m.2.2.2 != k), slots := (co.vacate k s.now).slots,
              cur := (co.vacate k s.now).cur, left := (co.vacate k s.now).left,
              assist := { co.assist with waiting := co.assist.waiting.filter (fun (a : Assist) => a.k != k),
                                         active := match co.assist.active with | some a => if a.k = k then none else some a | none => none } }

/-- What stays with the launch for a context (log 17). -/
def State.keepOf (s : State) (c k : Nat) (x : Ctx) : Kept :=
  { relx := x.relx, rely := x.rely, moved := x.moved, engs := x.engs.map EngSt.cut, qints := x.qints, cmds := s.savedCmds c k, params := x.params }

/-- The stop-trap entry of a context: VA 0, PSIZE unknown, INFO the PA of its trap record (R410, R414). -/
def stopEntry (lid c cause sub agent info : Nat) : FaultEntry :=
  { bits := faultBits 0 lid 0 sub cause (dieOf c) 3 0 agent 0 info, inService := false, waiters := [], stop := true, lid := lid }

/-- The entries a stop posts: one for each context that trapped; where PREQ stops the launch, one for the lowest block (R410, R442). -/
def stopEntries (lid pa : Nat) (blocks : List ((Nat × Nat × Ctx) × Nat)) (hold : Bool) : List FaultEntry :=
  let traps := blocks.filterMap fun ((c, _, x), o) => x.trap.map fun t => stopEntry lid c t.cause t.sub t.agent (pa + o + 128)
  if traps = [] ∧ hold then
    match blocks with
    | ((c, _, _), o) :: _ => [stopEntry lid c 15 0 0 (pa + o + 128)]
    | [] => []
  else traps

/-- PREQ.GO of a launch cleared (R442). -/
def State.clearPreq (s : State) (lid : Nat) : State :=
  if bitsOf s.ctl.preq 35 12 * 4096 + bitsOf s.ctl.preq 11 0 = lid then
    { s with ctl := { s.ctl with preq := s.ctl.preq &&& ~~~(1#64 <<< 63) } }
  else s

/-- The launch's state once its image is written: stopped, waiting for its child's entry, or queued for restore (R410, R134, R142). -/
def Launch.leftSpan (l : Launch) (now wall : Nat) (stop : Bool) (kept : List Kept) (trap : Option Nat) : Launch :=
  let yields := !stop && l.pre == some 1 && l.child.isSome
  { l with phase := if stop then .stopped else if yields then .yielding else .queued, saved := true, kept := kept, pre := none, hold := false,
           child := if yields then l.child else none, since := wall, eligible := now + 1, target := none,
           preempts := min (l.preempts + 1) (2 ^ 32 - 1), ltrap := trap.getD l.ltrap,
           squeues := l.squeues.map (fun q => { q with reqs := q.reqs.filter (·.inbox) }), answers := [] }

/-- The image of a launch at rest is written; its contexts leave their cores (R429, R410). -/
def State.saveLaunch (s : State) (l : Launch) (pa : Nat) (bytes : List Byte) (offs : List Nat) : State :=
  let ctxs := s.contextsOf l.lid
  let blocks := ctxs.zip offs
  let trap := lastTrap blocks
  let stop := trap.isSome || l.hold
  let kept := ctxs.map fun (c, k, x) => s.keepOf c k x
  let s := s.physWrite pa bytes
  let s := ctxs.foldl (fun s (c, k, _) => s.evict c k) s
  let s := s.modLaunch l.lid (·.leftSpan s.now s.wall stop kept (if l.hold && trap.isNone then some 15 else trap))
  let s := (stopEntries l.lid pa blocks l.hold).foldl State.postFault s
  let yields := !stop && l.pre == some 1 && l.child.isSome
  let s := s.clearPreq l.lid
  { s with place := { s.place with restoreQ := s.place.restoreQ ++ [l.lid],
                                   yieldQ := if yields then s.place.yieldQ ++ [l.lid] else s.place.yieldQ } }

/-- PREEMPTION_COMPLETE: once every context has come to rest and every access has been performed, the image is written; one that has
outgrown its region needs another (R429; DESIGN CHOICE: R433 fixes the size at the request and does not say what becomes of an image that has grown
since, log 27). -/
def State.preemptDone (s : State) (lid : Nat) : State :=
  match s.launch? lid with
  | none => s
  | some l =>
    match l.phase, l.image, l.saved, l.ending with
    | .placed _ _ _, some pa, false, none =>
      let ctxs := s.contextsOf lid
      if ctxs == [] || !(ctxs.all fun (c, k, x) => s.contextQuiet c k x) || !s.accessesDone lid then s
      else
        let (bytes, offs) := s.image l (l.pre.getD 0)
        if bytes.length ≤ l.imageSize then s.saveLaunch l pa bytes offs
        else match (s.freeImage lid).poolSpace (cdiv bytes.length 4096) with
          | some pa => (s.takeRegion lid pa (cdiv bytes.length 4096)).saveLaunch l pa bytes offs
          | none => if l.pre = some 2 then s.modLaunch lid fun l => { l with ending := some 2 } else s
    | _, _, _, _ => s

/-- PREEMPTION_COMPLETE (R429). -/
def execPreemptionComplete (lid : Nat) (s : State) : Host.Outcome State Fault Refusal := run (modify (·.preemptDone lid)) s

/-! ## PREQ (R442) -/

/-- A write to PREQ: ignored while GO is 1; GO asks for a pre-emption of a placed launch. -/
def State.writePreq (s : State) (v : W64) : State :=
  if s.ctl.preq.getLsbD 63 then s
  else
    let reg : W64 := BitVec.ofNat 64 (bitsOf v 63 62 * 2 ^ 62 + bitsOf v 35 0)
    let s := { s with ctl := { s.ctl with preq := reg } }
    let lid := bitsOf v 35 12 * 4096 + bitsOf v 11 0
    if !v.getLsbD 63 then s
    else match s.launch? lid with
      | some l =>
        match l.phase with
        | .placed _ _ _ =>
          let new := l.pre.isNone && l.ending.isNone
          (s.askPreempt lid 3).modLaunch lid fun l => if new then { l with hold := v.getLsbD 62 } else l
        | _ => s.clearPreq lid
      | none => s.clearPreq lid

/-- PREQ_WRITE (R442). -/
def execPreqWrite (v : W64) (s : State) : Host.Outcome State Fault Refusal := run (modify (·.writePreq v)) s

/-! ## The child of a launch that yielded (R134) -/

/-- A context block of an image as it lies: header, trap record, decoded body, and its whole size. -/
def State.rawBlock (s : State) (pa : Nat) : List Byte × List Byte × List Byte × Nat :=
  let h := s.phys pa 128
  let len := numAt h 8 8
  (h, s.phys (pa + 128) 128, (zrbBytes (some (numAt h 16 8)) (s.phys (pa + 256) len)).getD [], cdiv (256 + len) 64 * 64)

/-- `n` raw blocks from an address. -/
def State.rawBlocks (s : State) : Nat → Nat → List (List Byte × List Byte × List Byte)
  | 0, _ => []
  | n + 1, pa => let (h, t, b, size) := s.rawBlock pa; (h, t, b) :: s.rawBlocks n (pa + size)

/-- A block coded again around a body. -/
def codeBlock (h t body : List Byte) : List Byte :=
  let zrb := zrbEncode (chunks 64 body.length body)
  pad64 (h.take 8 ++ leBytes zrb.length 8 ++ leBytes (body.length / 64) 8 ++ h.drop 24 ++ t ++ zrb)

/-- Bytes put over others. -/
def patch (b : List Byte) (o : Nat) (new : List Byte) : List Byte := b.take o ++ new ++ b.drop (o + new.length)

/-- An engine past its word, and the registers a LOOP's next iteration writes (R163, R177). -/
def EngSt.pastWord (en : EngSt) : EngSt × Option LoopSt :=
  match en.sect, en.loop with
  | none, _ => (en, none)
  | some sc, none => (en.goto (sc.widx + 1), none)
  | some sc, some l =>
    if sc.widx + 1 ≤ l.word + l.len then (en.goto (sc.widx + 1), none)
    else if l.iter + 1 < l.total then
      let l' := { l with iter := l.iter + 1, idx := loopIndices en.cnt l.nd (l.iter + 1), lag := false }
      (({ en with loop := some l' } : EngSt).goto (l.word + 1), some l')
    else (({ en with loop := none } : EngSt).goto (l.word + l.len + 1), none)

/-- Where a context body's kind-4 section has its content (R435). -/
def stateAt : Nat := 64 + 1280 + (64 + 1536) + (64 + 18432) + 64

/-- An inbound scalar queue of a body without its oldest entry (R436). -/
def popInq (body : List Byte) (j : Nat) : List Byte :=
  let o := stateAt + 36992 + 72 * j
  let n := numAt body o 8
  if n = 0 then body else patch body o (padTo 72 (leBytes (n - 1) 8 ++ ((body.drop (o + 16)).take (8 * (n - 1)))))

/-- The body of the context that yielded, with the ticket in register D, S past its LAUNCH and LAUNCH's queue operand popped (R134). -/
def ticketBody (body : List Byte) (en : EngSt) (d a : Nat) (ticket : W64) : List Byte :=
  let body := if 49 ≤ a then popInq body (a - 49) else body
  let (en', lp) := en.pastWord
  let regs := dwordsAt body (64 + 1280 + 64) 48
  let regs := if d = 0 then regs else regs.set d ticket
  let regs := match lp with | some l => writeIndices regs l.d l.idx | none => regs
  patch (patch body 64 (engineSlot en')) (64 + 1280 + 64) (regs.flatMap fun v => leBytes v.toNat 8)

/-- The ticket written into a yielded launch's image, LAUNCH marked complete (R134). -/
def State.writeTicket (s : State) (l : Launch) (q : ChildReq) (ticket : W64) : State :=
  match l.image with
  | none => s
  | some pa =>
    let h := s.phys pa 256
    let head := cdiv (256 + numAt h 8 8) 64 * 64
    let blocks := s.rawBlocks (numAt h 6 2) (pa + head)
    let mine (hd : List Byte) : Bool := numAt hd 0 1 + numAt hd 1 1 * l.spanW == q.idx
    let body := blocks.flatMap fun (hd, t, b) =>
      let b := if mine hd then match l.keptAt (numAt hd 0 1) (numAt hd 1 1) with
          | some keep => ticketBody b ((keep.engs[0]?).getD EngSt.zero) q.d q.a ticket
          | none => b
        else b
      codeBlock hd t b
    (s.physWrite (pa + head) body).modLaunch l.lid fun l =>
      { l with kept := l.kept.map fun keep => if keep.relx + keep.rely * l.spanW = q.idx then
          { keep with engs := keep.engs.modify 0 fun en => en.pastWord.1 } else keep }

/-- A yielded launch queued for restore, its child accepted or refused. -/
def State.endYield (s : State) (lid : Nat) (child : Option Nat) : State :=
  let s := { s with place := { s.place with yieldQ := s.place.yieldQ.filter (· != lid) } }
  s.modLaunch lid fun l => { l with child := none, since := s.wall, eligible := s.now + 1,
                                    phase := match child with | some ch => .waitChild ch | none => .queued }

/-- CHILD_ACCEPT_AFTER_YIELD: an entry of a level is free: the child of the first launch that waits for it is read and accepted, or
refused (R134). -/
def State.childAccept (s : State) (lvl : Nat) : State :=
  match s.place.yieldQ.findSome? fun lid => match s.launch? lid with
    | some l => match l.phase, l.child, l.ending with
      | .yielding, some q, none => if q.prio = lvl then some (l, q) else none
      | _, _, _ => none
    | none => none with
  | none => s
  | some (l, q) =>
    if 64 ≤ s.levelCount lvl then s
    else match s.checkLaunch (.work (asidOf l.lid) q.va) (some l) with
      | (s, .refused st asid) => (s.writeTicket l q (ticketOf asid 0 st)).endYield l.lid none
      | (s, .ok r pb sm) =>
        if 64 ≤ s.levelCount (bitsOf r 383 381) then s.modLaunch l.lid fun l => { l with child := some { q with prio := bitsOf r 383 381 } }
        else
          let (s, lid) := s.acceptLaunch r pb sm
          (s.writeTicket l q (ticketOf (asidOf lid) (genOf lid) 0)).endYield l.lid (some lid)

/-- CHILD_ACCEPT_AFTER_YIELD (R134). -/
def execChildAcceptAfterYield (lvl : Nat) (s : State) : Host.Outcome State Fault Refusal := run (modify (·.childAccept lvl)) s

end Sys2Proof.Machine
end

