-- ==== Sys2Proof/Machine/Retire.lean ====
section
/-!
DEFINITION. The end of a launch (R421, R422, R449 to R452): retirement, ending, the completion record and its ring; settling faults
(R412, R416, R417, R420).
-/
namespace Sys2Proof.Machine

/-! ## Leaving the part (R417, R449) -/

/-- The faults of a launch that is over: pending entries go, those in service lose their waiters (R417). -/
def State.dropFaults (s : State) (lid : Nat) : State :=
  { s with faults := { s.faults with
    entries := (s.faults.entries.filter fun f => f.lid != lid || f.inService).map fun f => if f.lid = lid then { f with waiters := [] } else f,
    waiting := s.faults.waiting.filter (·.lid != lid), raised := s.faults.raised.filter (·.lid != lid) } }

/-- A launch no longer in the part. -/
def State.forgetLaunch (s : State) (lid : Nat) : State :=
  { s with place := { s.place with launches := s.place.launches.filter (·.lid != lid) } }

/-- A launch is over with a cause: its bindings, faults, image and places in queues go; its record is to be written unless it has no
ring (R449). -/
def State.finishLaunch (s : State) (lid cause : Nat) : State :=
  let s := (((s.dropFaults lid).unbindLaunch lid).freeImage lid).clearPreq lid
  let s := { s with place := { s.place with resv := s.place.resv.filter (·.1 != lid), restoreQ := s.place.restoreQ.filter (· != lid),
                                            yieldQ := s.place.yieldQ.filter (· != lid) } }
  match s.launch? lid with
  | none => s
  | some l =>
    if bitsOf l.record 319 256 = 0 then s.forgetLaunch lid
    else s.modLaunch lid fun l => { l with phase := .recording cause, ending := none, image := none, toCreate := [], kept := [] }

/-- Whether what the agents of a placed launch follow has been applied at every die: its completion releases at package scope (R129). -/
def State.launchReleased (s : State) (lid : Nat) : Bool := (s.scopeDies 1 0 lid).all fun d => s.causedApplied d (List.range 8)

/-- LAUNCH_RETIRE: every context has ended and every access has been performed (R449); what the launch wrote is then at every die, which
is all that the acquire of an LWAIT or nh.lwait that reports it retired asks for (R129, R135). -/
def State.retire (s : State) (lid : Nat) : State :=
  match s.launch? lid with
  | none => s
  | some l =>
    match l.phase, l.image, l.ending with
    | .placed _ _ _, image, none =>
      if l.toCreate ≠ [] ∨ (image.isSome ∧ l.saved) ∨ s.contextsOf lid ≠ [] ∨ !s.accessesDone lid ∨ !s.launchReleased lid then s else s.finishLaunch lid 0
    | _, _, _ => s

/-- LAUNCH_RETIRE (R449). -/
def execLaunchRetire (lid : Nat) (s : State) : Host.Outcome State Fault Refusal := run (modify (·.retire lid)) s

/-! ## Ending (R421) -/

/-- What a saved context's end discards (R321, R451). -/
def countSaved (l : Launch) (x : Saved) : Launch :=
  { l with entD := min (l.entD + x.terms.length) (2 ^ 32 - 1), spillD := min (l.spillD + x.ctx.cat.sp) (2 ^ 32 - 1),
           lostC := l.lostC || x.ctx.cat.lost }

/-- A launch that holds no span ends with what its image holds discarded. -/
def State.endSaved (s : State) (l : Launch) (cause : Nat) : State :=
  let xs : List Saved := match l.image with
    | some pa => if l.saved then (match s.loadImage l pa with | some (_, xs) => xs | none => []) else []
    | none => []
  (s.modLaunch l.lid fun l => { xs.foldl countSaved l with endCyc := s.now }).finishLaunch l.lid cause

/-- LAUNCH_END: issue stops, held agents are released; when every access has been performed the contexts end (R421). -/
def State.endLaunch (s : State) (lid : Nat) : State :=
  match s.launch? lid with
  | none => s
  | some l =>
    match l.ending, l.phase with
    | some cause, .placed _ _ _ =>
      if l.saved then s.endSaved l cause
      else
        let ctxs := s.contextsOf lid
        let s := ctxs.foldl (fun s (c, k, _) => ((s.modCtx c k fun x => { x with stopping := true }).releaseHeld c k).dropQueueWait c k) s
        if s.accessesDone lid && s.launchReleased lid then
          let s := ctxs.foldl (fun s (c, k, _) => (s.endContext c k).evict c k) s
          (s.modLaunch lid fun l => { l with endCyc := if ctxs = [] then l.endCyc else s.now }).finishLaunch lid cause
        else s
    | some cause, .recording _ => s.modLaunch lid fun l => { l with ending := none, phase := .recording cause }
    | some cause, _ => s.endSaved l cause
    | none, _ => s

/-- LAUNCH_END (R421). -/
def execLaunchEnd (lid : Nat) (s : State) : Host.Outcome State Fault Refusal := run (modify (·.endLaunch lid)) s

/-! ## The completion ring (R450 to R452) -/

/-- The 64 bytes of a launch's completion record (R451); `h` is the number its fetch-and-add took. -/
def completionRecord (l : Launch) (cause h : Nat) : List Byte :=
  leBytes (bitsOf l.record 959 896 + (h + 1) % 2 ^ 64 * 2 ^ 64 + genOf l.lid * 2 ^ 140 + asidOf l.lid * 2 ^ 164 + l.prio * 2 ^ 176 +
    cause * 2 ^ 184 + l.ltrap % 32 * 2 ^ 192 + (if l.entD = 0 ∧ l.spillD = 0 then 0 else 2 ^ 197) + (if l.lostC then 2 ^ 198 else 0) +
    (if l.tok6 then 2 ^ 199 else 0) + l.entD * 2 ^ 224 + l.spillD * 2 ^ 256 + l.startCyc % 2 ^ 64 * 2 ^ 288 + l.endCyc % 2 ^ 64 * 2 ^ 352 +
    l.preempts * 2 ^ 416 + l.refused * 2 ^ 448) 64

/-- A record lost to a fault on its ring (R450, R452): the launch counts as retired. -/
def State.dropRecord (s : State) (lid : Nat) : State :=
  ({ s with ctl := { s.ctl with crdrop := min (s.ctl.crdrop + 1) (2 ^ 32 - 1) } } : State).forgetLaunch lid

/-- Whether bytes the placement unit reads lie in a line that cannot be corrected (R424): a fault on the ring. -/
def State.ringBad (s : State) (ps : List (Nat × Nat × AccHome × Nat)) : Bool := (s.badLine 1 .load ps).isSome

/-- The record of number `h` written, when the ring has room; else TAIL is read again after 1 µs (R450). -/
def State.tryRecord (s : State) (l : Launch) (cause h : Nat) : State :=
  let asid := asidOf l.lid
  let ring : W64 := BitVec.ofNat 64 (bitsOf l.record 319 256)
  let size := 2 ^ bitsOf l.record 380 376
  match s.rangeNow 1 asid (ring + 8) 8 0 with
  | (s, .error _) => s.dropRecord l.lid
  | (s, .ok ps) =>
    let tail := leNum (s.readParts ps)
    if s.ringBad ps then s.dropRecord l.lid
    else if tail + size ≤ h then s.modLaunch l.lid fun l => { l with ringDue := s.wall + microsecond }
    else match s.rangeNow 1 asid (ring + BitVec.ofNat 64 (64 + 64 * (h % size))) 64 1 with
      | (s, .error _) => s.dropRecord l.lid
      | (s, .ok ps) => (s.writeParts ps (completionRecord l cause h)).forgetLaunch l.lid

/-- Whether a request handle of a launch is still open at a detokeniser (R357). -/
def State.handlesOpen (s : State) (lid : Nat) : Bool := s.text.toks.any fun t => t.opens.any (·.lid == lid)

/-- A launch whose record waits for its number. -/
def State.nextRecord (s : State) : Option (Launch × Nat) :=
  s.place.launches.findSome? fun l => match l.phase with
    | .recording cause => if l.ringSlot.isNone && !s.handlesOpen l.lid then some (l, cause) else none
    | _ => none

/-- COMPLETION_RECORD_WRITE: a launch that is over takes a number by fetch-and-add on HEAD, and its record is written (R450). -/
def State.recordWrite (s : State) : State :=
  match s.nextRecord with
  | none => s
  | some (l, cause) =>
    match s.rangeNow 1 (asidOf l.lid) (BitVec.ofNat 64 (bitsOf l.record 319 256)) 8 2 with
    | (s, .error _) => s.dropRecord l.lid
    | (s, .ok ps) =>
      let h := leNum (s.readParts ps)
      if s.ringBad ps then s.dropRecord l.lid else
      let s := (s.writeParts ps (leBytes (h + 1) 8)).modLaunch l.lid fun l => { l with ringSlot := some h }
      s.tryRecord l cause h

/-- COMPLETION_RECORD_WRITE (R450). -/
def execCompletionRecordWrite (s : State) : Host.Outcome State Fault Refusal := run (modify State.recordWrite) s

/-- RING_TAIL_RECHECK: a launch whose ring was full reads TAIL again (R450). -/
def State.tailRecheck (s : State) : State :=
  match s.place.launches.findSome? fun l => match l.phase, l.ringSlot with
    | .recording cause, some h => if l.ringDue ≤ s.wall then some (l, cause, h) else none
    | _, _ => none with
  | some (l, cause, h) => s.tryRecord l cause h
  | none => s

/-- RING_TAIL_RECHECK (R450). -/
def execRingTailRecheck (s : State) : Host.Outcome State Fault Refusal := run (modify State.tailRecheck) s

/-! ## Settling faults (R412, R416, R419, R420) -/

/-- The order of faults raised in one cycle: package core index, I/O-die agents after cores (R416). -/
def FaultEntry.place (f : FaultEntry) : Nat :=
  let a := bitsOf f.bits 123 104
  if 7 ≤ a / 2 ^ 17 then 1024 else a % 1024

/-- FAULT_QUEUE_ENTER: faults that waited for room enter in their order as entries leave, then those of this cycle (R416). -/
def State.faultsEnter (s : State) : State :=
  let new := sortBy (fun f g => decide (f.place ≤ g.place)) s.faults.raised
  (s.faults.waiting ++ new).foldl State.admitFault { s with faults := { s.faults with waiting := [], raised := [] } }

/-- FAULT_QUEUE_ENTER (R416). -/
def execFaultQueueEnter (s : State) : Host.Outcome State Fault Refusal := run (modify State.faultsEnter) s

/-- Whether a stop-trap entry of a launch is left (R410, R412). -/
def State.stopLeft (s : State) (lid : Nat) : Bool := (s.faults.entries ++ s.faults.waiting ++ s.faults.raised).any fun f => f.stop && f.lid == lid

/-- A stopped launch queued for restore once its last stop-trap entry is settled (R412). -/
def State.resumeLaunch (s : State) (lid : Nat) : State :=
  if s.stopLeft lid then s
  else s.modLaunch lid fun l => match l.phase with
    | .stopped => { l with phase := .queued, since := s.wall, eligible := s.now + 1 }
    | _ => l

/-- FQACK names an entry in service of a launch in the part: replay or restore, or the launch's end (R420). -/
def State.settle (s : State) (f : FaultEntry) (action : Nat) : State :=
  if action = 1 then s.modLaunch f.lid fun l => if l.ending.isNone then { l with ending := some 1 } else l
  else if f.stop then s.resumeLaunch f.lid
  else f.waiters.foldl State.releaseWaiter s

/-- A write to FQACK (R417, R419, R420, R423); one that names no entry in service changes nothing but the count. -/
def State.writeFqack (s : State) (v : W64) : State :=
  let action := bitsOf v 33 32
  if 2 ≤ action then s
  else
    match s.faults.entries.find? fun f => f.inService && bitsOf f.bits 95 64 == bitsOf v 31 0 with
    | none => s.modDie 0 (·.countLate)
    | some f =>
      let s := { s with faults := { s.faults with fqack := BitVec.ofNat 64 (bitsOf v 33 0), entries := s.faults.entries.filter fun g => !(g.inService && bitsOf g.bits 95 64 == bitsOf v 31 0) } }
      match s.launch? f.lid with
      | some l => match l.phase with
        | .recording _ => s.modDie 0 (·.countLate)
        | _ => s.settle f action
      | none => s.modDie 0 (·.countLate)

/-- A release at package scope by a service core: all it follows has been applied at every die (R385, R396). -/
def svcRelease : M Unit := do
  let s ← get
  require (s.causedApplied 8 (List.range 8))

/-- FQACK_WRITE: a release at package scope (R420). -/
def execFqackWrite (v : W64) (s : State) : Host.Outcome State Fault Refusal :=
  run (do
    svcRelease
    modify (·.writeFqack v)) s

end Sys2Proof.Machine
end

