-- ==== Sys2Proof/Machine/Regs.lean ====
section
/-!
DEFINITION. The package control space (R252): every register by its offset, the host's mailboxes (R130), and the writes that have
steps of their own.
-/
namespace Sys2Proof.Machine

/-! ## Reading -/

/-- The status register of a peer port (R455); HOST reads its reset value 0 until the strap is sampled. -/
def Port.reg (sampled : Bool) (p : Port) : W64 :=
  BitVec.ofNat 64 (min p.retrains 0xFFFF * 2 ^ 32 + p.lost.toNat * 2 ^ 10 + (p.host && sampled).toNat * 2 ^ 9 + (if p.up then p.width % 4 else 0) * 2 ^ 7 + p.up.toNat * 2 ^ 6)

/-- The supply of a die in mV: the package's, as the power cap and the die's temperature lower it (R464). -/
def State.dieSupply (s : State) (d : Nat) : Nat := min (min s.supply s.capped) (((s.tele[d]?).map (·.mv)).getD 750)

/-- The telemetry register of a die (R463); THROT, CLK and SUPPLY read their reset value 0 until they are sampled. -/
def State.telemetryReg (s : State) (d : Nat) : W64 :=
  let mv := s.dieSupply d
  let temp : BitVec 16 := BitVec.ofInt 16 (((s.tele[d]?).map (·.temp)).getD 0)
  if s.sampled then
    BitVec.ofNat 64 ((decide (d < 8 ∧ mhz100 mv < mhz100 s.supply)).toNat * 2 ^ 48 + (if d < 8 then 100 * mhz100 mv else 0) * 2 ^ 32 +
      mv * 2 ^ 16 + temp.toNat)
  else temp.setWidth 64

/-- A pool's register (R259). -/
def poolReg (irq : Bool) (mark : Nat) (pool : List Nat) : W64 := BitVec.ofNat 64 (irq.toNat * 2 ^ 44 + mark * 2 ^ 32 + pool.length)

/-- FQSTAT (R419). -/
def FaultSt.stat (q : FaultSt) : W64 :=
  BitVec.ofNat 64 (q.irq.toNat * 2 ^ 33 + q.irqEn.toNat * 2 ^ 32 + min q.waiting.length 0xFFFF * 2 ^ 16 + q.entries.length)

/-- RQBINDq, with OCC (R348). -/
def State.rqbindReg (s : State) (q : Nat) : W64 :=
  BitVec.ofNat 64 (((s.text.rqbind[q]?).getD 0).toNat + ((s.text.rq[q]?).getD []).length * 2 ^ 56)

/-- The registers below 0x200. -/
def State.packageReg (s : State) (off : Nat) : W64 :=
  if off = 0x100 then s.ctl.asidTab
  else if off = 0x108 then s.ctl.expTab
  else if off = 0x110 then BitVec.ofNat 64 (s.ctl.raceOvf.toNat * 2 ^ 33 + s.ctl.raceEn.toNat * 2 ^ 32 + s.ctl.raceDrops)
  else if off = 0x118 then s.ctl.raceLog
  else if off = 0x120 then s.ctl.racePtr
  else if off = 0x128 then s.faults.fqack
  else if off = 0x130 then s.faults.stat
  else if off = 0x138 then s.ctl.preq
  else if off = 0x140 then s.ctl.savePool
  else if off = 0x148 then s.ctl.snapCtl
  else if off = 0x150 then s.ctl.snapCmp
  else if off = 0x158 then BitVec.ofNat 64 s.ctl.crdrop
  else if off = 0x160 then s.ctl.pkgid
  else if off = 0x168 then s.ctl.routePa
  else 0

/-- The registers of a die at 0x0010_0000 + 0x1000·d (R259, R423, R459). -/
def Die.reg (x : Die) (off : Nat) : W64 :=
  if off = 0 then poolReg x.lowIrq64 x.low64 x.pool64
  else if off = 8 then poolReg x.lowIrq2m x.low2m x.pool2m
  else if off = 0x10 then BitVec.ofNat 64 x.late
  else if off = 0x18 then BitVec.ofNat 64 x.gran
  else 0

/-- The dword at an offset of the control space, a multiple of 8; where no register lies it is zero (R252). -/
def State.ctlRead (s : State) (off : Nat) : W64 :=
  if off < 0x200 then s.packageReg off
  else if off < 0x100000 then 0
  else if off < 0x108000 then ((s.dies[(off - 0x100000) / 0x1000]?).map (·.reg (off % 0x1000))).getD 0
  else if off < 0x200000 then 0
  else if off < 0x200080 then s.rqbindReg ((off - 0x200000) / 8)
  else if off < 0x201000 then 0
  else if off < 0x201200 then (s.text.vocab[(off - 0x201000) / 8]?).getD 0
  else if off < 0x300000 then 0
  else if off < 0x300400 then (if off % 0x100 = 0 then (s.text.ports[(off - 0x300000) / 0x100]?).getD 0 else 0)
  else if off < 0x400000 then 0
  else if off < 0x400800 then (if off % 0x100 = 0 then ((s.links.ports[(off - 0x400000) / 0x100]?).map (Port.reg s.sampled)).getD 0 else 0)
  else if off < 0x500000 then 0
  else if off < 0x500800 then ((s.links.inboxes[(off - 0x500000) / 8]?).map (·.reg)).getD 0
  else if off < 0x600000 then 0
  else if off < 0x600A00 then
    (if off % 0x100 = 0 then s.telemetryReg ((off - 0x600000) / 0x100)
     else if off % 0x100 = 8 then BitVec.ofNat 64 (((s.tele[(off - 0x600000) / 0x100]?).map (·.months)).getD 0) else 0)
  else if off = 0x601000 then s.ctl.pwrcap
  else if off < 0x1000000 then 0
  else if off < 0x1010000 then (((s.cores[(off - 0x1000000) / 0x40]?).bind fun co => co.snap[off % 0x40 / 8]?)).getD 0
  else if off < 0x1800000 then 0
  else if off < 0x1800200 then (if off % 0x40 = 0 then ((s.dies[(off - 0x1800000) / 0x40]?).map (·.snap)).getD 0 else 0)
  else 0

/-! ## Writing -/

/-- The plain registers changed. -/
def State.modCtl (s : State) (f : CtlSt → CtlSt) : State := { s with ctl := f s.ctl }

/-- RACECTL.OVF written 1: OVF and DROPS are cleared (R399). -/
def State.clearRaceOvf (s : State) : State := s.modCtl fun c => { c with raceOvf := false, raceDrops := 0 }

/-- CRDROP.CLR written 1 (R452). -/
def State.clearCrdrop (s : State) : State := s.modCtl fun c => { c with crdrop := 0 }

/-- A late-completion counter's CLR written 1 (R423). -/
def State.clearLate (s : State) (d : Nat) : State := s.modDie d fun x => { x with late := 0 }

/-- The nearer bound of PWRCAP.LIMIT (R464). -/
def clampLimit (w : Nat) : Nat := max 400 (min w 1600)

/-- A write to PWRCAP (R464); with EN 0 no cap holds. -/
def State.writePwrcap (s : State) (v : W64) : State :=
  let s := s.modCtl fun c => { c with pwrcap := BitVec.ofNat 64 (bitsOf v 16 16 * 2 ^ 16 + clampLimit (bitsOf v 15 0)) }
  if v.getLsbD 16 then s else { s with capped := 750 }

/-- A write to SNAPCTL: `w1c` are the bits written one (R446). -/
def State.writeSnapctl (s : State) (v w1c : W64) : State :=
  s.modCtl fun c =>
    let kept := bitsOf c.snapCtl 47 12 * 2 ^ 12
    let latched := if w1c.getLsbD 1 then 0 else bitsOf c.snapCtl 1 1 * 2
    { c with snapCtl := BitVec.ofNat 64 (kept + bitsOf v 11 8 * 2 ^ 8 + latched + bitsOf v 0 0) }

/-- A table register's fields (R253, R454): BASE and EN. -/
def tableFields (v : W64) : W64 := BitVec.ofNat 64 (bitsOf v 39 16 * 2 ^ 16 + bitsOf v 0 0)

/-- The registers below 0x200 written: `v` the dword as it stands with the bits written, `w1c` the bits written one. -/
def State.writePackage (s : State) (off : Nat) (v w1c : W64) : State :=
  if off = 0x100 then s.modCtl fun c => { c with asidTab := tableFields v }
  else if off = 0x108 then s.modCtl fun c => { c with expTab := tableFields v }
  else if off = 0x110 then
    let s := s.modCtl fun c => { c with raceEn := v.getLsbD 32 }
    if w1c.getLsbD 33 then s.clearRaceOvf else s
  else if off = 0x118 then s.modCtl fun c => { c with raceLog := BitVec.ofNat 64 (bitsOf v 39 12 * 2 ^ 12 + bitsOf v 4 0) }
  else if off = 0x120 then s.modCtl fun c => { c with racePtr := BitVec.ofNat 64 (bitsOf v 63 32 * 2 ^ 32 + bitsOf c.racePtr 31 0) }
  else if off = 0x128 then s.writeFqack v
  else if off = 0x130 then
    { s with faults := { s.faults with irq := s.faults.irq && !w1c.getLsbD 33, irqEn := v.getLsbD 32 } }
  else if off = 0x138 then s.writePreq v
  else if off = 0x140 then s.modCtl fun c => { c with savePool := BitVec.ofNat 64 (bitsOf v 63 44 * 2 ^ 44 + bitsOf v 39 16 * 2 ^ 16) }
  else if off = 0x148 then s.writeSnapctl v w1c
  else if off = 0x150 then s.modCtl fun c => { c with snapCmp := v }
  else if off = 0x158 then (if w1c.getLsbD 32 then s.clearCrdrop else s)
  else if off = 0x168 then s.modCtl fun c => { c with routePa := tableFields v }
  else s

/-- LOWMARK and LOWIRQ of a pool written: LOWIRQ is set when COUNT comes to lie below the mark (R259). -/
def poolWrite (irq : Bool) (mark : Nat) (pool : List Nat) (v w1c : W64) : Bool × Nat :=
  let m := bitsOf v 43 32
  ((irq && !w1c.getLsbD 44) || lowFalls pool.length mark pool.length m, m)

/-- The registers of die `d` written. GRAN takes 0 to 3072, and nothing after READY (R459); a write of more is dropped whole (DESIGN CHOICE: R459
gives the range and names no effect beyond it; log 27). -/
def State.writeDie (s : State) (d off : Nat) (v w1c : W64) : State :=
  if off = 0 then s.modDie d fun x => let (i, m) := poolWrite x.lowIrq64 x.low64 x.pool64 v w1c; { x with lowIrq64 := i, low64 := m }
  else if off = 8 then s.modDie d fun x => let (i, m) := poolWrite x.lowIrq2m x.low2m x.pool2m v w1c; { x with lowIrq2m := i, low2m := m }
  else if off = 0x10 then (if w1c.getLsbD 32 then s.clearLate d else s)
  else if off = 0x18 then
    (if s.boot.ready || decide (3072 < bitsOf v 11 0) then s else s.modDie d fun x => { x with gran := bitsOf v 11 0 })
  else s

/-- A dword of the control space written, some of its bits (`mask`); the others keep their value (R252). -/
def State.ctlWrite (s : State) (off : Nat) (v mask : W64) : State :=
  let new := (s.ctlRead off &&& ~~~mask) ||| (v &&& mask)
  let w1c := v &&& mask
  if off < 0x200 then s.writePackage off new w1c
  else if off < 0x100000 then s
  else if off < 0x108000 then s.writeDie ((off - 0x100000) / 0x1000) (off % 0x1000) new w1c
  else if off < 0x200000 then s
  else if off < 0x200080 then s.bindQueue ((off - 0x200000) / 8) new
  else if off < 0x201000 then s
  else if off < 0x201200 then s.writeVocab ((off - 0x201000) / 8) new
  else if off < 0x300000 then s
  else if off < 0x300400 then
    (if off % 0x100 = 0 then s.modText fun x => { x with ports := x.ports.set ((off - 0x300000) / 0x100) new } else s)
  else if off < 0x400000 then s
  else if off < 0x400800 then
    (if off % 0x100 = 0 ∧ w1c.getLsbD 10 then
       { s with links := { s.links with ports := s.links.ports.modify ((off - 0x400000) / 0x100) fun p => { p with lost := false } } }
     else s)
  else if off < 0x500000 then s
  else if off < 0x500800 then s.bindInbox ((off - 0x500000) / 8) new
  else if off = 0x601000 then s.writePwrcap new
  else s

/-! ## Accesses -/

/-- The bits of a dword an access of 4 or 8 bytes names (R252). -/
def accessMask (off size : Nat) : W64 :=
  if size = 8 then BitVec.allOnes 64 else if off % 8 = 0 then 0xFFFF_FFFF#64 else 0xFFFF_FFFF_0000_0000#64

/-- Whether an access has a width and alignment the control space takes (R252). -/
def accessOk (off size : Nat) : Bool := (size == 8 && off % 8 == 0) || (size == 4 && off % 4 == 0)

/-- A load of the control space (R252). -/
def State.ctlLoad (s : State) (off size : Nat) : W64 :=
  if !accessOk off size then 0
  else if size = 8 then s.ctlRead off
  else if off % 8 = 0 then s.ctlRead off &&& 0xFFFF_FFFF#64
  else s.ctlRead (off - 4) >>> 32

/-- A store to the control space (R252). -/
def State.ctlStore (s : State) (off size : Nat) (v : W64) : State :=
  if !accessOk off size then s
  else s.ctlWrite (off / 8 * 8) (if off % 8 = 0 then v else v <<< 32) (accessMask off size)

/-- A load of BAR0 (R130): the window reads zero. -/
def State.barLoad (s : State) (off size : Nat) : W64 :=
  if !accessOk off size ∨ off < 0x10000 ∨ 0x10800 ≤ off then 0
  else
    match s.place.boxes[(off - 0x10000) / 0x100]? with
    | none => 0
    | some b =>
      let o := off % 0x100
      let dw : W64 := if o / 8 = 16 then BitVec.ofNat 64 (b.done.toNat * 2 + b.busy.toNat) else if o / 8 = 17 then b.ticket else 0
      if size = 8 then dw else if off % 8 = 0 then dw &&& 0xFFFF_FFFF#64 else dw >>> 32

/-- A store to BAR0 (R130): a dword of the window, where offset 0x78 submits, or MBSTAT's DONE. -/
def State.barStore (s : State) (off size : Nat) (v : W64) : State :=
  if !accessOk off size ∨ off < 0x10000 ∨ 0x10800 ≤ off then s
  else
    let m := (off - 0x10000) / 0x100
    match s.place.boxes[m]? with
    | none => s
    | some b =>
      let o := off % 0x100
      let v' := if off % 8 = 0 then v else v <<< 32
      let mask := accessMask off size
      if o < 0x80 then
        if b.busy then s
        else
          let new := (((b.window[o / 8]?).getD 0) &&& ~~~mask) ||| (v' &&& mask)
          { s with place := { s.place with boxes := s.place.boxes.set m { b with window := b.window.set (o / 8) new, busy := o == 0x78 } } }
      else if o / 8 = 16 ∧ (v' &&& mask).getLsbD 1 then
        { s with place := { s.place with boxes := s.place.boxes.set m { b with done := false } } }
      else s

/-- REGISTER_WRITE: an access of the host's, which it makes only where port 0 is the host endpoint (R130, R252). -/
def execRegisterWrite (a : ControlAccess) (s : State) : Host.Outcome State Fault Refusal :=
  run (modify fun s =>
    if !s.hostsel then s
    else if a.bar0 then (if a.write then s.barStore a.off a.size a.value else s.send (.hostRead (s.barLoad a.off a.size)))
    else if a.write then s.ctlStore a.off a.size a.value
    else s.send (.hostRead (s.ctlLoad a.off a.size))) s

/-- LATE_COUNT_CLEAR (R423). -/
def execLateCountClear (d : Nat) (s : State) : Host.Outcome State Fault Refusal := run (modify (·.clearLate d)) s
/-- CRDROP_CLEAR (R452). -/
def execCrdropClear (s : State) : Host.Outcome State Fault Refusal := run (modify State.clearCrdrop) s
/-- RACECTL_OVF_CLEAR (R399). -/
def execRacectlOvfClear (s : State) : Host.Outcome State Fault Refusal := run (modify State.clearRaceOvf) s
/-- PWRCAP_WRITE (R464). -/
def execPwrcapWrite (v : W64) (s : State) : Host.Outcome State Fault Refusal := run (modify (·.writePwrcap v)) s

end Sys2Proof.Machine
end

