-- ==== Sys2Proof/Machine/Service.lean ====
section
/-!
DEFINITION. The service cores (R10, R131): their own instructions, their ordinary accesses (R396), and the exception RISC-V takes
where the spec raises one (log 4).
-/
namespace Sys2Proof.Machine

/-- One service core changed. -/
def State.modSvc (s : State) (n : Nat) (f : ServiceCore → ServiceCore) : State := { s with svc := s.svc.modify n f }

/-- A register of a service core; x0 reads zero (RISC-V). -/
def ServiceCore.reg (c : ServiceCore) (r : BitVec 5) : W64 := if r = 0 then 0 else (c.regs[r.toNat - 1]?).getD 0

/-- A register of a service core written; x0 keeps nothing (RISC-V). -/
def ServiceCore.setReg (c : ServiceCore) (r : BitVec 5) (v : W64) : ServiceCore :=
  if r = 0 then c else { c with regs := c.regs.set (r.toNat - 1) v }

/-- A register of the service core whose turn it is. -/
def State.svcReg (s : State) (r : BitVec 5) : W64 := ((s.svc[s.curSvc]?).map (·.reg r)).getD 0

/-- An instruction of the part's own ends: rd is written and the program counter passes it. -/
def State.svcDone (s : State) (rd : BitVec 5) (v : W64) : State :=
  s.modSvc s.curSvc fun c => { c.setReg rd v with pc := c.pc + 4 }

/-- A synchronous exception as RISC-V enters it in machine mode (log 4): mepc, mcause, mtval and mstatus saved, then mtvec. -/
def ServiceCore.except (c : ServiceCore) (cause : Nat) (tval : W64) : ServiceCore :=
  { c with mepc := c.pc, mcause := BitVec.ofNat 64 cause, mtval := tval, mpie := c.mie, mie := false, mpp := c.mode, mode := 3,
           pc := c.mtvec &&& ~~~(3#64) }

/-- A service core takes an exception. -/
def State.svcExcept (s : State) (cause : Nat) (tval : W64) : State := s.modSvc s.curSvc (·.except cause tval)

/-- The RISC-V illegal-instruction exception, mtval the word. -/
def State.svcIllegal (s : State) : State :=
  s.svcExcept 2 (BitVec.ofNat 64 (s.serviceWord s.curSvc).toNat)

/-- The fault interrupt as every service core sees it (R419), and the pool interrupt of the dies its I/O die connects to (R259). -/
def State.faultInterrupt (s : State) : Bool := s.faults.irq
/-- The pool interrupt of service core `n`. -/
def State.poolInterrupt (s : State) (n : Nat) : Bool :=
  (s.dies.zipIdx).any fun (x, d) => d % 2 == n / 8 && (x.lowIrq64 || x.lowIrq2m)

/-- A service core as an agent (R376, R403); it acts for no launch. -/
def State.svcAgent (s : State) : Agent := { code := 7 * 2 ^ 17 + s.curSvc % 16 * 2 ^ 11, lid := 0 }

/-- The interval number of the service core whose turn it is. -/
def State.svcInterval (s : State) : Nat := ((s.svc[s.curSvc]?).map (·.interval.toNat)).getD 0

/-- Whether a write of a service core at `pa` may be performed: what the core has read is applied at the home die (R381), whose counter
may still advance (R387). -/
def State.svcMayWrite (s : State) (pa : Nat) : Bool :=
  let h := pa / 2 ^ 37
  s.frontierAt h h (s.clockOf 8) && s.leadOk h

/-- Where an access of the service core whose turn it is lies in LPDDR6, or the cause of its exception. -/
def State.svcDram (s : State) (k : SvcKind) (va : W64) (len : Nat) : Except Nat Nat :=
  match s.svcPlace k s.curSvc va len with
  | .ok pa => if s.inDram pa len then .ok pa else .error k.accessFault
  | .error cause => .error cause

/-- Bytes a service core writes, at the home die of their address, the shadow of their sectors with them (R402); `ws` is the scope of a
release, 7 for any other. A whole line written carries no error any more (R424). -/
def State.svcWrite (s : State) (pa : Nat) (b : List Byte) (ws : Nat := 7) (atomic : Bool := false) : State :=
  let s := s.performWrite 0 8 (.die (pa / 2 ^ 37)) pa b
  if s.ctl.raceEn then (sectors pa b.length).foldl (fun s (o, _) => s.setShadow (o / 64) s.svcAgent s.svcInterval ws atomic) s else s

/-! ## Launches (R131, R132) -/

/-- nh.lq (R131). -/
def execNhLq (rd rs1 : BitVec 5) (s : State) : Host.Outcome State Fault Refusal :=
  run (do
    svcRelease
    modify fun s =>
      let (t, ticket, lid) := s.submit (.service s.curSvc (s.svcReg rs1))
      (t.modSvc t.curSvc fun c => { c with launches := c.launches ++ lid.toList }).svcDone rd ticket) s

/-- Whether a launch has retired: no launch of the package bears its number (R131, R449). -/
def State.launchGone (s : State) (lid : Nat) : Bool := (s.launch? lid).isNone

/-- nh.lwait (R131). -/
def execNhLwait (rd rs1 : BitVec 5) (s : State) : Host.Outcome State Fault Refusal :=
  run (do
    let s ← get
    let tk := (s.svcReg rs1).toNat
    if tk % 16 ≠ 0 then set (s.svcDone rd 3)
    else do
      require (s.launchGone (tk / 2 ^ 28 % 2 ^ 24 * 4096 + tk / 2 ^ 52))
      set (s.svcDone rd 2)) s

/-- nh.fence (R131). -/
def execNhFence (rd rs1 : BitVec 5) (s : State) : Host.Outcome State Fault Refusal :=
  run (do
    let s ← get
    let v := s.svcReg rs1
    if bitsOf v 63 2 ≠ 0 then set (s.svcDone rd 1)
    else do
      require (!v.getLsbD 0 || ((s.svc[s.curSvc]?).map fun c => c.launches.all s.launchGone).getD true)
      require (!v.getLsbD 1 || !s.invals.any (·.core == s.curSvc))
      set (s.svcDone rd 0)) s

/-! ## The fault queue (R418) -/

/-- The oldest pending entry and the number pending. -/
def FaultSt.pending (q : FaultSt) : List FaultEntry := q.entries.filter (!·.inService)

/-- An entry of the queue comes into service, the first that is pending. -/
def serveFirst : List FaultEntry → List FaultEntry
  | [] => []
  | e :: es => if e.inService then e :: serveFirst es else { e with inService := true } :: es

/-- nh.fqpop (R418). -/
def execNhFqpop (rd rs1 : BitVec 5) (s : State) : Host.Outcome State Fault Refusal :=
  run (do
    let s ← get
    let va := s.svcReg rs1
    if va.toNat % 32 ≠ 0 then set s.svcIllegal
    else match s.faults.pending with
      | [] => set (s.svcDone rd (1#64 <<< 63))
      | e :: rest => match s.svcDram .store va 32 with
        | .error cause => set (s.svcExcept cause va)
        | .ok pa => do
          require (s.svcMayWrite pa)
          let s := s.svcWrite pa (leBytes e.bits.toNat 32)
          set (({ s with faults := { s.faults with entries := serveFirst s.faults.entries } } : State).svcDone rd (BitVec.ofNat 64 rest.length))) s

/-! ## Invalidation (R263, R264) -/

/-- Whether a leaf overlaps 64 KiB units `lo` up to `hi` of an ASID, in either window (R263). -/
def Leaf.overlaps (l : Leaf) (asid lo hi : Nat) : Bool :=
  l.asid == asid && decide (l.page < hi) && decide (lo < l.page + leafSize l.level)

/-- Whether the page a first touch is to map does. -/
def Zeroing.overlaps (z : Zeroing) (asid lo hi : Nat) : Bool :=
  let page := z.walk.off / leafSize z.level * leafSize z.level
  z.walk.asid == asid && decide (page < hi) && decide (lo < page + leafSize z.level)

/-- An invalidation passes a die: its TLB loses the leaves; a walk whose frame is being zeroed gives it back and starts again (R264). -/
def Die.invalidate (x : Die) (asid lo hi : Nat) : Die :=
  let hit := x.zeroing.filter (·.overlaps asid lo hi)
  let x := { x with tlb := x.tlb.filter (!·.overlaps asid lo hi), zeroing := x.zeroing.filter (!·.overlaps asid lo hi) }
  (hit.foldl (fun x z => (x.returnFrame z.big z.pa).addWalk z.walk) x).refill

/-- The translations of a range removed at every die and core, and the accesses under way then named (R263, R264). -/
def State.invalidate (s : State) (asid lo hi : Nat) : State :=
  let under := (s.accs.filter fun a => !a.performed && (match a.home with | .peer _ => false | _ => true)).map (·.id)
  let replicas := (s.props.filter (·.mirror.isSome)).map (·.acc)
  { s with dies := s.dies.map (·.invalidate asid lo hi),
           cores := s.cores.map fun co => { co with tlb := co.tlb.filter (!·.overlaps asid lo hi) },
           invals := s.invals ++ [{ core := s.curSvc, accs := (under ++ replicas).eraseDups }] }

/-- The count field of nh.inval and nh.icinv, where their operands are legal: rs2's other bits zero, a count from 1 (R263, R443). -/
def rangeCount (v : W64) : Option Nat :=
  if bitsOf v 63 48 = 0 ∧ bitsOf v 15 12 = 0 ∧ bitsOf v 47 16 ≠ 0 then some (bitsOf v 47 16) else none

/-- nh.inval (R263). -/
def execNhInval (rd rs1 rs2 : BitVec 5) (s : State) : Host.Outcome State Fault Refusal :=
  run (do
    let s ← get
    let va := (s.svcReg rs1).toNat
    let v := s.svcReg rs2
    match rangeCount v with
    | none => set (s.svcDone rd 1)
    | some n =>
      if va % 65536 ≠ 0 ∨ 2 ≤ va / 2 ^ 62 then set (s.svcDone rd 1)
      else do
        svcRelease
        let lo := va % 2 ^ 62
        set ((s.invalidate (bitsOf v 11 0) lo (lo + 65536 * n)).svcDone rd 0)) s

/-- nh.icinv: every cache of the package has removed the lines when it returns (R443). -/
def execNhIcinv (rd rs1 rs2 : BitVec 5) (s : State) : Host.Outcome State Fault Refusal :=
  run (modify fun s =>
    let va := (s.svcReg rs1).toNat
    let v := s.svcReg rs2
    match rangeCount v with
    | none => s.svcDone rd 1
    | some n =>
      if va % 64 ≠ 0 then s.svcDone rd 1
      else
        let hit (l : ILine) : Bool := l.asid == bitsOf v 11 0 && decide (va ≤ l.va) && decide (l.va < va + 64 * n)
        ({ s with cores := s.cores.map fun co => { co with icache := co.icache.filter (!hit ·) } } : State).svcDone rd 0) s

/-! ## Pools (R262) -/

/-- The pushes of nh.fpool from the `i`-th frame of its list on: the pool as they leave it, and rd (R262), or the cause and the address
of the exception of an entry of the list that cannot be read. -/
def State.pushFrames (s : State) (d : Nat) (big : Bool) (va : W64) : Nat → Nat → List Nat → List Nat × Except (Nat × W64) W64
  | 0, i, pool => (pool, .ok (BitVec.ofNat 64 i))
  | n + 1, i, pool =>
    let at_ := va + BitVec.ofNat 64 (8 * i)
    match s.svcBytes s.curSvc at_ 8 with
    | .error cause => (pool, .error (cause, at_))
    | .ok b =>
      let f := leNum b
      let z := leafSize (if big then 1 else 0)
      if f % z ≠ 0 ∨ f / 2 ^ 37 % 8 ≠ d ∨ !s.inDram f z then (pool, .ok (BitVec.ofNat 64 (2 * 2 ^ 62 + i)))
      else if 4096 ≤ pool.length then (pool, .ok (BitVec.ofNat 64 (2 ^ 62 + i)))
      else s.pushFrames d big va n (i + 1) (pool ++ [f])

/-- nh.fpool (R262). -/
def execNhFpool (rd rs1 rs2 : BitVec 5) (s : State) : Host.Outcome State Fault Refusal :=
  run (modify fun s =>
    let v := s.svcReg rs2
    let d := bitsOf v 2 0
    let n := bitsOf v 27 16 + 1
    if bitsOf v 63 28 ≠ 0 ∨ bitsOf v 15 4 ≠ 0 then s.svcDone rd (3#64 <<< 62)
    else
      let big := v.getLsbD 3
      let r := s.pushFrames d big (s.svcReg rs1) n 0 (((s.dies[d]?).map fun x => if big then x.pool2m else x.pool64).getD [])
      let s := s.modDie d fun x => if big then { x with pool2m := r.1 } else { x with pool64 := r.1 }
      match r.2 with
      | .ok w => s.svcDone rd w
      | .error (cause, va) => s.svcExcept cause va) s

/-! ## The trigger (R447) -/

/-- nh.trig (R447). -/
def execNhTrig (rd rs1 : BitVec 5) (s : State) : Host.Outcome State Fault Refusal :=
  run (modify fun s =>
    let took := s.trigLatches srcTrig
    (s.fireTrigger srcTrig 8 (bitsOf (s.svcReg rs1) 15 0)).svcDone rd (if took then 0 else 1)) s

/-! ## Ordinary accesses (R252, R396) -/

/-- Where the package control space begins for a service core (R252). -/
def ctlBase : Nat := 2 ^ 40

/-- Whether an address of a service core lies in the control space. -/
def inControl (a : Nat) : Bool := decide (ctlBase ≤ a) && decide (a < ctlBase + 2 ^ 25)

/-- A load by a service core. -/
def svcLoad (a : ServiceAccess) : M Unit := modify fun s =>
  let va := BitVec.ofNat 64 a.addr
  match s.svcPlace .load s.curSvc va a.size with
  | .error cause => s.svcExcept cause va
  | .ok pa =>
    if inControl pa then s.modSvc s.curSvc (·.setReg a.rd (s.ctlLoad (pa - ctlBase) a.size))
    else if s.inDram pa a.size then s.modSvc s.curSvc (·.setReg a.rd (BitVec.ofNat 64 (s.physNum pa a.size)))
    else s.svcExcept SvcKind.load.accessFault va

/-- A store by a service core. -/
def svcStore (a : ServiceAccess) (v : W64) : M Unit := do
  let s ← get
  let va := BitVec.ofNat 64 a.addr
  match s.svcPlace .store s.curSvc va a.size with
  | .error cause => set (s.svcExcept cause va)
  | .ok pa =>
    if inControl pa then do
      if pa - ctlBase = 0x128 then svcRelease else pure ()
      set (s.ctlStore (pa - ctlBase) a.size v)
    else if !s.inDram pa a.size then set (s.svcExcept SvcKind.store.accessFault va)
    else do
      require (s.svcMayWrite pa)
      set (s.svcWrite pa (leBytes v.toNat a.size))

/-- An AMO by a service core: `op` as R268 numbers them, 4 and 5 signed, 7 and 8 RISC-V's unsigned minimum and maximum; the old
value is sign-extended, as RISC-V has it. The control space takes no AMO, nor does an unaligned address. -/
def svcAmo (a : ServiceAccess) (op : Nat) (rl : Bool) (v : W64) : M Unit := do
  let s ← get
  let n := 8 * a.size
  let va := BitVec.ofNat 64 a.addr
  if a.addr % a.size ≠ 0 then set (s.svcExcept SvcKind.store.misaligned va)
  else match s.svcDram .store va a.size with
  | .error cause => set (s.svcExcept cause va)
  | .ok pa => do
    if rl then svcRelease else pure ()
    require (s.svcMayWrite pa)
    let old := s.physNum pa a.size
    let code := if op = 7 then 4 else if op = 8 then 5 else op
    let new := (atomicNew code (decide (op < 7)) n old (v.toNat % 2 ^ n) 0).getD old
    let s := s.svcWrite pa (leBytes new a.size) (if rl then 3 else 7) true
    let s := if rl then s.bumpInterval s.svcAgent.code else s
    set (s.modSvc s.curSvc (·.setReg a.rd ((BitVec.ofNat n old).signExtend 64)))

/-- SERVICE_CORE_ACCESS: relaxed at package scope, an AMO's aq and rl, FENCE.full (R396). The rest of the instruction that makes the
access, its program counter with it, is RISC-V's (log 5). -/
def execServiceCoreAccess (n : Nat) (a : ServiceAccess) (s : State) : Host.Outcome State Fault Refusal :=
  run (do
    modify (·.onService n)
    let s ← get
    if s.boot.held then pure ()
    else match a.op with
      | .load => svcLoad a
      | .store v => svcStore a v
      | .amo op _ rl v => svcAmo a op rl v
      | .fence => do
        svcRelease
        modify fun s => s.bumpInterval s.svcAgent.code) s

end Sys2Proof.Machine
end

