-- ==== Sys2Proof/Machine/Links.lean ====
section
/-!
DEFINITION. Peer links that go down and come back (R455, R456). Inbox slots are granted as a push is accepted, so no reservation
outlives its answer (log 16).
-/
namespace Sys2Proof.Machine

/-- One port changed. -/
def State.modPort (s : State) (p : Nat) (f : Port → Port) : State :=
  { s with links := { s.links with ports := s.links.ports.modify p f } }

/-- LINK_DOWN: the port leaves the flit-exchanging state and retrains; its 2 ms run from here (R456). -/
def State.linkDown (s : State) (p : Nat) : State :=
  s.modPort p fun x => if x.up then { x with up := false, downAt := some s.wall } else x

/-- LINK_DOWN (R456). -/
def execLinkDown (p : Nat) (s : State) : Host.Outcome State Fault Refusal := run (modify (·.linkDown p)) s

/-- Whether a port has been down for more than 2 ms: back at their end it is not lost (R456). -/
def State.linkOverdue (s : State) (p : Nat) : Bool :=
  match (s.links.ports[p]?).bind (·.downAt) with
  | some w => decide (w + 2000 * microsecond < s.wall)
  | none => false

/-- Whether an access waits for an answer through a port. -/
def State.sentThrough (s : State) (p : Nat) (a : Access) : Bool :=
  a.sent && !a.performed && match a.home with
    | .peer pkg => s.routePort pkg == p
    | _ => false

/-- Whether a push is pending through a port: sent and not answered, or parked (R286, R456). -/
def State.pushPending (s : State) (p : Nat) (x : Cmd) : Bool :=
  let waits := match x.state with | .sent => true | .parked _ => true | _ => false
  waits && x.unit == 1 && match x.copy? with | some a => a.ib && s.pushPort a == some p | none => false

/-- The link is lost (R456): LOST is set; what was sent through the port and not answered ends in link-lost, its pending pushes with it. -/
def State.linkLost (s : State) (p : Nat) : State :=
  let s := s.modPort p fun x => { x with lost := true, downAt := none }
  let s := (s.cmds.filter (s.pushPending p)).foldl State.copyLost s
  { s with accs := s.accs.map fun a => if s.sentThrough p a then { a with performed := true, fail := some (14, 0) } else a }

/-- LINK_RESERVATION_EXPIRY (R456). -/
def State.linkExpiry (s : State) (p : Nat) : State := if s.linkOverdue p then s.linkLost p else s

/-- LINK_RESERVATION_EXPIRY (R456). -/
def execLinkReservationExpiry (p : Nat) (s : State) : Host.Outcome State Fault Refusal := run (modify (·.linkExpiry p)) s

/-- LINK_RETRAINED: the link is back, at width 1 (×8) or 2 (×16) and at no other; RETRAINS counts all but the first training (R453,
R455, R456). -/
def State.linkRetrained (s : State) (p width : Nat) : State :=
  if width = 1 ∨ width = 2 then
    (s.linkExpiry p).modPort p fun x =>
      if x.up then x
      else { x with up := true, width := width, downAt := none,
                    retrains := if x.width = 0 then x.retrains else min (x.retrains + 1) 0xFFFF }
  else s

/-- LINK_RETRAINED (R456). -/
def execLinkRetrained (p width : Nat) (s : State) : Host.Outcome State Fault Refusal := run (modify (·.linkRetrained p width)) s

end Sys2Proof.Machine
end

