-- ==== Sys2Proof/Machine/Pod.lean ====
section
/-!
DEFINITION. Module reset, boot, the pod round and attestation (R459 to R461). The signature scheme and its keys are not given:
`Config.signatureOk`, `Config.digest` and `Config.sign` stand for them (log 10).
-/
namespace Sys2Proof.Machine

/-! ## Reset and boot (R459) -/

/-- MODULE_RESET: every register and memory of the dies as after reset, with the HOSTSEL strap as it stands; what the LPDDR6 holds
stays (log 3). -/
def execModuleReset (hostsel : Bool) (s : State) : Host.Outcome State Fault Refusal :=
  run (set (State.resetWith hostsel s.bigMem s.mem)) s

/-- The package identifier (R454). -/
def State.pkg (s : State) : Nat := bitsOf s.ctl.pkgid 17 0

/-- The boot round's messages as bytes to sign, and a message of this package's (R460; log 10). -/
def helloBytes (kind round pkg : Nat) (excluded : List Nat) : List Byte :=
  leBytes kind 1 ++ leBytes round 8 ++ leBytes pkg 4 ++ excluded.flatMap fun e => leBytes e 4

/-- HELLO 0, CLAIM 1 and DEMOTE 2 leave on channel 3, to one package or to every routed one (R460). -/
def State.say (s : State) (kind : Nat) (dest : Option Nat) : State :=
  let sig := if kind = 0 then [] else Config.sign (helloBytes kind s.pod.round s.pkg s.pod.excluded)
  s.send (.hello kind dest { round := s.pod.round, pkg := s.pkg, excluded := s.pod.excluded, sig := sig })

/-- A round begins: its HELLO, and 50 ms to collect others' (R460). -/
def State.startRound (s : State) (round : Nat) (excluded : List Nat) : State :=
  ({ s with pod := { s.pod with round := round, role := 0, leader := none, heard := [], excluded := excluded, claims := [],
                                staged := [], whole := [], helloEnd := s.wall + 50000 * microsecond, timerEnd := none } } : State).say 0 none

/-- READY: launches are accepted from now on (R459). -/
def State.setReady (s : State) : State := { s with boot := { s.boot with ready := true } }

/-- The registers and images that service core 0 sets as it runs the boot image (R459, R425, R454). -/
def State.applyBoot (s : State) (img : List Byte) (set : BootSettings) : State :=
  { s with
    ctl := { s.ctl with pkgid := BitVec.ofNat 64 (set.pkgid % 2 ^ 18), routePa := tableFields set.routePa,
                        asidTab := tableFields set.asidTab, expTab := tableFields set.expTab },
    dies := (s.dies.zipIdx).map fun (x, d) => { x with gran := min ((set.grans[d]?).getD 0) 3072 },
    boot := { s.boot with image := img, assistText := set.assistText },
    pod := { s.pod with plan := set.plan } }

/-- BOOT_IMAGE_VERIFIED: service core 0 runs the image, or every service core is held and FAIL is set (R459). -/
def State.bootImage (s : State) (img : List Byte) (set : BootSettings) : State :=
  if s.boot.ready || s.boot.fail || decide (s.boot.image ≠ []) then s
  else if !Config.signatureOk img then { s with boot := { s.boot with fail := true, held := true } }
  else
    let s := s.applyBoot img set
    if set.alone then s.setReady else s.startRound set.round []

/-- BOOT_IMAGE_VERIFIED (R459). -/
def execBootImageVerified (img : List Byte) (set : BootSettings) (s : State) : Host.Outcome State Fault Refusal :=
  run (modify (·.bootImage img set)) s

/-! ## A pod round (R460) -/

/-- The pod state changed. -/
def State.modPod (s : State) (f : PodSt → PodSt) : State := { s with pod := f s.pod }

/-- The least of a list and a number. -/
def leastOf (n : Nat) (l : List Nat) : Nat := l.foldl min n

/-- The package follows another: it has its role, so it accepts launches, and its load timer runs from when it becomes a follower (R459, R460;
log 16). -/
def State.follow (s : State) (leader : Option Nat) : State :=
  (s.modPod fun p => { p with role := 2, leader := leader, helloEnd := 0,
                              timerEnd := if p.role = 2 then p.timerEnd else some (s.wall + 5000000 * microsecond) }).setReady

/-- The claimants' lowest is adopted, and each other claimant is sent a DEMOTE (R460). -/
def State.adopt (s : State) (lead : Nat) : State :=
  let s := (s.pod.claims.filter (· != lead)).foldl (fun s c => s.say 2 (some c)) s
  if lead = s.pkg then s else s.follow (some lead)

/-- The leader distributes its routing tables and images (R460): what the boot image has laid down for it. -/
def State.distribute (s : State) : State := s.pod.plan.foldl (fun s m => s.send (.config { m with pkg := s.pkg })) s

/-- HELLO_RECEIVED: the identifiers heard in the window (R460). -/
def State.hello (s : State) (m : Hello) : State :=
  if m.round = s.pod.round ∧ s.pod.helloEnd ≠ 0 then s.modPod fun p => { p with heard := p.heard ++ [m.pkg] } else s

/-- HELLO_RECEIVED (R460). -/
def execHelloReceived (m : Hello) (s : State) : Host.Outcome State Fault Refusal := run (modify (·.hello m)) s

/-- HELLO_WINDOW_EXPIRY: a package that heard no lower identifier outside its exclusion list claims, and leads unless it has a lower claim; another
follows the lowest claim it has (R460). -/
def State.helloWindow (s : State) : State :=
  if s.pod.helloEnd = 0 ∨ s.wall < s.pod.helloEnd then s
  else
    let s := s.modPod fun p => { p with helloEnd := 0 }
    if s.pod.role ≠ 0 then s
    else if s.pod.heard.any (fun h => decide (h < s.pkg) && !s.pod.excluded.contains h) then
      match s.pod.claims with
      | [] => s
      | c :: cs => s.adopt (leastOf c cs)
    else
      let s := ((s.modPod fun p => { p with role := 1, leader := some s.pkg }).say 1 none).setReady
      if s.pod.claims = [] then s.distribute
      else if leastOf s.pkg s.pod.claims < s.pkg ∨ 2 ≤ s.pod.claims.length then
        let s := s.adopt (leastOf s.pkg s.pod.claims)
        if s.pod.role = 1 then s.distribute else s
      else s.distribute

/-- HELLO_WINDOW_EXPIRY (R460). -/
def execHelloWindowExpiry (s : State) : Host.Outcome State Fault Refusal := run (modify State.helloWindow) s

/-- Whether a claim or demotion of this round carries its sender's signature, and its sender is not excluded (R460). -/
def State.podMessageOk (s : State) (kind : Nat) (m : Hello) : Bool :=
  m.round == s.pod.round && !s.pod.excluded.contains m.pkg && s.boot.image != [] &&
    Config.signatureOk (helloBytes kind m.round m.pkg m.excluded ++ m.sig)

/-- CLAIM_RECEIVED: a lower claimant than this package's own claim, or the lowest of two or more, is adopted and each other claimant is sent a DEMOTE;
without a claim of its own a package follows one claimant, but not while its window is open and it may still have to claim itself (R460).
A claim received again changes nothing. -/
def State.claim (s : State) (m : Hello) : State :=
  if !s.podMessageOk 1 m || s.pod.claims.contains m.pkg then s
  else
    let got := s.pod.claims ++ [m.pkg]
    let s := s.modPod fun p => { p with claims := got }
    if s.pod.role = 1 then (if m.pkg < s.pkg ∨ 2 ≤ got.length then s.adopt (leastOf s.pkg got) else s)
    else if s.pod.helloEnd ≠ 0 ∧ (got.length < 2 ∨ s.pkg ≤ leastOf m.pkg got) then s
    else s.adopt (leastOf m.pkg got)

/-- CLAIM_RECEIVED (R460). -/
def execClaimReceived (m : Hello) (s : State) : Host.Outcome State Fault Refusal := run (modify (·.claim m)) s

/-- DEMOTE_RECEIVED: a claimant becomes a follower, of the lowest claimant it knows, or else of the first to configure it (R460). -/
def State.demote (s : State) (m : Hello) : State :=
  if s.podMessageOk 2 m && s.pod.role == 1 then
    s.follow (match s.pod.claims with | [] => none | c :: cs => some (leastOf c cs))
  else s

/-- DEMOTE_RECEIVED (R460). -/
def execDemoteReceived (m : Hello) (s : State) : Host.Outcome State Fault Refusal := run (modify (·.demote m)) s

/-- CONFIG_MESSAGE: a follower writes its leader's bytes to staging and restarts its load timer; the last message of an image makes
it whole (R460). -/
def State.configure (s : State) (m : ConfigMessage) : State :=
  if s.pod.role != 2 || s.pod.excluded.contains m.pkg || s.pod.leader.any (· != m.pkg) then s
  else
    let s := s.modPod fun p => { p with leader := some m.pkg, timerEnd := some (s.wall + 5000000 * microsecond) }
    if !s.inDram m.pa (max 1 m.bytes.length) then s
    else
      (s.physWrite m.pa m.bytes).modPod fun p =>
        { p with staged := p.staged ++ [(m.image, m.pa, m.bytes)], whole := if m.last then p.whole ++ [m.image] else p.whole }

/-- CONFIG_MESSAGE (R460). -/
def execConfigMessage (m : ConfigMessage) (s : State) : Host.Outcome State Fault Refusal := run (modify (·.configure m)) s

/-- The bytes of a staged image, by address. -/
def PodSt.stagedBytes (p : PodSt) (image : Nat) : List Byte :=
  (sortBy (fun a b => decide (a.1 ≤ b.1)) ((p.staged.filter (·.1 == image)).map (·.2))).flatMap (·.2)

/-- IMAGE_CHECK_DONE: a whole image whose signature checks is activated; another is discarded (R460). -/
def State.imageCheck (s : State) : State :=
  match s.pod.whole with
  | [] => s
  | image :: rest =>
    let bytes := s.pod.stagedBytes image
    s.modPod fun p =>
      { p with whole := rest, staged := p.staged.filter (·.1 != image),
               active := if Config.signatureOk bytes then (image, bytes) :: p.active.filter (·.1 != image) else p.active }

/-- IMAGE_CHECK_DONE (R460). -/
def execImageCheckDone (s : State) : Host.Outcome State Fault Refusal := run (modify State.imageCheck) s

/-- LOAD_TIMER_EXPIRY: the follower discards what is not activated and starts the next round without its leader (R460). -/
def State.loadTimer (s : State) : State :=
  match s.pod.timerEnd with
  | none => s
  | some w => if s.wall < w then s else s.startRound (s.pod.round + 1) (s.pod.excluded ++ s.pod.leader.toList)

/-- LOAD_TIMER_EXPIRY (R460). -/
def execLoadTimerExpiry (s : State) : Host.Outcome State Fault Refusal := run (modify State.loadTimer) s

/-! ## Attestation (R461) -/

/-- The body of an attestation report: nonce, PKGID, ordering code, the digests (R461; the order of its parts is log 10's). -/
def State.reportBody (s : State) (nonce : BitVec 256) : List Byte :=
  let dig (b : List Byte) : List Byte := leBytes (Config.digest b).toNat 32
  leBytes nonce.toNat 32 ++ leBytes s.pkg 4 ++ leBytes s.bigMem.toNat 1 ++ dig s.boot.image ++ dig s.boot.assistText ++
    s.pod.active.flatMap fun a => dig a.2

/-- ATTESTATION_REQUEST: the report goes to whoever asked (R461). -/
def execAttestationRequest (q : AttestRequest) (s : State) : Host.Outcome State Fault Refusal :=
  run (modify fun s =>
    let b := s.reportBody q.nonce
    ({ s with boot := { s.boot with reports := s.boot.reports + 1 } } : State).send (.report q.asker q.nonce b (Config.sign b))) s

end Sys2Proof.Machine
end

