-- ==== Sys2Proof/Machine/Power.lean ====
section
/-!
DEFINITION. Supply, clock, power and ageing (R462 to R464). How far the part lowers a supply is its own choice, a free value
(log 15).
-/
namespace Sys2Proof.Machine

/-- A supply in its range (R462). -/
def clampSupply (mv : Nat) : Nat := max 500 (min mv 750)

/-- SUPPLY_CHANGE (R462). -/
def execSupplyChange (mv : Nat) (s : State) : Host.Outcome State Fault Refusal :=
  run (modify fun s => { s with supply := clampSupply mv }) s

/-- A supply lowered by the part from `mv`, never below 500 mV (R464): how far is free. -/
def lowerSupply (ctr mv : Nat) : Nat := 500 + Config.capSupply ctr % max 1 (mv - 500)

/-- POWER_CAP_ADJUST: while EN is 1 and the 10 ms average exceeds LIMIT, the supply is lowered; once it does not, the cap holds
nothing back (R464). -/
def State.capAdjust (s : State) (watts : Nat) : State :=
  if !s.ctl.pwrcap.getLsbD 16 then s
  else if watts ≤ bitsOf s.ctl.pwrcap 15 0 then { s with capped := 750 }
  else { s with capped := lowerSupply s.freeCtr (min s.supply s.capped), freeCtr := s.freeCtr + 1 }

/-- POWER_CAP_ADJUST (R464). -/
def execPowerCapAdjust (watts : Nat) (s : State) : Host.Outcome State Fault Refusal := run (modify (·.capAdjust watts)) s

/-- The telemetry of one die changed. -/
def State.modTele (s : State) (d : Nat) (f : Telemetry → Telemetry) : State := { s with tele := s.tele.modify d f }

/-- Whether THERM_TRIP is due at a temperature in 1/16 °C: 115 °C (R464). -/
def tripTemp : Int := 1840

/-- A die's temperature: at 105 °C its supply is lowered from what it is under the cap, at 115 °C every clock stops (R464). -/
def State.heat (s : State) (d : Nat) (temp : Int) : State :=
  let s := if tripTemp ≤ temp then { s with trip := true } else s
  if 1680 ≤ temp then
    ({ s with freeCtr := s.freeCtr + 1 } : State).modTele d fun t => { t with temp := temp, mv := lowerSupply s.freeCtr (min (min s.supply s.capped) t.mv) }
  else s.modTele d fun t => { t with temp := temp, mv := 750 }

/-- THERMAL_THROTTLE (R464). -/
def execThermalThrottle (d : Nat) (temp : Int) (s : State) : Host.Outcome State Fault Refusal := run (modify (·.heat d temp)) s

/-- THERMAL_TRIP (R464): every clock stops until module reset. -/
def execThermalTrip (d : Nat) (temp : Int) (s : State) : Host.Outcome State Fault Refusal := run (modify (·.heat d temp)) s

/-- AGEING_UPDATE: MONTHS, 0xFFFF for 65 535 or more (R463). -/
def execAgeingUpdate (d months : Nat) (s : State) : Host.Outcome State Fault Refusal :=
  run (modify (·.modTele d fun t => { t with months := min months 0xFFFF })) s

end Sys2Proof.Machine
end

