-- ==== Sys2Proof/Machine/Debug.lean ====
section
/-!
DEFINITION. The snapshot trigger's steps (R446 to R448) and unassigned opcodes (R107).
-/
namespace Sys2Proof.Machine

/-- SNAPSHOT_TRIGGER: an enabled trigger of a source fires with a tag, at the I/O dies (R446). -/
def execSnapshotTrigger (src : Nat) (tag : W64) (s : State) : Host.Outcome State Fault Refusal :=
  run (modify fun s => if src < 4 then s.fireTrigger src 8 (bitsOf tag 15 0) else s) s

/-- SNAPCMP_MATCH: CYCLE equals SNAPCMP (R202, R446). -/
def execSnapcmpMatch (s : State) : Host.Outcome State Fault Refusal :=
  run (modify fun s => if s.now % 2 ^ 64 = s.ctl.snapCmp.toNat then s.fireTrigger srcCounter 8 0 else s) s

/-- TRIG_IN: the pin rises (R446). -/
def execTrigIn (s : State) : Host.Outcome State Fault Refusal := run (modify (·.fireTrigger srcPin 8 0)) s

/-- The snapshot registers of a die's cores and its own latch (R448). -/
def State.latchDie (s : State) (d : Nat) : State :=
  let unit (c n : Nat) : Nat := (s.cmds.filter fun x => x.c == c && x.unit == n && x.state != .done).length
  { s with cores := (s.cores.zipIdx).map fun (co, c) => if dieOf c = d then { co with snap := co.snapshot (unit c 2) (unit c 0) (unit c 3) } else co,
           dies := s.dies.modify d fun x => { x with snap := x.snapshot } }

/-- SNAPCTL once the latch is made: LATCHED, SRC and TAG set, ARM clear (R446). -/
def latchedCtl (v : W64) (src tag : Nat) : W64 :=
  BitVec.ofNat 64 ((if src / 4 % 2 = 1 then tag % 2 ^ 16 else bitsOf v 47 32) * 2 ^ 32 + bitsOf v 31 16 * 2 ^ 16 + src % 16 * 2 ^ 12 +
    bitsOf v 11 8 * 2 ^ 8 + 2)

/-- SNAPSHOT_LATCH: the dies where the trigger of cycle c fired latch at the end of c + 1, each other die at the end of c + 2 or
c + 3, and then LATCHED is set (R446). -/
def State.snapshotStep (s : State) : State :=
  match s.ctl.snapDue with
  | none => s
  | some (c, fired, src, tag) =>
    let due := (List.range 8).filter fun d =>
      if fired.contains d then s.now == c + 1 else s.now == c + 2 + (Config.snapLate c d).toNat
    let t := due.foldl State.latchDie s
    if s.now < c + 3 then t
    else t.modCtl fun x => { x with snapDue := none, snapCtl := latchedCtl x.snapCtl src tag }

/-- SNAPSHOT_LATCH (R446). -/
def execSnapshotLatch (s : State) : Host.Outcome State Fault Refusal := run (modify State.snapshotStep) s

/-- UNASSIGNED_OPCODE: illegal-instruction at decode (R107). -/
def execUnassignedOpcode (_ : W96) (s : State) : Host.Outcome State Fault Refusal := run illegal s

end Sys2Proof.Machine
end

