-- ==== Sys2Proof/Machine/ScalarFloat.lean ====
section
/-!
DEFINITION. The scalar float unit of S (R197 to R200): f32 operands in bits 31 to 0, one rounding, subnormals produced
directly.
-/
namespace Sys2Proof.Machine

/-- The rounding of a scalar word: under RND 2 the low SRN + 1 bits of register RB (R48, R49, R197). -/
def roundingS (x : RWord) : M Rounding :=
  if x.rnd = 2 then do
    let v ← readReg x.rb.toNat
    pure ⟨2, v.toNat % 2 ^ (x.srn.toNat + 1), x.srn.toNat + 1⟩
  else pure ⟨x.rnd.toNat, 0, 1⟩

/-- An f32 operand. -/
def f32In (v : W64) : FVal := unpackF 10 (v.toNat % 2 ^ 32)

/-- An f32 result as S writes it: D[63:32] zero (R197). -/
def f32Out (r : Rounding) (e : Exact) : W64 := BitVec.ofNat 64 (roundF 10 r e).bits

/-- A float word of up to three sources (R197, R198). -/
def floatWord (x : RWord) (a b c : BitVec 6) (lat : Nat) (f : Rounding → W64 → W64 → W64 → W64) : M Unit := do
  let on ← guardOn x.guard
  let u ← source on a
  let v ← source on b
  let w ← source on c
  if on then do
    let r ← roundingS x
    writeReg x.d.toNat (f r u v w) lat
  else pure ()
  advance

/-- FCVT's result (R199): i32 sign-extended, the others zero-extended. An integer destination saturates on overflow, from an integer source too
(R47; log 18). -/
def fcvtResult (dst src : Nat) (r : Rounding) (v : W64) : W64 :=
  let bits := v.toNat % 2 ^ typeWidth src
  let z := if isFloatT src || isFloatT dst then (convert dst src r bits).bits
    else satInt dst (intVal src bits)
  if dst = 6 then wrapTo 64 (intVal 6 z) else BitVec.ofNat 64 z

/-- FCVT (R199). -/
def execFcvt (x : RWord) (s : State) : Host.Outcome State Fault Refusal :=
  run (floatWord x x.a 0 0 4 fun r u _ _ => fcvtResult x.type.toNat x.sub.toNat r u) s

/-- FCMP's relation by SUB (R200). -/
def fcmpRel (sub : Nat) (a b : W64) : Bool :=
  match cmpF (f32In a) (f32In b) with
  | none => sub == 3
  | some z => if sub = 0 then z == 0 else if sub = 1 then z == -1 else if sub = 2 then z != 1 else false

/-- FCMP (R200). -/
def execFcmp (x : RWord) (s : State) : Host.Outcome State Fault Refusal :=
  run (compareWord x.guard x.d x.a x.b x.c.toNat 0 4 (fcmpRel x.sub.toNat)) s

/-- FADD (R198). -/
def execFadd (x : RWord) (s : State) : Host.Outcome State Fault Refusal :=
  run (floatWord x x.a x.b 0 4 fun r u v _ => f32Out r (addF (f32In u) (f32In v))) s

/-- FSUB (R198). -/
def execFsub (x : RWord) (s : State) : Host.Outcome State Fault Refusal :=
  run (floatWord x x.a x.b 0 4 fun r u v _ => f32Out r (addF (f32In u) (f32In v).negate)) s

/-- FMUL (R198). -/
def execFmul (x : RWord) (s : State) : Host.Outcome State Fault Refusal :=
  run (floatWord x x.a x.b 0 4 fun r u v _ => f32Out r (mulF (f32In u) (f32In v))) s

/-- FFMA (R198): one rounding. -/
def execFfma (x : RWord) (s : State) : Host.Outcome State Fault Refusal :=
  run (floatWord x x.a x.b x.c 4 fun r u v w => f32Out r (fmaF (f32In u) (f32In v) (f32In w))) s

/-- FDIV (R198). -/
def execFdiv (x : RWord) (s : State) : Host.Outcome State Fault Refusal :=
  run (floatWord x x.a x.b 0 14 fun r u v _ => f32Out r (divF (f32In u) (f32In v))) s

/-- FSQRT (R198). -/
def execFsqrt (x : RWord) (s : State) : Host.Outcome State Fault Refusal :=
  run (floatWord x x.a 0 0 16 fun r u _ _ => f32Out r (sqrtF (f32In u))) s

/-- FMIN (R198). -/
def execFmin (x : RWord) (s : State) : Host.Outcome State Fault Refusal :=
  run (floatWord x x.a x.b 0 4 fun _ u v _ => BitVec.ofNat 64 (selectF 10 false (u.toNat % 2 ^ 32) (v.toNat % 2 ^ 32))) s

/-- FMAX (R198). -/
def execFmax (x : RWord) (s : State) : Host.Outcome State Fault Refusal :=
  run (floatWord x x.a x.b 0 4 fun _ u v _ => BitVec.ofNat 64 (selectF 10 true (u.toNat % 2 ^ 32) (v.toNat % 2 ^ 32))) s

/-- FCLASS (R200). -/
def execFclass (x : RWord) (s : State) : Host.Outcome State Fault Refusal :=
  run (floatWord x x.a 0 0 4 fun _ u _ _ => BitVec.ofNat 64 (classF 10 (u.toNat % 2 ^ 32))) s

end Sys2Proof.Machine
end

