-- ==== Sys2Proof/Machine/Dispatch.lean ====
section
/-!
DEFINITION. The one dispatch: an arm for every instruction and step of the opcode table, each one direct call of its meaning.
-/
namespace Sys2Proof.Machine

/-- The meaning of an instruction or step at a state. -/
def exec (i : Instr) (s : State) : Host.Outcome State Fault Refusal :=
  match i with
  | .nop x => Sys2Proof.Machine.execNop x s
  | .br x => Sys2Proof.Machine.execBr x s
  | .brc x => Sys2Proof.Machine.execBrc x s
  | .call x => Sys2Proof.Machine.execCall x s
  | .ret x => Sys2Proof.Machine.execRet x s
  | .lset x => Sys2Proof.Machine.execLset x s
  | .loop x => Sys2Proof.Machine.execLoop x s
  | .yield x => Sys2Proof.Machine.execYield x s
  | .halt x => Sys2Proof.Machine.execHalt x s
  | .trap x => Sys2Proof.Machine.execTrap x s
  | .sqpush x => Sys2Proof.Machine.execSqpush x s
  | .wsec x => Sys2Proof.Machine.execWsec x s
  | .barinit x => Sys2Proof.Machine.execBarinit x s
  | .barinitF x => Sys2Proof.Machine.execBarinitF x s
  | .barrive x => Sys2Proof.Machine.execBarrive x s
  | .barriveR x => Sys2Proof.Machine.execBarriveR x s
  | .bwait x => Sys2Proof.Machine.execBwait x s
  | .btest x => Sys2Proof.Machine.execBtest x s
  | .fence x => Sys2Proof.Machine.execFence x s
  | .memModifier x => Sys2Proof.Machine.execMemModifier x s
  | .brk x => Sys2Proof.Machine.execBrk x s
  | .add x => Sys2Proof.Machine.execAdd x s
  | .sub x => Sys2Proof.Machine.execSub x s
  | .mul x => Sys2Proof.Machine.execMul x s
  | .mulh x => Sys2Proof.Machine.execMulh x s
  | .div x => Sys2Proof.Machine.execDiv x s
  | .divw x => Sys2Proof.Machine.execDivw x s
  | .rem x => Sys2Proof.Machine.execRem x s
  | .remw x => Sys2Proof.Machine.execRemw x s
  | .and x => Sys2Proof.Machine.execAnd x s
  | .or x => Sys2Proof.Machine.execOr x s
  | .xor x => Sys2Proof.Machine.execXor x s
  | .andn x => Sys2Proof.Machine.execAndn x s
  | .shl x => Sys2Proof.Machine.execShl x s
  | .shr x => Sys2Proof.Machine.execShr x s
  | .sra x => Sys2Proof.Machine.execSra x s
  | .rol x => Sys2Proof.Machine.execRol x s
  | .addI x => Sys2Proof.Machine.execAddI x s
  | .subI x => Sys2Proof.Machine.execSubI x s
  | .mulI x => Sys2Proof.Machine.execMulI x s
  | .mulhI x => Sys2Proof.Machine.execMulhI x s
  | .divI x => Sys2Proof.Machine.execDivI x s
  | .divwI x => Sys2Proof.Machine.execDivwI x s
  | .remI x => Sys2Proof.Machine.execRemI x s
  | .remwI x => Sys2Proof.Machine.execRemwI x s
  | .andI x => Sys2Proof.Machine.execAndI x s
  | .orI x => Sys2Proof.Machine.execOrI x s
  | .xorI x => Sys2Proof.Machine.execXorI x s
  | .andnI x => Sys2Proof.Machine.execAndnI x s
  | .shlI x => Sys2Proof.Machine.execShlI x s
  | .shrI x => Sys2Proof.Machine.execShrI x s
  | .sraI x => Sys2Proof.Machine.execSraI x s
  | .rolI x => Sys2Proof.Machine.execRolI x s
  | .clz x => Sys2Proof.Machine.execClz x s
  | .ctz x => Sys2Proof.Machine.execCtz x s
  | .popc x => Sys2Proof.Machine.execPopc x s
  | .min x => Sys2Proof.Machine.execMin x s
  | .max x => Sys2Proof.Machine.execMax x s
  | .minw x => Sys2Proof.Machine.execMinw x s
  | .maxw x => Sys2Proof.Machine.execMaxw x s
  | .sext x => Sys2Proof.Machine.execSext x s
  | .zext x => Sys2Proof.Machine.execZext x s
  | .mov x => Sys2Proof.Machine.execMov x s
  | .sel x => Sys2Proof.Machine.execSel x s
  | .bext x => Sys2Proof.Machine.execBext x s
  | .bins x => Sys2Proof.Machine.execBins x s
  | .bset x => Sys2Proof.Machine.execBset x s
  | .bclr x => Sys2Proof.Machine.execBclr x s
  | .btgl x => Sys2Proof.Machine.execBtgl x s
  | .cmpeq x => Sys2Proof.Machine.execCmpeq x s
  | .cmpne x => Sys2Proof.Machine.execCmpne x s
  | .cmplt x => Sys2Proof.Machine.execCmplt x s
  | .cmpltw x => Sys2Proof.Machine.execCmpltw x s
  | .cmple x => Sys2Proof.Machine.execCmple x s
  | .cmplew x => Sys2Proof.Machine.execCmplew x s
  | .movi x => Sys2Proof.Machine.execMovi x s
  | .movhi x => Sys2Proof.Machine.execMovhi x s
  | .lea x => Sys2Proof.Machine.execLea x s
  | .ld x => Sys2Proof.Machine.execLd x s
  | .st x => Sys2Proof.Machine.execSt x s
  | .aadd x => Sys2Proof.Machine.execAadd x s
  | .aand x => Sys2Proof.Machine.execAand x s
  | .aor x => Sys2Proof.Machine.execAor x s
  | .axor x => Sys2Proof.Machine.execAxor x s
  | .amin x => Sys2Proof.Machine.execAmin x s
  | .amax x => Sys2Proof.Machine.execAmax x s
  | .axchg x => Sys2Proof.Machine.execAxchg x s
  | .acas x => Sys2Proof.Machine.execAcas x s
  | .pld x => Sys2Proof.Machine.execPld x s
  | .fadd x => Sys2Proof.Machine.execFadd x s
  | .fsub x => Sys2Proof.Machine.execFsub x s
  | .fmul x => Sys2Proof.Machine.execFmul x s
  | .ffma x => Sys2Proof.Machine.execFfma x s
  | .fdiv x => Sys2Proof.Machine.execFdiv x s
  | .fsqrt x => Sys2Proof.Machine.execFsqrt x s
  | .fmin x => Sys2Proof.Machine.execFmin x s
  | .fmax x => Sys2Proof.Machine.execFmax x s
  | .fcvt x => Sys2Proof.Machine.execFcvt x s
  | .fcmp x => Sys2Proof.Machine.execFcmp x s
  | .fclass x => Sys2Proof.Machine.execFclass x s
  | .srd x => Sys2Proof.Machine.execSrd x s
  | .swr x => Sys2Proof.Machine.execSwr x s
  | .flgrd x => Sys2Proof.Machine.execFlgrd x s
  | .tdef x => Sys2Proof.Machine.execTdef x s
  | .tfree x => Sys2Proof.Machine.execTfree x s
  | .tinfo x => Sys2Proof.Machine.execTinfo x s
  | .cdef x => Sys2Proof.Machine.execCdef x s
  | .cfree x => Sys2Proof.Machine.execCfree x s
  | .launch x => Sys2Proof.Machine.execLaunch x s
  | .lwaitW x => Sys2Proof.Machine.execLwaitW x s
  | .lwaitT x => Sys2Proof.Machine.execLwaitT x s
  | .pbind x => Sys2Proof.Machine.execPbind x s
  | .rinit x => Sys2Proof.Machine.execRinit x s
  | .rnext x => Sys2Proof.Machine.execRnext x s
  | .qpush x => Sys2Proof.Machine.execQpush x s
  | .qpushT x => Sys2Proof.Machine.execQpushT x s
  | .qpop x => Sys2Proof.Machine.execQpop x s
  | .qpopT x => Sys2Proof.Machine.execQpopT x s
  | .qdepth x => Sys2Proof.Machine.execQdepth x s
  | .nmax x => Sys2Proof.Machine.execNmax x s
  | .nexps x => Sys2Proof.Machine.execNexps x s
  | .nscale x => Sys2Proof.Machine.execNscale x s
  | .nrow x => Sys2Proof.Machine.execNrow x s
  | .nnorm x => Sys2Proof.Machine.execNnorm x s
  | .xrd x => Sys2Proof.Machine.execXrd x s
  | .xwr x => Sys2Proof.Machine.execXwr x s
  | .xdone x => Sys2Proof.Machine.execXdone x s
  | .aret x => Sys2Proof.Machine.execAret x s
  | .tokpop x => Sys2Proof.Machine.execTokpop x s
  | .tokpopT x => Sys2Proof.Machine.execTokpopT x s
  | .tokpush x => Sys2Proof.Machine.execTokpush x s
  | .tokend x => Sys2Proof.Machine.execTokend x s
  | .aqrd x => Sys2Proof.Machine.execAqrd x s
  | .aqwr x => Sys2Proof.Machine.execAqwr x s
  | .gather x => Sys2Proof.Machine.execGather x s
  | .scatter x => Sys2Proof.Machine.execScatter x s
  | .gcompact x => Sys2Proof.Machine.execGcompact x s
  | .pref x => Sys2Proof.Machine.execPref x s
  | .bmv x => Sys2Proof.Machine.execBmv x s
  | .bdot x => Sys2Proof.Machine.execBdot x s
  | .join x => Sys2Proof.Machine.execJoin x s
  | .cinit x => Sys2Proof.Machine.execCinit x s
  | .cdrain x => Sys2Proof.Machine.execCdrain x s
  | .cdrainL x => Sys2Proof.Machine.execCdrainL x s
  | .cstat x => Sys2Proof.Machine.execCstat x s
  | .bdump x => Sys2Proof.Machine.execBdump x s
  | .banch x => Sys2Proof.Machine.execBanch x s
  | .banchR x => Sys2Proof.Machine.execBanchR x s
  | .cpy x => Sys2Proof.Machine.execCpy x s
  | .cpyf x => Sys2Proof.Machine.execCpyf x s
  | .cpyz x => Sys2Proof.Machine.execCpyz x s
  | .cqstat x => Sys2Proof.Machine.execCqstat x s
  | .qfence x => Sys2Proof.Machine.execQfence x s
  | .qjoin x => Sys2Proof.Machine.execQjoin x s
  | .sort x => Sys2Proof.Machine.execSort x s
  | .sortk x => Sys2Proof.Machine.execSortk x s
  | .vadd x => Sys2Proof.Machine.execVadd x s
  | .vsub x => Sys2Proof.Machine.execVsub x s
  | .vmul x => Sys2Proof.Machine.execVmul x s
  | .vmulh x => Sys2Proof.Machine.execVmulh x s
  | .vmad x => Sys2Proof.Machine.execVmad x s
  | .vfma x => Sys2Proof.Machine.execVfma x s
  | .vmin x => Sys2Proof.Machine.execVmin x s
  | .vmax x => Sys2Proof.Machine.execVmax x s
  | .vabs x => Sys2Proof.Machine.execVabs x s
  | .vneg x => Sys2Proof.Machine.execVneg x s
  | .vand x => Sys2Proof.Machine.execVand x s
  | .vor x => Sys2Proof.Machine.execVor x s
  | .vxor x => Sys2Proof.Machine.execVxor x s
  | .vnot x => Sys2Proof.Machine.execVnot x s
  | .vshl x => Sys2Proof.Machine.execVshl x s
  | .vshr x => Sys2Proof.Machine.execVshr x s
  | .vsra x => Sys2Proof.Machine.execVsra x s
  | .vsel x => Sys2Proof.Machine.execVsel x s
  | .vcmpeq x => Sys2Proof.Machine.execVcmpeq x s
  | .vcmpne x => Sys2Proof.Machine.execVcmpne x s
  | .vcmplt x => Sys2Proof.Machine.execVcmplt x s
  | .vcmple x => Sys2Proof.Machine.execVcmple x s
  | .vcvt x => Sys2Proof.Machine.execVcvt x s
  | .vwadd x => Sys2Proof.Machine.execVwadd x s
  | .vwmul x => Sys2Proof.Machine.execVwmul x s
  | .vwmad x => Sys2Proof.Machine.execVwmad x s
  | .vnrw x => Sys2Proof.Machine.execVnrw x s
  | .vunpk x => Sys2Proof.Machine.execVunpk x s
  | .vpack x => Sys2Proof.Machine.execVpack x s
  | .vbxn x => Sys2Proof.Machine.execVbxn x s
  | .vlut x => Sys2Proof.Machine.execVlut x s
  | .vperm x => Sys2Proof.Machine.execVperm x s
  | .vshuf x => Sys2Proof.Machine.execVshuf x s
  | .vslide x => Sys2Proof.Machine.execVslide x s
  | .vbcast x => Sys2Proof.Machine.execVbcast x s
  | .vmov x => Sys2Proof.Machine.execVmov x s
  | .vmovi x => Sys2Proof.Machine.execVmovi x s
  | .vredsum x => Sys2Proof.Machine.execVredsum x s
  | .vredmax x => Sys2Proof.Machine.execVredmax x s
  | .vredmin x => Sys2Proof.Machine.execVredmin x s
  | .vscan x => Sys2Proof.Machine.execVscan x s
  | .vpopc x => Sys2Proof.Machine.execVpopc x s
  | .vtest x => Sys2Proof.Machine.execVtest x s
  | .vfrcp x => Sys2Proof.Machine.execVfrcp x s
  | .vfrsq x => Sys2Proof.Machine.execVfrsq x s
  | .vchain x => Sys2Proof.Machine.execVchain x s
  | .vtld x => Sys2Proof.Machine.execVtld x s
  | .vtst x => Sys2Proof.Machine.execVtst x s
  | .vqpush x => Sys2Proof.Machine.execVqpush x s
  | .vqpop x => Sys2Proof.Machine.execVqpop x s
  | .nhLq rd rs1 => Sys2Proof.Machine.execNhLq rd rs1 s
  | .nhLwait rd rs1 => Sys2Proof.Machine.execNhLwait rd rs1 s
  | .nhFqpop rd rs1 => Sys2Proof.Machine.execNhFqpop rd rs1 s
  | .nhInval rd rs1 rs2 => Sys2Proof.Machine.execNhInval rd rs1 rs2 s
  | .nhFpool rd rs1 rs2 => Sys2Proof.Machine.execNhFpool rd rs1 rs2 s
  | .nhIcinv rd rs1 rs2 => Sys2Proof.Machine.execNhIcinv rd rs1 rs2 s
  | .nhTrig rd rs1 => Sys2Proof.Machine.execNhTrig rd rs1 s
  | .nhFence rd rs1 => Sys2Proof.Machine.execNhFence rd rs1 s
  | .mailboxSubmit mb dw => Sys2Proof.Machine.execMailboxSubmit mb dw s
  | .launchAcceptance mb => Sys2Proof.Machine.execLaunchAcceptance mb s
  | .childAcceptAfterYield lvl => Sys2Proof.Machine.execChildAcceptAfterYield lvl s
  | .placement => Sys2Proof.Machine.execPlacement s
  | .contextCreation c lid => Sys2Proof.Machine.execContextCreation c lid s
  | .patienceExpiry lid => Sys2Proof.Machine.execPatienceExpiry lid s
  | .sectionEntry c e => Sys2Proof.Machine.execSectionEntry c e s
  | .sectionRetire c k e => Sys2Proof.Machine.execSectionRetire c k e s
  | .endOfText c e => Sys2Proof.Machine.execEndOfText c e s
  | .engineDropOut c k e => Sys2Proof.Machine.execEngineDropOut c k e s
  | .contextSwitch c e => Sys2Proof.Machine.execContextSwitch c e s
  | .watchdogExpiry c e => Sys2Proof.Machine.execWatchdogExpiry c e s
  | .scalarResultWriteback c k e => Sys2Proof.Machine.execScalarResultWriteback c k e s
  | .vectorResultWriteback c k => Sys2Proof.Machine.execVectorResultWriteback c k s
  | .flagWrite c k => Sys2Proof.Machine.execFlagWrite c k s
  | .inboundQueueArrival c k => Sys2Proof.Machine.execInboundQueueArrival c k s
  | .tileStoreEffect c k => Sys2Proof.Machine.execTileStoreEffect c k s
  | .rangeUnitService lid st => Sys2Proof.Machine.execRangeUnitService lid st s
  | .stageQueueArrival lid q => Sys2Proof.Machine.execStageQueueArrival lid q s
  | .stageQueueHeldRetry lid q => Sys2Proof.Machine.execStageQueueHeldRetry lid q s
  | .stageQueueAnswer c k => Sys2Proof.Machine.execStageQueueAnswer c k s
  | .icacheFill c => Sys2Proof.Machine.execIcacheFill c s
  | .walk d => Sys2Proof.Machine.execWalk d s
  | .frameZeroed d => Sys2Proof.Machine.execFrameZeroed d s
  | .faultQueueEnter => Sys2Proof.Machine.execFaultQueueEnter s
  | .loadReturn c k e => Sys2Proof.Machine.execLoadReturn c k e s
  | .accessAtHomeDie j => Sys2Proof.Machine.execAccessAtHomeDie j s
  | .writePropagate j => Sys2Proof.Machine.execWritePropagate j s
  | .invalidationAck j => Sys2Proof.Machine.execInvalidationAck j s
  | .copyStart d => Sys2Proof.Machine.execCopyStart d s
  | .copyPart id => Sys2Proof.Machine.execCopyPart id s
  | .copyRowPerformed id => Sys2Proof.Machine.execCopyRowPerformed id s
  | .copySteal d => Sys2Proof.Machine.execCopySteal d s
  | .carriedWordEntry id => Sys2Proof.Machine.execCarriedWordEntry id s
  | .joinMarkerComplete id => Sys2Proof.Machine.execJoinMarkerComplete id s
  | .inboxPushArrival ib push => Sys2Proof.Machine.execInboxPushArrival ib push s
  | .inboxAnswer id => Sys2Proof.Machine.execInboxAnswer id s
  | .parkResend id => Sys2Proof.Machine.execParkResend id s
  | .parkLimitExpiry id => Sys2Proof.Machine.execParkLimitExpiry id s
  | .inboxOverflowMove ib => Sys2Proof.Machine.execInboxOverflowMove ib s
  | .walkEntryPush c => Sys2Proof.Machine.execWalkEntryPush c s
  | .sortRow c => Sys2Proof.Machine.execSortRow c s
  | .sortkComplete c => Sys2Proof.Machine.execSortkComplete c s
  | .contractionStart c => Sys2Proof.Machine.execContractionStart c s
  | .bucketRowComplete c => Sys2Proof.Machine.execBucketRowComplete c s
  | .catalogueApply c j => Sys2Proof.Machine.execCatalogueApply c j s
  | .contractionComplete c => Sys2Proof.Machine.execContractionComplete c s
  | .drainComplete c => Sys2Proof.Machine.execDrainComplete c s
  | .rowEngineRowComplete c => Sys2Proof.Machine.execRowEngineRowComplete c s
  | .barrierArrival c => Sys2Proof.Machine.execBarrierArrival c s
  | .requestArrival msg => Sys2Proof.Machine.execRequestArrival msg s
  | .tokeniseDone tk => Sys2Proof.Machine.execTokeniseDone tk s
  | .heldRequestPost q => Sys2Proof.Machine.execHeldRequestPost q s
  | .tokpopTileWrite c => Sys2Proof.Machine.execTokpopTileWrite c s
  | .detokeniserTake d => Sys2Proof.Machine.execDetokeniserTake d s
  | .replyClose d => Sys2Proof.Machine.execReplyClose d s
  | .rqbindWrite q v => Sys2Proof.Machine.execRqbindWrite q v s
  | .vocabWrite j v => Sys2Proof.Machine.execVocabWrite j v s
  | .vocabCheckDone j => Sys2Proof.Machine.execVocabCheckDone j s
  | .inboxBindWrite ib v => Sys2Proof.Machine.execInboxBindWrite ib v s
  | .completionRecordWrite => Sys2Proof.Machine.execCompletionRecordWrite s
  | .ringTailRecheck => Sys2Proof.Machine.execRingTailRecheck s
  | .launchRetire lid => Sys2Proof.Machine.execLaunchRetire lid s
  | .launchEnd lid => Sys2Proof.Machine.execLaunchEnd lid s
  | .fqackWrite v => Sys2Proof.Machine.execFqackWrite v s
  | .launchStop lid => Sys2Proof.Machine.execLaunchStop lid s
  | .subnormalAssistEntry c => Sys2Proof.Machine.execSubnormalAssistEntry c s
  | .preemption lid => Sys2Proof.Machine.execPreemption lid s
  | .savePoolReserve lid => Sys2Proof.Machine.execSavePoolReserve lid s
  | .preemptionComplete lid => Sys2Proof.Machine.execPreemptionComplete lid s
  | .restore lid => Sys2Proof.Machine.execRestore lid s
  | .preqWrite v => Sys2Proof.Machine.execPreqWrite v s
  | .peerRequestArrival req => Sys2Proof.Machine.execPeerRequestArrival req s
  | .peerReplyArrival rep => Sys2Proof.Machine.execPeerReplyArrival rep s
  | .linkDown p => Sys2Proof.Machine.execLinkDown p s
  | .linkRetrained p width => Sys2Proof.Machine.execLinkRetrained p width s
  | .linkReservationExpiry p => Sys2Proof.Machine.execLinkReservationExpiry p s
  | .moduleReset hostsel => Sys2Proof.Machine.execModuleReset hostsel s
  | .bootImageVerified img set => Sys2Proof.Machine.execBootImageVerified img set s
  | .helloReceived msg => Sys2Proof.Machine.execHelloReceived msg s
  | .helloWindowExpiry => Sys2Proof.Machine.execHelloWindowExpiry s
  | .claimReceived msg => Sys2Proof.Machine.execClaimReceived msg s
  | .demoteReceived msg => Sys2Proof.Machine.execDemoteReceived msg s
  | .configMessage msg => Sys2Proof.Machine.execConfigMessage msg s
  | .imageCheckDone => Sys2Proof.Machine.execImageCheckDone s
  | .loadTimerExpiry => Sys2Proof.Machine.execLoadTimerExpiry s
  | .attestationRequest q => Sys2Proof.Machine.execAttestationRequest q s
  | .pwrcapWrite v => Sys2Proof.Machine.execPwrcapWrite v s
  | .powerCapAdjust watts => Sys2Proof.Machine.execPowerCapAdjust watts s
  | .thermalThrottle d temp => Sys2Proof.Machine.execThermalThrottle d temp s
  | .thermalTrip d temp => Sys2Proof.Machine.execThermalTrip d temp s
  | .supplyChange mv => Sys2Proof.Machine.execSupplyChange mv s
  | .ageingUpdate d months => Sys2Proof.Machine.execAgeingUpdate d months s
  | .snapshotTrigger src tag => Sys2Proof.Machine.execSnapshotTrigger src tag s
  | .snapcmpMatch => Sys2Proof.Machine.execSnapcmpMatch s
  | .trigIn => Sys2Proof.Machine.execTrigIn s
  | .snapshotLatch => Sys2Proof.Machine.execSnapshotLatch s
  | .lateCountClear d => Sys2Proof.Machine.execLateCountClear d s
  | .crdropClear => Sys2Proof.Machine.execCrdropClear s
  | .racectlOvfClear => Sys2Proof.Machine.execRacectlOvfClear s
  | .registerWrite acc => Sys2Proof.Machine.execRegisterWrite acc s
  | .unassignedOpcode w => Sys2Proof.Machine.execUnassignedOpcode w s
  | .serviceCoreAccess n acc => Sys2Proof.Machine.execServiceCoreAccess n acc s
  | .unreliablePacketArrival p => Sys2Proof.Machine.execUnreliablePacketArrival p s
  | .rmaReadArrival p => Sys2Proof.Machine.execRmaReadArrival p s

end Sys2Proof.Machine
end

