-- ==== Sys2Proof/Machine/Pairing.lean ====
section
/-!
DEFINITION. A VQPOP issued together with the next word of its section (R215).
-/
namespace Sys2Proof.Machine

/-- Whether a word may issue beside a VQPOP by its kind (R215). -/
def pairKind (w : W96) (i : Instr) : Bool :=
  (match rowOf .V w with
   | some r => r.fmt == .R || r.fmt == .I
   | none => false) &&
    match i with
    | .loop _ => false
    | .brk _ => false
    | _ => true

/-- Whether the word V stands at after a VQPOP that wrote register `d` issues in the same cycle, `u` the state in which it would
(R215): it touches neither the register nor its side-car, which are then still being written, and no queue. -/
def State.pairsWith (u : State) (c k : Nat) (d : Nat) : Bool :=
  let u := u.modEng c k .V fun en => { en with busy := (d, u.now + 1) :: en.busy }
  match fetchWord u, u.here with
  | .ok (i, _), some h =>
    match standingWord h u with
    | .ok (w, _) =>
      pairKind w i &&
        match exec i u, u.ctx? c k with
        | .next v, some x =>
          match v.ctx? c k with
          | some y => ((y.eng .V).place != (x.eng .V).place || y.trap.isSome) && y.opqs == x.opqs && y.qpush == x.qpush
          | none => false
        | _, _ => false
    | .error _ => false
  | _, _ => false

/-- After V's word `i`, from `s` to `t`: a VQPOP that issued is followed in the same cycle by the next word of its section where
R215 pairs them. A single step issues one word (R445). -/
def afterPop (i : Instr) (c : Nat) (e : Engine) (s t : State) : State :=
  match i, e with
  | .vqpop x, .V =>
    match s.seat with
    | some (k, false) =>
      match s.ctx? c k, t.ctx? c k with
      | some x0, some y =>
        let before := ((x0 : Ctx).eng .V).sect.map fun (q : Sect) => q.widx + 1
        let after := ((y : Ctx).eng .V).sect.map fun (q : Sect) => q.widx
        if before = after ∧ !(y.eng .V).step ∧ t.pairsWith c k x.d.toNat then { t with agenda := .again c .V t.curTry :: t.agenda } else t
      | _, _ => t
    | _ => t
  | _, _ => t

end Sys2Proof.Machine
end

