-- ==== Sys2Proof/Machine/Step.lean ====
section
/-!
DEFINITION. One step of the machine: the first turn of the agenda, or a new cycle of the clock (log 1); and where a word is
placed so that the next step runs it (log 6).
-/
namespace Sys2Proof.Machine

/-- One of the part's own steps: the meaning the opcode table's row of its name has. -/
def runOwn (o : Own) (s : State) : Host.Outcome State Fault Refusal :=
  match o with
  | .launchAcceptance m => execLaunchAcceptance m s
  | .childAcceptAfterYield lvl => execChildAcceptAfterYield lvl s
  | .placement => execPlacement s
  | .contextCreation c lid => execContextCreation c lid s
  | .patienceExpiry lid => execPatienceExpiry lid s
  | .sectionEntry c e => execSectionEntry c e s
  | .sectionRetire c k e => execSectionRetire c k e s
  | .endOfText c e => execEndOfText c e s
  | .engineDropOut c k e => execEngineDropOut c k e s
  | .contextSwitch c e => execContextSwitch c e s
  | .scalarResultWriteback c k e => execScalarResultWriteback c k e s
  | .vectorResultWriteback c k => execVectorResultWriteback c k s
  | .flagWrite c k => execFlagWrite c k s
  | .inboundQueueArrival c k => execInboundQueueArrival c k s
  | .tileStoreEffect c k => execTileStoreEffect c k s
  | .rangeUnitService lid st => execRangeUnitService lid st s
  | .stageQueueArrival lid q => execStageQueueArrival lid q s
  | .stageQueueHeldRetry lid q => execStageQueueHeldRetry lid q s
  | .stageQueueAnswer c k => execStageQueueAnswer c k s
  | .icacheFill c => execIcacheFill c s
  | .walk d => execWalk d s
  | .frameZeroed d => execFrameZeroed d s
  | .faultQueueEnter => execFaultQueueEnter s
  | .loadReturn c k e => execLoadReturn c k e s
  | .accessAtHomeDie j => execAccessAtHomeDie j s
  | .writePropagate j => execWritePropagate j s
  | .invalidationAck j => execInvalidationAck j s
  | .copyStart d => execCopyStart d s
  | .copyPart id => execCopyPart id s
  | .copyRowPerformed id => execCopyRowPerformed id s
  | .copySteal d => execCopySteal d s
  | .carriedWordEntry id => execCarriedWordEntry id s
  | .joinMarkerComplete id => execJoinMarkerComplete id s
  | .inboxAnswer id => execInboxAnswer id s
  | .parkResend id => execParkResend id s
  | .parkLimitExpiry id => execParkLimitExpiry id s
  | .inboxOverflowMove ib => execInboxOverflowMove ib s
  | .walkEntryPush c => execWalkEntryPush c s
  | .sortRow c => execSortRow c s
  | .sortkComplete c => execSortkComplete c s
  | .contractionStart c => execContractionStart c s
  | .bucketRowComplete c => execBucketRowComplete c s
  | .catalogueApply c j => execCatalogueApply c j s
  | .contractionComplete c => execContractionComplete c s
  | .drainComplete c => execDrainComplete c s
  | .rowEngineRowComplete c => execRowEngineRowComplete c s
  | .barrierArrival c => execBarrierArrival c s
  | .tokeniseDone tk => execTokeniseDone tk s
  | .heldRequestPost q => execHeldRequestPost q s
  | .tokpopTileWrite c => execTokpopTileWrite c s
  | .detokeniserTake d => execDetokeniserTake d s
  | .replyClose d => execReplyClose d s
  | .vocabCheckDone j => execVocabCheckDone j s
  | .completionRecordWrite => execCompletionRecordWrite s
  | .ringTailRecheck => execRingTailRecheck s
  | .launchRetire lid => execLaunchRetire lid s
  | .launchEnd lid => execLaunchEnd lid s
  | .launchStop lid => execLaunchStop lid s
  | .subnormalAssistEntry c => execSubnormalAssistEntry c s
  | .preemption lid => execPreemption lid s
  | .savePoolReserve lid => execSavePoolReserve lid s
  | .preemptionComplete lid => execPreemptionComplete lid s
  | .restore lid => execRestore lid s
  | .linkReservationExpiry p => execLinkReservationExpiry p s
  | .helloWindowExpiry => execHelloWindowExpiry s
  | .imageCheckDone => execImageCheckDone s
  | .loadTimerExpiry => execLoadTimerExpiry s
  | .snapcmpMatch => execSnapcmpMatch s
  | .snapshotLatch => execSnapshotLatch s

/-- A next state put through what follows it. -/
def thenState (f : State → State) : Host.Outcome State Fault Refusal → Host.Outcome State Fault Refusal
  | .next t => .next (f t)
  | .fault r => .fault r
  | .refused r => .refused r

/-- An engine's turn (R160 to R167). -/
def engineTurn (c : Nat) (e : Engine) (s : State) : Host.Outcome State Fault Refusal :=
  match s.engineFetch c e with
  | .idle => .next s
  | .stop why t => thenState (afterTurn false c e t) (run (throw why) t)
  | .unit o t => thenState (afterUnit o c e t) (runOwn o t)
  | .word i t => thenState (fun u => afterPop i c e t (afterTurn true c e t u)) (exec i t)

/-- A service core's turn: one of the part's own instructions, another word of their opcode, which is an illegal instruction (R131),
or a standard one, which is RISC-V's (R10; log 5). -/
def serviceTurn (n : Nat) (s : State) : Host.Outcome State Fault Refusal :=
  match decodeService (s.serviceWord n) with
  | some i => exec i (s.onService n)
  | none =>
    if (s.serviceWord n).toNat % 128 = 0x0B then .next (s.onService n).svcIllegal else .refused .riscvInstruction

/-- A turn. -/
def runTurn (t : Turn) (s : State) : Host.Outcome State Fault Refusal :=
  match t with
  | .core c e => engineTurn c e { s with curTry := 0 }
  | .again c e n => engineTurn c e { s with curTry := n }
  | .service n => serviceTurn n s
  | .own o => runOwn o s
  | .event i => exec i s
  | .tick => .next s.tickStep

/-- One step: after THERM_TRIP nothing but a module reset moves (R464). -/
def step (s : State) : Host.Outcome State Fault Refusal :=
  match s.agenda with
  | [] => if s.trip then .fault .clocksStopped else .next s.tickStep
  | t :: rest =>
    match s.trip, t with
    | true, .event (.moduleReset h) => exec (.moduleReset h) { s with agenda := rest }
    | true, _ => .fault .clocksStopped
    | false, _ => runTurn t { s with agenda := rest }

/-- The launch of a placed word: one context on core 0, its text one section of two words at address 0 (log 6). -/
def probeLaunch : Launch :=
  { newLaunch 4096 (BitVec.ofNat 1024 (32 * 2 ^ 64 + 4 * 2 ^ 384)) [] [] 0 0 with phase := .placed 0 0 0 }

/-- Its context. -/
def probeCtx (e : Engine) : Ctx :=
  (freshCtx probeLaunch 0 0).modEng e fun en =>
    { en with pc := 8, pos := 1, sect := some { hdr := 0, len := 2, done := false, n := 0, widx := 0, copyQ := none },
              secs := [{ n := 0, done := false, finished := false, bind := none }] }

/-- The engine whose map decodes a word, the first in tag order. -/
def probeEngine (w n : W96) : Engine :=
  ((Engine.all.filter fun e => match decode e w n with | .ok _ => true | .bad _ => false).head?).getD .S

/-- The text of a placed word: a header of two words, the word, the word after it; or the same as an assist image (R425). -/
def probeText (e : Engine) (bs : List Byte) : List Byte :=
  leBytes (e.tag * 2 ^ 61 + 2 * 2 ^ 50) 8 ++ bs ++ List.replicate 64 0

/-- The state in which the next step runs a word: a service core's stands in memory at its pc; an engine's stands in the
instruction cache of core 0, whose slot 0 holds a launch's context at that word (log 6). -/
def State.withFetchWord (s : State) (nbits w : Nat) : State :=
  let bs := bytesLE 24 (w % 2 ^ nbits)
  if nbits ≤ 32 then
    { s with mem := Mem.setList s.mem (((s.svc[0]?).map (·.pc.toNat)).getD 0) (bs.take 4), agenda := [.service 0] }
  else
    let e := probeEngine (BitVec.ofNat 96 (numLE (bs.take 12))) (BitVec.ofNat 96 (numLE (bs.drop 12)))
    let text := probeText e bs
    { s with
      agenda := [.core 0 e],
      place := { s.place with launches := [probeLaunch] },
      cores := s.cores.modify 0 fun co =>
        { co with slots := [some (probeCtx e), none, none, none], cur := co.cur.set e.tag (some 0),
                  icache := [{ asid := 0, va := 0, bytes := text.take 64 }] } }

end Sys2Proof.Machine
end

