-- ==== Sys2Proof/Safety.lean ====
section
/-!
DEFINITION. The terms the claims are stated in: what a run must keep, how a state reads from outside, and the states that a
word's own effect leaves.
-/
namespace Sys2Proof.Machine

/-! ## What every step keeps -/

/-- Memory is in its canonical form and no write of a step waits to reach it. -/
def State.Settled (s : State) : Prop := Mem.wf s.mem = true ∧ s.wr = []

/-! ## Reading a state -/

/-- Register `r` of the scalar file `f` (0 S, 1 A, 2 B, 3 X) of the context in slot `k` of core `c`. -/
def State.sreg (s : State) (c k f r : Nat) : Option W64 :=
  (s.ctx? c k).bind fun x => (x.sregs[f]?).bind fun l => l[r]?

/-- Memory reads the same at every address. -/
def SameMemory (s t : State) : Prop := ∀ a, Mem.get t.mem a = Mem.get s.mem a

/-- Everything outside the cores and the agenda is the same: dies, commands, accesses, launches, faults, text, links, pod,
control registers, service cores, power. -/
def SameOutside (s t : State) : Prop :=
  t.dies = s.dies ∧ t.cmds = s.cmds ∧ t.accs = s.accs ∧ t.props = s.props ∧ t.place = s.place ∧ t.faults = s.faults ∧
    t.text = s.text ∧ t.links = s.links ∧ t.pod = s.pod ∧ t.ctl = s.ctl ∧ t.svc = s.svc ∧ t.now = s.now ∧ t.boot = s.boot

/-- A core's storage and units are the same: scratchpad, Catalogue, queues of its units, caches. -/
def SameCore (a b : Core) : Prop :=
  b.scratch = a.scratch ∧ b.stripes = a.stripes ∧ b.cat = a.cat ∧ b.unitQ = a.unitQ ∧ b.run = a.run ∧ b.rowQ = a.rowQ ∧
    b.collQ = a.collQ ∧ b.icache = a.icache ∧ b.tlb = a.tlb ∧ b.cur = a.cur ∧ b.slots.length = a.slots.length

/-! ## The states a word's effect leaves -/

/-- The word is done and the engine moves on (R160, R163, R177). -/
def State.advanced (s : State) : State :=
  match advance 1 s with
  | .ok (_, t) => t
  | .error _ => s

/-- A register of the issuing scalar engine holds a value that may be read after `lat` cycles; register 0 discards it (R182, R183). -/
def State.withReg (s : State) (r : Nat) (v : W64) (lat : Nat) : State :=
  if r = 0 then s
  else
    let t := s.modRegs (·.set r v)
    if lat ≤ 1 then t else t.modHere fun en => { en with busy := (r, s.now + lat) :: en.busy }

/-- An entry of a core's tables has no uncorrectable error (R424). -/
def State.tableGood (s : State) (key : Nat) : Prop := s.bad.contains (4, key) = false

/-- The entries of the tiles a word names have none. -/
def State.tilesGood (s : State) (h : Here) (i : Instr) : Prop := ∀ t ∈ wordTiles i, s.tableGood (tileKey h.c h.k t)

/-- The issuing engine's register file has no uncorrectable error (R424); the assist routine has a file of its own. -/
def State.filesGood (s : State) (h : Here) : Prop := h.asst = true ∨ s.tableGood (fileKey h.c h.k h.e.tag)

/-- A register of the issuing engine has no result on its way (R183). -/
def State.regFree (s : State) (r : Nat) : Prop := r = 0 ∨ ∃ h, s.here = some h ∧ h.eng.isBusy s.now r = false

/-- The issuing engine's context changed. -/
def State.modCtxHere (s : State) (f : Ctx → Ctx) : State :=
  match s.seat with
  | some (k, _) => s.modCtx s.curCore k f
  | none => s

/-- The section is left and the engine goes on at a text offset, its header cycle two cycles on (R163, R172). -/
def State.jumped (s : State) (target : BitVec 32) : State :=
  s.modHere fun en => { en.finish with pc := target, ready := s.now + 2 }

/-- A command has joined those issued and not completed. -/
def State.withCmd (s : State) (x : Cmd) : State := { s with cmds := s.cmds ++ [x], nextId := s.nextId + 1 }

/-- Accesses have been issued, `n` numbers given out (R266). -/
def State.withAccesses (s : State) (l : List Access) (n : Nat) : State := { s with accs := s.accs ++ l, nextId := s.nextId + n }

/-- A register of V and, where one is named, its side-car (R211). -/
def Ctx.putReg (x : Ctx) (d : Nat) (v : VReg) (car : Option Car) : Ctx :=
  { x with vregs := x.vregs.set d v, cars := match car with | some k => x.cars.set d k | none => x.cars }

/-- A destination of V takes a result after `lat` cycles: a register with its side-car where one is named, or an operand queue, into
which the entry is on its way behind those V has pushed before (R95, R211, R213, R216). -/
def State.vPut (s : State) (d : Nat) (v : VReg) (car : Option Car) (lat : Nat) : State :=
  if 32 ≤ d then
    s.modCtxHere fun x => { x with qpush := x.qpush ++ [{ q := d - 32, tag := Engine.V.tag, due := x.pushDue (s.now + lat),
                                                          entry := { data := v, car := car.getD 0 } }] }
  else
    (s.modCtxHere (·.putReg d v car)).modHere fun en => { en with busy := (d, s.now + lat) :: en.busy }

/-- A destination of V can take a result now: the register has none on its way, the queue has room (R95, R216). -/
def State.vFree (s : State) (d : Nat) : Prop :=
  ∃ h, s.here = some h ∧ if 32 ≤ d then h.ctx.queueRoom (d - 32) = true else h.eng.isBusy s.now d = false

/-- Elements put into a destination of `g` registers: element `i` into register `i mod g` (R217). -/
def State.vPutGroup (s : State) (d g w : Nat) (l : List Nat) (lat : Nat) : State :=
  if g ≤ 1 then s.vPut d (packElems w l) none lat
  else (List.range g).foldl (fun t j => t.vPut (d + j) (packElems w (groupPart g j l)) none lat) s

/-- Every register of a destination group can take a result. -/
def State.vFreeGroup (s : State) (d g : Nat) : Prop :=
  if g ≤ 1 then s.vFree d else d + g ≤ 32 ∧ ∀ j < g, s.vFree (d + j)

/-- A guarded-off V word: its first source goes to the queue it names as D, one cycle on (log 27), and nothing else happens (R87, R212). -/
def State.vOffDone (s : State) (d : Nat) (a : VIn) (w : Nat) : State :=
  (if 32 ≤ d then s.vPut d (a.bytes w) (some a.car) 1 else s).advanced

/-- A source of V can be read: its registers have no result on their way; an operand queue holds an entry for each source a word can pop
from it (R94, R95, R216, R217). -/
def State.vReady (s : State) (h : Here) (r : BitVec 6) (g : Nat) : Prop :=
  if g ≤ 1 then (r.toNat < 32 → h.eng.isBusy s.now r.toNat = false) ∧
    (32 ≤ r.toNat → r.toNat < 48 → 3 ≤ ((h.ctx.opqs[r.toNat - 32]?).getD []).length)
  else ∀ j < g, h.eng.isBusy s.now (r.toNat + j) = false

/-- The mask and the random bits of a V word can be read (R49, R88). -/
def State.maskReady (s : State) (h : Here) (x : RWord) : Prop :=
  (x.mask = 63 ∨ h.eng.isBusy s.now x.mask.toNat = false) ∧ (x.rnd = 2 → h.eng.isBusy s.now x.rb.toNat = false)

/-- V's word is done; V issues again after `n` cycles (R216). -/
def State.vDone (s : State) (n : Nat) : State :=
  if n ≤ 1 then s.advanced else s.advanced.modHere fun en => { en with ready := s.advanced.now + n }

/-- The sources of a V word, read in field order: those `b` says it has (R94, R95, R212). -/
def vSources : List (Bool × BitVec 6) → M (List VIn)
  | [] => pure []
  | (b, r) :: rest => do
    let v ← vSourceIf b r
    let vs ← vSources rest
    pure (v :: vs)

/-- The values of scalar sources read in field order, and the state their pops leave (R94, R95). -/
def takeSources : List (BitVec 6) → M (List W64)
  | [] => pure []
  | r :: rest => do
    let v ← source true r
    let vs ← takeSources rest
    pure (v :: vs)

/-- The engine as an agent and as one that waits. -/
def Here.agent (h : Here) : Agent := { code := agentCode h.e.tag h.k 0 h.c, lid := h.ctx.lid }

/-- The engine as one that waits for an answer. -/
def Here.waiter (h : Here) : Waiter := .engine h.c h.k h.e

/-- What an atomic asks for (R265, R268). -/
def atomicReq (h : Here) (op : Nat) (x : MWord) (b v e : W64) (m : Mods) : MemReq :=
  { kind := .atomic op (mSigned x) (BitVec.ofNat 64 (e.toNat % 2 ^ (8 * mSize x))), va := b + immOf x.disp, size := mSize x,
    data := storeBytes v (mSize x), dest := x.data.toNat, signed := false, mods := m, wait := false, wi := h.eng.interval.toNat }

/-- What LD asks for (R265, R267). -/
def loadReq (h : Here) (x : MWord) (b i : W64) (m : Mods) : MemReq :=
  { kind := .load, va := effAddr b i x, size := mSize x, data := [], dest := x.data.toNat, signed := mSigned x, mods := m,
    wait := false, wi := h.eng.interval.toNat }

/-- What ST asks for (R265, R267). -/
def storeReq (h : Here) (x : MWord) (v b i : W64) (m : Mods) : MemReq :=
  { kind := .store, va := effAddr b i x, size := mSize x, data := storeBytes v (mSize x), dest := 0, signed := false,
    mods := m, wait := false, wi := h.eng.interval.toNat }

/-- What TDEF and CDEF ask for: the 96 bytes of an object, read before the word goes on (R206, R209). -/
def objectReq (h : Here) (va : W64) (m : Mods) : MemReq :=
  { kind := .load, va := va, size := 96, data := [], dest := 0, signed := false, mods := m, wait := true, wi := h.eng.interval.toNat }

/-- A read can be issued: it translates to parts of this package or to one of a peer's, and the engine has fewer than 16 outstanding
(R247, R266). -/
def State.reads (s : State) (h : Here) (r : MemReq) (ps : List (Nat × Nat × AccHome × Nat)) : Prop :=
  s.outstanding h.waiter < 16 ∧
    (s.find (dieOf h.c) (some h.c) (asidOf h.ctx.lid) r.va r.size r.kind.code = .parts ps ∨
      ∃ pkg off, s.find (dieOf h.c) (some h.c) (asidOf h.ctx.lid) r.va r.size r.kind.code = .peer pkg off ∧
        ps = [(off, r.size, .peer pkg, 0)])

/-- A read is issued and its word holds until the answer (R206). -/
def State.awaited (s : State) (h : Here) (r : MemReq) (ps : List (Nat × Nat × AccHome × Nat)) : State :=
  (s.withAccesses (accessesOf r h.agent (dieOf h.c) h.waiter true h.secN.toNat h.widx s.nextId 0 ps) ps.length).modHere
    fun en => { en with req := .wait s.nextId }

/-- The engine's own accesses are issued and the word is done; a reading one keeps its register busy until its data returns (R266). -/
def State.issued (u : State) (h : Here) (r : MemReq) (ps : List (Nat × Nat × AccHome × Nat)) : State :=
  let t := u.withAccesses (accessesOf r h.agent (dieOf h.c) h.waiter false h.secN.toNat h.widx u.nextId 0 ps) ps.length
  (if r.kind.reads && r.dest != 0 then t.modHere fun en => { en with busy := (r.dest, never) :: en.busy } else t).advanced

/-- When a request can be issued at once (R266, R387, R424): it translates to parts of this package, none of their lines is
uncorrectable, an engine has fewer than 16 reads outstanding, the register is free, a write leaves its die's counter in its lead, and
the word need not wait for its answer. -/
def State.issues (u : State) (h : Here) (r : MemReq) (ps : List (Nat × Nat × AccHome × Nat)) : Prop :=
  u.here = some h ∧ h.asst = false ∧ h.eng.req = .none ∧ r.mods.race ≠ 1 ∧
    u.find (dieOf h.c) (some h.c) (asidOf h.ctx.lid) r.va r.size r.kind.code = .parts ps ∧ u.badLine (dieOf h.c) r.kind ps = none ∧
    (r.kind.writes = true → u.leadRoom (dieOf h.c) (u.writesAhead (dieOf h.c) + 1) = true) ∧
    (r.kind.reads = true → u.outstanding h.waiter < 16 ∧ (r.dest = 0 ∨ h.eng.isBusy u.now r.dest = false))

/-- The end of a queue word: a try form sets its status register, and the engine asks no more (R156). -/
def State.statusPut (s : State) (x : RWord) (ok : Bool) : State :=
  ((if x.type = 1 then s.withReg x.c.toNat (if ok then 1 else 0) 1 else s).modHere fun en => { en with req := .none }).advanced

/-- A request is on its way to a stage queue and its word waits for the answer (R154). -/
def State.asked (s : State) (h : Here) (l : Launch) (q op : Nat) (try_ : Bool) (data : List W64) : State :=
  (s.queueRequest h.ctx.lid q { c := h.c, k := h.k, op := op, try_ := try_, data := data, due := s.now + transit h.c (l.servingCore q),
                                held := false, walk := 0 }).modHere fun en => { en with req := .wait s.now }

/-- A barrier the context holds, readable (R364, R424). -/
def State.barLive (s : State) (b : Nat) : Prop :=
  ∃ h, s.here = some h ∧ (h.ctx.bar? b).isSome = true ∧ s.tableGood (barKey h.c h.k b)

/-- The contraction unit takes a B word (R288, R293). -/
def State.unitFree (s : State) (h : Here) : Prop :=
  ((((s.cores[h.c]?).map (·.unitQ)).getD []).length < 4) ∧ s.carriedDue h.c = false

/-- A command has entered its core's contraction unit (R293). -/
def State.inUnit (s : State) (h : Here) (x : Cmd) : State :=
  (s.withCmd x).modCore h.c fun co => { co with unitQ := co.unitQ ++ [x.id] }

/-- The word's copy queue may be named here: no other one was by a word of the section (R277). -/
def State.queueNamed (s u : State) (q : Nat) : Prop := oneQueue q s = .ok ((), u)

/-- The five registers of a copy and what it moves fit its tiles (R280, R281, R458). -/
def State.copies (u : State) (h : Here) (x : TWord) (zero : Bool) (rs : List W64) : Prop :=
  ∃ sv dv, tileIf (!zero && !(copyArgs x zero rs).sm) x.ta.toNat u = .ok (sv, u) ∧
    tileIf (!(copyArgs x zero rs).dm) x.td.toNat u = .ok (dv, u) ∧ copyOk (copyArgs x zero rs) sv dv = true ∧
    (u.queueOf h.c h.k 1 (bitsOf x.cmd 33 31)).length < 16

/-- The rows of a copy that no engine holds at issue: all of them, or none where a row or the copy is empty (R280). -/
def allRows (x : TWord) (zero : Bool) (rs : List W64) : List (Nat × Nat) :=
  if (copyArgs x zero rs).rowb = 0 ∨ (copyArgs x zero rs).nrow = 0 then [] else [(0, (copyArgs x zero rs).nrow - 1)]

/-- The results of a word over its elements: enabled ones computed, the others those of source A (R219, R221). -/
def elemResults (x : RWord) (op : Rounding → Nat → Nat → Nat → FRes) (a b c : VIn) (en : Nat → Bool) (rb : Nat → Nat) : List FRes :=
  (List.range (elemsOf x.type.toNat)).map fun i =>
    if en i then op (vRounding x (rb i)) (a.elem (typeWidth x.type.toNat) i) (b.elem (typeWidth x.type.toNat) i) (c.elem (typeWidth x.type.toNat) i)
    else bitRes (a.elem (typeWidth x.type.toNat) i)

/-- The issuing engine stands at its word with no answer waiting for it. -/
def State.unanswered (s : State) : Prop := ∃ h, s.here = some h ∧ ∀ b d, h.eng.req ≠ .answer b d

/-- V commits a word's results: none is subnormal, or FTZ flushes them, and no assist answer waits for it (R28, R29). -/
def State.commits (u : State) (res : List FRes) : Prop :=
  ∃ h, u.here = some h ∧ (∀ b d, h.eng.req ≠ .answer b d) ∧ (u.ftz h.ctx.lid = true ∨ ∀ r ∈ res, r.sub = false)

/-- What a movement word puts into D: each enabled element from `f`, the others from source A (R219, R230). -/
def movedReg (x : RWord) (a : VIn) (en : Nat → Bool) (f : Nat → Nat) : VReg :=
  packElems (typeWidth x.type.toNat) ((List.range (elemsOf x.type.toNat)).map fun i => if en i then f i else a.elem (typeWidth x.type.toNat) i)

end Sys2Proof.Machine
end

