-- ==== Sys2Proof/Certificates/Slice0/Obligations.lean ====
section
/-!
DEFINITION. The statements for the provers, about the machine and not about a program; OBLIGATIONS.json lists them. The tables
above the statements hold, for words of one shape, what the spec's tables say of each.
-/
namespace Sys2Proof.Machine

/-! ## Tables of words of one shape -/

/-- A scalar word of format R: the fields it reads as sources, in field order, what it writes to D, after how many cycles. -/
structure ScalarForm where
  ins  : RWord → Instr
  srcs : RWord → List (BitVec 6)
  val  : RWord → W64 → W64 → W64 → W64
  lat  : Nat

/-- Sources A and B. -/
def srcAB (x : RWord) : List (BitVec 6) := [x.a, x.b, 0]
/-- Source A. -/
def srcA (x : RWord) : List (BitVec 6) := [x.a, 0, 0]

/-- Bit `n` alone. -/
def bitAt (n : Nat) : W64 := 1#64 <<< n

/-- The bit BSET, BCLR and BTGL act on: the literal C, or B[5:0] under SUB 1 (R195). -/
def bitNumber (x : RWord) (b : W64) : Nat := if x.sub = 0 then x.c.toNat else b.toNat % 64

/-- The high half of a product: SUB 0 signed, 1 unsigned, 2 signed A by unsigned B (R192). -/
def highProduct (sub : BitVec 4) (a b : W64) : W64 :=
  BitVec.ofInt 64 (Int.ediv ((if sub = 1 then (a.toNat : Int) else a.toInt) * (if sub = 0 then b.toInt else (b.toNat : Int))) (2 ^ 64))

/-- The R-format words of the shared ALU that write D from their sources (R192, R195). -/
def scalarForms : List ScalarForm :=
  [⟨.add, srcAB, fun _ a b _ => a + b, 1⟩,
   ⟨.sub, srcAB, fun _ a b _ => a - b, 1⟩,
   ⟨.mul, srcAB, fun _ a b _ => a * b, 3⟩,
   ⟨.mulh, srcAB, fun x a b _ => highProduct x.sub a b, 3⟩,
   ⟨.and, srcAB, fun _ a b _ => a &&& b, 1⟩,
   ⟨.or, srcAB, fun _ a b _ => a ||| b, 1⟩,
   ⟨.xor, srcAB, fun _ a b _ => a ^^^ b, 1⟩,
   ⟨.andn, srcAB, fun _ a b _ => a &&& ~~~b, 1⟩,
   ⟨.shl, srcAB, fun _ a b _ => a <<< (b.toNat % 64), 1⟩,
   ⟨.shr, srcAB, fun _ a b _ => a >>> (b.toNat % 64), 1⟩,
   ⟨.sra, srcAB, fun _ a b _ => a.sshiftRight (b.toNat % 64), 1⟩,
   ⟨.rol, srcAB, fun _ a b _ => a.rotateLeft (b.toNat % 64), 1⟩,
   ⟨.clz, srcA, fun _ a _ _ => aluClz a, 1⟩,
   ⟨.ctz, srcA, fun _ a _ _ => aluCtz a, 1⟩,
   ⟨.popc, srcA, fun _ a _ _ => aluPopc a, 1⟩,
   ⟨.min, srcAB, fun _ a b _ => if b.slt a then b else a, 1⟩,
   ⟨.max, srcAB, fun _ a b _ => if a.slt b then b else a, 1⟩,
   ⟨.minw, srcAB, fun _ a b _ => if b < a then b else a, 1⟩,
   ⟨.maxw, srcAB, fun _ a b _ => if a < b then b else a, 1⟩,
   ⟨.sext, srcA, fun x a _ _ => (a.setWidth (x.c.toNat + 1)).signExtend 64, 1⟩,
   ⟨.zext, srcA, fun x a _ _ => (a.setWidth (x.c.toNat + 1)).setWidth 64, 1⟩,
   ⟨.mov, srcA, fun _ a _ _ => a, 1⟩,
   ⟨.sel, fun x => [x.a, x.b, x.c], fun _ a b c => if c = 0 then b else a, 1⟩,
   ⟨.bext, srcA, fun x a _ _ => (a >>> x.c.toNat) &&& BitVec.ofNat 64 (2 ^ (x.b.toNat + 1) - 1), 1⟩,
   ⟨.bset, fun x => [x.a, if x.sub = 0 then 0 else x.b, 0], fun x a b _ => a ||| bitAt (bitNumber x b), 1⟩,
   ⟨.bclr, fun x => [x.a, if x.sub = 0 then 0 else x.b, 0], fun x a b _ => a &&& ~~~bitAt (bitNumber x b), 1⟩,
   ⟨.btgl, fun x => [x.a, if x.sub = 0 then 0 else x.b, 0], fun x a b _ => a ^^^ bitAt (bitNumber x b), 1⟩]

/-- A scalar word of format I: what it writes to D from its sources, after how many cycles. -/
structure ScalarImmForm where
  ins : IWord → Instr
  val : W64 → IWord → W64
  lat : Nat

/-- The immediate put in place of B (R193). -/
def immB (x : IWord) : W64 := x.imm.signExtend 64

/-- The immediate forms (R103, R193). -/
def immForms : List ScalarImmForm :=
  [⟨.addI, fun a x => a + immB x, 1⟩,
   ⟨.subI, fun a x => a - immB x, 1⟩,
   ⟨.mulI, fun a x => a * immB x, 3⟩,
   ⟨.mulhI, fun a x => highProduct x.sub a (immB x), 3⟩,
   ⟨.andI, fun a x => a &&& immB x, 1⟩,
   ⟨.orI, fun a x => a ||| immB x, 1⟩,
   ⟨.xorI, fun a x => a ^^^ immB x, 1⟩,
   ⟨.andnI, fun a x => a &&& ~~~immB x, 1⟩,
   ⟨.shlI, fun a x => a <<< ((immB x).toNat % 64), 1⟩,
   ⟨.shrI, fun a x => a >>> ((immB x).toNat % 64), 1⟩,
   ⟨.sraI, fun a x => a.sshiftRight ((immB x).toNat % 64), 1⟩,
   ⟨.rolI, fun a x => a.rotateLeft ((immB x).toNat % 64), 1⟩]

/-- A quotient by zero is all ones, a remainder by zero the dividend (R192). -/
def quotient (signed : Bool) (a b : W64) : W64 := if b = 0 then BitVec.allOnes 64 else if signed then a.sdiv b else a / b
/-- The remainder. -/
def remainder (signed : Bool) (a b : W64) : W64 := if b = 0 then a else if signed then a.srem b else a % b

/-- The dividing words (R192): R form, immediate form, result. -/
def divForms : List ((RWord → Instr) × (IWord → Instr) × (W64 → W64 → W64)) :=
  [(.div, .divI, quotient true), (.divw, .divwI, quotient false), (.rem, .remI, remainder true), (.remw, .remwI, remainder false)]

/-- The compares (R194). -/
def compareForms : List ((RWord → Instr) × (W64 → W64 → Bool)) :=
  [(.cmpeq, fun a b => a == b), (.cmpne, fun a b => a != b), (.cmplt, fun a b => a.slt b), (.cmpltw, fun a b => a.ult b),
   (.cmple, fun a b => a.sle b), (.cmplew, fun a b => a.ule b)]

/-- Bit C of D under a compare's SUB: written, ANDed or ORed (R194). -/
def combined (sub : BitVec 4) (old : W64) (c : Nat) (r : Bool) : W64 :=
  if (if sub = 1 then old.getLsbD c && r else if sub = 2 then old.getLsbD c || r else r) then old ||| bitAt c else old &&& ~~~bitAt c

/-- A float word of S: its sources, what it writes, its latency (R183, R198, R199, R200). -/
structure FloatForm where
  ins  : RWord → Instr
  srcs : RWord → List (BitVec 6)
  val  : Rounding → W64 → W64 → W64 → W64
  lat  : Nat

/-- The float words of S whose result is one rounding of an exact value, or a selection (R198, R200). -/
def floatForms : List FloatForm :=
  [⟨.fadd, srcAB, fun r a b _ => f32Out r (addF (f32In a) (f32In b)), 4⟩,
   ⟨.fsub, srcAB, fun r a b _ => f32Out r (addF (f32In a) (f32In b).negate), 4⟩,
   ⟨.fmul, srcAB, fun r a b _ => f32Out r (mulF (f32In a) (f32In b)), 4⟩,
   ⟨.ffma, fun x => [x.a, x.b, x.c], fun r a b c => f32Out r (fmaF (f32In a) (f32In b) (f32In c)), 4⟩,
   ⟨.fdiv, srcAB, fun r a b _ => f32Out r (divF (f32In a) (f32In b)), 14⟩,
   ⟨.fsqrt, srcA, fun r a _ _ => f32Out r (sqrtF (f32In a)), 16⟩,
   ⟨.fmin, srcAB, fun _ a b _ => BitVec.ofNat 64 (selectF 10 false (a.toNat % 2 ^ 32) (b.toNat % 2 ^ 32)), 4⟩,
   ⟨.fmax, srcAB, fun _ a b _ => BitVec.ofNat 64 (selectF 10 true (a.toNat % 2 ^ 32) (b.toNat % 2 ^ 32)), 4⟩,
   ⟨.fclass, srcA, fun _ a _ _ => BitVec.ofNat 64 (classF 10 (a.toNat % 2 ^ 32)), 4⟩]

/-- The atomic words and their operation numbers (R268). -/
def atomicForms : List ((MWord → Instr) × Nat) :=
  [(.aadd, 0), (.aand, 1), (.aor, 2), (.axor, 3), (.amin, 4), (.amax, 5), (.axchg, 6), (.acas, 7)]

/-- The loop of R365: `n` bytes arrive at COUNT `c`, EXPECT `e`; the COUNT left and the phases completed, in at most `k` turns. -/
def arrivalLoop : Nat → Nat → Nat → Nat → Nat → Nat × Nat
  | 0, n, c, _, f => (c - n, f)
  | k + 1, n, c, e, f => if c ≤ n then arrivalLoop k (n - c) e e (f + 1) else (c - n, f)

/-- The row-engine words: whether TB names a tile, whether a second register is read, whether TS may name a sum tile (R334, R340). -/
def rowForms : List ((TWord → Instr) × (TWord → Bool) × Bool × Bool) :=
  [(.nmax, fun _ => false, false, false), (.nexps, fun _ => true, false, true), (.nscale, fun _ => true, false, false),
   (.nrow, fun _ => false, false, true), (.nnorm, fun x => x.cmd.getLsbD 8, true, false)]

/-- An element-wise word: how many sources it has, its latency, and what it makes of each element (R216, R221, R236). -/
structure ElemForm where
  ins : RWord → Instr
  n   : Nat
  lat : RWord → Nat
  op  : RWord → Rounding → Nat → Nat → Nat → FRes

/-- The element-wise words. -/
def elemForms : List ElemForm :=
  [⟨.vadd, 2, fun x => elemLat x 2, fun x r a b _ => opAdd x.type.toNat (x.sub == 1) r a b⟩,
   ⟨.vsub, 2, fun x => elemLat x 2, fun x r a b _ => opSub x.type.toNat (x.sub == 1) r a b⟩,
   ⟨.vmul, 2, fun x => elemLat x 3, fun x r a b _ => opMul x.type.toNat r a b⟩,
   ⟨.vmulh, 2, fun _ => 3, fun x _ a b _ => opMulh x.type.toNat a b⟩,
   ⟨.vmad, 3, fun x => elemLat x 3, fun x r a b c => opMad x.type.toNat r a b c⟩,
   ⟨.vfma, 3, fun _ => 4, fun x r a b c => opFma x.type.toNat x.sub.toNat r a b c⟩,
   ⟨.vmin, 2, fun x => elemLat x 2, fun x _ a b _ => opSel x.type.toNat false a b⟩,
   ⟨.vmax, 2, fun x => elemLat x 2, fun x _ a b _ => opSel x.type.toNat true a b⟩,
   ⟨.vabs, 1, fun x => elemLat x 2, fun x _ a _ _ => opAbs x.type.toNat (x.sub == 1) a⟩,
   ⟨.vneg, 1, fun x => elemLat x 2, fun x _ a _ _ => opNeg x.type.toNat (x.sub == 1) a⟩,
   ⟨.vand, 2, fun _ => 2, fun _ _ a b _ => bitRes (a &&& b)⟩,
   ⟨.vor, 2, fun _ => 2, fun _ _ a b _ => bitRes (a ||| b)⟩,
   ⟨.vxor, 2, fun _ => 2, fun _ _ a b _ => bitRes (a ^^^ b)⟩,
   ⟨.vnot, 1, fun _ => 2, fun x _ a _ _ => bitRes (2 ^ typeWidth x.type.toNat - 1 - a)⟩,
   ⟨.vshl, 2, fun _ => 2, fun x _ a b _ => bitRes (a * 2 ^ (b % typeWidth x.type.toNat) % 2 ^ typeWidth x.type.toNat)⟩,
   ⟨.vshr, 2, fun _ => 2, fun x _ a b _ => bitRes (a / 2 ^ (b % typeWidth x.type.toNat))⟩,
   ⟨.vsra, 2, fun _ => 2, fun x _ a b _ => bitRes (((BitVec.ofNat (typeWidth x.type.toNat) a).sshiftRight (b % typeWidth x.type.toNat)).toNat)⟩,
   ⟨.vfrcp, 1, fun _ => 5, fun _ _ a _ _ => approxRcp a⟩,
   ⟨.vfrsq, 1, fun _ => 5, fun _ _ a _ _ => approxRsq a⟩]

/-- The R-format words of the scalar engines that write only the register D. -/
def regWordsR : List (RWord → Instr) :=
  scalarForms.map (·.ins) ++ floatForms.map (·.ins) ++ compareForms.map (·.1) ++ divForms.map (·.1) ++ [.bins, .fcmp, .fcvt]

/-- The I-format words of the scalar engines that write only the register D. -/
def regWordsI : List (IWord → Instr) := immForms.map (·.ins) ++ divForms.map (·.2.1) ++ [.movi, .movhi, .flgrd, .srd]

/-- The words of V that write one register at most: D (R216). -/
def vRegWords : List (RWord → Instr) :=
  elemForms.map (·.ins) ++ [.vcmpeq, .vcmpne, .vcmplt, .vcmple, .vsel, .vredsum, .vredmax, .vredmin, .vscan, .vpopc, .vmov, .vslide, .vbcast,
    .vperm, .vshuf, .vunpk, .vpack, .vbxn, .vnrw]

/-- A context in which only the issuing engine's place, its queues and what is in flight may differ: V's registers, the flags, the
system registers, the bindings, tiles, records and barriers are the same. -/
def SameContext (x y : Ctx) : Prop :=
  y.lid = x.lid ∧ y.stage = x.stage ∧ y.flags = x.flags ∧ y.flagw = x.flagw ∧ y.flagclr = x.flagclr ∧ y.scr = x.scr ∧ y.bind = x.bind ∧
    y.params = x.params ∧ y.ga = x.ga ∧ y.cat = x.cat ∧ y.sums = x.sums ∧ y.bars = x.bars ∧ y.inits = x.inits ∧ y.arrivals = x.arrivals ∧
    y.clears = x.clears ∧ y.tiles = x.tiles ∧ y.recs = x.recs ∧ y.twrites = x.twrites ∧ y.inpush = x.inpush

/-- Whether register `r` is an index register of the LOOP an engine is in, which the end of an iteration writes (R177). -/
def loopWrites (en : EngSt) (r : Nat) : Bool :=
  match en.loop with
  | some l => l.d != 0 && decide (l.d ≤ r) && decide (r < l.d + l.nd)
  | none => false

end Sys2Proof.Machine

section Statements
open Sys2Proof Sys2Proof.Machine

/-- R192, R195, R183: executing, each R-format word of the shared ALU writes its row's result to D. -/
def Obligations.ScalarWordsWriteTheirResult : Prop :=
  ∀ p ∈ scalarForms, ∀ (x : RWord) (s u : State) (a b c : W64),
    s.here.isSome = true → guardOn x.guard s = .ok (true, s) → takeSources (p.srcs x) s = .ok ([a, b, c], u) →
    u.regFree x.d.toNat →
    exec (p.ins x) s = .next (s.commit (u.withReg x.d.toNat (p.val x a b c) p.lat).advanced)

/-- R103, R193, R196: the immediate forms, MOVI, and LEA's effective address, which makes no access. -/
def Obligations.ImmediateWordsWriteTheirResult : Prop :=
  (∀ p ∈ immForms, ∀ (x : IWord) (s u : State) (a : W64),
    s.here.isSome = true → guardOn x.guard s = .ok (true, s) → source true x.a s = .ok (a, u) → u.regFree x.d.toNat →
    exec (p.ins x) s = .next (s.commit (u.withReg x.d.toNat (p.val a x) p.lat).advanced)) ∧
  (∀ (x : IWord) (s : State), s.here.isSome = true → guardOn x.guard s = .ok (true, s) → s.regFree x.d.toNat →
    exec (.movi x) s =
      .next (s.commit (s.withReg x.d.toNat (if x.sub = 1 then x.imm.setWidth 64 else x.imm.signExtend 64) 1).advanced)) ∧
  ∀ (x : MWord) (s u : State) (b i : W64),
    s.here.isSome = true → guardOn x.guard s = .ok (true, s) → takeSources [x.base, x.index] s = .ok ([b, i], u) →
    u.regFree x.data.toNat →
    exec (.lea x) s = .next (s.commit (u.withReg x.data.toNat (b + (i <<< x.scale.toNat) + x.disp.signExtend 64) 1).advanced)

/-- R183, R192, R193: a division waits for the divider, keeps it for 18 cycles and writes D after as many. -/
def Obligations.DivisionsWriteTheirResult : Prop :=
  ∀ p ∈ divForms,
    (∀ (x : RWord) (s u : State) (g : Here) (a b : W64),
      s.here.isSome = true → guardOn x.guard s = .ok (true, s) → takeSources [x.a, x.b] s = .ok ([a, b], u) →
      u.here = some g → g.eng.isBusy u.now 64 = false → u.regFree x.d.toNat →
      exec (p.1 x) s = .next (s.commit ((u.withReg x.d.toNat (p.2.2 a b) 18).modHere
        fun en => { en with busy := (64, u.now + 18) :: en.busy }).advanced)) ∧
    ∀ (x : IWord) (s u : State) (g : Here) (a : W64),
      s.here.isSome = true → guardOn x.guard s = .ok (true, s) → source true x.a s = .ok (a, u) →
      u.here = some g → g.eng.isBusy u.now 64 = false → u.regFree x.d.toNat →
      exec (p.2.1 x) s = .next (s.commit ((u.withReg x.d.toNat (p.2.2 a (immB x)) 18).modHere
        fun en => { en with busy := (64, u.now + 18) :: en.busy }).advanced)

/-- R194, R200: a compare reads D as a source and changes only its bit C, which SUB writes, ANDs or ORs. R193, R195: BINS puts the low
bits of A at bits C to C + B of D; MOVHI sets the upper half of D; every other bit of D stays. -/
def Obligations.ComparesAndPartialWrites : Prop :=
  ((∀ p ∈ compareForms, ∀ (x : RWord) (s u : State) (a b old : W64),
     s.here.isSome = true → guardOn x.guard s = .ok (true, s) → takeSources [x.a, x.b] s = .ok ([a, b], u) →
     readReg x.d.toNat u = .ok (old, u) →
     exec (p.1 x) s = .next (s.commit (u.withReg x.d.toNat (combined x.sub old x.c.toNat (p.2 a b)) 1).advanced)) ∧
   ∀ (x : RWord) (s u : State) (a b old : W64),
     s.here.isSome = true → guardOn x.guard s = .ok (true, s) → takeSources [x.a, x.b] s = .ok ([a, b], u) →
     readReg x.d.toNat u = .ok (old, u) →
     exec (.fcmp x) s = .next (s.commit (u.withReg x.d.toNat (combined 0 old x.c.toNat (fcmpRel x.sub.toNat a b)) 4).advanced)) ∧
  ((∀ (x : RWord) (s u : State) (a old : W64),
     s.here.isSome = true → guardOn x.guard s = .ok (true, s) → source true x.a s = .ok (a, u) →
     readReg x.d.toNat u = .ok (old, u) →
     ∃ v : W64, exec (.bins x) s = .next (s.commit (u.withReg x.d.toNat v 1).advanced) ∧
       ∀ i < 64, v.getLsbD i =
         if x.c.toNat ≤ i ∧ i < x.c.toNat + x.b.toNat + 1 then a.getLsbD (i - x.c.toNat) else old.getLsbD i) ∧
   ∀ (x : IWord) (s : State) (old : W64),
     s.here.isSome = true → guardOn x.guard s = .ok (true, s) → readReg x.d.toNat s = .ok (old, s) →
     ∃ v : W64, exec (.movhi x) s = .next (s.commit (s.withReg x.d.toNat v 1).advanced) ∧
       ∀ i < 64, v.getLsbD i = if 32 ≤ i then x.imm.getLsbD (i - 32) else old.getLsbD i)

/-- R192: CLZ counts the zeros above the highest set bit, CTZ those below the lowest, POPC the set bits; CLZ and CTZ of 0 are 64. -/
def Obligations.BitCountsCountBits : Prop :=
  aluClz 0 = 64 ∧ aluCtz 0 = 64 ∧ aluPopc 0 = 0 ∧
  (∀ (a : W64) (n : Nat), n < 64 → a.getLsbD n = true → (∀ j, n < j → a.getLsbD j = false) → (aluClz a).toNat = 63 - n) ∧
  (∀ (a : W64) (n : Nat), n < 64 → a.getLsbD n = true → (∀ j < n, a.getLsbD j = false) → (aluCtz a).toNat = n) ∧
  ∀ (a : W64) (n : Nat), n < 64 → a.getLsbD n = false → (aluPopc (a ||| bitAt n)).toNat = (aluPopc a).toNat + 1

/-- R197 to R199: the float words of S write one rounding of their exact result, and FCVT its conversion; between integer
types it saturates (R47, log 18). -/
def Obligations.ScalarFloatWordsWriteTheirResult : Prop :=
  (∀ p ∈ floatForms, ∀ (x : RWord) (s u : State) (r : Rounding) (a b c : W64),
    s.here.isSome = true → guardOn x.guard s = .ok (true, s) → takeSources (p.srcs x) s = .ok ([a, b, c], u) →
    roundingS x u = .ok (r, u) → u.regFree x.d.toNat →
    exec (p.ins x) s = .next (s.commit (u.withReg x.d.toNat (p.val r a b c) p.lat).advanced)) ∧
  ∀ (x : RWord) (s u : State) (r : Rounding) (a : W64),
    s.here.isSome = true → guardOn x.guard s = .ok (true, s) → takeSources [x.a, 0, 0] s = .ok ([a, 0, 0], u) →
    roundingS x u = .ok (r, u) → u.regFree x.d.toNat →
    exec (.fcvt x) s = .next (s.commit (u.withReg x.d.toNat (fcvtResult x.type.toNat x.sub.toNat r a) 4).advanced)

/-- R87: a scalar word that is guarded off pops its inbound queues, writes nothing and moves on. -/
def Obligations.GuardedOffScalarWordOnlyPops : Prop :=
  (∀ p ∈ scalarForms, ∀ (x : RWord) (s : State), s.here.isSome = true → guardOn x.guard s = .ok (false, s) →
    (∀ r ∈ p.srcs x, r.toNat < 48) → exec (p.ins x) s = .next (s.commit s.advanced)) ∧
  (∀ p ∈ scalarForms, ∀ (x : RWord) (s u : State) (v : W64), s.here.isSome = true → guardOn x.guard s = .ok (false, s) →
    48 ≤ x.a.toNat → source true x.a s = .ok (v, u) → (∀ r ∈ (p.srcs x).drop 1, r.toNat < 48) →
    exec (p.ins x) s = .next (s.commit u.advanced)) ∧
  (∀ p ∈ immForms, ∀ (x : IWord) (s : State), s.here.isSome = true → guardOn x.guard s = .ok (false, s) → x.a.toNat < 48 →
    exec (p.ins x) s = .next (s.commit s.advanced)) ∧
  ∀ p ∈ compareForms, ∀ (x : RWord) (s : State), s.here.isSome = true → guardOn x.guard s = .ok (false, s) → x.a.toNat < 48 →
    x.b.toNat < 48 → exec (p.1 x) s = .next (s.commit s.advanced)

/-! ## Control, traps, system registers -/

/-- R163, R172 to R175: a taken branch leaves its section for its target, which R83 has passed; CALL also pushes the offset after the
section, unless eight are held; RET goes on at the last one pushed; not taken, the word is passed over. R83: a target that is misaligned,
out of range or another engine's header raises malformed-text (CAUSE 3) before the branch has any effect. `w` is the header the text holds
at the target. -/
def Obligations.BranchesLeaveTheSection : Prop :=
  (∀ (s : State) (h : Here), s.here = some h →
     (∀ x : JWord, guardOn x.guard s = .ok (true, s) → checkTarget (branchTarget h x.off) s = .ok ((), s) →
       exec (.br x) s = .next (s.commit (s.jumped (branchTarget h x.off))) ∧
       (∀ v, testReg x.treg.toNat s = .ok (v, s) → branchTest v x.tbit.toNat x.cond.toNat = true →
         exec (.brc x) s = .next (s.commit (s.jumped (branchTarget h x.off)))) ∧
       (h.eng.stack.length < 8 → exec (.call x) s = .next (s.commit ((s.modHere fun en =>
         { en with stack := en.stack ++ [BitVec.ofNat 32 (h.hdr + 8 + 12 * h.slen)] }).jumped (branchTarget h x.off)))) ∧
       (8 ≤ h.eng.stack.length → exec (.call x) s = .next (s.raise { cause := 5, sub := 3 }))) ∧
     (∀ (x : JWord) (v : W64), guardOn x.guard s = .ok (true, s) → testReg x.treg.toNat s = .ok (v, s) →
       branchTest v x.tbit.toNat x.cond.toNat = false → exec (.brc x) s = .next (s.commit s.advanced)) ∧
     (∀ x : JWord, guardOn x.guard s = .ok (false, s) → exec (.br x) s = .next (s.commit s.advanced) ∧
       exec (.brc x) s = .next (s.commit s.advanced) ∧ exec (.call x) s = .next (s.commit s.advanced)) ∧
     ∀ x : IWord,
       (guardOn x.guard s = .ok (true, s) → ∀ t, h.eng.stack.getLast? = some t → exec (.ret x) s =
         .next (s.commit ((s.modHere fun en => { en with stack := en.stack.dropLast }).jumped t))) ∧
       (guardOn x.guard s = .ok (true, s) → h.eng.stack = [] → exec (.ret x) s = .next (s.raise { cause := 5, sub := 3 })) ∧
       (guardOn x.guard s = .ok (false, s) → exec (.ret x) s = .next (s.commit s.advanced))) ∧
  (∀ (s : State) (h : Here) (len : Nat) (x : JWord), s.here = some h → textLen s = .ok (len, s) → guardOn x.guard s = .ok (true, s) →
     ((branchTarget h x.off).toNat % 4 ≠ 0 ∨ len < (branchTarget h x.off).toNat + 8 ∨
       ∃ w, headerAt (branchTarget h x.off).toNat s = .ok (w, s) ∧ bitsOf w 63 61 ≠ h.e.tag) →
     exec (.br x) s = .next (s.raise { cause := 3 }) ∧ exec (.call x) s = .next (s.raise { cause := 3 }) ∧
     ∀ v, testReg x.treg.toNat s = .ok (v, s) → branchTest v x.tbit.toNat x.cond.toNat = true →
       exec (.brc x) s = .next (s.raise { cause := 3 }))

/-- R171, R176, R177: LSET sets a count to its operand plus IMM32; guarded off it leaves it. LOOP enters its first iteration with every
index zero and its body in the loop buffer, or passes its body when the total is 0 or it is guarded off. The checks of its body (R178) are
`checkBody`, which answers its words. -/
def Obligations.CountsAndLoops : Prop :=
  (∀ (x : IWord) (s u : State) (b : Bool) (v : W64), s.here.isSome = true → guardOn x.guard s = .ok (b, s) → countOf b x.a s = .ok (v, u) →
    exec (.lset x) s = .next (s.commit
      ((if b then u.modHere fun en => { en with cnt := en.cnt.set x.sub.toNat (v.setWidth 32 + x.imm) } else u).advanced))) ∧
  ∀ (x : IWord) (s t : State) (h : Here) (b : Bool) (ws : List W96), s.here = some h → h.widx + x.imm.toNat % 64 < h.slen →
    checkBody h.e (h.hdr + 8) (x.imm.toNat % 64) (h.widx + 1) s = .ok (ws, t) → guardOn x.guard t = .ok (b, t) →
    let nd := x.sub.toNat % 8 + 1
    let total := loopTotal h.eng.cnt nd
    (∀ g, b = true → total ≠ 0 → t.here = some g →
      (x.d = 0 ∨ ∀ j < nd, h.eng.isBusy t.now (x.d.toNat + j) = false ∧ g.eng.isBusy t.now (x.d.toNat + j) = false) →
      let u := t.modHere fun en => { en with loop := some { word := h.widx, len := x.imm.toNat % 64, nd := nd, d := x.d.toNat, iter := 0,
                                                            total := total, idx := loopIndices h.eng.cnt nd 0, body := ws, lag := false } }
      let v := if x.d = 0 then u else u.modRegs fun r => writeIndices r x.d.toNat (loopIndices h.eng.cnt nd 0)
      exec (.loop x) s = .next (s.commit ((v.modHere fun en => { en with dv := false }).modHere (·.goto (h.widx + 1))))) ∧
    (b = false ∨ total = 0 → ∀ v, advance (x.imm.toNat % 64 + 1) t = .ok ((), v) → exec (.loop x) s = .next (s.commit v))

/-- R177: dimension 0 varies fastest, every index is below its count, and the first iteration's are all zero. -/
def Obligations.LoopIndicesCount : Prop :=
  ∀ (cnt : List (BitVec 32)) (nd f : Nat), nd ≤ cnt.length → (∀ c ∈ cnt.take nd, c ≠ 0) →
    (loopIndices cnt nd 0 = List.replicate nd 0) ∧
    (∀ k < nd, (loopIdx cnt f k).toNat < ((cnt[k]?).getD 0).toNat) ∧
    (f < loopTotal cnt nd → ((List.range nd).map fun k => (loopIdx cnt f k).toNat * ((cnt.take k).map BitVec.toNat).foldl (· * ·) 1).sum = f)

/-- R96, R162, R165, R166, R174, R180: NOP only moves on; YIELD and HALT are switch points, HALT after its section; WSEC goes on when the
engine it names has dropped out or retired enough sections; a memory modifier stands for the next word. -/
def Obligations.YieldHaltAndWaits : Prop :=
  ∀ (s : State) (h : Here), s.here = some h →
    (∀ (x : IWord) (b : Bool), guardOn x.guard s = .ok (b, s) → exec (.nop x) s = .next (s.commit s.advanced)) ∧
    (∀ x : IWord, guardOn x.guard s = .ok (true, s) →
      exec (.yield x) s = .next (s.commit (s.advanced.modHere fun en => { en with yielded := true })) ∧
      exec (.halt x) s = .next (s.commit (s.modHere fun en => { en.finish with halted := true, yielded := true }))) ∧
    (∀ x : IWord, guardOn x.guard s = .ok (false, s) → exec (.yield x) s = .next (s.commit s.advanced) ∧
      exec (.halt x) s = .next (s.commit s.advanced)) ∧
    (∀ (x : IWord) (u : State) (g : Here) (v : W64) (f : Engine), guardOn x.guard s = .ok (true, s) → countOf true x.a s = .ok (v, u) →
      u.here = some g → Engine.ofTag x.sub.toNat = some f →
      ((g.ctx.eng f).dropped = true ∨ 0 ≤ ((g.ctx.eng f).rc - (g.secN + (v.setWidth 32 + x.imm) + 1)).toInt →
        exec (.wsec x) s = .next (s.commit u.advanced)) ∧
      ((g.ctx.eng f).dropped = false → ((g.ctx.eng f).rc - (g.secN + (v.setWidth 32 + x.imm) + 1)).toInt < 0 →
        exec (.wsec x) s = .next s)) ∧
    ∀ x : PWord, exec (.memModifier x) s = .next (s.commit (s.advanced.modHere fun en => { en with modifier := some x }))

/-- R179, R181, R409, R411: TRAP leaves its engine after the word and enters the TRAP trap (CAUSE 16) with IMM32 and val(A); BRK enters
the breakpoint trap (CAUSE 15) at the word and fires the trigger of R446. The context takes the record when it holds none.
R409: of the stop traps of a context the first cycle's stands, of one cycle's the lowest engine's, with MULTI. -/
def Obligations.TrapWordsEnterTheContext : Prop :=
  ((∀ (x : IWord) (s u : State) (g : Here) (v : W64), s.here.isSome = true → guardOn x.guard s = .ok (true, s) →
     countOf true x.a s = .ok (v, u) → u.here = some g → g.ctx.trap = none →
     exec (.trap x) s = .next (s.commit (u.advanced.raise { cause := 16, info1 := x.imm, info2 := v }))) ∧
   (∀ (x : IWord) (s u : State) (v : W64), s.here.isSome = true → guardOn x.guard s = .ok (false, s) → countOf false x.a s = .ok (v, u) →
     exec (.trap x) s = .next (s.commit u.advanced)) ∧
   (∀ (x : BitVec 88) (s : State) (h : Here), s.here = some h →
     exec (.brk x) s = .next (s.commit ((s.raise { cause := 15 }).fireTrigger srcBrk (dieOf h.c) 0))) ∧
   ∀ (s : State) (h : Here) (r : TrapReq), s.here = some h → h.asst = false → h.ctx.trap = none →
     ∃ y, (s.raise r).ctx? h.c h.k = some y ∧ y.trap = some (r.toTrap h.c h.k h.e false s.now) ∧
       y.sregs = h.ctx.sregs ∧ y.vregs = h.ctx.vregs ∧ y.flags = h.ctx.flags ∧ (y.eng h.e).pc = (h.ctx.eng h.e).pc ∧
       SameMemory s (s.raise r) ∧ SameOutside s (s.raise r)) ∧
  ∀ (x : Ctx) (t u : Trap),
    (x.trap = none → (x.post t).trap = some t) ∧
    (x.trap = some u → u.cycle ≠ t.cycle → (x.post t).trap = some u) ∧
    (x.trap = some u → u.cycle = t.cycle → u.eng.tag < t.eng.tag → (x.post t).trap = some { u with multi := true }) ∧
    (x.trap = some u → u.cycle = t.cycle → t.eng.tag < u.eng.tag → (x.post t).trap = some { t with multi := true })

/-- R190: FLGRD sets sD to the contents of slot k as they stand at issue, and does not change the slot; guarded off it writes nothing. That
the result can be read a cycle later is the model's choice (log 27). -/
def Obligations.FlgrdReadsTheSlot : Prop :=
  ∀ (x : IWord) (s : State) (h : Here), s.here = some h →
    (guardOn x.guard s = .ok (true, s) → s.regFree x.d.toNat →
      exec (.flgrd x) s = .next (s.commit (s.withReg x.d.toNat ((h.ctx.flags[x.imm.toNat]?).getD 0) 1).advanced)) ∧
    (guardOn x.guard s = .ok (false, s) → exec (.flgrd x) s = .next (s.commit s.advanced)) ∧
    ∀ (t : State) (c k : Nat), exec (.flgrd x) s = .next t → (t.ctx? c k).map (·.flags) = (s.ctx? c k).map (·.flags)

/-- R137, R188, R202: SRD reads a system register, SWR writes SCR0 to SCR3 or asks for flag slots to be cleared, PBIND records an
aligned offset in its open section and raises the format fault for another.
R184, R185: SQPUSH, whatever its guard, sends val(A) to the queue of engine E that carries the issuer's values, to arrive two
cycles later; while eight entries stand or travel there it stalls, and nothing of it happens. -/
def Obligations.SystemRegisterWords : Prop :=
  (∀ (x : IWord) (s : State) (h : Here), s.here = some h → guardOn x.guard s = .ok (true, s) →
     (∀ l, s.launch? h.ctx.lid = some l → s.regFree x.d.toNat →
       exec (.srd x) s = .next (s.commit (s.withReg x.d.toNat (s.sysReg h l x.imm.toNat) 1).advanced)) ∧
     (∀ (u : State) (v : W64), source true x.a s = .ok (v, u) →
       (x.imm.toNat = 20 → exec (.swr x) s = .next (s.commit (u.modCtxHere fun c => { c with flagclr := c.flagclr ||| v.setWidth 16 }).advanced)) ∧
       (16 ≤ x.imm.toNat → x.imm.toNat ≤ 19 →
         exec (.swr x) s = .next (s.commit (u.modCtxHere fun c => { c with scr := c.scr.set (x.imm.toNat - 16) v }).advanced))) ∧
     ∀ (y : RWord) (u : State) (g : Here) (v : W64), guardOn y.guard s = .ok (true, s) → source true y.a s = .ok (v, u) → u.here = some g →
       (v.toNat % 8 = 0 → v.toNat < 4096 → exec (.pbind y) s = .next (s.commit (u.modHere fun en =>
         { en with secs := en.secs.map fun o => if o.n = g.secN then { o with bind := some v.toNat } else o }).advanced)) ∧
       (v.toNat % 8 ≠ 0 ∨ 4096 ≤ v.toNat → exec (.pbind y) s = .next (s.raise { cause := 5 }))) ∧
  ∀ (x : RWord) (s u : State) (g : Here) (v : W64), source true x.a s = .ok (v, u) → u.here = some g →
    let q := ((g.ctx.inqs[inqIndex x.sub.toNat g.e.tag]?).getD []).length +
      (g.ctx.inpush.filter fun p => p.dst == x.sub.toNat && p.src == g.e.tag).length
    (q < 8 → exec (.sqpush x) s = .next (s.commit (u.modCtxHere fun c =>
      { c with inpush := c.inpush ++ [{ dst := x.sub.toNat, src := g.e.tag, due := u.now + 2, val := v }] }).advanced)) ∧
    (8 ≤ q → exec (.sqpush x) s = .next (s.waitTurn x.sub.toNat))

/-! ## Memory words -/

/-- R265 to R268: executing, LD, ST and the atomics issue the accesses of their effective address, their size and their modes, and the
engine goes on; a misaligned atomic raises the format fault with nothing issued. R267, R378: an answer that has come goes to the register
of its read, extended as the word says. -/
def Obligations.MemoryWordsIssueAccesses : Prop :=
  ((∀ (x : MWord) (s u : State) (h : Here) (b i : W64) (m : Mods) (ps : List (Nat × Nat × AccHome × Nat)),
     guardOn x.guard s = .ok (true, s) → takeSources [x.base, x.index] s = .ok ([b, i], u) → modsHere 0 u = .ok (m, u) →
     u.issues h (loadReq h x b i m) ps → exec (.ld x) s = .next (s.commit (u.issued h (loadReq h x b i m) ps))) ∧
   (∀ (x : MWord) (s u : State) (h : Here) (v b i : W64) (m : Mods) (ps : List (Nat × Nat × AccHome × Nat)),
     guardOn x.guard s = .ok (true, s) → takeSources [x.data, x.base, x.index] s = .ok ([v, b, i], u) → modsHere 1 u = .ok (m, u) →
     u.issues h (storeReq h x v b i m) ps → exec (.st x) s = .next (s.commit (u.issued h (storeReq h x v b i m) ps))) ∧
   ∀ p ∈ atomicForms, ∀ (x : MWord) (s u : State) (h : Here) (b v e : W64) (m : Mods),
     guardOn x.guard s = .ok (true, s) → takeSources [x.base, x.index] s = .ok ([b, v], u) → readReg x.data.toNat u = .ok (e, u) →
     modsHere 2 u = .ok (m, u) → u.here = some h →
     ((b + immOf x.disp).toNat % mSize x ≠ 0 → exec (p.1 x) s = .next (s.raise { cause := 5, va := b + immOf x.disp })) ∧
     ∀ ps, (b + immOf x.disp).toNat % mSize x = 0 → u.issues h (atomicReq h p.2 x b v e m) ps →
       exec (p.1 x) s = .next (s.commit (u.issued h (atomicReq h p.2 x b v e m) ps))) ∧
  ((∀ (x : MWord) (s u t : State) (h : Here) (b i : W64) (m : Mods) (d : List W64),
     guardOn x.guard s = .ok (true, s) → takeSources [x.base, x.index] s = .ok ([b, i], u) → modsHere 0 u = .ok (m, u) →
     u.here = some h → h.eng.req = .answer true d → t = u.modHere (fun en => { en with req := .none }) → t.regFree x.data.toNat →
     exec (.ld x) s = .next (s.commit (t.withReg x.data.toNat (loadValue ((d[0]?).getD 0).toNat (mSize x) (mSigned x)) 1).advanced)) ∧
   (∀ (v n : Nat), n ≤ 8 → v < 2 ^ (8 * n) → loadValue v n false = BitVec.ofNat 64 v ∧
     (loadValue v n true).toInt = (BitVec.ofNat (8 * n) v).toInt))

/-- R201, R276: PLD reads bytes of the accepted parameter block, zero at or beyond PBLEN, to its register after 8 cycles,
and raises the format fault when misaligned; PREF only takes its operands. R374, R392: a FENCE orders what stands at its
issue, once the core's other engines have issued in that cycle; it stays until the tile writes of V and of the commands issued
by then have landed and, where it releases, the earlier accesses are performed and what they follow is applied at the dies of
its scope; where that is so at once it is done in its issue cycle. -/
def Obligations.ParameterLoadsPrefetchesAndFences : Prop :=
  ((∀ (x : MWord) (s u : State) (h : Here) (l : Launch) (b i : W64), guardOn x.guard s = .ok (true, s) →
     takeSources [x.base, x.index] s = .ok ([b, i], u) → u.here = some h → u.launch? h.ctx.lid = some l →
     let off := (b + (i <<< x.scale.toNat) + x.disp.signExtend 64).toNat
     (off % mSize x = 0 → u.regFree x.data.toNat → exec (.pld x) s = .next (s.commit
       (u.withReg x.data.toNat (loadValue (leNum (l.pbBytes off (mSize x))) (mSize x) (mSigned x)) 8).advanced)) ∧
     (off % mSize x ≠ 0 → exec (.pld x) s = .next (s.raise { cause := 5 }))) ∧
   ∀ (x : MWord) (s u : State) (b i : W64), s.here.isSome = true → guardOn x.guard s = .ok (true, s) →
     takeSources [x.base, x.index] s = .ok ([b, i], u) → exec (.pref x) s = .next (s.commit u.advanced)) ∧
  (∀ (x : IWord) (s : State) (h : Here) (m : Mods), s.here = some h → guardOn x.guard s = .ok (true, s) → modsHere 2 s = .ok (m, s) →
     (∀ tag, h.eng.fence = none → s.fenceBehind h.c = some tag → exec (.fence x) s = .next (s.waitTurn tag)) ∧
     ∀ cyc mark, (h.eng.fence = some (cyc, mark) ∨ h.eng.fence = none ∧ s.fenceBehind h.c = none ∧ cyc = s.now ∧ mark = s.nextId) →
       (s.fenceDone h m cyc mark = false →
         exec (.fence x) s = .next (s.commit (s.modHere fun en => { en with fence := some (cyc, mark) }))) ∧
       (s.tileWritesDone h.c h.k cyc = true → releases m.order = false →
         exec (.fence x) s = .next (s.commit (s.modHere fun en => { en with fence := none }).advanced)) ∧
       (s.tileWritesDone h.c h.k cyc = true → releases m.order = true → s.fencePerformed h mark = true →
         s.causedApplied (dieOf h.c) (s.scopeDies m.scope (dieOf h.c) h.ctx.lid) = true →
         (m.order = 4 → 3 ≤ m.scope → s.causedApplied (dieOf h.c) (List.range 8) = true) →
         exec (.fence x) s = .next (s.commit
           (((fenceAgents h).foldl State.bumpInterval s).modHere fun en => { en with fence := none }).advanced)))

/-! ## Tables, launches, queues -/

/-- R65 to R67, R205 to R210: TDEF and CDEF raise the handle trap (CAUSE 4) at a live handle or slot and the format fault at
a misaligned address or an object that breaks its rules; they read their object before they go on, and then the tile or
record is live from the next cycle with status 0, or a full table or bank leaves status 1 or 2. TFREE and CFREE act once
every engine has issued in its cycle: TFREE frees a live handle no earlier use of which is left and waits for one that is,
marked from its first cycle; of a free handle or slot they raise the format fault. TINFO reads a dword of the object, 0 at a
free handle. Guarded off none of the five does anything. -/
def Obligations.TableWordsComplete : Prop :=
  ∀ (x : TWord) (s : State) (h : Here), s.here = some h →
    let slot := bitsOf x.cmd 11 6
    let st := bitsOf x.cmd 5 0
    (guardOn x.guard s = .ok (false, s) → ∀ i ∈ [Instr.tdef x, .tfree x, .tinfo x, .cdef x, .cfree x],
      exec i s = .next (s.commit s.advanced)) ∧
    (guardOn x.guard s = .ok (true, s) →
      (∀ va, readReg x.preg.toNat s = .ok (va, s) →
        (h.ctx.tiles.any (·.1 == x.td.toNat) = true → exec (.tdef x) s = .next (s.raise { cause := 4 })) ∧
        (h.ctx.recs.any (·.1 == slot) = true → exec (.cdef x) s = .next (s.raise { cause := 4 })) ∧
        (h.ctx.tiles.any (·.1 == x.td.toNat) = false →
          (va.toNat % 32 ≠ 0 → exec (.tdef x) s = .next (s.raise { cause := 5 })) ∧
          (∀ n, va.toNat % 32 = 0 → h.eng.req = .wait n → exec (.tdef x) s = .next s) ∧
          (∀ m ps, va.toNat % 32 = 0 → h.eng.req = .none → tableMods s = .ok (m, s) → s.reads h (objectReq h va m) ps →
            exec (.tdef x) s = .next (s.commit (s.awaited h (objectReq h va m) ps))) ∧
          ∀ d t, va.toNat % 32 = 0 → h.eng.req = .answer true d → t = s.modHere (fun en => { en with req := .none }) →
            let live := (((t.cores[h.c]?).map Core.liveTiles).getD []).length
            (tileValid (objOf d) = false → exec (.tdef x) s = .next (s.raise { cause := 5 })) ∧
            (tileValid (objOf d) = true → t.regFree st →
              (256 ≤ live → exec (.tdef x) s = .next (s.commit (t.withReg st 1 1).advanced)) ∧
              (live < 256 → t.tileRoom h.c (objOf d) = none → exec (.tdef x) s = .next (s.commit (t.withReg st 2 1).advanced)) ∧
              ∀ first count u, live < 256 → t.tileRoom h.c (objOf d) = some (first, count) →
                u = t.placeTile h.c h.k x.td.toNat (objOf d) first count (t.now + 1) → u.regFree st →
                exec (.tdef x) s = .next (s.commit (u.withReg st 0 1).advanced))) ∧
        (h.ctx.recs.any (·.1 == slot) = false →
          (va.toNat % 32 ≠ 0 → exec (.cdef x) s = .next (s.raise { cause := 5 })) ∧
          (∀ n, va.toNat % 32 = 0 → h.eng.req = .wait n → exec (.cdef x) s = .next s) ∧
          (∀ m ps, va.toNat % 32 = 0 → h.eng.req = .none → tableMods s = .ok (m, s) → s.reads h (objectReq h va m) ps →
            exec (.cdef x) s = .next (s.commit (s.awaited h (objectReq h va m) ps))) ∧
          ∀ d t, va.toNat % 32 = 0 → h.eng.req = .answer true d → t = s.modHere (fun en => { en with req := .none }) →
            let held := (((t.cores[h.c]?).map (·.slots)).getD []).foldl (fun n y => n + ((y.map (·.recs)).getD []).length) 0
            (recordValid (objOf d) = false → exec (.cdef x) s = .next (s.raise { cause := 5 })) ∧
            (recordValid (objOf d) = true → t.regFree st →
              (64 ≤ held → exec (.cdef x) s = .next (s.commit (t.withReg st 1 1).advanced)) ∧
              ∀ u, held < 64 →
                u = (t.cleanTable (recordKey h.c h.k slot)).modCtxHere (fun y => { y with recs := y.recs ++ [(slot, objOf d, t.now + 1)] }) →
                u.regFree st → exec (.cdef x) s = .next (s.commit (u.withReg st 0 1).advanced)))) ∧
      (h.ctx.tiles.find? (·.1 == x.td.toNat) = none → exec (.tfree x) s = .next (s.raise { cause := 5 })) ∧
      (∀ q, h.ctx.tiles.find? (·.1 == x.td.toNat) = some q →
        (s.now < q.2.live → exec (.tfree x) s = .next (s.raise { cause := 5 })) ∧
        (q.2.live ≤ s.now →
          (∀ tag, s.laterTurn h.c = some tag → s.curTry < 5 → exec (.tfree x) s = .next (s.waitTurn tag)) ∧
          (s.laterTurn h.c = none →
            let since := q.2.freeing.getD s.now
            (s.tileInUse h.c h.k x.td.toNat since = false → exec (.tfree x) s = .next (s.commit
              (s.modCtxHere fun y => { y with tiles := y.tiles.filter (·.1 != x.td.toNat) }).advanced)) ∧
            (s.tileInUse h.c h.k x.td.toNat since = true → exec (.tfree x) s = .next (s.commit
              (s.modCtxHere fun y => { y with tiles := y.tiles.map fun p =>
                if p.1 = x.td.toNat then (p.1, { p.2 with freeing := some (p.2.freeing.getD s.now) }) else p })))))) ∧
      (s.regFree x.preg.toNat → s.tableGood (tileKey h.c h.k x.ta.toNat) →
        let p : Nat × Tile → Bool := fun q => q.1 == x.ta.toNat && decide (q.2.live ≤ s.now) && q.2.freeing.isNone
        (∀ q, h.ctx.tiles.find? p = some q → exec (.tinfo x) s = .next (s.commit
          (s.withReg x.preg.toNat (BitVec.ofNat 64 (bitsOf q.2.obj (64 * bitsOf x.cmd 3 0 + 63) (64 * bitsOf x.cmd 3 0))) 1).advanced)) ∧
        (h.ctx.tiles.find? p = none → exec (.tinfo x) s = .next (s.commit (s.withReg x.preg.toNat 0 1).advanced))) ∧
      (h.ctx.recs.any (·.1 == slot) = false → exec (.cfree x) s = .next (s.raise { cause := 5 })) ∧
      (h.ctx.recs.any (·.1 == slot) = true →
        (∀ tag, s.laterTurn h.c = some tag → s.curTry < 5 → exec (.cfree x) s = .next (s.waitTurn tag)) ∧
        (s.laterTurn h.c = none → exec (.cfree x) s = .next (s.commit
          (s.modCtxHere fun y => { y with recs := y.recs.filter (·.1 != slot) }).advanced))))

/-- R121, R125, R133, R135: a LAUNCH whose checks pass and whose level has an entry takes its ticket, one that the checks refuse gets its
status; LWAIT.t answers the state of the launch a ticket names, LWAIT.w answers once it has retired. -/
def Obligations.LaunchWordsComplete : Prop :=
  ∀ (x : RWord) (s u : State) (h : Here) (v : W64), guardOn x.guard s = .ok (true, s) → source true x.a s = .ok (v, u) → u.here = some h →
    (∀ l, u.launch? h.ctx.lid = some l → (∀ q, l.child = some q → q.idx ≠ h.ctx.relx + h.ctx.rely * l.spanW) →
      u.allPerformed h.agent u.nextId = true → u.causedApplied (dieOf h.c) (List.range 8) = true →
      (∀ t st asid, u.checkLaunch (.work (asidOf h.ctx.lid) v) (some l) = (t, .refused st asid) → t.here.isSome = true → t.regFree x.d.toNat →
        exec (.launch x) s = .next (s.commit (t.withReg x.d.toNat (ticketOf asid 0 st) 1).advanced)) ∧
      ∀ t r pb sm, u.checkLaunch (.work (asidOf h.ctx.lid) v) (some l) = (t, .ok r pb sm) → t.levelCount (bitsOf r 383 381) < 64 →
        ∀ t' lid, t.acceptLaunch r pb sm = (t', lid) → t'.here.isSome = true → t'.regFree x.d.toNat →
        exec (.launch x) s = .next (s.commit (t'.withReg x.d.toNat (ticketOf (asidOf lid) (genOf lid) 0) 1).advanced)) ∧
    (u.regFree x.d.toNat → v.toNat % 16 ≠ 0 → exec (.lwaitT x) s = .next (s.commit (u.withReg x.d.toNat 3 1).advanced) ∧
      exec (.lwaitW x) s = .next (s.commit (u.withReg x.d.toNat 3 1).advanced)) ∧
    (v.toNat % 16 = 0 → v.toNat / 2 ^ 52 ≠ asidOf h.ctx.lid → exec (.lwaitT x) s = .next (s.raise { cause := 10 }) ∧
      exec (.lwaitW x) s = .next (s.raise { cause := 10 })) ∧
    (u.regFree x.d.toNat → v.toNat % 16 = 0 → v.toNat / 2 ^ 52 = asidOf h.ctx.lid →
      let st := u.launchState (asidOf h.ctx.lid) (v.toNat / 2 ^ 28 % 2 ^ 24)
      exec (.lwaitT x) s = .next (s.commit (u.withReg x.d.toNat (BitVec.ofNat 64 st) 1).advanced) ∧
      (st = 2 → exec (.lwaitW x) s = .next (s.commit (u.withReg x.d.toNat 2 1).advanced)))

/-- R154 to R156: the stage-queue words of S. QPUSH first releases, then sends its block to a queue its stage produces; QPOP asks a queue
its stage consumes; QDEPTH any present one. The answer ends the word: a try form's register says whether it took effect, a pop's block and
QDEPTH's register take the data. A queue absent or of another stage raises the format fault. -/
def Obligations.StageQueueWordsComplete : Prop :=
  ∀ (x : RWord) (s : State) (h : Here) (l : Launch), s.here = some h → guardOn x.guard s = .ok (true, s) → s.launch? h.ctx.lid = some l →
    (∀ ok d, h.eng.req = .answer ok d → (x.type = 1 → s.regFree x.c.toNat) →
      exec (.qpush x) s = .next (s.commit (s.statusPut x ok)) ∧ exec (.qpushT x) s = .next (s.commit (s.statusPut x ok)) ∧
      (ok = false → exec (.qpop x) s = .next (s.commit (s.statusPut x false)) ∧ exec (.qpopT x) s = .next (s.commit (s.statusPut x false))) ∧
      (ok = true → ∀ t, writeBlock x.d.toNat d s = .ok ((), t) → (x.type = 1 → t.regFree x.c.toNat) →
        exec (.qpop x) s = .next (s.commit (t.statusPut x true)) ∧ exec (.qpopT x) s = .next (s.commit (t.statusPut x true))) ∧
      (s.regFree x.d.toNat → exec (.qdepth x) s = .next (s.commit
        ((s.withReg x.d.toNat ((d[0]?).getD 0) 1).modHere fun en => { en with req := .none }).advanced))) ∧
    (h.eng.req = .none → ∀ e, l.queueEnt? x.sub.toNat = some e →
      (∀ d, h.ctx.stage = e.prod → releaseSpan h s = .ok ((), s) → readBlock x.a.toNat s = .ok (d, s) →
        exec (.qpush x) s = .next (s.commit (s.asked h l x.sub.toNat 1 (x.type == 1) d)) ∧
        exec (.qpushT x) s = .next (s.commit (s.asked h l x.sub.toNat 1 (x.type == 1) d))) ∧
      (h.ctx.stage = e.cons → exec (.qpop x) s = .next (s.commit (s.asked h l x.sub.toNat 0 (x.type == 1) [])) ∧
        exec (.qpopT x) s = .next (s.commit (s.asked h l x.sub.toNat 0 (x.type == 1) []))) ∧
      exec (.qdepth x) s = .next (s.commit (s.asked h l x.sub.toNat 2 false [])) ∧
      (h.ctx.stage ≠ e.prod → exec (.qpush x) s = .next (s.raise { cause := 5 })) ∧
      (h.ctx.stage ≠ e.cons → exec (.qpop x) s = .next (s.raise { cause := 5 }))) ∧
    (h.eng.req = .none → l.queueEnt? x.sub.toNat = none → exec (.qpush x) s = .next (s.raise { cause := 5 }) ∧
      exec (.qpop x) s = .next (s.raise { cause := 5 }) ∧ exec (.qdepth x) s = .next (s.raise { cause := 5 }))

/-- R157 to R159, R152: RINIT and RNEXT ask the range unit of the context's stage; the answer ends RINIT, and gives RNEXT a start and a
length, or two zeros and, on S, the new stage with MOVED set. -/
def Obligations.RangeWordsComplete : Prop :=
  ∀ (x : RWord) (s : State) (h : Here), s.here = some h →
    (h.eng.req = .none → guardOn x.guard s = .ok (true, s) →
      (∀ u a b c, takeSources [x.a, x.b, x.c] s = .ok ([a, b, c], u) → exec (.rinit x) s = .next (s.commit
        ((u.rangeRequest h.ctx.lid h.ctx.stage { c := h.c, k := h.k, eng := h.e, due := u.now, init := some (a, b, c, x.sub.toNat) }).modHere
          fun en => { en with req := .wait u.now }))) ∧
      exec (.rnext x) s = .next (s.commit
        ((s.rangeRequest h.ctx.lid h.ctx.stage { c := h.c, k := h.k, eng := h.e, due := s.now, init := none }).modHere
          fun en => { en with req := .wait s.now }))) ∧
    (∀ ok d, h.eng.req = .answer ok d →
      exec (.rinit x) s = .next (s.commit (s.modHere fun en => { en with req := .none }).advanced)) ∧
    ∀ moved d, h.eng.req = .answer moved d → guardOn x.guard s = .ok (true, s) → s.regFree x.d.toNat →
      (s.withReg x.d.toNat ((d[0]?).getD 0) 1).regFree (x.d.toNat + 1) →
      let t := (s.withReg x.d.toNat ((d[0]?).getD 0) 1).withReg (x.d.toNat + 1) ((d[1]?).getD 0) 1
      let v := if h.e = .S then t.modCtxHere fun y => { y with moved := moved, stage := if moved then ((d[2]?).getD 0).toNat else y.stage } else t
      exec (.rnext x) s = .next (s.commit (v.modHere fun en => { en with req := .none }).advanced)

/-- R159: a draw is at least MIN and at least an equal share of what is left, and never more than is left. -/
def Obligations.DrawsShareTheRange : Prop :=
  ∀ (rem m k p : Nat), 0 < k → 0 < p → 0 < m →
    drawLen rem m k p ≤ rem ∧ (0 < rem → 0 < drawLen rem m k p) ∧ (m ≤ rem → m ≤ drawLen rem m k p) ∧
      rem ≤ drawLen rem m k p * (k * p)

/-! ## Subnormal assist -/

/-- R427, R428: in assist mode XRD reads a word of the record or of an item, XWR sets a result of the unit or its sum element, XDONE and
ARET 0 or 7 leave the mode, ARET with another code traps the engine served; out of it the four are illegal instructions. -/
def Obligations.AssistWordsComplete : Prop :=
  ∀ (x : RWord) (s u : State) (h : Here) (a : Assist),
    (assistHere s = .ok ((h, a), s) → guardOn x.guard s = .ok (true, s) →
      (∀ i, source true x.a s = .ok (i, u) → u.regFree x.d.toNat →
        (x.sub ≠ 5 → exec (.xrd x) s = .next (s.commit (u.withReg x.d.toNat (a.word i.toNat x.sub.toNat) 1).advanced)) ∧
        (x.sub = 5 → exec (.xrd x) s = .next (s.commit (u.withReg x.d.toNat (if 7 < i.toNat then 0 else (a.record[i.toNat]?).getD 0) 1).advanced))) ∧
      (∀ i v, takeSources [x.a, x.b] s = .ok ([i, v], u) →
        (x.sub = 1 → exec (.xwr x) s = .next (s.commit (u.modCore h.c fun co =>
          { co with assist := { co.assist with active := co.assist.active.map fun q => { q with sum := some (v &&& 0xFFFFFFFF) } } }).advanced)) ∧
        (x.sub ≠ 1 → a.first ≤ i.toNat → i.toNat < a.first + a.count → exec (.xwr x) s = .next (s.commit (u.modCore h.c fun co =>
          { co with assist := { co.assist with active := co.assist.active.map fun q => { q with written := (i.toNat, v) :: q.written } } }).advanced)) ∧
        (x.sub ≠ 1 → i.toNat < a.first ∨ a.first + a.count ≤ i.toNat → exec (.xwr x) s = .next (s.raise { cause := 5 }))) ∧
      exec (.xdone x) s = .next (s.commit (s.assistDone h.c a)) ∧
      ∀ v, source true x.a s = .ok (v, u) →
        (v.toNat % 32 = 0 ∨ v.toNat % 32 = 7 → exec (.aret x) s = .next (s.commit (u.leaveAssist h.c .running false))) ∧
        (v.toNat % 32 ≠ 0 → v.toNat % 32 ≠ 7 → v.toNat % 32 ≤ 16 →
          exec (.aret x) s = .next (s.commit (u.assistTrap h.c a (v.toNat % 32) (v >>> 32)))) ∧
        (16 < v.toNat % 32 → exec (.aret x) s = .next (s.commit (u.assistTrap h.c a 5 v)))) ∧
    (∀ g, s.here = some g → g.asst = false →
      exec (.xrd x) s = .next (s.raise { cause := 1 }) ∧ exec (.xwr x) s = .next (s.raise { cause := 1 }) ∧
      exec (.xdone x) s = .next (s.raise { cause := 1 }) ∧ exec (.aret x) s = .next (s.raise { cause := 1 }))

/-! ## Barriers -/

/-- R366, R370 to R373: BARINIT with an EXPECT in range asks for its barrier to be made at the end of the cycle, BARINIT.f
frees one no use of which is left; BARRIVE and BARRIVE.r send their bytes to their own barrier or to that of every core of a
rectangle of the span; BWAIT, its phase a literal or a register's bit, goes on once the phase has turned or REF or LOST is
set; BTEST reads the state and may clear the sticky bits. -/
def Obligations.BarrierWordsComplete : Prop :=
  ∀ (x : TWord) (s u : State) (h : Here) (v : W64), guardOn x.guard s = .ok (true, s) →
    (countOf true x.preg s = .ok (v, u) → u.here = some h →
      let e := v.toNat + bitsOf x.cmd 31 0
      let n := v.toNat + bitsOf x.cmd 15 0
      (e = 0 ∨ 2 ^ 32 ≤ e → exec (.barinit x) s = .next (s.raise { cause := 5 })) ∧
      (0 < e → e < 2 ^ 32 → (h.ctx.bars.any (·.1 == x.bar.toNat) = true ∨ ∃ co, u.cores[h.c]? = some co ∧ co.liveBars < 1024) →
        exec (.barinit x) s = .next (s.commit
          ((u.cleanTable (barKey h.c h.k x.bar.toNat)).modCtxHere fun y => { y with inits := y.inits ++ [(x.bar.toNat, h.e.tag, BitVec.ofNat 32 e)] }).advanced)) ∧
      (n < 2 ^ 32 → u.barLive x.bar.toNat → exec (.barrive x) s = .next (s.commit
        ((u.withCmd { h.command u (.barrive x) 5 0 x.bar.toNat [BitVec.ofNat 64 n] ⟨2, 0, 0, 0⟩ with
                      ranges := [(h.c, 0)], next := u.nextId }).bumpInterval h.agent.code).advanced)) ∧
      (2 ^ 32 ≤ n → exec (.barrive x) s = .next (s.raise { cause := 5 })) ∧
      ∀ l ox oy, u.launch? h.ctx.lid = some l → l.origin? = some (ox, oy) →
        (n < 2 ^ 32 → rectOk (bitsOf x.cmd 32 17) l.spanW l.spanH = true → exec (.barriveR x) s = .next (s.commit
          ((u.withCmd { h.command u (.barrive x) 5 0 x.bar.toNat [BitVec.ofNat 64 n] ⟨2, 0, 0, 0⟩ with
                        ranges := (rectOf (bitsOf x.cmd 32 17)).cores.map fun p => (ox + p.1 + 32 * (oy + p.2), 0),
                        next := u.nextId }).bumpInterval h.agent.code).advanced)) ∧
        (2 ^ 32 ≤ n ∨ rectOk (bitsOf x.cmd 32 17) l.spanW l.spanH = false → exec (.barriveR x) s = .next (s.raise { cause := 5 }))) ∧
    (s.here = some h →
      (h.ctx.bars.any (·.1 == x.bar.toNat) = false → exec (.barinitF x) s = .next (s.commit s.advanced)) ∧
      (h.ctx.bars.any (·.1 == x.bar.toNat) = true → s.barInUse h.c h.k x.bar.toNat = false → exec (.barinitF x) s = .next (s.commit
        (s.modCtxHere fun y => { y with inits := y.inits ++ [(x.bar.toNat, h.e.tag, 0)] }).advanced)) ∧
      (∀ p t, (if x.cmd.getLsbD 1 then ∃ w, countOf true x.preg s = .ok (w, t) ∧ p = w.getLsbD 0 else t = s ∧ p = x.cmd.getLsbD 0) →
        t.here.isSome = true → t.tableGood (barKey h.c h.k x.bar.toNat) →
        (∀ b, h.ctx.bar? x.bar.toNat = some b →
          (b.phase ≠ p ∨ b.ref = true ∨ b.lost = true → exec (.bwait x) s = .next (s.commit t.advanced)) ∧
          (b.phase = p → b.ref = false → b.lost = false → exec (.bwait x) s = .next s)) ∧
        (h.ctx.bar? x.bar.toNat = none → exec (.bwait x) s = .next (s.raise { cause := 5 }))) ∧
      (h.e ≠ .V → s.tableGood (barKey h.c h.k x.bar.toNat) → s.regFree (bitsOf x.cmd 5 0) →
        (∀ b, h.ctx.bar? x.bar.toNat = some b →
          let t := s.withReg (bitsOf x.cmd 5 0) b.word 1
          exec (.btest x) s = .next (s.commit
            ((if x.cmd.getLsbD 6 then t.modCtxHere fun y => { y with clears := y.clears ++ [x.bar.toNat] } else t).advanced))) ∧
        (h.ctx.bar? x.bar.toNat = none → exec (.btest x) s = .next (s.commit (s.withReg (bitsOf x.cmd 5 0) 0 1).advanced))) ∧
      (h.e = .V → s.tableGood (barKey h.c h.k x.bar.toNat) → h.eng.isBusy s.now (bitsOf x.cmd 5 0) = false →
        let t := s.modCtxHere fun y =>
          { y with vregs := y.vregs.set (bitsOf x.cmd 5 0) ((((h.ctx.bar? x.bar.toNat).map Barrier.word).getD 0).setWidth 4096) }
        exec (.btest x) s = .next (s.commit ((if x.cmd.getLsbD 6 && (h.ctx.bar? x.bar.toNat).isSome then
          t.modCtxHere fun y => { y with clears := y.clears ++ [x.bar.toNat] } else t).advanced))))

/-- R365: an arrival applied to a barrier is the rule's loop: REF and LOST join, each phase completed turns PHASE and reloads COUNT from
EXPECT, bytes beyond carry on, two or more phases set OVER. -/
def Obligations.ArrivalsFollowTheLoop : Prop :=
  ∀ (b : Barrier) (n : Nat) (ref lost : Bool), 1 ≤ b.count.toNat → b.count.toNat ≤ b.expect.toNat →
    let r := arrivalLoop n n b.count.toNat b.expect.toNat 0
    b.take n ref lost = { expect := b.expect, count := BitVec.ofNat 32 r.1, phase := b.phase != (r.2 % 2 == 1), ovf := b.ovf || decide (2 ≤ r.2),
                          lost := b.lost || lost, ref := b.ref || ref } ∧
    1 ≤ r.1 ∧ r.1 ≤ b.expect.toNat ∧ (n = 0 → r.2 = 0)

/-! ## Asynchronous commands -/

/-- R334, R335, R340: a row-engine word joins its core's row engine when fewer than four commands are there and its tiles, registers and
barrier are right, its first row from its register; with wrong tiles it raises the format fault; a fifth stalls. -/
def Obligations.RowCommandsIssue : Prop :=
  ∀ p ∈ rowForms, ∀ (x : TWord) (s : State) (h : Here) (co : Core) (v w : W64) (a d : Shape) (b t : Option Shape),
    s.here = some h → guardOn x.guard s = .ok (true, s) → s.cores[h.c]? = some co →
    (co.rowQ.length < 4 → readReg x.preg.toNat s = .ok (v, s) →
      (if p.2.2.1 then readReg (x.preg.toNat + 1) s = .ok (w, s) else w = 0) → tileHere x.ta.toNat s = .ok (a, s) →
      tileHere x.td.toNat s = .ok (d, s) → tileIf (p.2.1 x) x.tb.toNat s = .ok (b, s) →
      tileIf (p.2.2.2 && x.cmd.getLsbD 8) (bitsOf x.cmd 7 0) s = .ok (t, s) →
      (rowOk (p.1 x) [v, w] a d b t = true → s.barLive x.bar.toNat → exec (p.1 x) s = .next (s.commit
        ((s.withCmd { h.command s (p.1 x) 3 0 x.bar.toNat [v, w] noMods with next := bitsOf v 31 0 }).modCore h.c
          fun co => { co with rowQ := co.rowQ ++ [s.nextId] }).advanced)) ∧
      (rowOk (p.1 x) [v, w] a d b t = false → exec (p.1 x) s = .next (s.raise { cause := 5 }))) ∧
    (4 ≤ co.rowQ.length → exec (p.1 x) s = .next s)

/-- R269 to R275: a walk word joins its context's walk unit when fewer than four commands are there and its descriptor, tiles, queue and
barrier are right. -/
def Obligations.WalkCommandsIssue : Prop :=
  ∀ (x : TWord) (s : State) (h : Here) (m : Mods) (l : Launch) (r0 r1 r2 : W64) (a d : Option Shape) (b : Shape),
    s.here = some h → guardOn x.guard s = .ok (true, s) → (s.queueOf h.c h.k 0 0).length < 4 → s.launch? h.ctx.lid = some l →
    s.barLive x.bar.toNat → readReg x.preg.toNat s = .ok (r0, s) →
    (modsHere 0 s = .ok (m, s) → tileIf (walkSource (.aqrd x) == 0) x.ta.toNat s = .ok (a, s) →
      tileIf (walkDest (.aqrd x) == 0) x.td.toNat s = .ok (d, s) →
      walkOk (.aqrd x) (bitsOf x.cmd 11 0) (l.descBits (bitsOf x.cmd 11 0)) r0 a d
        (match l.queueEnt? (bitsOf x.cmd 25 22) with | some e => h.ctx.stage == e.cons | none => false) = true →
      exec (.aqrd x) s = .next (s.commit
        (s.withCmd { h.command s (.aqrd x) 0 0 x.bar.toNat [r0, 0] m with state := .running }).advanced)) ∧
    (modsHere 1 s = .ok (m, s) → readReg (x.preg.toNat + 1) s = .ok (r1, s) → tileIf (walkSource (.aqwr x) == 0) x.ta.toNat s = .ok (a, s) →
      tileIf (walkDest (.aqwr x) == 0) x.td.toNat s = .ok (d, s) →
      walkOk (.aqwr x) (bitsOf x.cmd 11 0) (l.descBits (bitsOf x.cmd 11 0)) r0 a d
        (match l.queueEnt? (bitsOf x.cmd 25 22) with | some e => h.ctx.stage == e.prod | none => false) = true →
      exec (.aqwr x) s = .next (s.commit
        (s.withCmd { h.command s (.aqwr x) 0 0 x.bar.toNat [r0, r1] m with state := .running }).advanced)) ∧
    (readReg (x.preg.toNat + 1) s = .ok (r1, s) → readReg (x.preg.toNat + 2) s = .ok (r2, s) → tileHere x.tb.toNat s = .ok (b, s) →
      b.type = 6 ∨ b.type = 7 → (∀ v, a = some v → v.type = bitsOf x.cmd 3 0) → (∀ v, d = some v → v.type = bitsOf x.cmd 3 0 ∧ v.windowed = false) →
      (modsHere 0 s = .ok (m, s) → tileIf (walkSource (.gather x) == 0) x.ta.toNat s = .ok (a, s) →
        tileIf (walkDest (.gather x) == 0) x.td.toNat s = .ok (d, s) → exec (.gather x) s = .next (s.commit
          (s.withCmd { h.command s (.gather x) 0 0 x.bar.toNat [r0, r1, r2] m with state := .running }).advanced)) ∧
      (modsHere 1 s = .ok (m, s) → tileIf (walkSource (.scatter x) == 0) x.ta.toNat s = .ok (a, s) →
        tileIf (walkDest (.scatter x) == 0) x.td.toNat s = .ok (d, s) → exec (.scatter x) s = .next (s.commit
          (s.withCmd { h.command s (.scatter x) 0 0 x.bar.toNat [r0, r1, r2] m with state := .running }).advanced))) ∧
    ∀ u v w z, tileHere x.ta.toNat s = .ok (u, s) → tileHere x.tb.toNat s = .ok (v, s) → tileHere x.td.toNat s = .ok (w, s) →
      tileHere (bitsOf x.cmd 7 0) s = .ok (z, s) →
      (compactOk u v w z (x.td == x.ta || x.td == x.tb) = true → exec (.gcompact x) s = .next (s.commit
        (s.withCmd { h.command s (.gcompact x) 0 0 x.bar.toNat [] noMods with state := .running }).advanced)) ∧
      (compactOk u v w z (x.td == x.ta || x.td == x.tb) = false → exec (.gcompact x) s = .next (s.raise { cause := 5 }))

/-- R293, R294, R306 to R309, R315, R331, R332: the B words enter the contraction unit in the cycle they issue, when it has room and their
entry checks hold; BMV, BDOT and BDUMP with their registers, JOIN with its sealed record; a wrong one raises the format fault. R299, R300,
R333: BANCH takes the grid anchor of a tile, BANCH.r of a register; CSTAT, once no command of its context is in the unit, writes a count
of the Catalogue to a register and its slot to the flag file after three cycles. -/
def Obligations.ContractionWordsEnter : Prop :=
  (∀ (x : TWord) (s : State) (h : Here), s.here = some h → guardOn x.guard s = .ok (true, s) → s.unitFree h → s.barLive x.bar.toNat →
     (∀ rs ok o, readThree x.preg.toNat s = .ok (rs, s) → s.tilesGood h (.bmv x) → s.tilesGood h (.bdot x) →
       (s.contractOk h.c h.k h.ctx.ga (.bmv x) rs (fun t => s.tile? h.c h.k t) = (ok, o) →
         (ok = true → exec (.bmv x) s = .next (s.commit (s.inUnit h { h.command s (.bmv x) 2 0 x.bar.toNat rs noMods with sealed := o }).advanced)) ∧
         (ok = false → exec (.bmv x) s = .next (s.raise { cause := 5 }))) ∧
       (s.contractOk h.c h.k h.ctx.ga (.bdot x) rs (fun t => s.tile? h.c h.k t) = (ok, o) →
         (ok = true → exec (.bdot x) s = .next (s.commit (s.inUnit h { h.command s (.bdot x) 2 0 x.bar.toNat rs noMods with sealed := o }).advanced)) ∧
         (ok = false → exec (.bdot x) s = .next (s.raise { cause := 5 })))) ∧
     (∀ ok o, s.tilesGood h (.join x) → s.tableGood (recordKey h.c h.k (bitsOf x.cmd 5 0)) →
       s.contractOk h.c h.k h.ctx.ga (.join x) [] (fun t => s.tile? h.c h.k t) = (ok, o) →
       (ok = true → exec (.join x) s = .next (s.commit (s.inUnit h { h.command s (.join x) 2 0 x.bar.toNat [] noMods with sealed := o }).advanced)) ∧
       (ok = false → exec (.join x) s = .next (s.raise { cause := 5 }))) ∧
     exec (.cinit x) s = .next (s.commit (s.inUnit h (h.command s (.cinit x) 2 0 x.bar.toNat [] noMods)).advanced) ∧
     (∀ v, readReg x.preg.toNat s = .ok (v, s) →
       (s.tilesGood h (.cdrain x) → drainOk x false (s.tile? h.c h.k x.td.toNat) (s.tile? h.c h.k x.tb.toNat) = true →
         exec (.cdrain x) s = .next (s.commit (s.inUnit h (h.command s (.cdrain x) 2 0 x.bar.toNat [v] noMods)).advanced)) ∧
       (∀ t, tileHere x.td.toNat s = .ok (t, s) →
         (t.type = 7 → t.windowed = false →
           exec (.bdump x) s = .next (s.commit (s.inUnit h (h.command s (.bdump x) 2 0 x.bar.toNat [v] noMods)).advanced)) ∧
         (t.type ≠ 7 ∨ t.windowed = true → exec (.bdump x) s = .next (s.raise { cause := 5 })))) ∧
     (s.tilesGood h (.cdrainL x) → drainOk x true (s.tile? h.c h.k x.td.toNat) (s.tile? h.c h.k x.tb.toNat) = true →
       exec (.cdrainL x) s = .next (s.commit (s.inUnit h (h.command s (.cdrainL x) 2 0 x.bar.toNat [0] noMods)).advanced))) ∧
  (∀ (x : TWord) (s : State) (h : Here), s.here = some h → guardOn x.guard s = .ok (true, s) →
     (∀ v, tileHere x.ta.toNat s = .ok (v, s) → exec (.banch x) s = .next (s.commit (s.modCtxHere fun y =>
       { y with ga := BitVec.ofNat 64 (2 ^ 17 + v.grm * 2 ^ 16 + (v.anchor % 65536).toNat) }).advanced)) ∧
     (∀ u v, source true x.preg s = .ok (v, u) →
       (v.toNat < 2 ^ 17 → exec (.banchR x) s = .next (s.commit (u.modCtxHere fun y => { y with ga := BitVec.ofNat 64 (2 ^ 17 + v.toNat) }).advanced)) ∧
       (2 ^ 17 ≤ v.toNat → exec (.banchR x) s = .next (s.raise { cause := 5 }))) ∧
     ∀ co l, s.cores[h.c]? = some co → s.launch? h.ctx.lid = some l → (s.cmds.any fun y => y.c == h.c && y.k == h.k && y.unit == 2) = false →
       s.regFree x.preg.toNat →
       let q := catStatus co h.k h.ctx.cat l.spillRoom (bitsOf x.cmd 6 4)
       exec (.cstat x) s = .next (s.commit ((s.withReg x.preg.toNat (BitVec.ofNat 64 q.1) 1).modCtxHere fun y =>
         { y with flagw := y.flagw ++ [{ eng := h.e, slot := bitsOf x.cmd 3 0, val := statSlot q.1 q.2, due := s.now + 3, secN := h.secN }] }).advanced))

/-- R277 to R281, R287 to R292: the copy-queue words join their queue when it holds fewer than sixteen commands and their tiles, rows and
barrier are right. CPYF takes the registers of the word it carries and counts two words; QJOIN waits for the commands before it. R289,
R290: CQSTAT reads its queue; QFENCE goes on once the queues of its mask are empty. -/
def Obligations.CopyWordsIssue : Prop :=
  (∀ (x : TWord) (s u : State) (h : Here), s.queueNamed u (bitsOf x.cmd 33 31) → guardOn x.guard u = .ok (true, u) → u.here = some h →
     (u.barLive x.bar.toNat →
       (∀ rs m, readCopy x.preg.toNat u = .ok (rs, u) →
         (modsHere 2 u = .ok (m, u) → u.copies h x false rs →
           exec (.cpy x) s = .next (s.commit (u.withCmd { h.command u (.cpy x) 1 (bitsOf x.cmd 33 31) x.bar.toNat rs m with
             ranges := allRows x false rs }).advanced) ∧
           ∀ w more v, readCarried w u = .ok (more, u) → advance 2 (u.withCmd { h.command u (.cpyf ⟨x, w⟩) 1 (bitsOf x.cmd 33 31) x.bar.toNat
               (rs ++ more) m with ranges := allRows x false rs }) = .ok ((), v) → exec (.cpyf ⟨x, w⟩) s = .next (s.commit v)) ∧
         (modsHere 1 u = .ok (m, u) → u.copies h x true rs →
           exec (.cpyz x) s = .next (s.commit (u.withCmd { h.command u (.cpyz x) 1 (bitsOf x.cmd 33 31) x.bar.toNat rs m with
             ranges := allRows x true rs }).advanced))) ∧
       ((u.queueOf h.c h.k 1 (bitsOf x.cmd 33 31)).length < 16 → ∀ a d, tileHere x.ta.toNat u = .ok (a, u) → tileHere x.td.toNat u = .ok (d, u) →
         (∀ r, readReg x.preg.toNat u = .ok (r, u) → sortOk r a d = true →
           exec (.sort x) s = .next (s.commit (u.withCmd { h.command u (.sort x) 1 (bitsOf x.cmd 33 31) x.bar.toNat [r] noMods with
             next := (sortRows r a d).1, ranges := [((sortRows r a d).1, (sortRows r a d).1 + (sortRows r a d).2 - 1)] }).advanced)) ∧
         (sortkOk a d = true →
           exec (.sortk x) s = .next (s.commit (u.withCmd (h.command u (.sortk x) 1 (bitsOf x.cmd 33 31) x.bar.toNat [] noMods)).advanced)) ∧
         (sortkOk a d = false → exec (.sortk x) s = .next (s.raise { cause := 5 })))) ∧
     ((u.queueOf h.c h.k 1 (bitsOf x.cmd 33 31)).length < 16 → exec (.qjoin x) s = .next (s.commit
       (u.withCmd { h.command u (.qjoin x) 1 (bitsOf x.cmd 33 31) 1024 [] noMods with
         after := (u.maskedCmds h.c h.k (bitsOf x.cmd 7 0)).map (·.id) }).advanced)) ∧
     (16 ≤ (u.queueOf h.c h.k 1 (bitsOf x.cmd 33 31)).length → exec (.qjoin x) s = .next s ∧ exec (.sortk x) s = .next s)) ∧
  (∀ (x : TWord) (s : State) (h : Here), s.here = some h → guardOn x.guard s = .ok (true, s) →
     (s.regFree x.preg.toNat →
       exec (.cqstat x) s = .next (s.commit (s.withReg x.preg.toNat (s.queueStatus h.c h.k (bitsOf x.cmd 33 31)) 1).advanced)) ∧
     (s.queueOf h.c h.k 1 (bitsOf x.cmd 33 31) = [] → s.queueStatus h.c h.k (bitsOf x.cmd 33 31) = 0) ∧
     (s.maskedCmds h.c h.k (bitsOf x.cmd 7 0) = [] → exec (.qfence x) s = .next (s.commit s.advanced)) ∧
     (s.maskedCmds h.c h.k (bitsOf x.cmd 7 0) ≠ [] → exec (.qfence x) s = .next s))

/-- R348, R356, R358, R360: TOKPOP gives an open request's handle, id, counts and flags to four registers, starts the copy of its tokens
and takes it off its queue; at an empty queue TOKPOP.t writes a zero to the fourth register and TOKPOP stalls. TOKPUSH sends the tokens of
a tile, TOKEND the end, to the detokeniser of the handle. The handle's tag is a free value among those not in use (log 7). R356, R358:
what a TOKPOP that takes a record leaves in its four registers and in the tokeniser: the handle open at the detokeniser, the record gone
from its queue, the token copy under way with at most the tile's elements. -/
def Obligations.TextWordsComplete : Prop :=
  (∀ (x : TWord) (s : State) (h : Here), s.here = some h → guardOn x.guard s = .ok (true, s) → s.barLive x.bar.toNat →
     (∀ v, tileHere x.td.toNat s = .ok (v, s) → popOk v ((s.text.rqbind[bitsOf x.cmd 3 0]?).getD 0) h.ctx.lid h.ctx.stage = true →
       ((s.text.rq[bitsOf x.cmd 3 0]?).getD [] = [] →
         exec (.tokpop x) s = .next s ∧
         (s.regFree (x.preg.toNat + 3) → exec (.tokpopT x) s = .next (s.commit (s.withReg (x.preg.toNat + 3) 0 1).advanced))) ∧
       ∀ q rest r t, (s.text.rq[bitsOf x.cmd 3 0]?).getD [] = q :: rest →
         ((s.text.toks[q.tk]?).map (·.reqs)).bind (·.find? (·.slot == q.slot)) = some r →
         popRecord x v q r (bitsOf x.cmd 3 0) s = .ok ((), t) →
         exec (.tokpop x) s = .next (s.commit t) ∧ exec (.tokpopT x) s = .next (s.commit t)) ∧
     (∀ hd ec v, readReg x.preg.toNat s = .ok (hd, s) → readReg (x.preg.toNat + 1) s = .ok (ec, s) → tileHere x.ta.toNat s = .ok (v, s) →
       (v.type = 7 → bitsOf ec 31 0 + bitsOf ec 63 32 ≤ v.numel →
         (bitsOf ec 63 32 = 0 → exec (.tokpush x) s = .next (s.commit s.advanced)) ∧
         (bitsOf ec 63 32 ≠ 0 →
           s.badImage h.c v (v.linearReads ((List.range (bitsOf ec 63 32)).map (bitsOf ec 31 0 + ·))) = none →
           let toks := (List.range (bitsOf ec 63 32)).map fun i => s.linearElem h.c v (bitsOf ec 31 0 + i)
           exec (.tokpush x) s = .next (s.commit
             ((s.withCmd { h.command s (.tokpush x) 4 0 x.bar.toNat [hd] noMods with state := .sent }).modTok (bitsOf hd 8 6) fun y =>
               { y with cmds := y.cmds ++ [{ id := s.nextId, handle := hd, tokens := some toks, count := bitsOf ec 63 32 }] }).advanced))) ∧
       (v.type ≠ 7 ∨ v.numel < bitsOf ec 31 0 + bitsOf ec 63 32 → exec (.tokpush x) s = .next (s.raise { cause := 5 }))) ∧
     ∀ hd, readReg x.preg.toNat s = .ok (hd, s) → exec (.tokend x) s = .next (s.commit
       ((s.withCmd { h.command s (.tokend x) 4 0 x.bar.toNat [hd] noMods with state := .sent }).modTok (bitsOf hd 8 6) fun y =>
         { y with cmds := y.cmds ++ [{ id := s.nextId, handle := hd, tokens := none, count := 0 }] }).advanced)) ∧
  (∀ (x : TWord) (v : Shape) (q : RqRecord) (r : TextReq) (n : Nat) (s t : State), popRecord x v q r n s = .ok ((), t) → q.tk < s.text.toks.length →
     ∃ h tag, s.here = some h ∧ t.text.rq = s.text.rq.modify n (·.drop 1) ∧
       (∃ y, t.text.toks[q.tk]? = some y ∧ y.opens.any (fun o => o.slot == r.slot && o.tag == tag && o.reqid == r.reqid) = true) ∧
       ∃ y, t.text.copies = s.text.copies ++ [y] ∧ y.tile = x.td.toNat ∧ y.bar = x.bar.toNat ∧
         y.tokens = (r.tokens.getD []).take (min (r.tokens.getD []).length v.numel))

/-! ## V -/

/-- R28, R87, R95, R213, R216, R219, R221, R236: executing, an element-wise word computes its enabled elements and puts the whole result in
D; guarded off it changes no register and pushes its first source where D is a queue, a cycle on (log 27). -/
def Obligations.ElementWordsWriteTheirResults : Prop :=
  ∀ p ∈ elemForms, ∀ (x : RWord) (s u : State) (a b c : VIn),
    (guardOn x.guard s = .ok (true, s) → vSources [(true, x.a), (decide (2 ≤ p.n), x.b), (decide (3 ≤ p.n), x.c)] s = .ok ([a, b, c], u) →
      ∀ en rb, vMask x u = .ok (en, u) → vRand x u = .ok (rb, u) → u.commits (elemResults x (p.op x) a b c en rb) → u.vFree x.d.toNat →
      exec (p.ins x) s = .next (s.commit ((u.vPut x.d.toNat (packElems (typeWidth x.type.toNat)
        ((elemResults x (p.op x) a b c en rb).map (flushF x.type.toNat))) none (p.lat x)).vDone 1))) ∧
    (s.unanswered → guardOn x.guard s = .ok (false, s) →
      vSources [(true, x.a), (decide (2 ≤ p.n), x.b), (decide (3 ≤ p.n), x.c)] s = .ok ([a, b, c], u) →
      (x.d.toNat < 32 ∨ u.vFree x.d.toNat) →
      exec (p.ins x) s = .next (s.commit (u.vOffDone x.d.toNat a (typeWidth x.type.toNat))))

/-- R28, R425, R426: the first subnormal result of an element-wise word without FTZ holds the word for the assist routine, from that
element on; the elements before it are written to a register that D names, the others keep what it held. -/
def Obligations.SubnormalsWaitForTheAssist : Prop :=
  ∀ p ∈ elemForms, ∀ (x : RWord) (s u : State) (h g : Here) (co : Core) (a b c : VIn) (en : Nat → Bool) (rb : Nat → Nat) (j : Nat),
    s.here = some g → guardOn x.guard s = .ok (true, s) →
    vSources [(true, x.a), (decide (2 ≤ p.n), x.b), (decide (3 ≤ p.n), x.c)] s = .ok ([a, b, c], u) → vMask x u = .ok (en, u) →
    vRand x u = .ok (rb, u) → u.here = some h → h.asst = false → h.eng.req = .none → g.e.tag < g.ctx.engs.length →
    u.ftz h.ctx.lid = false → u.vFree x.d.toNat →
    (elemResults x (p.op x) a b c en rb).findIdx? (·.sub) = some j → s.cores[g.c]? = some co →
    ∃ t q ct, exec (p.ins x) s = .next t ∧ (t.cores[g.c]?).map (·.assist.waiting) = some (co.assist.waiting ++ [q]) ∧
      q.k = g.k ∧ q.unit = 0 ∧ q.ins = p.ins x ∧ q.first = j ∧ q.count = elemsOf x.type.toNat - j ∧
      t.ctx? g.c g.k = some ct ∧ (ct.eng g.e).held = true ∧ (ct.eng g.e).pc = (g.ctx.eng g.e).pc ∧ ct.opqs = g.ctx.opqs ∧
      (x.d.toNat < 32 → ct.vregs = g.ctx.vregs.set x.d.toNat (packElems (typeWidth x.type.toNat) (groupPart 1 0
        ((assistBase h.ctx u.freeCtr x.d.toNat 1 (typeWidth x.type.toNat) j (elemResults x (p.op x) a b c en rb)).map (·.toNat)))))

/-- R219, R222: a compare writes its whole mask register, bit `i` where element `i` is enabled and the relation holds; VSEL
takes `a` where the bit of vC is 1 or the element is masked off. -/
def Obligations.VectorComparesAndSelect : Prop :=
  (∀ p ∈ ([(.vcmpeq, fun o => o == some 0), (.vcmpne, fun o => o != some 0), (.vcmplt, fun o => o == some (-1)),
       (.vcmple, fun o => o == some (-1) || o == some 0)] : List ((RWord → Instr) × (Option Int → Bool))),
    ∀ (x : RWord) (s u : State) (a b : VIn) (en : Nat → Bool), guardOn x.guard s = .ok (true, s) →
      vSources [(true, x.a), (true, x.b)] s = .ok ([a, b], u) → vMask x u = .ok (en, u) → x.d.toNat < 32 → u.vFree x.d.toNat →
      ∃ v, exec (p.1 x) s = .next (s.commit ((u.vPut x.d.toNat v none 2).vDone 1)) ∧
        ∀ i < 4096, v.getLsbD i = (decide (i < elemsOf x.type.toNat) && en i &&
          p.2 (elemOrder x.type.toNat (a.elem (typeWidth x.type.toNat) i) (b.elem (typeWidth x.type.toNat) i)))) ∧
  ∀ (x : RWord) (s u : State) (a b : VIn) (c : VReg) (en : Nat → Bool), guardOn x.guard s = .ok (true, s) →
    vSources [(true, x.a), (true, x.b)] s = .ok ([a, b], u) → vReg x.c.toNat u = .ok (c, u) → vMask x u = .ok (en, u) → u.vFree x.d.toNat →
    (∃ h, u.here = some h ∧ ∀ b d, h.eng.req ≠ .answer b d) →
    exec (.vsel x) s = .next (s.commit ((u.vPut x.d.toNat (packElems (typeWidth x.type.toNat) ((List.range (elemsOf x.type.toNat)).map fun i =>
      if en i && !c.getLsbD i then b.elem (typeWidth x.type.toNat) i else a.elem (typeWidth x.type.toNat) i)) none 2).vDone 1))

/-- R53, R232, R233: the reductions put their one result in the low bits of D and clear the others; an integer sum is exact in 64 bits, a
float sum the tree of R53 over the enabled elements, a masked-off one counting as -0; VSCAN puts the running sums. -/
def Obligations.ReductionsAndScan : Prop :=
  ∀ (x : RWord) (s u : State) (h : Here) (a : VIn) (en : Nat → Bool) (rb : Nat → Nat), guardOn x.guard s = .ok (true, s) →
    vSource x.a s = .ok (a, u) → vMask x u = .ok (en, u) → vRand x u = .ok (rb, u) → u.here = some h → u.vFree x.d.toNat →
    let t := x.type.toNat
    let w := typeWidth t
    let ins := (List.range (elemsOf t)).map fun i => (a.elem w i, en i)
    let lat := if isFloatT t then 4 * log2N t else 6
    (isFloatT t = false → u.commits [] →
      exec (.vredsum x) s = .next (s.commit ((u.vPut x.d.toNat (BitVec.ofNat 4096
        (wrapN 64 (ins.foldl (fun z p => if p.2 then z + intVal t p.1 else z) 0))) none lat).vDone 1))) ∧
    (isFloatT t = true →
      let z := treeSum t (fun i => vRounding x (rb i)) (u.ftz h.ctx.lid) (log2N t) 0
        (ins.map fun p => ⟨if p.2 then p.1 else signBit t, false⟩)
      u.commits [z] → exec (.vredsum x) s = .next (s.commit ((u.vPut x.d.toNat (BitVec.ofNat 4096 (flushF t z)) none lat).vDone 1))) ∧
    (∀ hi : Bool,
      let z := redSelect t hi ((ins.filter (·.2)).map (·.1))
      u.commits [z] → exec (if hi then .vredmax x else .vredmin x) s =
        .next (s.commit ((u.vPut x.d.toNat (BitVec.ofNat 4096 (flushF t z)) none lat).vDone 1))) ∧
    (let out := (scanFrom t (u.ftz h.ctx.lid) 0 ((List.range (elemsOf t)).map fun i => (a.elem w i, en i, vRounding x (rb i)))).map (·.1)
     u.commits out → exec (.vscan x) s = .next (s.commit ((u.vPut x.d.toNat (packElems w (out.map (flushF t))) none
        (if isFloatT t then elemsOf t else 6)).vDone (if isFloatT t then elemsOf t / 8 else 1))))

/-- R234: VPOPC writes to bits 63 to 0 of vD the number of enabled elements i < N of A whose bits are not all zero and clears every other
bit of vD; a well-formed one has TYPE 0 to 10, SUB 0 and RND 0. -/
def Obligations.VpopcCountsElements : Prop :=
  (∀ (x : RWord) (s u : State) (a : VIn) (en : Nat → Bool), guardOn x.guard s = .ok (true, s) → vSource x.a s = .ok (a, u) →
    vMask x u = .ok (en, u) → u.vFree x.d.toNat →
    ∃ v, exec (.vpopc x) s = .next (s.commit ((u.vPut x.d.toNat v none 6).vDone 1)) ∧
      (v.setWidth 64).toNat = (List.range (elemsOf x.type.toNat)).countP (fun i => en i && a.elem (typeWidth x.type.toNat) i != 0) ∧
      ∀ i, 64 ≤ i → v.getLsbD i = false) ∧
  ∀ x : RWord, wellFormed .V (.vpopc x) = true → x.type.toNat ≤ 10 ∧ x.sub = 0 ∧ x.rnd = 0

/-- R187, R188, R235: VTEST counts the enabled elements that meet its test and writes ANY, ALL, NONE, VALID and COUNT to a flag slot, to
take effect after three cycles. -/
def Obligations.VtestWritesAFlagSlot : Prop :=
  ∀ (x : RWord) (s u : State) (h : Here) (a : VIn) (en : Nat → Bool), guardOn x.guard s = .ok (true, s) → vSource x.a s = .ok (a, u) →
    vMask x u = .ok (en, u) → u.here = some h →
    let l := (List.range (elemsOf x.type.toNat)).filter en
    let n := l.countP fun i => testElem x.type.toNat x.sub.toNat (a.elem (typeWidth x.type.toNat) i)
      (match a.par with | some p => p.getLsbD i | none => a.data.getLsbD i)
    exec (.vtest x) s = .next (s.commit ((u.modCtxHere fun y => { y with flagw := y.flagw ++
      [{ eng := h.e, slot := x.c.toNat, val := flagSlot n l.length, due := u.now + 3, secN := h.secN }] }).vDone 1)) ∧
    (flagSlot n l.length).getLsbD 0 = decide (0 < n) ∧ (flagSlot n l.length).getLsbD 1 = decide (n = l.length) ∧
    (flagSlot n l.length).getLsbD 2 = decide (n = 0) ∧ (flagSlot n l.length).getLsbD 3 = true ∧
    bitsOf (flagSlot n l.length) 26 16 = n

/-- R32, R87, R212, R217, R219, R223 to R225: conversions and width changes put each enabled element, rounded once, into the
destination group; VCVT from a BX type reads each element under its block's exponents and raises the format fault where one
of them is 255. Guarded off, VCVT and VNRW push their first source where D is a queue, a cycle on (log 27), and the widening
words only pop. -/
def Obligations.WidthChangesWriteTheirResults : Prop :=
  (∀ (x : RWord) (s u : State) (a : Nat → Nat) (en : Nat → Bool) (rb : Nat → Nat), guardOn x.guard s = .ok (true, s) → x.sub.toNat < 11 →
    let dst := x.type.toNat
    let src := x.sub.toNat
    let ga := max 1 (cvtGroups x).2
    let gd := max 1 (cvtGroups x).1
    vWide x.a ga (typeWidth src) s = .ok (a, u) → vMask x u = .ok (en, u) → vRand x u = .ok (rb, u) →
    let res := (List.range (4096 / min (typeWidth dst) (typeWidth src))).map fun i =>
      if en i then convert dst src (vRounding x (rb i)) (a i) else if typeWidth dst = typeWidth src then bitRes (a i) else offElem dst src (a i)
    u.commits res → u.vFreeGroup x.d.toNat gd →
    exec (.vcvt x) s = .next (s.commit ((u.vPutGroup x.d.toNat gd (typeWidth dst) (res.map (flushF dst)) 4).vDone (max ga gd)))) ∧
  (∀ p ∈ ([(.vwadd, (fun a b : Int => a + b), addF), (.vwmul, (fun a b : Int => a * b), mulF)] :
      List ((RWord → Instr) × (Int → Int → Int) × (FVal → FVal → Exact))),
    ∀ (x : RWord) (s u1 u : State) (a : Nat → Nat) (b : VIn) (en : Nat → Bool) (rb : Nat → Nat), guardOn x.guard s = .ok (true, s) →
    let t := x.type.toNat
    vWide x.a 1 (typeWidth t) s = .ok (a, u1) → vSource x.b u1 = .ok (b, u) → vMask x u = .ok (en, u) → vRand x u = .ok (rb, u) →
    let res := (List.range (elemsOf t)).map fun i =>
      if en i then
        if 8 ≤ t then roundF (wideType x) (vRounding x (rb i)) (p.2.2 (unpackF t (a i)) (unpackF t (b.elem (typeWidth t) i)))
        else intRes (wideType x) false (p.2.1 (intVal t (a i)) (intVal t (b.elem (typeWidth t) i)))
      else offElem (wideType x) t (a i)
    u.commits res → u.vFreeGroup x.d.toNat (widenGroup x) →
    exec (p.1 x) s = .next (s.commit ((u.vPutGroup x.d.toNat (widenGroup x) (typeWidth (wideType x)) (res.map (flushF (wideType x))) 4).vDone
      (widenGroup x)))) ∧
  (∀ (x : RWord) (s u1 u2 u : State) (a : Nat → Nat) (b c : VIn) (en : Nat → Bool) (rb : Nat → Nat), guardOn x.guard s = .ok (true, s) →
    let t := x.type.toNat
    vWide x.a (widenGroup x) (typeWidth (wideType x)) s = .ok (a, u1) → vSource x.b u1 = .ok (b, u2) → vSource x.c u2 = .ok (c, u) →
    vMask x u = .ok (en, u) → vRand x u = .ok (rb, u) →
    let res := (List.range (elemsOf t)).map fun i =>
      if en i then
        if 8 ≤ t then roundF (wideType x) (vRounding x (rb i))
          (fmaF (unpackF t (b.elem (typeWidth t) i)) (unpackF t (c.elem (typeWidth t) i)) (unpackF (wideType x) (a i)))
        else intRes (wideType x) false (intVal (wideType x) (a i) + intVal t (b.elem (typeWidth t) i) * intVal t (c.elem (typeWidth t) i))
      else bitRes (a i)
    u.commits res → u.vFreeGroup x.d.toNat (widenGroup x) →
    exec (.vwmad x) s = .next (s.commit ((u.vPutGroup x.d.toNat (widenGroup x) (typeWidth (wideType x)) (res.map (flushF (wideType x))) 4).vDone
      (widenGroup x)))) ∧
  (∀ (x : RWord) (s u : State) (b : VIn) (l : List VReg) (en : Nat → Bool) (rb : Nat → Nat), guardOn x.guard s = .ok (true, s) →
    vSource x.b s = .ok (b, u) → vGroup x.a (narrowGroup x) u = .ok (l, u) → vMask x u = .ok (en, u) → vRand x u = .ok (rb, u) →
    (∃ h, u.here = some h ∧ ∀ b d, h.eng.req ≠ .answer b d) → u.vFree x.d.toNat →
    let t := x.type.toNat
    let dst := narrowType x
    let sh := b.low.toNat % typeWidth t
    let res := (List.range (elemsOf dst)).map fun i =>
      let z := intVal t (groupElem l (typeWidth t) i)
      if en i then bitRes (satInt dst (roundInt (vRounding x (rb i)) (decide (z < 0)) z.natAbs (2 ^ sh) 0))
      else offElem dst t (groupElem l (typeWidth t) i)
    u.commits res →
    exec (.vnrw x) s = .next (s.commit ((u.vPut x.d.toNat (packElems (typeWidth dst) (res.map (flushF dst))) none 4).vDone (narrowGroup x)))) ∧
  (∀ (x : RWord) (s u : State) (l : List (VReg × Car)) (en : Nat → Bool) (rb : Nat → Nat), guardOn x.guard s = .ok (true, s) → 11 ≤ x.sub.toNat →
    let dst := x.type.toNat
    let src := x.sub.toNat
    let ga := max 1 (cvtGroups x).2
    let gd := max 1 (cvtGroups x).1
    vGroupCars x.a ga s = .ok (l, u) → vMask x u = .ok (en, u) → vRand x u = .ok (rb, u) →
    let bits (i : Nat) : Nat := groupElem (l.map (·.1)) (typeWidth src) i
    let val (i : Nat) : FVal := vBx src (bits i) (((l[i % ga]?).map (·.2)).getD 0) (i / ga / 32)
    let res := (List.range (4096 / min (typeWidth dst) (typeWidth src))).map fun i =>
      if en i then fromValue dst (vRounding x (rb i)) (val i)
      else if typeWidth dst = typeWidth src then bitRes (bits i) else ⟨(fromValue dst rtz (val i)).bits, false⟩
    ((l.any fun p => badCar src p.2) = true → (∃ h, u.here = some h ∧ h.eng.req = .none) → exec (.vcvt x) s = .next (s.raise { cause := 5 })) ∧
    ((l.any fun p => badCar src p.2) = false → u.commits res → u.vFreeGroup x.d.toNat gd →
      exec (.vcvt x) s = .next (s.commit ((u.vPutGroup x.d.toNat gd (typeWidth dst) (res.map (flushF dst)) 4).vDone (max ga gd))))) ∧
  (∀ (x : RWord) (s u : State) (a : VIn), s.unanswered → guardOn x.guard s = .ok (false, s) → vFirst x.a (max 1 (cvtGroups x).2) s = .ok (a, u) →
    (x.d.toNat < 32 ∨ u.vFree x.d.toNat) → exec (.vcvt x) s = .next (s.commit (u.vOffDone x.d.toNat a (typeWidth x.type.toNat)))) ∧
  (∀ (x : RWord) (s u : State) (l : List VIn), s.unanswered → guardOn x.guard s = .ok (false, s) →
    (vSources [(true, x.a), (true, x.b), (false, x.c)] s = .ok (l, u) → exec (.vwadd x) s = .next (s.commit u.advanced) ∧
      exec (.vwmul x) s = .next (s.commit u.advanced)) ∧
    (vSources [(false, x.a), (true, x.b), (true, x.c)] s = .ok (l, u) → exec (.vwmad x) s = .next (s.commit u.advanced))) ∧
  ∀ (x : RWord) (s u : State) (h : Here) (b : VIn) (v : VReg), guardOn x.guard s = .ok (false, s) → vSource x.b s = .ok (b, u) →
    vReg x.a.toNat u = .ok (v, u) → u.here = some h → (x.d.toNat < 32 ∨ u.vFree x.d.toNat) →
    exec (.vnrw x) s = .next (s.commit (u.vOffDone x.d.toNat ⟨v, (h.ctx.cars[x.a.toNat]?).getD 0, none⟩ (typeWidth x.type.toNat)))

/-- R65 to R67, R206 to R210, R217, R223 to R225: where their operands can be read and their destination can take a result,
the words on the tables and the width changes complete. TDEF and CDEF leave the object they have read, TDEF's with its
place, in the context's table, live from the next cycle, TFREE and CFREE leave nothing at the handle or slot, TINFO's
register holds the dword it names; with FTZ, VCVT, VWADD, VWMUL, VWMAD and VNRW leave one element for each of the narrower
type's in the destination, after 4 cycles. -/
def Obligations.TableWordsAndWidthChangesComplete : Prop :=
  (∀ (x : TWord) (s : State) (h : Here), s.here = some h → h.asst = false → guardOn x.guard s = .ok (true, s) →
    (∀ va d, readReg x.preg.toNat s = .ok (va, s) → va.toNat % 32 = 0 → h.eng.req = .answer true d →
      (∀ first count, h.ctx.tiles.any (·.1 == x.td.toNat) = false → tileValid (objOf d) = true →
        (((s.cores[h.c]?).map Core.liveTiles).getD []).length < 256 → s.tileRoom h.c (objOf d) = some (first, count) →
        (bitsOf x.cmd 5 0 = 0 ∨ h.eng.isBusy s.now (bitsOf x.cmd 5 0) = false) →
        ∃ (t : State) (y : Ctx) (q : Nat × Tile), exec (.tdef x) s = .next t ∧ t.ctx? h.c h.k = some y ∧ y.tiles.find? (·.1 == x.td.toNat) = some q ∧
          q.2.obj = sealObj (objOf d) first count ∧ q.2.live = s.now + 1) ∧
      (h.ctx.recs.any (·.1 == bitsOf x.cmd 11 6) = false → recordValid (objOf d) = true →
        (((s.cores[h.c]?).map (·.slots)).getD []).foldl (fun n y => n + ((y.map (·.recs)).getD []).length) 0 < 64 →
        (bitsOf x.cmd 5 0 = 0 ∨ h.eng.isBusy s.now (bitsOf x.cmd 5 0) = false) →
        ∃ t y, exec (.cdef x) s = .next t ∧ t.ctx? h.c h.k = some y ∧ y.recs = h.ctx.recs ++ [(bitsOf x.cmd 11 6, objOf d, s.now + 1)])) ∧
    (∀ q, h.ctx.tiles.find? (·.1 == x.td.toNat) = some q → q.2.live ≤ s.now → s.laterTurn h.c = none →
      s.tileInUse h.c h.k x.td.toNat (q.2.freeing.getD s.now) = false →
      ∃ t y, exec (.tfree x) s = .next t ∧ t.ctx? h.c h.k = some y ∧ y.tiles = h.ctx.tiles.filter (·.1 != x.td.toNat)) ∧
    (h.ctx.recs.any (·.1 == bitsOf x.cmd 11 6) = true → s.laterTurn h.c = none →
      ∃ t y, exec (.cfree x) s = .next t ∧ t.ctx? h.c h.k = some y ∧ y.recs = h.ctx.recs.filter (·.1 != bitsOf x.cmd 11 6)) ∧
    (∀ v, h.e = .S → h.eng.loop = none → x.preg ≠ 0 → s.sreg h.c h.k 0 x.preg.toNat = some v → h.eng.isBusy s.now x.preg.toNat = false →
      s.tableGood (tileKey h.c h.k x.ta.toNat) →
      let o : Obj := match h.ctx.tiles.find? fun q => q.1 == x.ta.toNat && decide (q.2.live ≤ s.now) && q.2.freeing.isNone with
        | some q => q.2.obj
        | none => 0
      ∃ t, exec (.tinfo x) s = .next t ∧ t.sreg h.c h.k 0 x.preg.toNat =
        some (BitVec.ofNat 64 (bitsOf o (64 * bitsOf x.cmd 3 0 + 63) (64 * bitsOf x.cmd 3 0))))) ∧
  ∀ (x : RWord) (s : State) (h : Here), s.here = some h → (∀ b d, h.eng.req ≠ .answer b d) → guardOn x.guard s = .ok (true, s) →
    s.tableGood (fileKey h.c h.k h.e.tag) → s.ftz h.ctx.lid = true → s.maskReady h x →
    (x.sub.toNat < 11 → s.vReady h x.a (max 1 (cvtGroups x).2) → s.vFreeGroup x.d.toNat (max 1 (cvtGroups x).1) →
      ∃ (u : State) (l : List Nat), l.length = 4096 / min (typeWidth x.type.toNat) (typeWidth x.sub.toNat) ∧ exec (.vcvt x) s = .next (s.commit
        ((u.vPutGroup x.d.toNat (max 1 (cvtGroups x).1) (typeWidth x.type.toNat) l 4).vDone (max (max 1 (cvtGroups x).2) (max 1 (cvtGroups x).1))))) ∧
    (∀ i, i = .vwadd x ∨ i = .vwmul x → s.vReady h x.a 1 → s.vReady h x.b 1 → s.vFreeGroup x.d.toNat (widenGroup x) →
      ∃ (u : State) (l : List Nat), l.length = elemsOf x.type.toNat ∧ exec i s = .next (s.commit
        ((u.vPutGroup x.d.toNat (widenGroup x) (typeWidth (wideType x)) l 4).vDone (widenGroup x)))) ∧
    (s.vReady h x.a (widenGroup x) → s.vReady h x.b 1 → s.vReady h x.c 1 → s.vFreeGroup x.d.toNat (widenGroup x) →
      ∃ (u : State) (l : List Nat), l.length = elemsOf x.type.toNat ∧ exec (.vwmad x) s = .next (s.commit
        ((u.vPutGroup x.d.toNat (widenGroup x) (typeWidth (wideType x)) l 4).vDone (widenGroup x)))) ∧
    (s.vReady h x.a (narrowGroup x) → s.vReady h x.b 1 → s.vFree x.d.toNat →
      ∃ (u : State) (l : List Nat), l.length = elemsOf (narrowType x) ∧ exec (.vnrw x) s = .next (s.commit
        ((u.vPut x.d.toNat (packElems (typeWidth (narrowType x)) l) none 4).vDone (narrowGroup x))))

/-- R226 to R229: VUNPK takes 512 codes from a bit offset of a register pair, VPACK packs their low bits, VLUT looks codes up in the four
codebooks of vB, VBXN makes BX blocks with their exponents in the side-car and raises the format fault on a NaN or an infinity. -/
def Obligations.CodesAndBlocks : Prop :=
  ∀ (x : RWord) (s : State), guardOn x.guard s = .ok (true, s) →
    (∀ lo hi p u, vReg x.a.toNat s = .ok (lo, s) → vSource x.b s = .ok (p, u) → vReg (x.a.toNat + 1) u = .ok (hi, u) → u.vFree x.d.toNat →
      exec (.vunpk x) s = .next (s.commit ((u.vPut x.d.toNat (packElems 8 ((List.range 512).map fun i =>
        ((lo.toNat + hi.toNat * 2 ^ 4096) >>> (p.low.toNat % 4096 + i * codeBits x.type.toNat)) % 2 ^ codeBits x.type.toNat)) none 3).vDone 2))) ∧
    (∀ a u, vSource x.a s = .ok (a, u) → u.vFree x.d.toNat →
      exec (.vpack x) s = .next (s.commit ((u.vPut x.d.toNat (packElems (codeBits x.type.toNat) ((List.range 512).map fun i => a.elem 8 i))
        none 3).vDone 1))) ∧
    (∀ a b u en, vSources [(true, x.a), (true, x.b)] s = .ok ([a, b], u) → vMask x u = .ok (en, u) → u.vFreeGroup x.d.toNat 2 →
      (∃ h, u.here = some h ∧ ∀ b d, h.eng.req ≠ .answer b d) →
      let res := (List.range 512).map fun i => if en i then bitRes (vElem b.data 16 (2 ^ codeBits x.type.toNat * (i / 128) +
        a.elem 8 i % 2 ^ codeBits x.type.toNat)) else offElem 9 3 (a.elem 8 i)
      u.commits res → exec (.vlut x) s = .next (s.commit ((u.vPutGroup x.d.toNat 2 16 (res.map (flushF 9)) 3).vDone 2))) ∧
    ∀ l rb, vGroup x.a (bxnGroup x) s = .ok (l, s) → vRand x s = .ok (rb, s) →
      let vals := (List.range (elemsOf x.type.toNat)).map fun i =>
        (unpackF x.sub.toNat (groupElem l (typeWidth x.sub.toNat) i), vRounding x (rb i))
      ((∃ v ∈ vals, v.1.special = true) → exec (.vbxn x) s = .next (s.raise { cause := 5 })) ∧
      ((∀ v ∈ vals, v.1.special = false) → s.vFree x.d.toNat →
        let blocks := (List.range (elemsOf x.type.toNat / 32)).map fun j => bxBlock x.type.toNat ((vals.drop (32 * j)).take 32)
        exec (.vbxn x) s = .next (s.commit ((s.vPut x.d.toNat (packElems (typeWidth x.type.toNat) (blocks.flatMap (·.2.2)))
          (some (BitVec.ofNat 512 (packElems 8 (blocks.flatMap fun p => [p.1, p.2.1])).toNat)) 6).vDone (bxnGroup x))))

/-- R230: VPERM, VSHUF, VSLIDE and VBCAST pick elements by index, VMOV copies a register, of a BX type with its side-car,
whose bytes 32 to 63 BX8 leaves zero. R231: VMOVI sets every element to IMM32's low bits, guarded off too where D is a
queue. -/
def Obligations.MovementWords : Prop :=
  (∀ (x : RWord) (s u : State) (a b c : VIn) (en : Nat → Bool), guardOn x.guard s = .ok (true, s) → vMask x u = .ok (en, u) → u.vFree x.d.toNat →
     let w := typeWidth x.type.toNat
     let n := elemsOf x.type.toNat
     let g := indexGroup x.type.toNat
     (vSource x.a s = .ok (a, u) →
       (∀ ix, vGroup x.b g u = .ok (ix, u) → exec (.vperm x) s =
         .next (s.commit ((u.vPut x.d.toNat (movedReg x a en fun i => a.elem w (groupElem ix 16 i % n)) none 3).vDone g))) ∧
       (x.type.toNat ≤ 10 → exec (.vmov x) s = .next (s.commit ((u.vPut x.d.toNat (movedReg x a en (a.elem w)) none 2).vDone 1))) ∧
       (11 ≤ x.type.toNat → exec (.vmov x) s = .next (s.commit ((u.vPut x.d.toNat a.data (some (bxCar x.type.toNat a.car)) 2).vDone 1)))) ∧
     (vSources [(true, x.a), (true, x.b)] s = .ok ([a, b], u) →
       (∀ ix, vGroup x.c g u = .ok (ix, u) → exec (.vshuf x) s = .next (s.commit ((u.vPut x.d.toNat (movedReg x a en fun i =>
         if groupElem ix 16 i % (2 * n) < n then a.elem w (groupElem ix 16 i % (2 * n)) else b.elem w (groupElem ix 16 i % (2 * n) - n))
         none 3).vDone g))) ∧
       exec (.vbcast x) s = .next (s.commit ((u.vPut x.d.toNat (movedReg x a en fun _ => a.elem w (b.low.toNat % n)) none 2).vDone 1))) ∧
     (vSources [(true, x.a), (true, x.b), (true, x.c)] s = .ok ([a, b, c], u) → exec (.vslide x) s =
       .next (s.commit ((u.vPut x.d.toNat (movedReg x a en fun i =>
         if i + c.low.toNat % n < n then a.elem w (i + c.low.toNat % n) else b.elem w (i + c.low.toNat % n - n)) none 3).vDone 1)))) ∧
  (∀ (x : IWord) (s : State) (on : Bool), guardOn x.guard s = .ok (on, s) → x.sub.toNat ≤ 10 →
     (on = true ∨ 32 ≤ x.d.toNat → s.vFree x.d.toNat → ∃ v, exec (.vmovi x) s = .next (s.commit ((s.vPut x.d.toNat v none 2).vDone 1)) ∧
       ∀ i < elemsOf x.sub.toNat, vElem v (typeWidth x.sub.toNat) i = x.imm.toNat % 2 ^ typeWidth x.sub.toNat) ∧
     (on = false → x.d.toNat < 32 → s.here.isSome = true → exec (.vmovi x) s = .next (s.commit s.advanced)))

/-- R237 to R239: VTLD reads a tile block into D after the tile's latency, VTST's write takes effect at the end of its own; VQPUSH pushes a
register with its image whatever its guard, in a cycle (log 27), VQPOP takes an entry with its image. -/
def Obligations.TilesAndOperandQueues : Prop :=
  (∀ (x : TWord) (s : State) (h : Here) (v : Shape), s.here = some h → guardOn x.guard s = .ok (true, s) →
    (tileHere x.ta.toNat s = .ok (v, s) →
      (tileMoves v (tileIndex h x) = false → exec (.vtld x) s = .next (s.raise { cause := 5 })) ∧
      (tileMoves v (tileIndex h x) = true → (s.vView h.c h.k).badImage h.c v (tileLoadReads v (tileIndex h x)) = none →
        s.vFree (bitsOf x.cmd 33 28) →
        let r := (s.vView h.c h.k).tileLoad h.c v (tileIndex h x)
        exec (.vtld x) s = .next (s.commit ((s.vPut (bitsOf x.cmd 33 28) r.1 r.2 (tileLat v)).vDone (tileCyc v))))) ∧
    ∀ d u g, vSource (BitVec.ofNat 6 (bitsOf x.cmd 33 28)) s = .ok (d, u) → u.here = some g → tileHere x.td.toNat u = .ok (v, u) →
      (tileMoves v (tileIndex g x) = false ∨ v.windowed = true → exec (.vtst x) s = .next (s.raise { cause := 5 })) ∧
      (tileMoves v (tileIndex g x) = true → v.windowed = false → exec (.vtst x) s = .next (s.commit ((u.modCtxHere fun y =>
        { y with twrites := y.twrites ++ [{ t := x.td.toNat, bytes := tileStore v (tileIndex g x) d.data d.car, due := u.now + tileLat v - 1,
                                            issued := u.now, secN := g.secN }] }).vDone (tileCyc v))))) ∧
  ∀ (x : RWord) (s u : State) (on : Bool) (a : VIn), guardOn x.guard s = .ok (on, s) → vSource x.a s = .ok (a, u) →
    (32 ≤ x.d.toNat → u.vFree x.d.toNat → exec (.vqpush x) s = .next (s.commit ((u.vPut x.d.toNat a.data (some a.car) 1).vDone 1))) ∧
    (x.d.toNat < 32 → u.vFree x.d.toNat → on = true →
      exec (.vqpop x) s = .next (s.commit ((u.vPut x.d.toNat a.data (some a.car) 1).vDone 1))) ∧
    (on = false → u.here.isSome = true → exec (.vqpop x) s = .next (s.commit (u.vDone 1)))

/-- R240, R241: VCHAIN with a descriptor and tiles that obey its rules writes one group of elements in each of its turns, the last of which
ends the word; V is busy for as many cycles as the chain has operations, and between groups uses its tiles (R67). -/
def Obligations.ChainsWriteGroups : Prop :=
  ∀ (x : TWord) (s : State) (h : Here) (a d : Shape) (b : Option Shape), s.here = some h → guardOn x.guard s = .ok (true, s) →
    (∀ ok l, h.eng.req ≠ .answer ok l) → chainTile h x.ta.toNat s = .ok (a, s) →
    (if x.cmd.getLsbD 0 then ∃ v, chainTile h x.tb.toNat s = .ok (v, s) ∧ b = some v else b = none) →
    chainTile h x.td.toNat s = .ok (d, s) →
    let desc := chainBits h (x.preg.toNat - 48)
    let ch := chainOf desc
    let n := elemsOf ch.type
    let l0 := h.eng.chain * n
    let m := min n (d.numel - l0)
    let view := s.vView h.c h.k
    let readable (v : Shape) : Prop := view.badImage h.c v (v.linearReads ((List.range m).map (l0 + ·))) = none
    let res := view.chainGroup h x ch a b d l0 m
    let w : TileWrite := { t := x.td.toNat, bytes := groupPut d l0 (res.map (·.bits)), due := s.now + tileLat d - 1, issued := s.now, secN := h.secN }
    (chainOk desc (x.cmd.getLsbD 0) = false ∨ chainTiles ch.type a b d = false → exec (.vchain x) s = .next (s.raise { cause := 5 })) ∧
    (chainOk desc (x.cmd.getLsbD 0) = true → chainTiles ch.type a b d = true → readable a → (∀ v, b = some v → readable v) →
      (∀ r ∈ res, r.sub = false) →
      let t := s.modCtxHere fun y => { y with twrites := y.twrites ++ [w] }
      (d.numel ≤ l0 + n → exec (.vchain x) s = .next (s.commit (t.vDone ch.ops.length))) ∧
      (l0 + n < d.numel → exec (.vchain x) s = .next (s.commit
        (t.modHere fun en => { en with chain := en.chain + 1, ready := s.now + ch.ops.length, chained := wordTiles (.vchain x) }))))

/-! ## Steps that are no word: launches -/

/-- R121 to R125, R128, R130, R134, R140 to R144, R410, R421, R449, R450: mailboxes submit and are answered with a ticket;
the placement unit places the first launch in order that has a place, creates contexts 32 cycles on, pre-empts victims or
reserves once patience has ended; a launch retires, ends with a cause, is to stop after a stop trap; its completion record
is written at the number its ring gave. -/
def Obligations.LaunchStepsTakeEffect : Prop :=
  ∀ s : State,
    (∀ (m : Nat) (v : W64) (b : Mailbox), s.hostsel = true → s.place.boxes[m]? = some b → b.busy = false →
      ∃ t, exec (.mailboxSubmit m v) s = .next t ∧ t.place.boxes = s.place.boxes.set m { b with window := b.window.set 15 v, busy := true }) ∧
    (∀ m b t tk o, s.place.boxes[m]? = some b → b.busy = true → s.submit (.bytes (b.window.flatMap fun w => leBytes w.toNat 8)) = (t, tk, o) →
      ∃ u, exec (.launchAcceptance m) s = .next u ∧ u.place.launches = t.place.launches ∧
        u.place.boxes = t.place.boxes.modify m fun b => { b with busy := false, done := true, ticket := tk }) ∧
    (∀ src t, (∀ st asid, s.checkLaunch src none = (t, .refused st asid) → s.submit src = (t, ticketOf asid 0 st, none)) ∧
      ∀ r pb sm, s.checkLaunch src none = (t, .ok r pb sm) →
        (64 ≤ t.levelCount (bitsOf r 383 381) → s.submit src = (t, ticketOf (bitsOf r 331 320) 0 3, none)) ∧
        (t.levelCount (bitsOf r 383 381) < 64 → ∃ u lid, s.submit src = (u, ticketOf (asidOf lid) (genOf lid) 0, some lid) ∧
          u.place.launches = t.place.launches ++ [newLaunch lid r pb sm t.now t.wall] ∧ asidOf lid = bitsOf r 331 320)) ∧
    (∀ lvl l q, (s.place.yieldQ.findSome? fun lid => match s.launch? lid with
          | some l => match l.phase, l.child, l.ending with
            | .yielding, some q, none => if q.prio = lvl then some (l, q) else none
            | _, _, _ => none
          | none => none) = some (l, q) → s.levelCount lvl < 64 → ∀ t,
      (∀ st asid, s.checkLaunch (.work (asidOf l.lid) q.va) (some l) = (t, .refused st asid) →
        exec (.childAcceptAfterYield lvl) s = .next (s.commit ((t.writeTicket l q (ticketOf asid 0 st)).endYield l.lid none))) ∧
      ∀ r pb sm u lid, s.checkLaunch (.work (asidOf l.lid) q.va) (some l) = (t, .ok r pb sm) → t.levelCount (bitsOf r 383 381) < 64 →
        t.acceptLaunch r pb sm = (u, lid) → exec (.childAcceptAfterYield lvl) s =
          .next (s.commit ((u.writeTicket l q (ticketOf (asidOf lid) (genOf lid) 0)).endYield l.lid (some lid)))) ∧
    (∀ l o, ((s.freeParents.placeOrder.filter (s.freeParents.mayPlace ·)).findSome? fun l => (s.freeParents.choosePlace l).map (l, ·)) = some (l, o) →
      ∃ t, exec .placement s = .next t ∧ ∃ m ∈ t.place.launches, m.lid = l.lid ∧ m.phase = .placed o.1 o.2 s.now ∧ m.createAt = s.now + 32) ∧
    (∀ c lid l k ox oy p, s.launch? lid = some l → ((s.cores[c]?).bind fun co => co.slots.findIdx? (·.isNone)) = some k →
      l.phase = .placed ox oy p → l.image = none → l.createAt ≤ s.now → l.toCreate.contains c = true →
      ∃ t, exec (.contextCreation c lid) s = .next t ∧ t.ctx? c k = some (freshCtx l (xOf c - ox) (yOf c - oy))) ∧
    (∀ lid l, s.launch? lid = some l → l.phase = .queued → l.target = none → s.wall ≥ l.since + l.patience → l.ending = none →
      s.place.resv.any (·.1 == lid) = false →
      let good := l.candidates.filter fun o => (s.victims l o).all fun v => decide (v.prio < l.prio)
      let worst (o : Nat × Nat) : Nat := (s.victims l o).foldl (fun m v => max m (v.prio + 1)) 0
      (∀ o, leastBy (fun o => worst o * 4096 + morton o) good = some o → exec (.patienceExpiry lid) s = .next (s.commit
        (((s.victims l o).foldl (fun s v => s.askPreempt v.lid 0) s).modLaunch lid fun l => { l with target := some o }))) ∧
      (good = [] → exec (.patienceExpiry lid) s = .next (s.commit ((s.modLaunch lid fun l => { l with target := none }).reserve l)))) ∧
    (∀ lid l a b p, s.launch? lid = some l → l.phase = .placed a b p → l.ending = none → l.image = none → l.toCreate = [] →
      s.contextsOf lid = [] → s.accessesDone lid = true →
      (s.launchReleased lid = true → exec (.launchRetire lid) s = .next (s.commit (s.finishLaunch lid 0))) ∧
      (s.launchReleased lid = false → exec (.launchRetire lid) s = .next (s.commit s))) ∧
    (∀ lid l a b p cause, s.launch? lid = some l → l.ending = some cause → l.phase = .placed a b p → l.saved = false →
      let u := (s.contextsOf lid).foldl (fun s (c, k, _) => ((s.modCtx c k fun x => { x with stopping := true }).releaseHeld c k).dropQueueWait c k) s
      let v := (s.contextsOf lid).foldl (fun s (c, k, _) => (s.endContext c k).evict c k) u
      (u.accessesDone lid = false ∨ u.launchReleased lid = false → exec (.launchEnd lid) s = .next (s.commit u)) ∧
      (u.accessesDone lid = true → u.launchReleased lid = true → exec (.launchEnd lid) s = .next (s.commit
        ((v.modLaunch lid fun l => { l with endCyc := if s.contextsOf lid = [] then l.endCyc else v.now }).finishLaunch lid cause)))) ∧
    (∀ lid cause l, s.launch? lid = some l →
      (bitsOf l.record 319 256 = 0 → (s.finishLaunch lid cause).launch? lid = none) ∧
      (bitsOf l.record 319 256 ≠ 0 → ∃ m, (s.finishLaunch lid cause).launch? lid = some m ∧ m.phase = .recording cause)) ∧
    (∀ lid l, s.launch? lid = some l → l.ending = none → l.image = none → (l.pre = none ∨ (l.pre = some 3 ∧ l.preAt = s.now)) → ((s.contextsOf lid).any fun q => q.2.2.trap.isSome) = true →
      ∃ t m, exec (.launchStop lid) s = .next t ∧ t.launch? lid = some m ∧ m.pre = some 2) ∧
    (∀ l cause u ps, s.nextRecord = some (l, cause) →
      s.rangeNow 1 (asidOf l.lid) (BitVec.ofNat 64 (bitsOf l.record 319 256)) 8 2 = (u, .ok ps) → u.ringBad ps = false →
      let h := leNum (u.readParts ps)
      exec .completionRecordWrite s = .next (s.commit
        (((u.writeParts ps (leBytes (h + 1) 8)).modLaunch l.lid fun l => { l with ringSlot := some h }).tryRecord l cause h))) ∧
    (∀ l cause h, (s.place.launches.findSome? fun l => match l.phase, l.ringSlot with
          | .recording cause, some h => if l.ringDue ≤ s.wall then some (l, cause, h) else none
          | _, _ => none) = some (l, cause, h) → exec .ringTailRecheck s = .next (s.commit (s.tryRecord l cause h))) ∧
    ∀ l cause h u ps, s.rangeNow 1 (asidOf l.lid) (BitVec.ofNat 64 (bitsOf l.record 319 256) + 8) 8 0 = (u, .ok ps) →
      let size := 2 ^ bitsOf l.record 380 376
      let tail := leNum (u.readParts ps)
      (u.ringBad ps = true → s.tryRecord l cause h = u.dropRecord l.lid) ∧
      (u.ringBad ps = false → tail + size ≤ h → s.tryRecord l cause h = u.modLaunch l.lid fun l => { l with ringDue := u.wall + microsecond }) ∧
      ∀ v qs, u.ringBad ps = false → h < tail + size → u.rangeNow 1 (asidOf l.lid) (BitVec.ofNat 64 (bitsOf l.record 319 256) + BitVec.ofNat 64 (64 + 64 * (h % size))) 64 1 = (v, .ok qs) →
        s.tryRecord l cause h = (v.writeParts qs (completionRecord l cause h)).forgetLaunch l.lid

/-- R409, R412, R416, R420, R425, R429 to R433, R440, R442: a launch that is to leave its span gets a region of the save pool, or ends where
a stop finds none; its contexts stop; at rest its image is written and its contexts are gone; a placed image is loaded, or its refusal ends
the launch; PREQ asks; raised faults enter the queue; FQACK settles an entry in service; S enters assist mode; the watchdog traps. -/
def Obligations.StopsFaultsAndRestores : Prop :=
  ∀ s : State,
    (∀ lid l a b p cause, s.launch? lid = some l → l.phase = .placed a b p → l.pre = some cause → l.image = none → l.ending = none → l.toCreate = [] →
      let n := if l.imageSize = 0 then s.imageUnits l else l.imageSize / 4096
      (∀ pa, s.poolSpace n = some pa →
        exec (.savePoolReserve lid) s = .next (s.commit (s.takeRegion lid pa n)) ∧
        (s.takeRegion lid pa n).place.saveAlloc = s.place.saveAlloc.filter (·.1 != lid) ++ [(lid, pa, 4096 * n)]) ∧
      (s.poolSpace n = none →
        (cause = 2 → exec (.savePoolReserve lid) s = .next (s.commit (s.modLaunch lid fun l => { l with ending := some 2 }))) ∧
        (cause ≠ 2 → exec (.savePoolReserve lid) s = .next (s.commit (s.modLaunch lid fun l => { l with imageSize := 4096 * n }))))) ∧
    (∀ lid l a b p pa, s.launch? lid = some l → l.phase = .placed a b p → l.image = some pa → l.saved = false → l.ending = none →
      exec (.preemption lid) s = .next (s.commit ((s.contextsOf lid).foldl (fun s (c, k, _) => s.stopContext c k) s)) ∧
      (s.contextsOf lid ≠ [] → (s.contextsOf lid).all (fun (c, k, x) => s.contextQuiet c k x) = true → s.accessesDone lid = true →
        ∀ bytes offs, s.image l (l.pre.getD 0) = (bytes, offs) → bytes.length ≤ l.imageSize →
        exec (.preemptionComplete lid) s = .next (s.commit (s.saveLaunch l pa bytes offs)))) ∧
    (∀ lid l a b p pa, s.launch? lid = some l → l.phase = .placed a b p → l.image = some pa → l.saved = true → l.ending = none →
      (s.loadImage l pa = none → exec (.restore lid) s = .next (s.commit (s.modLaunch lid fun l => { l with ending := some 3 }))) ∧
      ∀ m xs, s.loadImage l pa = some (m, xs) →
        (∀ t, s.restoreContexts { m with kept := l.kept } a b xs = some t → exec (.restore lid) s = .next (s.commit
          ((t.modLaunch lid fun _ => { m with image := none, imageSize := 0, saved := false, toCreate := [], kept := [] }).freeImage lid))) ∧
        (s.restoreContexts { m with kept := l.kept } a b xs = none → exec (.restore lid) s = .next (s.commit s))) ∧
    (∀ v : W64,
      (s.ctl.preq.getLsbD 63 = true → exec (.preqWrite v) s = .next (s.commit s)) ∧
      (∀ l a b p, s.ctl.preq.getLsbD 63 = false → v.getLsbD 63 = true → s.launch? (bitsOf v 35 12 * 4096 + bitsOf v 11 0) = some l →
        l.phase = .placed a b p → l.pre = none → l.ending = none →
        ∃ t m, exec (.preqWrite v) s = .next t ∧ t.launch? l.lid = some m ∧ m.pre = some 3 ∧ m.hold = v.getLsbD 62 ∧ t.ctl.preq.getLsbD 63 = true)) ∧
    (∃ t, exec .faultQueueEnter s = .next t ∧ t.faults.raised = [] ∧
      (s.faults.raised = [] → s.faults.waiting = [] → t.faults.entries = s.faults.entries) ∧
      ∀ f, s.faults.raised = [f] → s.faults.waiting = [] → s.faults.entries = [] →
        t.faults.entries = [{ f with bits := f.bits + BitVec.ofNat 256 (s.faults.nextTag.toNat * 2 ^ 64) }] ∧
        t.faults.nextTag = s.faults.nextTag + 1 ∧ t.faults.irq = (s.faults.irq || s.faults.irqEn)) ∧
    (∀ (v : W64) f l, bitsOf v 33 32 < 2 →
      (s.faults.entries.find? fun f => f.inService && bitsOf f.bits 95 64 == bitsOf v 31 0) = some f → s.launch? f.lid = some l →
      (∀ q, l.phase ≠ .recording q) → s.causedApplied 8 (List.range 8) = true →
      let q : FaultSt := { s.faults with
                             fqack := BitVec.ofNat 64 (bitsOf v 33 0)
                             entries := s.faults.entries.filter fun g => !(g.inService && bitsOf g.bits 95 64 == bitsOf v 31 0) }
      let u : State := { s with faults := q }
      exec (.fqackWrite v) s = .next (s.commit (u.settle f (bitsOf v 33 32))) ∧
      (bitsOf v 33 32 = 0 → f.stop = false → u.settle f (bitsOf v 33 32) = f.waiters.foldl State.releaseWaiter u) ∧
      (bitsOf v 33 32 = 0 → f.stop = true → u.settle f (bitsOf v 33 32) = u.resumeLaunch f.lid) ∧
      (bitsOf v 33 32 = 1 → l.ending = none → ∃ m, (u.settle f (bitsOf v 33 32)).launch? f.lid = some m ∧ m.ending = some 1)) ∧
    (∀ c co q rest, s.cores[c]? = some co → co.assist.active = none → co.assist.waiting = q :: rest → q.raised < s.now →
      (co.cur[0]?).join = none →
      ∃ t cp, exec (.subnormalAssistEntry c) s = .next t ∧ t.cores[c]? = some cp ∧ cp.assist.active = some q ∧ cp.assist.waiting = rest ∧
        cp.assist.regs = List.replicate 48 0 ∧ cp.assist.eng.pc = 0) ∧
    ∀ c e h, (s.onEngine c e).here = some h → h.asst = false → (s.onEngine c e).watchdogDue h.ctx h.eng = true →
      exec (.watchdogExpiry c e) s = .next ((s.onEngine c e).raise { cause := 12 })

/-! ## Steps that are no word: engines, queues, barriers -/

/-- R83, R107, R137, R154, R157 to R159, R161 to R169, R183, R184, R188, R213, R216, R238, R365 to R367: the steps of the
engines' fetch units, the results that come due, the range units, the stage queues and the barriers. -/
def Obligations.EngineStepsTakeEffect : Prop :=
  ∀ s : State,
    (∀ c e g l len w, let u := s.onEngine c e
      let v := u.modHere fun en => { en with ahead := 0 }
      u.here.isSome = true → v.here = some g → g.asst = false → textLen v = .ok (len, v) → g.eng.pc.toNat ≠ len → g.eng.pc.toNat + 8 ≤ len →
      headerAt g.eng.pc.toNat v = .ok (w, v) → (headerOf w).malformed g.eng.pc.toNat len = false → (headerOf w).eng = g.e.tag →
      v.launch? g.ctx.lid = some l → g.ctx.entryOk g.e (headerOf w) l.slipw = true →
      let t1 := v.modHere fun en => { en with
        pos := en.pos + 1, pc := BitVec.ofNat 32 (g.eng.pc.toNat + 8),
        sect := some { hdr := g.eng.pc.toNat, len := (headerOf w).len, done := (headerOf w).retire == 1, n := g.eng.pos, widx := 0, copyQ := none },
        secs := en.secs ++ [{ n := g.eng.pos, done := (headerOf w).retire == 1, finished := false, bind := none }] }
      let t2 := if g.e = .V then t1.modCtxHere (fun y => { y with params := l.params y.bind }) else t1
      let t3 := if (headerOf w).len = 0 then t2.modHere EngSt.finish else t2
      exec (.sectionEntry c e) s = .next (u.commit (t3.modHere fun en => { en with ready := s.now + 1 }))) ∧
    (∀ c e h len, (s.onEngine c e).here = some h → textLen (s.onEngine c e) = .ok (len, s.onEngine c e) → h.eng.pc.toNat = len →
      h.eng.sect = none → h.eng.secs = [] → exec (.endOfText c e) s = .next ((s.onEngine c e).commit
        ((s.onEngine c e).modHere fun en => { en with halted := true, yielded := true }))) ∧
    (∀ c k e x, s.ctx? c k = some x → e.tag < x.engs.length →
      let m := retireCount (s.pendingOf c k e) (x.eng e).secs
      ∃ t y, exec (.sectionRetire c k e) s = .next t ∧ t.ctx? c k = some y ∧ (y.eng e).rc = (x.eng e).rc + BitVec.ofNat 32 m ∧
        (y.eng e).secs = (x.eng e).secs.drop m ∧ (y.eng e).pos = (x.eng e).pos ∧ (e ≠ .S → y.bind = x.bind)) ∧
    (∀ c k e x, s.ctx? c k = some x → (x.eng e).halted = true → (x.eng e).dropped = false → (x.eng e).secs = [] → s.cmdPending c k e none = false →
      let y := x.modEng e fun en => { en with dropped := true }
      ∃ t, exec (.engineDropOut c k e) s = .next t ∧
        (y.engs.all (·.dropped) = true → x.trap = none → t.ctx? c k = none) ∧
        (y.engs.all (·.dropped) = false ∨ x.trap.isSome = true → t.ctx? c k = some y)) ∧
    (∀ c e co, s.cores[c]? = some co → e.tag < co.cur.length →
      let old := (co.cur[e.tag]?).join
      let last := match old with | some k => k | none => (co.last[e.tag]?).getD 3
      let u := match old with | some k => s.modEng c k e fun en => { en with yielded := false, wdc := 0 } | none => s
      ∃ t, exec (.contextSwitch c e) s = .next t ∧
        (t.cores[c]?).map (fun q => (q.cur[e.tag]?).join) = some ((slotOrder last).find? fun k => u.eligible c k e)) ∧
    (∀ c k e, exec (.scalarResultWriteback c k e) s =
      .next (s.commit (s.modEng c k e fun en => { en with busy := en.busy.filter fun p => decide (s.now < p.2) }))) ∧
    (∀ c k x, s.ctx? c k = some x → ∃ t y, exec (.vectorResultWriteback c k) s = .next t ∧ t.ctx? c k = some y ∧
      y.qpush = x.qpush.filter (fun p => decide (s.now < p.due)) ∧
      ∀ q l, x.opqs[q]? = some l → y.opqs[q]? = some (l ++
        ((sortBy (fun p r => decide (p.tag ≤ r.tag)) (x.qpush.filter fun p => decide (p.due ≤ s.now))).filter (·.q == q)).map (·.entry))) ∧
    (∀ c k x, s.ctx? c k = some x → ∃ t y, exec (.flagWrite c k) s = .next t ∧ t.ctx? c k = some y ∧ y.flagclr = 0 ∧
      y.flagw = x.flagw.filter (fun f => decide (s.now < f.due)) ∧
      (∀ i v, x.flags[i]? = some v → (∀ f ∈ x.flagw, f.due ≤ s.now → f.slot ≠ i) → y.flags[i]? = some (if x.flagclr.getLsbD i then 0 else v)) ∧
      (∀ f, f.slot < x.flags.length → x.flagw.filter (fun f => decide (f.due ≤ s.now)) = [f] → y.flags[f.slot]? = some f.val) ∧
      ∀ f g, f.slot < x.flags.length → f.slot = g.slot → f.eng = .V → g.eng = .B →
        x.flagw.filter (fun f => decide (f.due ≤ s.now)) = [f, g] ∨ x.flagw.filter (fun f => decide (f.due ≤ s.now)) = [g, f] →
        y.flags[f.slot]? = some g.val) ∧
    (∀ c k x, s.ctx? c k = some x → ∃ t y, exec (.inboundQueueArrival c k) s = .next t ∧ t.ctx? c k = some y ∧
      y.inpush = x.inpush.filter (fun p => decide (s.now < p.due)) ∧
      ∀ q l, x.inqs[q]? = some l → y.inqs[q]? = some (l ++ (x.inpush.filter fun p => decide (p.due ≤ s.now) && inqIndex p.dst p.src == q).map (·.val))) ∧
    (∀ c k x, s.ctx? c k = some x → exec (.tileStoreEffect c k) s = .next (s.commit ((x.twrites.filter fun w => decide (w.due ≤ s.now)).foldl
      (fun s w => s.writeTile c k w.t w.bytes) (s.modCtx c k fun x => { x with twrites := x.twrites.filter fun w => decide (s.now < w.due) })))) ∧
    (∀ lid st l u r rest, s.launch? lid = some l → l.ranges[st]? = some u → u.reqs = r :: rest →
      (∀ a b c lk, r.init = some (a, b, c, lk) → exec (.rangeUnitService lid st) s = .next (s.commit
        ((s.modLaunch lid fun l => { l with ranges := l.ranges.modify st fun u =>
          { u with reqs := rest, base := a, rem := b, kk := 2 ^ lk, min := if c = 0 then 1 else c } }).answerEngine r.c r.k r.eng true []))) ∧
      (r.init = none → r.eng ≠ .S →
        let len := drawLen u.rem.toNat u.min.toNat u.kk (l.stageP st)
        exec (.rangeUnitService lid st) s = .next (s.commit
          ((s.modLaunch lid fun l => { l with ranges := l.ranges.modify st fun v =>
            { v with reqs := rest, base := v.base + BitVec.ofNat 64 len, rem := v.rem - BitVec.ofNat 64 len } }).answerEngine
              r.c r.k r.eng false [u.base, BitVec.ofNat 64 len])))) ∧
    (∀ lid q l, s.launch? lid = some l →
      (((l.queue q).reqs.any fun r => decide (r.due ≤ s.now) && !r.held) = true →
        ∃ t, exec (.stageQueueArrival lid q) s = .next t ∧ t.launch? lid = some (l.serveQueue q s.now)) ∧
      (((l.queue q).reqs.any fun r => decide (r.due ≤ s.now) && r.held) = true →
        ∃ t, exec (.stageQueueHeldRetry lid q) s = .next t ∧ t.launch? lid = some (l.serveQueue q s.now))) ∧
    (∀ n lid now core (q : StageQ) out r,
      (∀ e rest, r.op = 0 → q.entries = e :: rest →
        serveOne n lid now core (q, out) r = ({ q with entries := rest }, out ++ [r.answer lid now (transit core r.c) true e])) ∧
      (r.op = 1 → q.entries.length + r.entries.length ≤ n →
        serveOne n lid now core (q, out) r = ({ q with entries := q.entries ++ r.entries },
          if r.inbox then out else out ++ [r.answer lid now (transit core r.c) true []])) ∧
      (r.data.length = 8 → r.entries = [r.data]) ∧
      ((r.op = 0 ∧ q.entries = []) ∨ (r.op = 1 ∧ n < q.entries.length + r.entries.length) →
        (r.try_ = true → serveOne n lid now core (q, out) r = (q, out ++ [r.answer lid now (transit core r.c) false []])) ∧
        (r.try_ = false → serveOne n lid now core (q, out) r = ({ q with reqs := q.reqs ++ [{ r with held := true, due := now + 1 }] }, out)))) ∧
    (∀ c k x l a, s.ctx? c k = some x → s.launch? x.lid = some l →
      l.answers.filter (fun a => a.c == c && a.k == k && decide (a.due ≤ s.now)) = [a] → a.walk = 0 →
      exec (.stageQueueAnswer c k) s = .next (s.commit ((s.modLaunch x.lid fun l =>
        { l with answers := l.answers.filter fun a => !(a.c == c && a.k == k && decide (a.due ≤ s.now)) }).answerEngine c k .S a.ok a.data))) ∧
    (∀ c k e co x ok d n, s.cores[c]? = some co → co.assist.active = none → s.ctx? c k = some x → e.tag < x.engs.length → (x.eng e).req = .wait n →
      (s.answerEngine c k e ok d).ctx? c k = some (x.modEng e fun en => { en with req := .answer ok d })) ∧
    (∀ c, (∀ x ∈ s.cmds, x.unit = 5 → x.c = c → x.state ≠ .waiting) → (∀ a ∈ s.remote, a.core = c → s.now < a.due) →
      ∃ t, exec (.barrierArrival c) s = .next t ∧
        ∀ k x, s.ctx? c k = some x → t.ctx? c k = some ((x.applyInits.applyArrivals s.now).applyClears)) ∧
    (∀ c k a x, s.remote.filter (fun a => a.core == c && decide (a.due ≤ s.now)) = [a] → (s.cores[c]?).bind (·.slotOf a.lid) = some k →
      s.ctx? c k = some x → (s.landArrivals c).ctx? c k = some { x with arrivals := x.arrivals ++ [a] }) ∧
    ∀ w, exec (.unassignedOpcode w) s = .next (s.raise { cause := 1 })

/-! ## Steps that are no word: memory and links -/

/-- R170, R247, R256 to R261, R264, R266 to R268, R378, R381, R382, R402, R413, R453 to R456: fetches, walks and frames; an
access performed at its home reads or writes its bytes; a propagation; the return of data; an invalidation acknowledged;
requests and replies of other packages (one whose data is uncorrectable has an answer of the model's own, log 26); links
down, back and lost. The race detector is off where the clauses on an access say so; its log is R398 to R402's. -/
def Obligations.MemoryStepsTakeEffect : Prop :=
  ∀ s : State,
    (∀ c co asid line e k rest x ps, s.cores[c]? = some co → co.misses = (asid, line, e, k) :: rest → s.ctx? c k = some x → (x.eng e).held = false →
      s.find (dieOf c) (some c) asid (BitVec.ofNat 64 line) 64 3 = .parts ps → s.badLine (dieOf c) .load ps = none →
      ∃ t q, exec (.icacheFill c) s = .next t ∧ t.cores[c]? = some q ∧ (q.line? asid line).isSome = true ∧
        (asid, line, e, k) ∉ q.misses ∧ t.mem = (s.commit s).mem) ∧
    (∀ d w rest, (s.dies[d]?).map (·.walks) = some (w :: rest) →
      let u := s.modDie d fun x => { x with walks := rest }
      (∀ l, u.pageWalk w.asid w.mirror w.off = .leaf l → ∃ t x, exec (.walk d) s = .next t ∧ t = s.commit ((u.fillTlb d l w.waiters).modDie d Die.refill) ∧
        t.dies[d]? = some x ∧ l ∈ x.tlb) ∧
      (∀ cause sub psize info, u.pageWalk w.asid w.mirror w.off = .fault cause sub psize info →
        exec (.walk d) s = .next (s.commit ((u.postWalk d cause sub psize info w).modDie d Die.refill))) ∧
      ∀ level p at_, u.pageWalk w.asid w.mirror w.off = .touch level p at_ →
        (u.takeFrame d (level == 1) = none → exec (.walk d) s = .next (s.commit ((u.postWalk d 9 1 level (level * 2 ^ 40 + at_) w).modDie d Die.refill))) ∧
        ∀ pa v, u.takeFrame d (level == 1) = some (pa, v) → exec (.walk d) s = .next (s.commit (v.modDie d fun x =>
          { x with zeroing := x.zeroing ++ [{ walk := w, pa := pa, big := level == 1, level := level, pte := p, ptePa := at_ }] }))) ∧
    (∀ d z rest, (s.dies[d]?).map (·.zeroing) = some (z :: rest) →
      let u := s.modDie d fun x => { x with zeroing := rest }
      let v := u.zeroFrame z.pa (leafSize z.level)
      (BitVec.ofNat 64 (u.physNum z.ptePa 8) = z.pte → exec (.frameZeroed d) s = .next (s.commit
        (((v.physWrite z.ptePa (leBytes (touchedPte z.pte z.pa).toNat 8)).fillTlb d
          { asid := z.walk.asid, mirror := z.walk.mirror, page := z.walk.off / leafSize z.level * leafSize z.level, level := z.level,
            pte := touchedPte z.pte z.pa, ptePa := z.ptePa } z.walk.waiters).modDie d Die.refill))) ∧
      (BitVec.ofNat 64 (u.physNum z.ptePa 8) ≠ z.pte → exec (.frameZeroed d) s = .next (s.commit
        (v.modDie d fun x => ((x.returnFrame z.big z.pa).addWalk z.walk).refill)))) ∧
    (∀ (p : W64) pa, pa % 65536 = 0 → pa < 2 ^ 40 → (touchedPte p pa).getLsbD 0 = true ∧ (touchedPte p pa).getLsbD 4 = false ∧
      bitsOf (touchedPte p pa) 63 16 * 256 = pa ∧ ∀ i, i < 16 → i ≠ 0 → i ≠ 4 → (touchedPte p pa).getLsbD i = p.getLsbD i) ∧
    (∀ c k e x a, s.ctx? c k = some x → s.accs.filter (·.who == .engine c k e) = [a] → a.performed = true → a.precise = false → a.kind = .load →
      ∃ t, exec (.loadReturn c k e) s = .next t ∧ t.accs = s.accs.filter (·.who != .engine c k e) ∧
        t.ctx? c k = some (x.loaded e a.dest (loadValue (leNum a.answer) a.total a.signed))) ∧
    (∀ j a h, s.accs[j]? = some a → s.accReady a = true → a.home = .die h → a.who ≠ .package → s.ctl.raceEn = false → s.badRead a = none → s.wr = [] →
      (a.kind = .load → ∃ t, exec (.accessAtHomeDie j) s = .next t ∧ t.mem = s.mem ∧ { a with performed := true, answer := s.loadBytes a } ∈ t.accs) ∧
      (a.kind = .store → ∃ t, exec (.accessAtHomeDie j) s = .next t ∧ t.mem = a.pieces.foldl (fun m p => Mem.setList m (a.pa + p.1) p.2) s.mem ∧
        (a.skip = [] → t.mem = Mem.setList s.mem a.pa a.data)) ∧
      ∀ op sg e, a.kind = .atomic op sg e →
        let old := s.phys a.pa a.size
        ∃ t, exec (.accessAtHomeDie j) s = .next t ∧ { a with performed := true, answer := old } ∈ t.accs ∧
          t.mem = match atomicNew op sg (8 * a.size) (leNum old) (leNum a.data) e.toNat with
            | some new => Mem.setList s.mem a.pa (leBytes new a.size)
            | none => s.mem) ∧
    (∀ j p, s.props[j]? = some p → s.propReady p = true → p.mirror = none → (∀ a ∈ s.accs, a.who ≠ .package) →
      ∃ t, exec (.writePropagate j) s = .next t ∧ t.props = s.props.eraseIdx j ∧ t.mem = (s.commit s).mem ∧
        t.dies = s.dies.modify p.dst fun d => d.take p (s.props.eraseIdx j)) ∧
    (∀ j v, s.invals[j]? = some v → (∀ a ∈ s.accs, v.accs.contains a.id = true → a.performed = true) →
      (∀ p ∈ s.props, p.mirror.isSome = true → v.accs.contains p.acc = false) →
      ∃ t, exec (.invalidationAck j) s = .next t ∧ t.invals = s.invals.eraseIdx j) ∧
    (∀ r u, (∀ ans, s.peerResolve (portDie r.port) r.off.toNat r.size (opKind r.op).code = (u, .error ans) →
        exec (.peerRequestArrival r) s = .next (s.commit (u.send (.reply r.port r.src r.id ans)))) ∧
      ∀ ps, s.peerResolve (portDie r.port) r.off.toNat r.size (opKind r.op).code = (u, .ok ps) →
        ∃ t l, exec (.peerRequestArrival r) s = .next t ∧ t.accs = u.accs ++ l ∧ l.length = ps.length ∧
          l.map (fun x => (x.pa, x.size, x.home)) = ps.map (fun p => (p.1, p.2.1, p.2.2.1)) ∧
          ∀ x ∈ l, x.who = .package ∧ x.kind = opKind r.op ∧ x.word = r.id ∧ x.sect = r.src) ∧
    (∀ r, (s.accs.any fun a => a.id == r.id && a.sent && !a.performed && (match a.home with | .peer _ => true | _ => false)) = true →
      (∀ b, r.ans = .data b → ∃ t, exec (.peerReplyArrival r) s = .next t ∧
        t.accs = s.accs.map fun a => if a.id = r.id then { a with performed := true, answer := b } else a) ∧
      (r.ans = .done → ∃ t, exec (.peerReplyArrival r) s = .next t ∧
        t.accs = s.accs.map fun a => if a.id = r.id then { a with performed := true } else a) ∧
      (r.ans = .protection → ∃ t, exec (.peerReplyArrival r) s = .next t ∧
        t.accs = s.accs.map fun a => if a.id = r.id then { a with performed := true, fail := some (10, 3) } else a) ∧
      (r.ans = .translation → ∃ t, exec (.peerReplyArrival r) s = .next t ∧
        t.accs = s.accs.map fun a => if a.id = r.id then { a with performed := true, fail := some (9, 5) } else a) ∧
      ∀ sub, r.ans = .machineCheck sub → ∃ t, exec (.peerReplyArrival r) s = .next t ∧
        t.accs = s.accs.map fun a => if a.id = r.id then { a with performed := true, fail := some (13, sub) } else a) ∧
    (∀ r, r.ans = .accepted ∨ r.ans = .refused ∨ r.ans = .full →
      ((s.cmds.any fun x => x.id == r.id && x.state == .sent) = true →
        ∃ t, exec (.peerReplyArrival r) s = .next t ∧ t.links.pushAns = s.links.pushAns ++ [(r.id, r.ans)]) ∧
      ((s.cmds.any fun x => x.id == r.id && x.state == .sent) = false →
        exec (.peerReplyArrival r) s = .next (s.commit (s.modDie 0 (·.countLate))))) ∧
    ∀ p x, s.links.ports[p]? = some x →
      (x.up = true → ∃ t, exec (.linkDown p) s = .next t ∧ t.links.ports[p]? = some { x with up := false, downAt := some s.wall }) ∧
      (∀ w, w = 1 ∨ w = 2 → x.up = false → s.linkOverdue p = false → ∃ t, exec (.linkRetrained p w) s = .next t ∧
        t.links.ports[p]? = some { x with up := true, width := w, downAt := none,
                                          retrains := if x.width = 0 then x.retrains else min (x.retrains + 1) 0xFFFF }) ∧
      (s.linkOverdue p = true → ∃ t, exec (.linkReservationExpiry p) s = .next t ∧
        t.links.ports[p]? = some { x with lost := true, downAt := none } ∧
        ∀ a ∈ t.accs, a.sent = true → a.performed = false → ∀ pkg, a.home = .peer pkg → s.routePort pkg ≠ p) ∧
      (s.linkOverdue p = false → exec (.linkReservationExpiry p) s = .next (s.commit s))

/-! ## Steps that are no word: commands -/

/-- R269, R275, R279 to R283, R286, R288, R290 to R292, R295, R303, R320, R326 to R328, R335, R457, R458: commands start, make their rows
and parts, arrive at their barriers and complete, in the copy engines, the walk and contraction units, the Catalogue, the Collator and the
row engine; inbox pushes are answered, parked, sent again and refused. -/
def Obligations.CommandStepsTakeEffect : Prop :=
  ∀ s : State,
    (∀ d x, s.startable d = [x] →
      (x.ranges = [] → x.heldRows = [] → exec (.copyStart d) s = .next (s.commit ((s.cmdArrive x 0 false false).copyDone x))) ∧
      ∀ e, (x.ranges ≠ [] ∨ x.heldRows ≠ []) → (s.dies[d]?).bind Die.idleEngine = some e → exec (.copyStart d) s = .next (s.commit
        ((s.modDie d fun y => { y with copies := y.copies.set e (some (newSlot x.id x.ranges)) }).modCmd x.id
          fun y => { y with state := if y.state = .held then .held else .running, ranges := [], masked := y.masked ++ (if x.state = .waiting then s.startMask x else []) }))) ∧
    (∀ id x, s.cmd? id = some x →
      exec (.copyPart id) s = .next (s.commit (((List.range 16).foldl (fun s e => s.slotTurn id (dieOf x.c) e) s).heldYield id))) ∧
    (∀ x a d e t r v, t.cur = some r → a.zero = false → a.sm = false → s.usedTile x.c x.k a.w.ta.toNat = some v →
      (s.badImage x.c v [((a.srcAt r).toNat, a.rowb)] = none →
        s.slotRead x a d e t = s.modSlot d e (·.readDone r (s.tileBytes x.c v (a.srcAt r).toNat a.rowb))) ∧
      ∀ sub line, s.badImage x.c v [((a.srcAt r).toNat, a.rowb)] = some (sub, line) →
        s.slotRead x a d e t = s.copyFault x d e 0 r 13 sub 0 line) ∧
    (∀ x a d e t r b rest, t.cur = none → t.batch = (r, b) :: rest → t.part < a.rowb → (acquires x.mods.order = true → s.allRead x = true) →
      s.cmdReleased x = true → a.ib = false → a.dm = false →
      let o := (a.dstAt r).toNat
      let sp := tileSpace a.w.td.toNat
      s.slotWrite x a d e t = ((s.writeTile x.c x.k a.w.td.toNat ((putBytes o b).filter fun p => !holdsByte x.masked sp p.1)).noteWrite x sp o
        a.rowb).modSlot d e fun t => { t with part := a.rowb }) ∧
    (∀ x sp a n y, y ∈ s.cmds → y.id ≠ x.id → (x.rival y sp = false ∨ y.begun = false) → y ∈ (s.noteWrite x sp a n).cmds) ∧
    (∀ id x a, s.cmd? id = some x → x.copy? = some a → x.state = .running → s.slotsFor (dieOf x.c) id = [] → x.ranges = [] → x.heldRows = [] →
      exec (.copyRowPerformed id) s = .next (s.commit (s.copyDone x))) ∧
    (∀ x a d e t, s.slotAt d e x.id = some t → a.rowb ≤ t.part → (t.batch ≠ [] ∧ (t.cur.isSome = true ∨ t.todo ≠ [] ∨ 2 ≤ t.batch.length)) →
      s.rowPerformed x a d e = (s.cmdArrive x a.rowb false false).modSlot d e fun t => { t with batch := t.batch.drop 1, part := 0 }) ∧
    (∀ d e f t stay gone, (s.dies[d]?).bind Die.idleEngine = some e → s.victim d = some (f, t) → s.startable d = [] →
      takeUpper t.todo (rangeRows t.todo / 2) = (stay, gone) →
      exec (.copySteal d) s = .next (s.commit ((s.modSlot d f fun u => { u with todo := stay }).modDie d
        fun y => { y with copies := y.copies.set e (some (newSlot t.id gone)) }))) ∧
    (∀ id y f i x q ok o w, s.cmd? id = some y → y.ins = .cpyf f → y.state = .done → (s.cores[y.c]?).map (·.unitQ) = some q → q.length < 4 →
      s.cmdStops y = false → (s.cmds.any fun z => z.carried && z.after.contains id) = false → decode .B f.carried 0 = .ok i →
      (i = .bmv w ∨ i = .bdot w ∨ i = .join w) → s.ctx? y.c y.k = some x →
      s.contractOk y.c y.k x.ga i (y.regs.drop 5) (s.carriedTile y.c y.k y.issued) = (ok, o) → (∀ z ∈ s.cmds, z.id ≠ s.nextId) →
      let z : Cmd := { y with id := s.nextId, ins := i, unit := 2, bar := w.bar.toNat, regs := y.regs.drop 5, mods := noMods, carried := true,
                              issued := s.now, state := .waiting, next := 0, ranges := [], after := [id], inflight := [], buf := [] }
      let u : State := { s with cmds := s.cmds ++ [z], nextId := s.nextId + 1 }
      (ok = true → (x.bar? w.bar.toNat).isSome = true → exec (.carriedWordEntry id) s = .next (s.commit
        (({ u with cmds := s.cmds ++ [{ z with ga := x.ga, sealed := o, part := 0 }] } : State).modCore y.c fun co =>
          { co with unitQ := co.unitQ ++ [s.nextId] }))) ∧
      (ok = false ∨ (x.bar? w.bar.toNat).isSome = false → exec (.carriedWordEntry id) s = .next (s.commit
        (((u.modCmd s.nextId fun y => { y with part := 1 }).cmdTrap { z with ga := x.ga, sealed := o } 5 0 0 0 none).stopCommand
          { z with ga := x.ga, sealed := o, part := 1 })))) ∧
    (∀ id x w, s.cmd? id = some x → x.ins = .qjoin w → s.isHead x = true → (s.cmds.any fun y => x.after.contains y.id) = false →
      ∃ t, exec (.joinMarkerComplete id) s = .next t ∧ t.cmds = s.cmds.filter (·.id != id)) ∧
    (∀ ib p u ans, (∀ t ∈ s.agenda, lowerPush ib p.port t = none) → s.inboxArrive ib p.row = (u, ans) →
      exec (.inboxPushArrival ib p) s = .next (s.commit (u.send (.reply p.port p.src p.id ans)))) ∧
    (∀ ib p q, s.agenda.filterMap (lowerPush ib p.port) = [q] → exec (.inboxPushArrival ib p) s = .next (s.commit
      ((({ s with agenda := s.agenda.filter fun t => (lowerPush ib p.port t).isNone } : State).inboxTake ib q).inboxTake ib p))) ∧
    (∀ ib x row, s.links.inboxes[ib]? = some x →
      (s.inboxTarget x.reg = none → s.inboxArrive ib row = (s, .refused)) ∧
      ∀ l q, s.inboxTarget x.reg = some (l, q) →
        (row.length ≠ inboxEntry x.reg → s.inboxArrive ib row = (s, .refused)) ∧
        (row.length = inboxEntry x.reg → x.spare = [] → l.inboxFits q x.reg = true → s.inboxArrive ib row = (s.inboxDeliver x.reg row, .accepted)) ∧
        (row.length = inboxEntry x.reg → x.spare ≠ [] ∨ l.inboxFits q x.reg = false → inboxRoom l x.reg ≤ x.spare.length →
          s.inboxArrive ib row = (s, .full))) ∧
    (∀ id x n ans, s.cmd? id = some x → s.links.pushAns.find? (·.1 == id) = some (n, ans) →
      let u := { s with links := { s.links with pushAns := s.links.pushAns.filter (·.1 != id) } }
      (ans = .accepted → exec (.inboxAnswer id) s = .next (s.commit ((u.cmdArrive x x.buf.length false false).complete x))) ∧
      (ans = .refused → exec (.inboxAnswer id) s = .next (s.commit (u.pushRefused x))) ∧
      (ans = .full → exec (.inboxAnswer id) s = .next (s.commit
        (u.modCmd id fun y => { y with state := .parked u.wall, firstFull := some (y.firstFull.getD u.wall) })))) ∧
    (∀ id x a since, s.cmd? id = some x → x.state = .parked since → x.copy? = some a → s.cmdStops x = false →
      (since + microsecond ≤ s.wall → exec (.parkResend id) s = .next (s.commit (s.copyPush x (dieOf x.c) 16 a x.buf))) ∧
      ∀ n l, x.firstFull = some n → s.launch? x.lid = some l → l.parkLimit ≤ x.park + (s.wall - n) →
        exec (.parkLimitExpiry id) s = .next (s.commit (s.pushRefused x))) ∧
    (∀ ib x i rest l q u ps, s.links.inboxes[ib]? = some x → x.spare = i :: rest → s.inboxTarget x.reg = some (l, q) → l.inboxFits q x.reg = true →
      s.rangeNow 0 (asidOf l.lid) (inboxVa l x.reg i) (inboxEntry x.reg) 0 = (u, .ok ps) →
      exec (.inboxOverflowMove ib) s = .next (s.commit ((u.inboxDeliver x.reg (u.readParts ps)).modInbox ib fun y => { y with spare := rest }))) ∧
    (∀ c, exec (.walkEntryPush c) s = .next (s.commit ((List.range 4).foldl (fun s k => match s.queueOf c k 0 0 with
      | x :: _ => s.walkTurn x
      | [] => s) s))) ∧
    (∀ x l, s.launch? x.lid = some l → x.state ≠ .held → (x.part ≠ 0 ∨ x.inflight ≠ [] ∨ s.cmdStops x = false) →
      (∀ sub line, s.walkBad x l = some (sub, line) → s.walkTurn x = s.cmdCheck x sub (x.next / x.walkEntry l) 0 line) ∧
      (∀ w, s.walkBad x l = none → x.ins = .gcompact w → s.walkTurn x = s.compact x w) ∧
      ∀ w, s.walkBad x l = none → (∀ v, x.ins ≠ .gcompact v) → walkWord x.ins = some w →
        (x.walkCount l ≤ x.next → s.walkTurn x = (s.cmdArrive x (s.walkBytes x l w) false false).complete x) ∧
        (x.next < x.walkCount l → s.walkTurn x = if 3 ≤ walkDest x.ins then s.feedTurn x l else s.spillTurn x l w)) ∧
    (∀ c x w a d, (s.collate c).collHead c = some x → (s.collate c).usedTile c x.k w.ta.toNat = some a →
      (s.collate c).usedTile c x.k w.td.toNat = some d →
      let u := s.collate c
      (∀ r last rest, x.ins = .sort w → x.ranges = (r, last) :: rest → u.badImage c a (sortReads r a) = none →
        let v := (u.writeTile c x.k w.td.toNat (u.sortRowBytes c (bitsOf w.cmd 1 0) r a d)).cmdArrive x (d.str 1).toNat false false
        (r = last → exec (.sortRow c) s = .next (s.commit (v.collEnd x))) ∧
        (r ≠ last → exec (.sortRow c) s = .next (s.commit (v.modCmd x.id fun y => { y with next := r + 1, ranges := [(r + 1, last)] })))) ∧
      (∀ r last rest sub line, x.ins = .sort w → x.ranges = (r, last) :: rest → u.badImage c a (sortReads r a) = some (sub, line) →
        exec (.sortRow c) s = .next (s.commit (u.collCheck x r sub line))) ∧
      (x.ins = .sortk w → u.badImage c a [(0, a.size.1)] = none →
        let recs := sortBy (fun p q : Nat × Nat => decide (p.1 ≤ q.1)) (u.listRecords c a)
        let body := recs.flatMap fun p => leBytes p.1 8 ++ leBytes (p.2 % 2 ^ typeWidth d.vtype) 8
        let tail := if recs.length < d.ext 0 then List.replicate 8 (0xFF : Byte) ++ List.replicate 8 0 else []
        exec (.sortkComplete c) s = .next (s.commit
          (((u.writeTile c x.k w.td.toNat (putBytes 0 (body ++ tail))).cmdArrive x (body ++ tail).length false false).collEnd x)))) ∧
    (∀ c co id rest x, s.cores[c]? = some co → co.run = none → s.lateSlot c = none → co.unitQ = id :: rest → s.cmd? id = some x → s.cmdStops x = false →
      let u := s.modCmd id fun y => { y with state := .running }
      (∀ w, x.ins = .cinit w → exec (.contractionStart c) s = .next (s.commit
        ((u.modCore c fun co => { co with run := some { id := id, terms := [], sums := [], heldTerm := none } }).initCatalogue c x.k (w.cmd.getLsbD 0)))) ∧
      ∀ w, (∀ v, x.ins ≠ .cinit v) → (∀ v, x.ins ≠ .bdump v) → s.workOf x = some w →
        (∀ sub line, (((List.range w.total).drop x.next).findSome? fun p => s.badPass { x with next := p } w) = some (sub, line) →
          exec (.contractionStart c) s = .next (s.commit (s.unitCheck x sub line))) ∧
        ((((List.range w.total).drop x.next).findSome? fun p => s.badPass { x with next := p } w) = none →
        (s.prepass x w = .ok → exec (.contractionStart c) s = .next (s.commit (u.beginPass x w x.next))) ∧
        (s.prepass x w = .format → exec (.contractionStart c) s = .next (s.commit (s.prepassTrap x 5))) ∧
        (s.prepass x w = .spread → exec (.contractionStart c) s = .next (s.commit (s.prepassTrap x 6))))) ∧
    (∀ c x r w z, s.passDone c = some (x, r) → x.ins = .bmv z → s.workOf x = some w → x.next < w.total →
      let u := ((s.modCtx c x.k fun y => { y with sums := r.sums }).cmdArrive x 64 false false).modCmd x.id fun y => { y with next := y.next + 1 }
      (w.total = x.next + 1 → exec (.bucketRowComplete c) s = .next (s.commit u)) ∧
      (x.next + 1 < w.total → u.cmdStops x = false →
        exec (.bucketRowComplete c) s = .next (s.commit (u.beginPass { x with next := x.next + 1 } w (x.next + 1))))) ∧
    (∀ c x r w, s.passDone c = some (x, r) → s.workOf x = some w → w.total ≤ x.next → endBytes x ≠ 0 →
      exec (.contractionComplete c) s = .next (s.commit (((s.cmdArrive x (endBytes x) false false).leaveUnit x).complete x))) ∧
    (∀ c x r w v y, s.passDone c = some (x, r) → x.ins = .bdump w → s.usedTile x.c x.k w.td.toNat = some v → s.ctx? x.c x.k = some y →
      let p := (x.regs[0]?).getD 0
      let n := min 32 (bitsOf p 63 32 - x.next)
      let u := ((s.writeTile x.c x.k w.td.toNat (dumpBytes v y.sums (bitsOf p 31 0) x.next n)).modCmd x.id fun z =>
        { z with next := x.next + n }).cmdArrive x (8 * n) false false
      n ≠ 0 → exec (.contractionComplete c) s = .next (s.commit (if bitsOf p 63 32 ≤ x.next + n then (u.leaveUnit x).complete x else u))) ∧
    (∀ c j co r x t, s.cores[c]? = some co → co.run = some r → s.cmd? r.id = some x → r.heldTerm = none → r.terms[j % r.terms.length]? = some t →
      let u := s.modRun c fun r => { r with terms := r.terms.eraseIdx (j % r.terms.length) }
      (∀ q, ((u.cores[c]?).getD Core.zero).catApply x.k t = some q → exec (.catalogueApply c j) s = .next (s.commit (u.modCore c fun _ => q))) ∧
      (((u.cores[c]?).getD Core.zero).catApply x.k t = none → u.cmdStops x = false →
        exec (.catalogueApply c j) s = .next (s.commit (u.modRun c fun r => { r with heldTerm := some t })))) ∧
    (∀ c r x w list l y k, k = s.collate c → (k.cores[c]?).bind (·.run) = some r → k.cmd? r.id = some x →
      (k.collHead c).any (·.id == x.id) = true → drainWord x.ins = some (w, list) → k.launch? x.lid = some l → k.ctx? c x.k = some y →
      x.state = .running → x.inflight.length < y.cat.sp →
      exec (.drainComplete c) s = .next (s.commit (k.spillAsk x l (y.relx + y.rely * l.spanW) y.cat.sp y.cat.sp))) ∧
    (∀ c r x w list l y k u recs v, k = s.collate c → (k.cores[c]?).bind (·.run) = some r → k.cmd? r.id = some x →
      (k.collHead c).any (·.id == x.id) = true → drainWord x.ins = some (w, list) → k.launch? x.lid = some l → k.ctx? c x.k = some y →
      x.state = .running → x.buf = [] → k.spillRead x l (y.relx + y.rely * l.spanW) y.cat.sp = (u, some recs) →
      k.usedTile c x.k w.td.toNat = some v → u.drainBad x w = none →
      let ents := ((((u.cores[c]?).map (·.cat)).getD []).filter (·.ctx == x.k)).map fun e => ({ key := e.key, inv := e.inv, bits := e.value, direct := false } : Term)
      let keys := mergeTerms (ents ++ recs ++ y.cat.late)
      let out := u.drainKeys x w list v keys
      let kb := (x.regs[0]?).getD 0
      (u.ftz x.lid = true ∨ ∀ d ∈ out, d.sub = false) → exec (.drainComplete c) s = .next (s.commit
        (((u.writeTile c x.k w.td.toNat ((if w.cmd.getLsbD 26 then drainZeros v kb keys else []) ++
          ((keys.zip out).zipIdx.flatMap fun p => match drainPlace v list kb p.1.1 p.2 with
            | some o => drainPut v list o p.1.1.key (if p.1.2.sub then flushF (drainType v list).1 ⟨p.1.2.bits, true⟩ else p.1.2.bits)
            | none => []))).writeTile c x.k w.td.toNat (drainEnd v list keys.length)).drainFinish x v list keys out))) ∧
    ∀ c x w a d, s.rowHead c = some x → x.state ≠ .assist → x.state ≠ .held → rowWord x.ins = some w → s.usedTile c x.k w.ta.toNat = some a →
      s.usedTile c x.k w.td.toNat = some d → ((rowSpan ((x.regs[0]?).getD 0) a).getD (0, 0)).1 + ((rowSpan ((x.regs[0]?).getD 0) a).getD (0, 0)).2 > x.next →
      let named : Bool := match x.ins with | .nexps _ => true | .nscale _ => true | .nnorm v => v.cmd.getLsbD 8 | _ => false
      let b := if named then s.usedTile c x.k w.tb.toNat else none
      let o := s.rowOut x x.next a d b
      let t := match x.ins with | .nmax _ => 10 | _ => d.type
      (∀ sub line, s.rowBad x x.next a b = some (sub, line) →
        exec (.rowEngineRowComplete c) s = .next (s.commit (s.cmdCheck x sub x.next 0 line))) ∧
      (s.rowBad x x.next a b = none →
      (s.ftz x.lid = true ∨ (∀ e ∈ o.els, e.sub = false) → exec (.rowEngineRowComplete c) s = .next (s.commit
        ((s.rowFinish x w x.next d (o.els.map (flushF t)) o.sum).rowEnd x.id a))) ∧
      ∀ j, s.ftz x.lid = false → o.els.findIdx? (·.sub) = some j →
        exec (.rowEngineRowComplete c) s = .next (s.commit (s.rowAssist x w x.next j a d o)))

/-! ## Steps that are no word: text engines, inboxes' binding -/

/-- R342 to R345, R348, R349, R351, R353 to R357, R360, R361, R457: requests are checked and enter a tokeniser, are
tokenised, queued, answered; detokenisers take their commands and close replies; bindings and vocabulary images are written
and checked. -/
def Obligations.TextStepsTakeEffect : Prop :=
  ∀ s : State,
    (∀ m : UetMessage,
      let tag := bitsOf ((s.text.ports[m.port]?).getD 0) 31 0
      let h := frameHead m.body
      (m.tagged = false ∨ m.tag.toNat ≠ tag ∨ tag = 0 → ∃ t, exec (.requestArrival m) s = .next t ∧ t.text = { s.text with ring := s.text.ring ++ [m] }) ∧
      (m.tagged = true → m.tag.toNat = tag → tag ≠ 0 →
        (frameOk m.body = false → exec (.requestArrival m) s = .next (s.commit (s.refuseText m.port m.conn (BitVec.ofNat 64 (bitsOf h 63 0)) 1))) ∧
        (frameOk m.body = true → s.boundQueue (bitsOf h 91 80) = none →
          exec (.requestArrival m) s = .next (s.commit (s.refuseText m.port m.conn (BitVec.ofNat 64 (bitsOf h 63 0)) 2))) ∧
        ∀ q, frameOk m.body = true → s.boundQueue (bitsOf h 91 80) = some q →
          let v := (s.text.vocab[bitsOf h 69 64]?).getD 0
          let held (t : Nat) : Nat := (((s.text.toks[t]?).map (·.reqs)).getD []).length
          let t := if held (2 * m.port + 1) < held (2 * m.port) then 2 * m.port + 1 else 2 * m.port
          (v.getLsbD 62 = false →
            exec (.requestArrival m) s = .next (s.commit (s.refuseText m.port m.conn (BitVec.ofNat 64 (bitsOf h 63 0)) 4))) ∧
          (v.getLsbD 62 = true → 64 ≤ held t →
            exec (.requestArrival m) s = .next (s.commit (s.refuseText m.port m.conn (BitVec.ofNat 64 (bitsOf h 63 0)) 3))) ∧
          (v.getLsbD 62 = true → held t < 64 → ∀ y, s.text.toks[t]? = some y → ∃ u r, exec (.requestArrival m) s = .next u ∧
            u.text.toks[t]? = some { y with reqs := y.reqs ++ [r] } ∧ r.queue = q ∧ r.reqid.toNat = bitsOf h 63 0 ∧ r.text = m.body.drop 24 ∧
            r.tokens = none ∧ r.popped = false ∧ r.lid = rqLid ((s.text.rqbind[q]?).getD 0)))) ∧
    (∀ p : Nat, (∃ t, exec (.unreliablePacketArrival p) s = .next t ∧ t.text = { s.text with dropped := s.text.dropped.modify p (· + 1) }) ∧
      ∃ t, exec (.rmaReadArrival p) s = .next t ∧ t.text = { s.text with rmaErrors := s.text.rmaErrors.modify p (· + 1) }) ∧
    (∀ t r, ((s.text.toks[t]?).map (·.reqs)).bind (·.find? (·.tokens.isNone)) = some r → s.imageKept r.vpa r.image = true →
      exec (.tokeniseDone t) s = .next (s.commit (s.modTok t fun x => { x with reqs := x.reqs.map fun q =>
        if q.slot = r.slot then { q with tokens := some (tokenise r.image r.vpa r.raw r.bos r.text) } else q }))) ∧
    (∀ look q, (bestMerge look q = none → ∀ n, mergePiece look n q = q) ∧
      ∀ j rank res n, bestMerge look q = some (j, rank, res) → (∃ l r, q[j]? = some l ∧ q[j + 1]? = some r ∧ look l r = some (rank, res)) ∧
        mergePiece look (n + 1) q = mergePiece look n (q.take j ++ [res] ++ q.drop (j + 2))) ∧
    (∀ q, ((s.text.toks.zipIdx).flatMap fun (x, t) => (x.reqs.filter fun r => r.queue == q && r.tokens.isSome && !r.posted).map fun r => (t, r.slot)) ≠ [] →
      q < s.text.rq.length → ((s.text.rq[q]?).getD []).length < 64 →
      ∃ t, exec (.heldRequestPost q) s = .next t ∧ (t.text.rq[q]?).getD [] = (s.text.rq[q]?).getD [] ++
        ((((s.text.toks.zipIdx).flatMap fun (x, t) => (x.reqs.filter fun r => r.queue == q && r.tokens.isSome && !r.posted).map fun r => (t, r.slot)).take
          (64 - ((s.text.rq[q]?).getD []).length)).map fun p => { tk := p.1, slot := p.2 })) ∧
    (∀ c, exec (.tokpopTileWrite c) s = .next (s.commit ((s.text.copies.filter (·.c == c)).foldl State.copyTokens s))) ∧
    (∀ y v, s.usedTile y.c y.k y.tile = some v →
      let u := s.writeTile y.c y.k y.tile ((y.tokens.zipIdx).flatMap fun p => match v.linear p.2 with | some o => v.put o p.1 | none => [])
      s.copyTokens y = ((u.arrive { bar := y.bar, n := 4 * y.tokens.length, ref := false, lost := false, lid := y.lid, core := y.c, due := u.now, cmd := 0 } y.k).modTok
        y.tk fun x => { x with reqs := x.reqs.filter fun r => !(r.slot == y.slot && r.popped) }).modText fun x =>
          { x with copies := x.copies.filter fun z => decide (z ≠ y) }) ∧
    (∀ d t rest opens x, (s.text.toks[d]?).map (fun x => (x.cmds, x.opens)) = some (t :: rest, opens) →
      let u := s.modTok d fun x => { x with cmds := rest }
      (u.cmd? t.id = none → exec (.detokeniserTake d) s = .next (s.commit (u.modDie 0 Die.countLate))) ∧
      (u.cmd? t.id = some x →
      (opens.find? (fun o => handleOf o.lid d o.slot o.tag == t.handle && o.lid == x.lid) = none →
        exec (.detokeniserTake d) s = .next (s.commit ((u.cmdArrive x 0 true false).complete x))) ∧
      ∀ o, opens.find? (fun o => handleOf o.lid d o.slot o.tag == t.handle && o.lid == x.lid) = some o →
        (t.tokens = none → exec (.detokeniserTake d) s = .next (s.commit (((u.closeReply d o false).cmdArrive x 64 false false).complete x))) ∧
        ∀ l, t.tokens = some l →
          let r := (l.zipIdx).foldl (fun acc p => u.takeToken acc p.1 p.2) (o, [])
          exec (.detokeniserTake d) s = .next (s.commit
            ((((({ u with freeCtr := u.freeCtr + 256 * l.length } : State).modOpen d o fun _ => r.1).sendFrames d r.1 r.2).cmdArrive x (4 * t.count) false false).complete x)))) ∧
    (∀ d o, ((s.text.toks[d]?).map (·.opens)) = some [o] → s.launch? o.lid = none →
      ∃ t, exec (.replyClose d) s = .next t ∧ ((t.text.toks[d]?).map (·.opens)) = some []) ∧
    (∀ o : OpenHandle, (o.cut = true → ∀ b, o.status b = 5) ∧ (o.cut = false → o.status true = 6 ∧
      (o.badTok = true → o.status false = 7) ∧ (o.badTok = false → o.status false = if o.trunc then 8 else 0))) ∧
    (∀ q (v : W64), q < s.text.rqbind.length →
      ∃ t, exec (.rqbindWrite q v) s = .next t ∧ t.text.rqbind[q]? = some (BitVec.ofNat 64 (bitsOf v 63 63 * 2 ^ 63 + bitsOf v 38 0)) ∧
        (v.getLsbD 63 = false → (t.text.rq[q]?).getD [] = [])) ∧
    (∀ j (v old : W64), s.text.vocab[j]? = some old →
      ∃ t w, exec (.vocabWrite j v) s = .next t ∧ t.text.vocab[j]? = some w ∧ w.getLsbD 63 = v.getLsbD 63 ∧ bitsOf w 39 8 = bitsOf v 39 8 ∧
        (v.getLsbD 63 = false ∨ old.getLsbD 63 = false → w.getLsbD 62 = false) ∧ (v.getLsbD 63 = true → old.getLsbD 63 = true → w.getLsbD 62 = old.getLsbD 62)) ∧
    (∀ j (v : W64), s.text.vocab[j]? = some v → v.getLsbD 63 = true → bitsOf v 62 61 = 0 →
      ∃ t w, exec (.vocabCheckDone j) s = .next t ∧ t.text.vocab[j]? = some w ∧ w.getLsbD 62 = imgOk s.memNow (vocabPa v) ∧
        w.getLsbD 61 = !imgOk s.memNow (vocabPa v)) ∧
    ∀ ib (v : W64) x, s.links.inboxes[ib]? = some x →
      let w : W64 := BitVec.ofNat 64 (bitsOf v 63 63 * 2 ^ 63 + bitsOf v 55 0)
      (w.getLsbD 63 = true → s.inboxClash ib w = true → ∃ t y, exec (.inboxBindWrite ib v) s = .next t ∧ t.links.inboxes[ib]? = some y ∧
        y.reg.getLsbD 63 = false) ∧
      (w.getLsbD 63 = false ∨ s.inboxClash ib w = false → ∃ t y, exec (.inboxBindWrite ib v) s = .next t ∧ t.links.inboxes[ib]? = some y ∧ y.reg = w)

/-! ## Steps that are no word: package and host -/

/-- R130, R131, R252, R396, R399, R423, R446 to R448, R452, R459 to R464: reset and boot, the pod round, attestation, power and temperature,
the trigger and the snapshot, the clears, the host's and the service cores' accesses. Signatures, digests and how far a supply is lowered
are free values (log 10, log 15). -/
def Obligations.PackageStepsTakeEffect : Prop :=
  ∀ s : State,
    (∀ hs, ∃ t, exec (.moduleReset hs) s = .next t ∧ t.hostsel = hs ∧ t.bigMem = s.bigMem ∧ t.mem = s.mem ∧ t.cmds = [] ∧ t.accs = [] ∧
      t.place.launches = [] ∧ t.boot.ready = false ∧ t.cores = (State.resetWith hs s.bigMem s.mem).cores) ∧
    (∀ img set, s.boot.ready = false → s.boot.fail = false → s.boot.image = [] →
      (Config.signatureOk img = false → ∃ t, exec (.bootImageVerified img set) s = .next t ∧ t.boot = { s.boot with fail := true, held := true }) ∧
      (Config.signatureOk img = true → ∃ t, exec (.bootImageVerified img set) s = .next t ∧ t.boot.image = img ∧
        t.boot.assistText = set.assistText ∧ t.boot.ready = set.alone ∧ t.pkg = set.pkgid % 2 ^ 18 ∧ t.pod.plan = set.plan ∧
        (set.alone = false → t.pod.round = set.round ∧ t.pod.helloEnd = s.wall + 50000 * microsecond))) ∧
    (∀ m : Hello, m.round = s.pod.round → s.pod.helloEnd ≠ 0 →
      ∃ t, exec (.helloReceived m) s = .next t ∧ t.pod = { s.pod with heard := s.pod.heard ++ [m.pkg] }) ∧
    (s.pod.helloEnd ≠ 0 → s.pod.helloEnd ≤ s.wall → s.pod.role = 0 →
      ∃ t, exec .helloWindowExpiry s = .next t ∧ t.pod.helloEnd = 0 ∧
        ((∀ h ∈ s.pod.heard, h < s.pkg → s.pod.excluded.contains h = true) → t.boot.ready = true ∧
          (s.pod.claims = [] → t.pod.role = 1 ∧ t.pod.leader = some s.pkg ∧
            let sig := Config.sign (helloBytes 1 s.pod.round s.pkg s.pod.excluded)
            t.links.out = s.links.out ++ [.hello 1 none { round := s.pod.round, pkg := s.pkg, excluded := s.pod.excluded, sig := sig }] ++
              s.pod.plan.map fun m => .config { m with pkg := s.pkg }) ∧
          (leastOf s.pkg s.pod.claims < s.pkg → t.pod.role = 2 ∧ t.pod.leader = some (leastOf s.pkg s.pod.claims))) ∧
        ((∃ h ∈ s.pod.heard, h < s.pkg ∧ s.pod.excluded.contains h = false) → (s.pod.claims = [] → t.pod.role = 0) ∧
          ∀ c cs, s.pod.claims = c :: cs → leastOf c cs ≠ s.pkg → t.pod.role = 2 ∧ t.pod.leader = some (leastOf c cs) ∧ t.boot.ready = true)) ∧
    (∀ m : Hello, s.podMessageOk 1 m = true → s.pod.claims = [] →
      ((s.pod.role = 1 ∧ m.pkg < s.pkg) ∨ (s.pod.role ≠ 1 ∧ s.pod.helloEnd = 0 ∧ m.pkg ≠ s.pkg) → ∃ t, exec (.claimReceived m) s = .next t ∧
        t.pod.role = 2 ∧ t.pod.leader = some m.pkg ∧ t.pod.claims = [m.pkg] ∧ t.boot.ready = true ∧
        t.pod.timerEnd = if s.pod.role = 2 then s.pod.timerEnd else some (s.wall + 5000000 * microsecond)) ∧
      ((s.pod.role = 1 ∧ s.pkg ≤ m.pkg) ∨ (s.pod.role ≠ 1 ∧ s.pod.helloEnd ≠ 0) → ∃ t, exec (.claimReceived m) s = .next t ∧ t.pod = { s.pod with claims := [m.pkg] })) ∧
    (∀ m : Hello, s.podMessageOk 2 m = true → s.pod.role = 1 → ∃ t, exec (.demoteReceived m) s = .next t ∧ t.pod.role = 2 ∧ t.boot.ready = true) ∧
    (∀ m : ConfigMessage, s.pod.role = 2 → s.pod.excluded.contains m.pkg = false → (∀ l, s.pod.leader = some l → l = m.pkg) →
      s.inDram m.pa (max 1 m.bytes.length) = true → s.wr = [] →
      ∃ t, exec (.configMessage m) s = .next t ∧ t.pod.leader = some m.pkg ∧ t.pod.timerEnd = some (s.wall + 5000000 * microsecond) ∧
        t.pod.staged = s.pod.staged ++ [(m.image, m.pa, m.bytes)] ∧ t.pod.whole = (if m.last then s.pod.whole ++ [m.image] else s.pod.whole) ∧
        t.mem = Mem.setList s.mem m.pa m.bytes) ∧
    (∀ image rest, s.pod.whole = image :: rest → ∃ t, exec .imageCheckDone s = .next t ∧ t.pod.whole = rest ∧
      t.pod.active = if Config.signatureOk (s.pod.stagedBytes image) then (image, s.pod.stagedBytes image) :: s.pod.active.filter (·.1 != image) else s.pod.active) ∧
    (∀ w, s.pod.timerEnd = some w → w ≤ s.wall → ∃ t, exec .loadTimerExpiry s = .next t ∧ t.pod.round = s.pod.round + 1 ∧
      t.pod.excluded = s.pod.excluded ++ s.pod.leader.toList ∧ t.pod.timerEnd = none ∧ t.pod.role = 0) ∧
    (∀ q : AttestRequest, ∃ t, exec (.attestationRequest q) s = .next t ∧ t.boot.reports = s.boot.reports + 1 ∧
      t.links.out = s.links.out ++ [.report q.asker q.nonce (s.reportBody q.nonce) (Config.sign (s.reportBody q.nonce))]) ∧
    (∀ v : W64, ∃ t, exec (.pwrcapWrite v) s = .next t ∧ 400 ≤ bitsOf t.ctl.pwrcap 15 0 ∧ bitsOf t.ctl.pwrcap 15 0 ≤ 1600 ∧
      (400 ≤ bitsOf v 15 0 → bitsOf v 15 0 ≤ 1600 → bitsOf t.ctl.pwrcap 15 0 = bitsOf v 15 0) ∧ t.ctl.pwrcap.getLsbD 16 = v.getLsbD 16) ∧
    (∀ w, s.ctl.pwrcap.getLsbD 16 = true →
      (bitsOf s.ctl.pwrcap 15 0 < w → ∃ t, exec (.powerCapAdjust w) s = .next t ∧ 500 ≤ t.capped ∧ (500 ≤ min s.supply s.capped → t.capped ≤ min s.supply s.capped)) ∧
      (w ≤ bitsOf s.ctl.pwrcap 15 0 → ∃ t, exec (.powerCapAdjust w) s = .next t ∧ t.capped = 750)) ∧
    (∀ d temp x, s.tele[d]? = some x → ∃ t y, exec (.thermalThrottle d temp) s = .next t ∧ t.tele[d]? = some y ∧ y.temp = temp ∧
      (1680 ≤ temp → 500 ≤ y.mv ∧ (500 ≤ min (min s.supply s.capped) x.mv → y.mv ≤ min (min s.supply s.capped) x.mv)) ∧ (temp < 1680 → y.mv = 750) ∧ exec (.thermalTrip d temp) s = .next t ∧ (1840 ≤ temp → t.trip = true)) ∧
    (∀ mv, ∃ t, exec (.supplyChange mv) s = .next t ∧ 500 ≤ t.supply ∧ t.supply ≤ 750 ∧ (500 ≤ mv → mv ≤ 750 → t.supply = mv)) ∧
    (∀ d n x, s.tele[d]? = some x → ∃ t, exec (.ageingUpdate d n) s = .next t ∧ t.tele[d]? = some { x with months := min n 0xFFFF }) ∧
    (∀ src (tag : W64), src < 4 → s.trigLatches src = true → s.ctl.snapDue = none →
      (∃ t, exec (.snapshotTrigger src tag) s = .next t ∧ t.ctl = { s.ctl with snapDue := some (s.now, [8], 2 ^ src, bitsOf tag 15 0) }) ∧
      (src = srcPin → ∃ t, exec .trigIn s = .next t ∧ t.ctl = { s.ctl with snapDue := some (s.now, [8], 2 ^ srcPin, 0) }) ∧
      (src = srcCounter → s.now % 2 ^ 64 = s.ctl.snapCmp.toNat →
        ∃ t, exec .snapcmpMatch s = .next t ∧ t.ctl = { s.ctl with snapDue := some (s.now, [8], 2 ^ srcCounter, 0) })) ∧
    (s.now % 2 ^ 64 ≠ s.ctl.snapCmp.toNat → exec .snapcmpMatch s = .next (s.commit s)) ∧
    (∀ c fired src tag, s.ctl.snapDue = some (c, fired, src, tag) →
      (s.now < c + 1 → exec .snapshotLatch s = .next (s.commit s)) ∧
      (c + 3 ≤ s.now → ∃ t, exec .snapshotLatch s = .next t ∧ t.ctl.snapDue = none ∧ t.ctl.snapCtl = latchedCtl s.ctl.snapCtl src tag) ∧
      ∀ d x, s.now = c + 1 → d < 8 → fired.contains d = true → s.dies[d]? = some x →
        ∃ t y, exec .snapshotLatch s = .next t ∧ t.dies[d]? = some y ∧ y.snap = x.snapshot) ∧
    ((∃ t, exec .crdropClear s = .next t ∧ t.ctl = { s.ctl with crdrop := 0 }) ∧
      (∃ t, exec .racectlOvfClear s = .next t ∧ t.ctl = { s.ctl with raceOvf := false, raceDrops := 0 }) ∧
      ∀ d x, s.dies[d]? = some x → ∃ t, exec (.lateCountClear d) s = .next t ∧ t.dies[d]? = some { x with late := 0 }) ∧
    (∀ a : ControlAccess, (s.hostsel = false → exec (.registerWrite a) s = .next (s.commit s)) ∧
      (s.hostsel = true → exec (.registerWrite a) s = .next (s.commit
        (if a.bar0 then (if a.write then s.barStore a.off a.size a.value else s.send (.hostRead (s.barLoad a.off a.size)))
         else if a.write then s.ctlStore a.off a.size a.value else s.send (.hostRead (s.ctlLoad a.off a.size)))))) ∧
    ∀ n (a : ServiceAccess) x u va, s.svc[n]? = some x → s.boot.held = false → s.wr = [] → u = s.onService n → va = BitVec.ofNat 64 a.addr →
      (∀ cause, (a.op = .load ∧ u.svcPlace .load n va a.size = .error cause) ∨
          (∃ v, a.op = .store v ∧ u.svcPlace .store n va a.size = .error cause) →
        exec (.serviceCoreAccess n a) s = .next (s.commit (u.svcExcept cause va))) ∧
      (∀ pa, a.op = .load → u.svcPlace .load n va a.size = .ok pa →
        (inControl pa = true → ∃ t, exec (.serviceCoreAccess n a) s = .next t ∧
          t.svc[n]? = some (x.setReg a.rd (u.ctlLoad (pa - ctlBase) a.size)) ∧ t.mem = s.mem) ∧
        (inControl pa = false → u.inDram pa a.size = true → ∃ t, exec (.serviceCoreAccess n a) s = .next t ∧
          t.svc[n]? = some (x.setReg a.rd (BitVec.ofNat 64 (u.physNum pa a.size))) ∧ t.mem = s.mem)) ∧
      (∀ v pa, a.op = .store v → u.svcPlace .store n va a.size = .ok pa →
        (inControl pa = false → u.inDram pa a.size = true → u.svcMayWrite pa = true →
          ∃ t, exec (.serviceCoreAccess n a) s = .next t ∧ t.mem = Mem.setList s.mem pa (leBytes v.toNat a.size)) ∧
        (inControl pa = true → (pa - ctlBase = 0x128 → u.causedApplied 8 (List.range 8) = true) →
          exec (.serviceCoreAccess n a) s = .next (s.commit (u.ctlStore (pa - ctlBase) a.size v))) ∧
        (pa - ctlBase = 0x128 → inControl pa = true → u.causedApplied 8 (List.range 8) = false →
          exec (.serviceCoreAccess n a) s = .next s)) ∧
      (∀ op aq v pa new, a.op = .amo op aq false v → a.addr % a.size = 0 → u.svcDram .store va a.size = .ok pa → u.svcMayWrite pa = true →
        atomicNew (if op = 7 then 4 else if op = 8 then 5 else op) (decide (op < 7)) (8 * a.size) (u.physNum pa a.size)
          (v.toNat % 2 ^ (8 * a.size)) 0 = some new →
        ∃ t, exec (.serviceCoreAccess n a) s = .next t ∧ t.mem = Mem.setList s.mem pa (leBytes new a.size) ∧
          t.svc[n]? = some (x.setReg a.rd ((BitVec.ofNat (8 * a.size) (u.physNum pa a.size)).signExtend 64))) ∧
      (a.op = .fence → u.causedApplied 8 (List.range 8) = true →
        exec (.serviceCoreAccess n a) s = .next (s.commit (u.bumpInterval u.svcAgent.code)))

/-! ## The service cores' own instructions -/

/-- R131, R262, R263, R264, R385, R418, R443, R447: executing on service core `n`, each nh word writes rd and passes its word; its answer is
the rule's. nh.lq, nh.inval wait for what they release; nh.lwait and nh.fence for what they name. -/
def Obligations.ServiceWordsComplete : Prop :=
  ∀ (s : State) (c : ServiceCore) (rd rs1 rs2 : BitVec 5), s.svc[s.curSvc]? = some c →
    (∀ v, ∃ d, (s.svcDone rd v).svc[s.curSvc]? = some d ∧ d.pc = c.pc + 4 ∧ (rd ≠ 0 → d.reg rd = v ∨ c.regs.length < rd.toNat) ∧
      (∀ r, r ≠ rd → d.reg r = c.reg r) ∧ d.mode = c.mode ∧ d.mepc = c.mepc ∧ (s.svcDone rd v).mem = s.mem ∧ (s.svcDone rd v).cores = s.cores) ∧
    (s.causedApplied 8 (List.range 8) = true → ∀ t tk lid, s.submit (.service s.curSvc (s.svcReg rs1)) = (t, tk, lid) →
      exec (.nhLq rd rs1) s = .next (s.commit ((t.modSvc t.curSvc fun c => { c with launches := c.launches ++ lid.toList }).svcDone rd tk))) ∧
    (s.causedApplied 8 (List.range 8) = false → exec (.nhLq rd rs1) s = .next s) ∧
    (let tk := (s.svcReg rs1).toNat
     (tk % 16 ≠ 0 → exec (.nhLwait rd rs1) s = .next (s.commit (s.svcDone rd 3))) ∧
     (tk % 16 = 0 → s.launchGone (tk / 2 ^ 28 % 2 ^ 24 * 4096 + tk / 2 ^ 52) = true → exec (.nhLwait rd rs1) s = .next (s.commit (s.svcDone rd 2))) ∧
     (tk % 16 = 0 → s.launchGone (tk / 2 ^ 28 % 2 ^ 24 * 4096 + tk / 2 ^ 52) = false → exec (.nhLwait rd rs1) s = .next s)) ∧
    ((bitsOf (s.svcReg rs1) 63 2 ≠ 0 → exec (.nhFence rd rs1) s = .next (s.commit (s.svcDone rd 1))) ∧
     (bitsOf (s.svcReg rs1) 63 2 = 0 → ((s.svcReg rs1).getLsbD 0 = true → c.launches.all s.launchGone = true) →
      ((s.svcReg rs1).getLsbD 1 = true → s.invals.any (·.core == s.curSvc) = false) → exec (.nhFence rd rs1) s = .next (s.commit (s.svcDone rd 0)))) ∧
    (let va := s.svcReg rs1
     (va.toNat % 32 ≠ 0 → exec (.nhFqpop rd rs1) s = .next (s.commit s.svcIllegal)) ∧
     (va.toNat % 32 = 0 → s.faults.pending = [] → exec (.nhFqpop rd rs1) s = .next (s.commit (s.svcDone rd (1#64 <<< 63)))) ∧
     (∀ e rest cause, va.toNat % 32 = 0 → s.faults.pending = e :: rest → s.svcDram .store va 32 = .error cause →
       exec (.nhFqpop rd rs1) s = .next (s.commit (s.svcExcept cause va))) ∧
     ∀ e rest pa, va.toNat % 32 = 0 → s.faults.pending = e :: rest → s.svcDram .store va 32 = .ok pa → s.svcMayWrite pa = true → s.wr = [] →
       ∃ t, exec (.nhFqpop rd rs1) s = .next t ∧ t.mem = Mem.setList s.mem pa (leBytes e.bits.toNat 32) ∧
         t.faults.entries = serveFirst s.faults.entries ∧ t.faults.pending = rest ∧
         t.svc = (s.svcDone rd (BitVec.ofNat 64 rest.length)).svc) ∧
    (let va := (s.svcReg rs1).toNat
     let v := s.svcReg rs2
     (rangeCount v = none ∨ va % 65536 ≠ 0 ∨ 2 ≤ va / 2 ^ 62 → exec (.nhInval rd rs1 rs2) s = .next (s.commit (s.svcDone rd 1))) ∧
     (∀ n, rangeCount v = some n → va % 65536 = 0 → va / 2 ^ 62 < 2 → s.causedApplied 8 (List.range 8) = true →
       exec (.nhInval rd rs1 rs2) s = .next (s.commit ((s.invalidate (bitsOf v 11 0) (va % 2 ^ 62) (va % 2 ^ 62 + 65536 * n)).svcDone rd 0))) ∧
     (rangeCount v = none ∨ va % 64 ≠ 0 → exec (.nhIcinv rd rs1 rs2) s = .next (s.commit (s.svcDone rd 1))) ∧
     (∀ n, rangeCount v = some n → va % 64 = 0 → ∃ t, exec (.nhIcinv rd rs1 rs2) s = .next t ∧ t.svc = (s.svcDone rd 0).svc ∧
       ∀ (k : Nat) (co : Core), s.cores[k]? = some co → ∃ cp : Core, t.cores[k]? = some cp ∧
         ∀ l : ILine, l ∈ cp.icache ↔ l ∈ co.icache ∧ ¬ (l.asid = bitsOf v 11 0 ∧ va ≤ l.va ∧ l.va < va + 64 * n)) ∧
     (bitsOf v 63 28 ≠ 0 ∨ bitsOf v 15 4 ≠ 0 → exec (.nhFpool rd rs1 rs2) s = .next (s.commit (s.svcDone rd (3#64 <<< 62)))) ∧
     (∀ x pool res, bitsOf v 63 28 = 0 → bitsOf v 15 4 = 0 → s.dies[bitsOf v 2 0]? = some x →
       s.pushFrames (bitsOf v 2 0) (v.getLsbD 3) (s.svcReg rs1) (bitsOf v 27 16 + 1) 0 (if v.getLsbD 3 then x.pool2m else x.pool64) = (pool, res) →
       ∃ t, exec (.nhFpool rd rs1 rs2) s = .next t ∧
         t.dies[bitsOf v 2 0]? = some (if v.getLsbD 3 then { x with pool2m := pool } else { x with pool64 := pool }) ∧
         (∀ w, res = .ok w → t.svc = (s.svcDone rd w).svc) ∧
         ∀ cause at_, res = .error (cause, at_) → t.svc = (s.svcExcept cause at_).svc)) ∧
    exec (.nhTrig rd rs1) s = .next (s.commit
      ((s.fireTrigger srcTrig 8 (bitsOf (s.svcReg rs1) 15 0)).svcDone rd (if s.trigLatches srcTrig then 0 else 1)))

/-! ## Operands, encodings, the step -/

/-- R86: the guard value is bit GBIT of the guard register, XOR NEG; on V of the low 64 bits of vGREG; register 0 of a scalar engine reads
zero, so a guard on s0.0 is always off and one on !s0.0 always on; it is read at issue, of the state the word issues in; with G 0 the word
executes. What executing and being guarded off mean is shown on MOVI, which then writes its register, or only passes. -/
def Obligations.GuardValueIsABitXorNeg : Prop :=
  ∀ (s : State) (g : Guard),
    (g.g = false → guardOn g s = .ok (true, s)) ∧
    (∀ h, g.g = true → s.here = some h → h.e ≠ .V → g.greg ≠ 0 → h.eng.isBusy s.now g.greg.toNat = false →
      guardOn g s = .ok ((((s.regsHere h)[g.greg.toNat]?).getD 0).getLsbD g.gbit.toNat != g.neg, s)) ∧
    (∀ h, g.g = true → s.here = some h → h.e ≠ .V → g.greg = 0 → guardOn g s = .ok (g.neg, s)) ∧
    (∀ h, g.g = true → s.here = some h → h.e = .V → h.eng.isBusy s.now g.greg.toNat = false →
      guardOn g s = .ok (((((h.ctx.vregs[g.greg.toNat]?).getD 0).setWidth 64).getLsbD g.gbit.toNat) != g.neg, s)) ∧
    ∀ x : IWord, s.here.isSome = true → s.regFree x.d.toNat →
      (guardOn x.guard s = .ok (true, s) → exec (.movi x) s =
        .next (s.commit (s.withReg x.d.toNat (if x.sub = 1 then x.imm.setWidth 64 else x.imm.signExtend 64) 1).advanced)) ∧
      (guardOn x.guard s = .ok (false, s) → exec (.movi x) s = .next (s.commit s.advanced))

/-- R94, R95, R163, R177, R182, R183: register 0 reads zero and discards a write, another register waits for its earlier write; a code of 48
to 51 pops the queue of its sender and stalls when that is empty; passing a word goes to the next one, finishes a section at its end, and
in a LOOP goes round with the next indices or leaves the body. -/
def Obligations.OperandsAndPlace : Prop :=
  ∀ (s : State) (h : Here), s.here = some h →
    (readReg 0 s = .ok (0, s) ∧ ∀ v lat, s.withReg 0 v lat = s) ∧
    (∀ r, r ≠ 0 → (h.eng.isBusy s.now r = false → s.filesGood h → readReg r s = .ok (((s.regsHere h)[r]?).getD 0, s)) ∧
      (h.eng.isBusy s.now r = true → readReg r s = .error .stall)) ∧
    (∀ (r : BitVec 6) on, 48 ≤ r.toNat →
      let q := inqIndex h.e.tag (inboundSender r.toNat)
      (∀ v rest, h.ctx.inqs[q]? = some (v :: rest) → source on r s = .ok (v, s.modCtxHere fun x => { x with inqs := x.inqs.set q rest })) ∧
      (h.ctx.inqs[q]? = some [] → source on r s = .error .stall)) ∧
    (∀ r v lat f, h.asst = false → r ≠ 0 → r < 48 → fileOf h.e = f → f < h.ctx.sregs.length → ((h.ctx.sregs[f]?).map List.length) = some 48 →
      (s.withReg r v lat).sreg h.c h.k f r = some v ∧ ∀ q, q ≠ r → (s.withReg r v lat).sreg h.c h.k f q = s.sreg h.c h.k f q) ∧
    ∀ sc, h.eng.sect = some sc →
      let u := s.modHere fun en => { en with modifier := none, dv := false, child := none, chain := 0, chained := [] }
      (h.eng.loop = none → s.advanced = u.modHere (·.goto (sc.widx + 1))) ∧
      (∀ en : EngSt, en.sect = some sc → (sc.widx + 1 < sc.len → (en.goto (sc.widx + 1)).sect = some { sc with widx := sc.widx + 1 }) ∧
        (sc.len ≤ sc.widx + 1 → (en.goto (sc.widx + 1)).sect = none ∧
          (en.goto (sc.widx + 1)).pc = BitVec.ofNat 32 (sc.hdr + 8 + 12 * sc.len) ∧
          ∀ o ∈ (en.goto (sc.widx + 1)).secs, o.n = sc.n → o.finished = true)) ∧
      ∀ l, h.eng.loop = some l →
        (sc.widx + 1 ≤ l.word + l.len → s.advanced = u.modHere (·.goto (sc.widx + 1))) ∧
        (l.word + l.len < sc.widx + 1 → l.iter + 1 < l.total →
          let free := h.eng.indexFree s.now l
          let m : LoopSt := { l with iter := l.iter + 1, idx := loopIndices h.eng.cnt l.nd (l.iter + 1), lag := !free }
          let v := u.modHere fun en => { en with loop := some m }
          s.advanced = (if free = true ∧ l.d ≠ 0 then v.modRegs fun r => writeIndices r l.d m.idx else v).modHere (·.goto (l.word + 1))) ∧
        (l.word + l.len < sc.widx + 1 → l.total ≤ l.iter + 1 →
          s.advanced = (u.modHere fun en => { en with loop := none }).modHere (·.goto (l.word + l.len + 1)))

/-- R84 to R93, R96, R100 to R108, R131: every well-formed word of an engine's map has an encoding, which decodes on that engine to the same
word with every operand; a CPYF also needs the word it carries to decode. Every word of the service cores' own does the same. -/
def Obligations.DecodeOfEncode : Prop :=
  (∀ (e : Engine) (i : Instr), wellFormed e i = true → (∀ f, i = .cpyf f → ∃ j, carriedDecode f.carried = .ok j) →
    ∃ w, encode i = some w ∧ decode e w (encodeNext i) = .ok i) ∧
  ∀ (i : Instr) (w : BitVec 32), encodeService i = some w → decodeService w = some i

/-- R84, R100 to R107: at most one row of the opcode map fits a word on an engine. -/
def Obligations.OpcodeMapIsUnambiguous : Prop :=
  ∀ (e : Engine) (w : W96), (opRows.filter fun r => r.op == opOf w && r.engs.contains e && r.form w).length ≤ 1

/-- R84 to R93, R96, R131: words written out from their formats decode to the words they stand for, each operand in its field. -/
def Obligations.WrittenWordsDecode : Prop :=
  decode .S 0x42000090_420C0000_3F000000 0 = .ok (.cmplt ⟨⟨false, false, 0, 0⟩, 9, 1, 2, 3, 0, 0, 0, 0, 0, 63⟩) ∧
  decode .S 0x39890C40_80000000_3F000000 0 = .ok (.mov ⟨⟨true, false, 9, 3⟩, 4, 2, 0, 0, 0, 0, 0, 0, 0, 63⟩) ∧
  decode .V 0x27C50860_F1028000_07000000 0 = .ok (.vmax ⟨⟨true, true, 5, 2⟩, 6, 3, 49, 0, 10, 0, 0, 0, 0, 7⟩) ∧
  decode .B 0x060000A0_04000000_00000004 0 = .ok (.loop ⟨⟨false, false, 0, 0⟩, 10, 0, 1, 4⟩) ∧
  decode .A 0x60000051_87620000_00000010 0 = .ok (.ld ⟨⟨false, false, 0, 0⟩, 5, 6, 7, 6, 2, 16⟩) ∧
  decode .X 0xC0000000_00140721_40000000 0 = .ok (.cpy ⟨⟨false, false, 0, 0⟩, 0, 0, 5, 7, 8, 0x140000000⟩) ∧
  decode .S 0x02000070_0C000000_FFFFFFA0 0 = .ok (.brc ⟨⟨false, false, 0, 0⟩, 7, 0, 3, -96⟩) ∧
  decodeService 0x00C5B50B = some (.nhInval 10 11 12)

/-- R85, R97, R108, R160, R162, R171, R177: when the bytes an engine stands at, in a section and ready, decode to a word,
the engine's turn is exec of that word in that state, followed by the stall mark, the watchdog and the single step, and by
VQPOP's pairing; in a LOOP the indices are in their registers and the loop buffer is filled before the word; a CPYF and a
memory modifier read the word after them, which must be theirs; a service core's turn is exec of its decoded word; the turn
is the first of the agenda, and an empty agenda is a new cycle. -/
def Obligations.AStepRunsTheDecodedWord : Prop :=
  ∀ s : State, s.trip = false →
    (∀ c e rest x en n i h w v, s.agenda = .core c e :: rest →
      let u := ({ s with agenda := rest, curTry := 0 } : State).onEngine c e
      (e = .S → (u.cores[c]?).map (·.assist.active.isSome) = some false) → u.current c e = some (x, en, n) → x.switches u.now en = false →
      en.ready ≤ u.now → en.sect.isSome = true → settleLoop u = .ok ((), v) → v.here = some h → standingWord h v = .ok (w, v) →
      (decode h.e w 0 = .ok i ∧ (∀ f, i ≠ .cpyf f) ∧ (∀ p, i ≠ .memModifier p)) ∨
        (h.eng.holdsWord (h.widx + 1) = true ∧ ∃ nx, sectionWord h (h.widx + 1) v = .ok (nx, v) ∧ decode h.e w nx = .ok i ∧
          ((∃ f, i = .cpyf f) ∨ ∃ p, i = .memModifier p ∧ modifierFits h.e p nx = true)) →
      step s = thenState (fun t => afterPop i c e v (afterTurn true c e v t)) (exec i v)) ∧
    (∀ u h, u.here = some h → (h.eng.loop = none ∨ ∃ l, h.eng.loop = some l ∧ l.lag = false ∧ l.body ≠ []) → settleLoop u = .ok ((), u)) ∧
    (∀ n rest i, s.agenda = .service n :: rest → decodeService (({ s with agenda := rest } : State).serviceWord n) = some i →
      step s = exec i (({ s with agenda := rest } : State).onService n)) ∧
    (∀ i rest, s.agenda = .event i :: rest → step s = exec i { s with agenda := rest }) ∧
    (s.agenda = [] → step s = .next s.tickStep) ∧
    (∀ c e t u k x y, u.seat = some (k, false) → u.ctx? c k = some x → t.ctx? c k = some y → u.watchdogDue x (x.eng e) = false →
      (x.eng e).step = false → afterTurn true c e u t =
        t.modCore c fun co => { co with stalled := co.stalled.set e.tag (!((y.eng e).place != (x.eng e).place)) }) ∧
    ∀ i c e u t, (∀ x, i ≠ .vqpop x) → afterPop i c e u t = t

/-! ## The whole machine -/

/-- R6, R121, R128, R182, R184, R187, R252, R414, R459: after reset no launch is in the part, no context on a core, nothing under way; the
package is not ready; its registers read as their maps say; a context that is made has every register, flag and count zero and its program
counters at 0. Memory lists nothing (log 2). -/
def Obligations.ResetLeaves : Prop :=
  State.reset.Settled ∧ (∀ c k, State.reset.ctx? c k = none) ∧ State.reset.place.launches = [] ∧ State.reset.cmds = [] ∧ State.reset.accs = [] ∧
    State.reset.props = [] ∧ State.reset.boot.ready = false ∧ State.reset.boot.fail = false ∧ State.reset.faults.entries = [] ∧
    State.reset.faults.nextTag = 0 ∧ State.reset.ctlRead 0x100 = 0 ∧ State.reset.ctlRead 0x130 = 0 ∧ State.reset.ctlRead 0x160 = 0 ∧
    State.reset.ctlRead 0x100018 = 0 ∧ State.reset.ctlRead 0x601000 = 1600 ∧ State.reset.cores.length = 1024 ∧ State.reset.dies.length = 8 ∧
    ∀ (l : Launch) (x y : Nat), (∀ f ∈ (freshCtx l x y).sregs, f = List.replicate 48 0) ∧ (freshCtx l x y).sregs.length = 4 ∧
      (freshCtx l x y).vregs = List.replicate 32 0 ∧ (freshCtx l x y).cars = List.replicate 32 0 ∧ (freshCtx l x y).flags = List.replicate 16 0 ∧
      (∀ e : Engine, ((freshCtx l x y).eng e).pc = 0 ∧ ((freshCtx l x y).eng e).rc = 0 ∧ ((freshCtx l x y).eng e).sect = none) ∧
      (freshCtx l x y).bars = [] ∧ (freshCtx l x y).tiles = [] ∧ (freshCtx l x y).recs = [] ∧ (freshCtx l x y).trap = none

/-- Every step keeps memory in its canonical form with no write left waiting: an invariant of the model (log 2), which says that the bytes
at every address have one form and that all a step writes is in memory when it ends. -/
def Obligations.MemoryInvariantKeptByEveryStep : Prop :=
  ∀ s t : State, s.Settled → step s = .next t → t.Settled

/-- R376, R378, R382: in the cycle it issues, no word of an engine but LAUNCH changes memory: a store is an access on its
way, which changes it as it is performed. LAUNCH's acceptance may take a frame for a first touch (R122, R260). -/
def Obligations.IssuingChangesNoMemory : Prop :=
  ∀ (i : Instr) (w : W96) (s t : State), encode i = some w → (∀ x, i ≠ .launch x) → s.wr = [] → exec i s = .next t → t.mem = s.mem

/-- R182, R183, R192 to R200: the scalar engines' words that write one register leave everything else: the other registers, but for
the index registers of a LOOP whose iteration ends (R177), V's registers and side-cars, the flags, system registers, tiles, records and
barriers, other contexts and cores, all of memory and everything outside the cores. -/
def Obligations.ScalarWordsFrame : Prop :=
  ∀ (i : Instr) (d : Nat) (s t : State) (h : Here),
    (∃ p ∈ regWordsR, ∃ x : RWord, i = p x ∧ d = x.d.toNat) ∨ (∃ p ∈ regWordsI, ∃ x : IWord, i = p x ∧ d = x.d.toNat) →
    s.wr = [] → s.here = some h → h.asst = false → exec i s = .next t →
    SameMemory s t ∧ SameOutside s t ∧ (∀ (c : Nat) (co : Core), s.cores[c]? = some co → ∃ cp : Core, t.cores[c]? = some cp ∧ SameCore co cp) ∧
      (∀ c k, (c, k) ≠ (h.c, h.k) → t.ctx? c k = s.ctx? c k) ∧
      (∀ f r, f ≠ fileOf h.e ∨ (r ≠ d ∧ loopWrites h.eng r = false) → t.sreg h.c h.k f r = s.sreg h.c h.k f r) ∧
      ∃ y, t.ctx? h.c h.k = some y ∧ SameContext h.ctx y ∧ y.vregs = h.ctx.vregs ∧ y.cars = h.ctx.cars ∧ y.opqs = h.ctx.opqs ∧
        y.qpush = h.ctx.qpush ∧ ∀ e, e ≠ h.e → y.eng e = h.ctx.eng e

/-- R216, R238, R265, R378, R382: V's words that write one register leave the other registers and side-cars, the scalar registers, the
flags, memory and everything outside the cores; of a store that is performed, memory outside its bytes stays; the accesses of a word lie
where its address translates to. -/
def Obligations.VectorWordsAndStoresFrame : Prop :=
  (∀ p ∈ vRegWords, ∀ (x : RWord) (s t : State) (h : Here), s.wr = [] → s.here = some h → h.e = .V → h.ctx.sregs.length = 4 → exec (p x) s = .next t →
    SameMemory s t ∧ SameOutside s t ∧ (∀ c k, (c, k) ≠ (h.c, h.k) → t.ctx? c k = s.ctx? c k) ∧
      ∃ y, t.ctx? h.c h.k = some y ∧ SameContext h.ctx y ∧ y.sregs = h.ctx.sregs ∧ y.vregs.length = h.ctx.vregs.length ∧
        (∀ r, r ≠ x.d.toNat → y.vregs[r]? = h.ctx.vregs[r]? ∧ y.cars[r]? = h.ctx.cars[r]?) ∧ ∀ e, e ≠ .V → y.eng e = h.ctx.eng e) ∧
  (∀ (j : Nat) (a : Access) (q : Nat) (s t : State), s.Settled → s.accs[j]? = some a → a.home = .die q → a.kind = .store → a.who ≠ .package →
    s.ctl.raceEn = false → exec (.accessAtHomeDie j) s = .next t →
    (∀ b, b < a.pa ∨ a.pa + a.data.length ≤ b → Mem.get t.mem b = Mem.get s.mem b) ∧
    (s.accReady a = true → ∀ n v, a.data[n]? = some v → Mem.get t.mem (a.pa + n) = v)) ∧
  ∀ (r : MemReq) (ag : Agent) (d : Nat) (who : Waiter) (pr : Bool) (se w id : Nat) (ps : List (Nat × Nat × AccHome × Nat)),
    (accessesOf r ag d who pr se w id 0 ps).map (fun a => (a.pa, a.size, a.home)) = ps.map fun p => (p.1, p.2.1, p.2.2.1)

end Statements
end

