-- ==== Sys2Proof/Laws/Memory.lean ====
section
/-!
SUPPORT. Global memory: every operation keeps the canonical form, a read after a write gives what was written, and a write
leaves every other byte alone.
-/
namespace Sys2Proof.Machine

theorem Mem.wfFrom_mono {lo lo' : Nat} {m : List (Nat × Byte)} (h : Mem.wfFrom lo m = true) (hl : lo' ≤ lo) :
    Mem.wfFrom lo' m = true := by
  cases m with
  | nil => rfl
  | cons x m =>
    obtain ⟨a, v⟩ := x
    simp only [Mem.wfFrom, Bool.and_eq_true, decide_eq_true_eq] at *
    exact ⟨⟨by omega, h.1.2⟩, h.2⟩

/-- Below the lowest listed address every byte reads zero. -/
theorem Mem.get_below {lo p : Nat} {m : List (Nat × Byte)} (h : Mem.wfFrom lo m = true) (hp : p < lo) : Mem.get m p = 0 := by
  cases m with
  | nil => rfl
  | cons x m =>
    obtain ⟨a, v⟩ := x
    simp only [Mem.wfFrom, Bool.and_eq_true, decide_eq_true_eq] at h
    have h1 : ¬ a = p := by omega
    have h2 : p < a := by omega
    simp [Mem.get, h1, h2]

theorem Mem.wfFrom_set {lo p : Nat} {m : List (Nat × Byte)} (v : Byte) (h : Mem.wfFrom lo m = true) (hp : lo ≤ p) :
    Mem.wfFrom lo (Mem.set m p v) = true := by
  induction m generalizing lo with
  | nil =>
    unfold Mem.set
    split
    · rfl
    · next hv => simp only [Mem.wfFrom, Bool.and_eq_true, decide_eq_true_eq, bne_iff_ne, and_true]; exact ⟨hp, hv⟩
  | cons x m ih =>
    obtain ⟨a, w⟩ := x
    simp only [Mem.wfFrom, Bool.and_eq_true, decide_eq_true_eq] at h
    unfold Mem.set
    split
    · next e =>
      subst e
      split
      · exact Mem.wfFrom_mono h.2 (by omega)
      · next hv =>
        simp only [Mem.wfFrom, Bool.and_eq_true, decide_eq_true_eq, bne_iff_ne]
        exact ⟨⟨hp, hv⟩, h.2⟩
    · split
      · split
        · simp only [Mem.wfFrom, Bool.and_eq_true, decide_eq_true_eq]
          exact h
        · next hv =>
          simp only [Mem.wfFrom, Bool.and_eq_true, decide_eq_true_eq]
          exact ⟨⟨hp, bne_iff_ne.mpr hv⟩, ⟨by omega, h.1.2⟩, h.2⟩
      · simp only [Mem.wfFrom, Bool.and_eq_true, decide_eq_true_eq]
        exact ⟨h.1, ih h.2 (by omega)⟩

/-- One byte written keeps the canonical form. -/
theorem Mem.wf_set {p : Nat} {m : List (Nat × Byte)} (v : Byte) (h : Mem.wf m = true) : Mem.wf (Mem.set m p v) = true :=
  Mem.wfFrom_set v h (Nat.zero_le _)

/-- Bytes written keep the canonical form. -/
theorem Mem.wf_setList {m : List (Nat × Byte)} (p : Nat) (bs : List Byte) (h : Mem.wf m = true) :
    Mem.wf (Mem.setList m p bs) = true := by
  induction bs generalizing m p with
  | nil => exact h
  | cons b bs ih => exact ih _ (Mem.wf_set b h)

theorem Mem.wfFrom_filter {lo : Nat} {m : List (Nat × Byte)} (f : Nat × Byte → Bool) (h : Mem.wfFrom lo m = true) :
    Mem.wfFrom lo (m.filter f) = true := by
  induction m generalizing lo with
  | nil => rfl
  | cons x m ih =>
    obtain ⟨a, w⟩ := x
    simp only [Mem.wfFrom, Bool.and_eq_true, decide_eq_true_eq] at h
    rw [List.filter_cons]
    split
    · simp only [Mem.wfFrom, Bool.and_eq_true, decide_eq_true_eq]
      exact ⟨h.1, ih h.2⟩
    · exact Mem.wfFrom_mono (ih h.2) (by omega)

/-- Zeros over a range keep the canonical form. -/
theorem Mem.wf_clear {m : List (Nat × Byte)} (pa n : Nat) (h : Mem.wf m = true) : Mem.wf (Mem.clear m pa n) = true :=
  Mem.wfFrom_filter _ h

/-- One write of a step keeps the canonical form. -/
theorem MemEff.wf_apply {m : List (Nat × Byte)} (w : MemEff) (h : Mem.wf m = true) : Mem.wf (MemEff.apply m w) = true := by
  cases w with
  | write pa bytes => exact Mem.wf_setList _ _ h
  | clear pa n => exact Mem.wf_clear _ _ h

/-- A step's writes keep the canonical form. -/
theorem Mem.wf_foldl {m : List (Nat × Byte)} (ws : List MemEff) (h : Mem.wf m = true) :
    Mem.wf (ws.foldl MemEff.apply m) = true := by
  induction ws generalizing m with
  | nil => exact h
  | cons w ws ih => exact ih (MemEff.wf_apply w h)

theorem Mem.get_set_from {lo p : Nat} {m : List (Nat × Byte)} (q : Nat) (v : Byte) (h : Mem.wfFrom lo m = true) :
    Mem.get (Mem.set m p v) q = if q = p then v else Mem.get m q := by
  induction m generalizing lo with
  | nil =>
    unfold Mem.set
    by_cases hv : v = 0
    · simp [hv, Mem.get]
    · rw [if_neg hv]
      by_cases hq : q = p
      · simp [hq, Mem.get]
      · simp [hq, Mem.get, Ne.symm hq]
  | cons x m ih =>
    obtain ⟨a, w⟩ := x
    simp only [Mem.wfFrom, Bool.and_eq_true, decide_eq_true_eq] at h
    unfold Mem.set
    by_cases ha : a = p
    · subst ha
      by_cases hv : v = 0
      · simp only [hv, if_true]
        by_cases hq : q = a
        · subst hq; simp [Mem.get_below h.2 (Nat.lt_succ_self _)]
        · simp only [hq, if_false, Mem.get, Ne.symm hq]
          by_cases hl : q < a
          · simp [hl, Mem.get_below h.2 (by omega : q < a + 1)]
          · simp [hl]
      · rw [if_pos rfl, if_neg hv]
        by_cases hq : q = a
        · simp [hq, Mem.get]
        · simp [hq, Mem.get, Ne.symm hq]
    · simp only [ha, if_false]
      by_cases hl : p < a
      · simp only [hl, if_true]
        by_cases hv : v = 0
        · simp only [hv, if_true]
          by_cases hq : q = p
          · subst hq; simp [Mem.get, ha, hl]
          · simp [hq]
        · simp only [hv, if_false]
          by_cases hq : q = p
          · simp [hq, Mem.get]
          · by_cases hqp : q < p
            · have : q < a := by omega
              have : ¬ a = q := by omega
              simp [Mem.get, Ne.symm hq, *]
            · simp [hq, Mem.get, Ne.symm hq, hqp]
      · simp only [hl, if_false]
        by_cases hq : a = q
        · subst hq; simp [Mem.get, ha]
        · simp only [Mem.get, hq, if_false, ih h.2]
          by_cases hqa : q < a
          · have : ¬ q = p := by omega
            simp [hqa, this]
          · simp [hqa]

/-- A byte read after one byte is written: that byte where it was written, and as before anywhere else. -/
theorem Mem.get_set {p : Nat} {m : List (Nat × Byte)} (q : Nat) (v : Byte) (h : Mem.wf m = true) :
    Mem.get (Mem.set m p v) q = if q = p then v else Mem.get m q := Mem.get_set_from q v h

/-- A byte read after bytes are written: theirs within them, and as before outside them. -/
theorem Mem.get_setList {m : List (Nat × Byte)} (p q : Nat) (bs : List Byte) (h : Mem.wf m = true) :
    Mem.get (Mem.setList m p bs) q = if p ≤ q then (bs[q - p]?).getD (Mem.get m q) else Mem.get m q := by
  induction bs generalizing m p with
  | nil => simp [Mem.setList]
  | cons b bs ih =>
    simp only [Mem.setList, ih (p + 1) (Mem.wf_set b h), Mem.get_set q b h]
    by_cases hq : q = p
    · subst hq
      have : ¬ q + 1 ≤ q := by omega
      simp [this]
    · by_cases hl : p ≤ q
      · have h1 : p + 1 ≤ q := by omega
        have h2 : q - p = (q - (p + 1)) + 1 := by omega
        simp [hq, hl, h1, h2]
      · have h1 : ¬ p + 1 ≤ q := by omega
        simp [hq, hl, h1]

/-- A byte read after zeros over a range. -/
theorem Mem.get_clear {m : List (Nat × Byte)} (pa n q : Nat) (h : Mem.wf m = true) :
    Mem.get (Mem.clear m pa n) q = if pa ≤ q ∧ q < pa + n then 0 else Mem.get m q := by
  have key : ∀ (lo : Nat) (m : List (Nat × Byte)), Mem.wfFrom lo m = true →
      Mem.get (m.filter fun x => decide (x.1 < pa) || decide (pa + n ≤ x.1)) q = if pa ≤ q ∧ q < pa + n then 0 else Mem.get m q := by
    intro lo m
    induction m generalizing lo with
    | nil => intro _; simp [Mem.get]
    | cons x m ih =>
      obtain ⟨a, w⟩ := x
      intro h
      simp only [Mem.wfFrom, Bool.and_eq_true, decide_eq_true_eq] at h
      have hi := ih _ h.2
      rw [List.filter_cons]
      by_cases hk : a < pa ∨ pa + n ≤ a
      · have : (decide (a < pa) || decide (pa + n ≤ a)) = true := by simpa using hk
        simp only [this, if_true, Mem.get, hi]
        by_cases e : a = q
        · subst e
          have : ¬ (pa ≤ a ∧ a < pa + n) := by omega
          simp [this]
        · simp only [e, if_false]
          by_cases hq : q < a <;> simp [hq]
      · have : (decide (a < pa) || decide (pa + n ≤ a)) = false := by simpa using hk
        simp only [this, if_false, hi, Mem.get, Bool.false_eq_true]
        by_cases e : a = q
        · subst e
          have : pa ≤ a ∧ a < pa + n := by omega
          simp [this]
        · simp only [e, if_false]
          by_cases hq : q < a
          · simp [hq, Mem.get_below h.2 (by omega : q < a + 1)]
          · simp [hq]
  exact key 0 m h

/-- What a step leaves of memory is its writes applied; nothing waits. -/
@[simp] theorem commit_mem (s t : State) : (s.commit t).mem = t.wr.foldl MemEff.apply s.mem := rfl
@[simp] theorem commit_wr (s t : State) : (s.commit t).wr = [] := rfl

/-- The end of a step keeps memory's canonical form. -/
theorem commit_wf {s : State} (t : State) (h : Mem.wf s.mem = true) : Mem.wf (s.commit t).mem = true := Mem.wf_foldl _ h

end Sys2Proof.Machine
end

