-- ==== Sys2Proof/Laws/Monad.lean ====
section
/-!
SUPPORT. How a meaning runs: the laws of `M`'s sequencing, and what `run` makes of each answer.
-/
namespace Sys2Proof.Machine

/-! ## Sequencing -/

theorem bind_ok {α β : Type} {m : M α} {f : α → M β} {s t : State} {a : α} (h : m s = .ok (a, t)) :
    (m >>= f) s = f a t := by simp only [bind, StateT.bind, Except.bind, h]

theorem bind_error {α β : Type} {m : M α} {f : α → M β} {s : State} {e : Stop} (h : m s = .error e) :
    (m >>= f) s = .error e := by simp only [bind, StateT.bind, Except.bind, h]

/-- A sequence that answers a state came through a state of its first part. -/
theorem bind_ok_inv {α β : Type} {m : M α} {f : α → M β} {s u : State} {b : β} (h : (m >>= f) s = .ok (b, u)) :
    ∃ a t, m s = .ok (a, t) ∧ f a t = .ok (b, u) := by
  cases hm : m s with
  | ok p => exact ⟨p.1, p.2, rfl, by rw [← h]; exact (bind_ok hm).symm⟩
  | error e => rw [bind_error hm] at h; cases h

/-- A sequence that stops stopped in its first part or in what follows. -/
theorem bind_error_inv {α β : Type} {m : M α} {f : α → M β} {s : State} {e : Stop} (h : (m >>= f) s = .error e) :
    m s = .error e ∨ ∃ a t, m s = .ok (a, t) ∧ f a t = .error e := by
  cases hm : m s with
  | ok p => exact .inr ⟨p.1, p.2, rfl, by rw [← h]; exact (bind_ok hm).symm⟩
  | error e' => rw [bind_error hm] at h; cases h; exact .inl rfl

@[simp] theorem pure_ok {α : Type} (a : α) (s : State) : (pure a : M α) s = .ok (a, s) := rfl
@[simp] theorem get_ok (s : State) : (get : M State) s = .ok (s, s) := rfl
@[simp] theorem set_ok (s t : State) : (set t : M PUnit) s = .ok (⟨⟩, t) := rfl
@[simp] theorem modify_ok (f : State → State) (s : State) : (modify f : M PUnit) s = .ok (⟨⟩, f s) := rfl
@[simp] theorem throw_error {α : Type} (e : Stop) (s : State) : (throw e : M α) s = .error e := rfl
@[simp] theorem stall_error {α : Type} (s : State) : (stall : M α) s = .error .stall := rfl
@[simp] theorem raise_error {α : Type} (t : TrapReq) (s : State) : (raise t : M α) s = .error (.trap t) := rfl
@[simp] theorem formatTrap_error {α : Type} (n : Nat) (s : State) :
    (formatTrap n : M α) s = .error (.trap { cause := 5, sub := n }) := rfl
@[simp] theorem illegal_error {α : Type} (s : State) : (illegal : M α) s = .error (.trap { cause := 1 }) := rfl
@[simp] theorem require_true (s : State) : require true s = .ok ((), s) := rfl
@[simp] theorem require_false (s : State) : require false s = .error .stall := rfl
@[simp] theorem modEng_ok (f : EngSt → EngSt) (s : State) : modEng f s = .ok (⟨⟩, s.modHere f) := rfl

@[simp] theorem pure_bind_run {α β : Type} (a : α) (f : α → M β) (s : State) : ((pure a : M α) >>= f) s = f a s := rfl
@[simp] theorem get_bind_run {β : Type} (f : State → M β) (s : State) : ((get : M State) >>= f) s = f s s := rfl
@[simp] theorem set_bind_run {β : Type} (t : State) (f : PUnit → M β) (s : State) : ((set t : M PUnit) >>= f) s = f ⟨⟩ t := rfl
@[simp] theorem modify_bind_run {β : Type} (g : State → State) (f : PUnit → M β) (s : State) :
    ((modify g : M PUnit) >>= f) s = f ⟨⟩ (g s) := rfl
@[simp] theorem modEng_bind_run {β : Type} (g : EngSt → EngSt) (f : PUnit → M β) (s : State) :
    (modEng g >>= f) s = f ⟨⟩ (s.modHere g) := rfl
@[simp] theorem require_bind_true {β : Type} (f : Unit → M β) (s : State) : (require true >>= f) s = f () s := rfl

/-- A value made from another's. -/
@[simp] theorem map_run {α β : Type} (f : α → β) (m : M α) (s : State) :
    (f <$> m) s = match m s with | .ok (a, t) => .ok (f a, t) | .error e => .error e := by
  simp only [Functor.map, StateT.map, bind, Except.bind, pure, Except.pure]
  cases m s <;> rfl

theorem here_ok {s : State} {h : Here} (e : s.here = some h) : here s = .ok (h, s) := by simp [here, e]

theorem here_bind {β : Type} {s : State} {h : Here} (e : s.here = some h) (f : Here → M β) : (here >>= f) s = f h s :=
  bind_ok (here_ok e)

theorem here_ok_inv {s t : State} {h : Here} (e : here s = .ok (h, t)) : s.here = some h ∧ t = s := by
  cases h' : s.here with
  | some g => rw [here_ok h'] at e; cases e; exact ⟨rfl, rfl⟩
  | none => simp [here, h'] at e

/-! ## What `run` answers -/

@[simp] theorem run_ok {m : M Unit} {s t : State} (h : m s = .ok ((), t)) : run m s = .next (s.commit t) := by
  simp [run, h]
@[simp] theorem run_modify (f : State → State) (s : State) : run (modify f) s = .next (s.commit (f s)) := rfl
theorem run_stall {m : M Unit} {s : State} (h : m s = .error .stall) : run m s = .next s := by simp [run, h]
theorem run_trap {m : M Unit} {s : State} {t : TrapReq} (h : m s = .error (.trap t)) : run m s = .next (s.raise t) := by
  simp [run, h]

/-- Everything `run` can answer with: a committed state, or the state itself with a wait, a miss, a hold or a trap entered. -/
theorem run_cases {m : M Unit} {s t : State} (h : run m s = .next t) :
    (∃ u, m s = .ok ((), u) ∧ t = s.commit u) ∨ t = s ∨ (∃ n, t = s.waitTurn n) ∨ (∃ d w, t = s.modDie d (·.addWalk w)) ∨
      (∃ a l, t = s.missLine a l) ∨ (∃ d c b p i w, t = s.postWalk d c b p i w) ∨ ∃ q, t = s.raise q := by
  unfold run at h
  split at h <;> simp only [Host.Outcome.next.injEq, reduceCtorEq] at h
  · next u hm => exact .inl ⟨u, hm, h.symm⟩
  · exact .inr (.inl h.symm)
  · next n _ => exact .inr (.inr (.inl ⟨n, h.symm⟩))
  · next d w _ => exact .inr (.inr (.inr (.inl ⟨d, w, h.symm⟩)))
  · next a l _ => exact .inr (.inr (.inr (.inr (.inl ⟨a, l, h.symm⟩))))
  · next d c b w p i _ => exact .inr (.inr (.inr (.inr (.inr (.inl ⟨d, c, b, p, i, w, h.symm⟩)))))
  · next q _ => exact .inr (.inr (.inr (.inr (.inr (.inr ⟨q, h.symm⟩)))))

/-- `run` never refuses. -/
theorem run_not_refused (m : M Unit) (s : State) (r : Refusal) : run m s ≠ .refused r := by
  unfold run; split <;> simp

end Sys2Proof.Machine
end

