-- ==== Sys2Proof/Laws/State.lean ====
section
/-!
SUPPORT. What each update of the state leaves of every field: one lemma per field per update, so that no proof unfolds a
record update.
-/
namespace Sys2Proof.Machine

/-! ## modCore -/

@[simp] theorem modCore_now (s : State) (c : Nat) (f : Core → Core) : (s.modCore c f).now = s.now := rfl
@[simp] theorem modCore_wall (s : State) (c : Nat) (f : Core → Core) : (s.modCore c f).wall = s.wall := rfl
@[simp] theorem modCore_agenda (s : State) (c : Nat) (f : Core → Core) : (s.modCore c f).agenda = s.agenda := rfl
@[simp] theorem modCore_curCore (s : State) (c : Nat) (f : Core → Core) : (s.modCore c f).curCore = s.curCore := rfl
@[simp] theorem modCore_curEng (s : State) (c : Nat) (f : Core → Core) : (s.modCore c f).curEng = s.curEng := rfl
@[simp] theorem modCore_curSvc (s : State) (c : Nat) (f : Core → Core) : (s.modCore c f).curSvc = s.curSvc := rfl
@[simp] theorem modCore_curTry (s : State) (c : Nat) (f : Core → Core) : (s.modCore c f).curTry = s.curTry := rfl
@[simp] theorem modCore_freeCtr (s : State) (c : Nat) (f : Core → Core) : (s.modCore c f).freeCtr = s.freeCtr := rfl
@[simp] theorem modCore_nextId (s : State) (c : Nat) (f : Core → Core) : (s.modCore c f).nextId = s.nextId := rfl
@[simp] theorem modCore_bigMem (s : State) (c : Nat) (f : Core → Core) : (s.modCore c f).bigMem = s.bigMem := rfl
@[simp] theorem modCore_hostsel (s : State) (c : Nat) (f : Core → Core) : (s.modCore c f).hostsel = s.hostsel := rfl
@[simp] theorem modCore_boot (s : State) (c : Nat) (f : Core → Core) : (s.modCore c f).boot = s.boot := rfl
@[simp] theorem modCore_mem (s : State) (c : Nat) (f : Core → Core) : (s.modCore c f).mem = s.mem := rfl
@[simp] theorem modCore_wr (s : State) (c : Nat) (f : Core → Core) : (s.modCore c f).wr = s.wr := rfl
@[simp] theorem modCore_dies (s : State) (c : Nat) (f : Core → Core) : (s.modCore c f).dies = s.dies := rfl
@[simp] theorem modCore_cmds (s : State) (c : Nat) (f : Core → Core) : (s.modCore c f).cmds = s.cmds := rfl
@[simp] theorem modCore_accs (s : State) (c : Nat) (f : Core → Core) : (s.modCore c f).accs = s.accs := rfl
@[simp] theorem modCore_props (s : State) (c : Nat) (f : Core → Core) : (s.modCore c f).props = s.props := rfl
@[simp] theorem modCore_seqNos (s : State) (c : Nat) (f : Core → Core) : (s.modCore c f).seqNos = s.seqNos := rfl
@[simp] theorem modCore_ver (s : State) (c : Nat) (f : Core → Core) : (s.modCore c f).ver = s.ver := rfl
@[simp] theorem modCore_shadow (s : State) (c : Nat) (f : Core → Core) : (s.modCore c f).shadow = s.shadow := rfl
@[simp] theorem modCore_bad (s : State) (c : Nat) (f : Core → Core) : (s.modCore c f).bad = s.bad := rfl
@[simp] theorem modCore_invals (s : State) (c : Nat) (f : Core → Core) : (s.modCore c f).invals = s.invals := rfl
@[simp] theorem modCore_remote (s : State) (c : Nat) (f : Core → Core) : (s.modCore c f).remote = s.remote := rfl
@[simp] theorem modCore_place (s : State) (c : Nat) (f : Core → Core) : (s.modCore c f).place = s.place := rfl
@[simp] theorem modCore_faults (s : State) (c : Nat) (f : Core → Core) : (s.modCore c f).faults = s.faults := rfl
@[simp] theorem modCore_text (s : State) (c : Nat) (f : Core → Core) : (s.modCore c f).text = s.text := rfl
@[simp] theorem modCore_links (s : State) (c : Nat) (f : Core → Core) : (s.modCore c f).links = s.links := rfl
@[simp] theorem modCore_pod (s : State) (c : Nat) (f : Core → Core) : (s.modCore c f).pod = s.pod := rfl
@[simp] theorem modCore_ctl (s : State) (c : Nat) (f : Core → Core) : (s.modCore c f).ctl = s.ctl := rfl
@[simp] theorem modCore_svc (s : State) (c : Nat) (f : Core → Core) : (s.modCore c f).svc = s.svc := rfl
@[simp] theorem modCore_tele (s : State) (c : Nat) (f : Core → Core) : (s.modCore c f).tele = s.tele := rfl
@[simp] theorem modCore_supply (s : State) (c : Nat) (f : Core → Core) : (s.modCore c f).supply = s.supply := rfl
@[simp] theorem modCore_capped (s : State) (c : Nat) (f : Core → Core) : (s.modCore c f).capped = s.capped := rfl
@[simp] theorem modCore_trip (s : State) (c : Nat) (f : Core → Core) : (s.modCore c f).trip = s.trip := rfl
@[simp] theorem modCore_sampled (s : State) (c : Nat) (f : Core → Core) : (s.modCore c f).sampled = s.sampled := rfl

@[simp] theorem modCore_cores (s : State) (c : Nat) (f : Core → Core) : (s.modCore c f).cores = s.cores.modify c f := rfl

/-! ## modCtx -/

@[simp] theorem modCtx_now (s : State) (c k : Nat) (f : Ctx → Ctx) : (s.modCtx c k f).now = s.now := rfl
@[simp] theorem modCtx_wall (s : State) (c k : Nat) (f : Ctx → Ctx) : (s.modCtx c k f).wall = s.wall := rfl
@[simp] theorem modCtx_agenda (s : State) (c k : Nat) (f : Ctx → Ctx) : (s.modCtx c k f).agenda = s.agenda := rfl
@[simp] theorem modCtx_curCore (s : State) (c k : Nat) (f : Ctx → Ctx) : (s.modCtx c k f).curCore = s.curCore := rfl
@[simp] theorem modCtx_curEng (s : State) (c k : Nat) (f : Ctx → Ctx) : (s.modCtx c k f).curEng = s.curEng := rfl
@[simp] theorem modCtx_curSvc (s : State) (c k : Nat) (f : Ctx → Ctx) : (s.modCtx c k f).curSvc = s.curSvc := rfl
@[simp] theorem modCtx_curTry (s : State) (c k : Nat) (f : Ctx → Ctx) : (s.modCtx c k f).curTry = s.curTry := rfl
@[simp] theorem modCtx_freeCtr (s : State) (c k : Nat) (f : Ctx → Ctx) : (s.modCtx c k f).freeCtr = s.freeCtr := rfl
@[simp] theorem modCtx_nextId (s : State) (c k : Nat) (f : Ctx → Ctx) : (s.modCtx c k f).nextId = s.nextId := rfl
@[simp] theorem modCtx_bigMem (s : State) (c k : Nat) (f : Ctx → Ctx) : (s.modCtx c k f).bigMem = s.bigMem := rfl
@[simp] theorem modCtx_hostsel (s : State) (c k : Nat) (f : Ctx → Ctx) : (s.modCtx c k f).hostsel = s.hostsel := rfl
@[simp] theorem modCtx_boot (s : State) (c k : Nat) (f : Ctx → Ctx) : (s.modCtx c k f).boot = s.boot := rfl
@[simp] theorem modCtx_mem (s : State) (c k : Nat) (f : Ctx → Ctx) : (s.modCtx c k f).mem = s.mem := rfl
@[simp] theorem modCtx_wr (s : State) (c k : Nat) (f : Ctx → Ctx) : (s.modCtx c k f).wr = s.wr := rfl
@[simp] theorem modCtx_dies (s : State) (c k : Nat) (f : Ctx → Ctx) : (s.modCtx c k f).dies = s.dies := rfl
@[simp] theorem modCtx_cmds (s : State) (c k : Nat) (f : Ctx → Ctx) : (s.modCtx c k f).cmds = s.cmds := rfl
@[simp] theorem modCtx_accs (s : State) (c k : Nat) (f : Ctx → Ctx) : (s.modCtx c k f).accs = s.accs := rfl
@[simp] theorem modCtx_props (s : State) (c k : Nat) (f : Ctx → Ctx) : (s.modCtx c k f).props = s.props := rfl
@[simp] theorem modCtx_seqNos (s : State) (c k : Nat) (f : Ctx → Ctx) : (s.modCtx c k f).seqNos = s.seqNos := rfl
@[simp] theorem modCtx_ver (s : State) (c k : Nat) (f : Ctx → Ctx) : (s.modCtx c k f).ver = s.ver := rfl
@[simp] theorem modCtx_shadow (s : State) (c k : Nat) (f : Ctx → Ctx) : (s.modCtx c k f).shadow = s.shadow := rfl
@[simp] theorem modCtx_bad (s : State) (c k : Nat) (f : Ctx → Ctx) : (s.modCtx c k f).bad = s.bad := rfl
@[simp] theorem modCtx_invals (s : State) (c k : Nat) (f : Ctx → Ctx) : (s.modCtx c k f).invals = s.invals := rfl
@[simp] theorem modCtx_remote (s : State) (c k : Nat) (f : Ctx → Ctx) : (s.modCtx c k f).remote = s.remote := rfl
@[simp] theorem modCtx_place (s : State) (c k : Nat) (f : Ctx → Ctx) : (s.modCtx c k f).place = s.place := rfl
@[simp] theorem modCtx_faults (s : State) (c k : Nat) (f : Ctx → Ctx) : (s.modCtx c k f).faults = s.faults := rfl
@[simp] theorem modCtx_text (s : State) (c k : Nat) (f : Ctx → Ctx) : (s.modCtx c k f).text = s.text := rfl
@[simp] theorem modCtx_links (s : State) (c k : Nat) (f : Ctx → Ctx) : (s.modCtx c k f).links = s.links := rfl
@[simp] theorem modCtx_pod (s : State) (c k : Nat) (f : Ctx → Ctx) : (s.modCtx c k f).pod = s.pod := rfl
@[simp] theorem modCtx_ctl (s : State) (c k : Nat) (f : Ctx → Ctx) : (s.modCtx c k f).ctl = s.ctl := rfl
@[simp] theorem modCtx_svc (s : State) (c k : Nat) (f : Ctx → Ctx) : (s.modCtx c k f).svc = s.svc := rfl
@[simp] theorem modCtx_tele (s : State) (c k : Nat) (f : Ctx → Ctx) : (s.modCtx c k f).tele = s.tele := rfl
@[simp] theorem modCtx_supply (s : State) (c k : Nat) (f : Ctx → Ctx) : (s.modCtx c k f).supply = s.supply := rfl
@[simp] theorem modCtx_capped (s : State) (c k : Nat) (f : Ctx → Ctx) : (s.modCtx c k f).capped = s.capped := rfl
@[simp] theorem modCtx_trip (s : State) (c k : Nat) (f : Ctx → Ctx) : (s.modCtx c k f).trip = s.trip := rfl
@[simp] theorem modCtx_sampled (s : State) (c k : Nat) (f : Ctx → Ctx) : (s.modCtx c k f).sampled = s.sampled := rfl

/-! ## modEng -/

@[simp] theorem modEng_now (s : State) (c k : Nat) (e : Engine) (f : EngSt → EngSt) : (s.modEng c k e f).now = s.now := rfl
@[simp] theorem modEng_wall (s : State) (c k : Nat) (e : Engine) (f : EngSt → EngSt) : (s.modEng c k e f).wall = s.wall := rfl
@[simp] theorem modEng_agenda (s : State) (c k : Nat) (e : Engine) (f : EngSt → EngSt) : (s.modEng c k e f).agenda = s.agenda := rfl
@[simp] theorem modEng_curCore (s : State) (c k : Nat) (e : Engine) (f : EngSt → EngSt) : (s.modEng c k e f).curCore = s.curCore := rfl
@[simp] theorem modEng_curEng (s : State) (c k : Nat) (e : Engine) (f : EngSt → EngSt) : (s.modEng c k e f).curEng = s.curEng := rfl
@[simp] theorem modEng_curSvc (s : State) (c k : Nat) (e : Engine) (f : EngSt → EngSt) : (s.modEng c k e f).curSvc = s.curSvc := rfl
@[simp] theorem modEng_curTry (s : State) (c k : Nat) (e : Engine) (f : EngSt → EngSt) : (s.modEng c k e f).curTry = s.curTry := rfl
@[simp] theorem modEng_freeCtr (s : State) (c k : Nat) (e : Engine) (f : EngSt → EngSt) : (s.modEng c k e f).freeCtr = s.freeCtr := rfl
@[simp] theorem modEng_nextId (s : State) (c k : Nat) (e : Engine) (f : EngSt → EngSt) : (s.modEng c k e f).nextId = s.nextId := rfl
@[simp] theorem modEng_bigMem (s : State) (c k : Nat) (e : Engine) (f : EngSt → EngSt) : (s.modEng c k e f).bigMem = s.bigMem := rfl
@[simp] theorem modEng_hostsel (s : State) (c k : Nat) (e : Engine) (f : EngSt → EngSt) : (s.modEng c k e f).hostsel = s.hostsel := rfl
@[simp] theorem modEng_boot (s : State) (c k : Nat) (e : Engine) (f : EngSt → EngSt) : (s.modEng c k e f).boot = s.boot := rfl
@[simp] theorem modEng_mem (s : State) (c k : Nat) (e : Engine) (f : EngSt → EngSt) : (s.modEng c k e f).mem = s.mem := rfl
@[simp] theorem modEng_wr (s : State) (c k : Nat) (e : Engine) (f : EngSt → EngSt) : (s.modEng c k e f).wr = s.wr := rfl
@[simp] theorem modEng_dies (s : State) (c k : Nat) (e : Engine) (f : EngSt → EngSt) : (s.modEng c k e f).dies = s.dies := rfl
@[simp] theorem modEng_cmds (s : State) (c k : Nat) (e : Engine) (f : EngSt → EngSt) : (s.modEng c k e f).cmds = s.cmds := rfl
@[simp] theorem modEng_accs (s : State) (c k : Nat) (e : Engine) (f : EngSt → EngSt) : (s.modEng c k e f).accs = s.accs := rfl
@[simp] theorem modEng_props (s : State) (c k : Nat) (e : Engine) (f : EngSt → EngSt) : (s.modEng c k e f).props = s.props := rfl
@[simp] theorem modEng_seqNos (s : State) (c k : Nat) (e : Engine) (f : EngSt → EngSt) : (s.modEng c k e f).seqNos = s.seqNos := rfl
@[simp] theorem modEng_ver (s : State) (c k : Nat) (e : Engine) (f : EngSt → EngSt) : (s.modEng c k e f).ver = s.ver := rfl
@[simp] theorem modEng_shadow (s : State) (c k : Nat) (e : Engine) (f : EngSt → EngSt) : (s.modEng c k e f).shadow = s.shadow := rfl
@[simp] theorem modEng_bad (s : State) (c k : Nat) (e : Engine) (f : EngSt → EngSt) : (s.modEng c k e f).bad = s.bad := rfl
@[simp] theorem modEng_invals (s : State) (c k : Nat) (e : Engine) (f : EngSt → EngSt) : (s.modEng c k e f).invals = s.invals := rfl
@[simp] theorem modEng_remote (s : State) (c k : Nat) (e : Engine) (f : EngSt → EngSt) : (s.modEng c k e f).remote = s.remote := rfl
@[simp] theorem modEng_place (s : State) (c k : Nat) (e : Engine) (f : EngSt → EngSt) : (s.modEng c k e f).place = s.place := rfl
@[simp] theorem modEng_faults (s : State) (c k : Nat) (e : Engine) (f : EngSt → EngSt) : (s.modEng c k e f).faults = s.faults := rfl
@[simp] theorem modEng_text (s : State) (c k : Nat) (e : Engine) (f : EngSt → EngSt) : (s.modEng c k e f).text = s.text := rfl
@[simp] theorem modEng_links (s : State) (c k : Nat) (e : Engine) (f : EngSt → EngSt) : (s.modEng c k e f).links = s.links := rfl
@[simp] theorem modEng_pod (s : State) (c k : Nat) (e : Engine) (f : EngSt → EngSt) : (s.modEng c k e f).pod = s.pod := rfl
@[simp] theorem modEng_ctl (s : State) (c k : Nat) (e : Engine) (f : EngSt → EngSt) : (s.modEng c k e f).ctl = s.ctl := rfl
@[simp] theorem modEng_svc (s : State) (c k : Nat) (e : Engine) (f : EngSt → EngSt) : (s.modEng c k e f).svc = s.svc := rfl
@[simp] theorem modEng_tele (s : State) (c k : Nat) (e : Engine) (f : EngSt → EngSt) : (s.modEng c k e f).tele = s.tele := rfl
@[simp] theorem modEng_supply (s : State) (c k : Nat) (e : Engine) (f : EngSt → EngSt) : (s.modEng c k e f).supply = s.supply := rfl
@[simp] theorem modEng_capped (s : State) (c k : Nat) (e : Engine) (f : EngSt → EngSt) : (s.modEng c k e f).capped = s.capped := rfl
@[simp] theorem modEng_trip (s : State) (c k : Nat) (e : Engine) (f : EngSt → EngSt) : (s.modEng c k e f).trip = s.trip := rfl
@[simp] theorem modEng_sampled (s : State) (c k : Nat) (e : Engine) (f : EngSt → EngSt) : (s.modEng c k e f).sampled = s.sampled := rfl

/-! ## modDie -/

@[simp] theorem modDie_now (s : State) (d : Nat) (f : Die → Die) : (s.modDie d f).now = s.now := rfl
@[simp] theorem modDie_wall (s : State) (d : Nat) (f : Die → Die) : (s.modDie d f).wall = s.wall := rfl
@[simp] theorem modDie_agenda (s : State) (d : Nat) (f : Die → Die) : (s.modDie d f).agenda = s.agenda := rfl
@[simp] theorem modDie_curCore (s : State) (d : Nat) (f : Die → Die) : (s.modDie d f).curCore = s.curCore := rfl
@[simp] theorem modDie_curEng (s : State) (d : Nat) (f : Die → Die) : (s.modDie d f).curEng = s.curEng := rfl
@[simp] theorem modDie_curSvc (s : State) (d : Nat) (f : Die → Die) : (s.modDie d f).curSvc = s.curSvc := rfl
@[simp] theorem modDie_curTry (s : State) (d : Nat) (f : Die → Die) : (s.modDie d f).curTry = s.curTry := rfl
@[simp] theorem modDie_freeCtr (s : State) (d : Nat) (f : Die → Die) : (s.modDie d f).freeCtr = s.freeCtr := rfl
@[simp] theorem modDie_nextId (s : State) (d : Nat) (f : Die → Die) : (s.modDie d f).nextId = s.nextId := rfl
@[simp] theorem modDie_bigMem (s : State) (d : Nat) (f : Die → Die) : (s.modDie d f).bigMem = s.bigMem := rfl
@[simp] theorem modDie_hostsel (s : State) (d : Nat) (f : Die → Die) : (s.modDie d f).hostsel = s.hostsel := rfl
@[simp] theorem modDie_boot (s : State) (d : Nat) (f : Die → Die) : (s.modDie d f).boot = s.boot := rfl
@[simp] theorem modDie_mem (s : State) (d : Nat) (f : Die → Die) : (s.modDie d f).mem = s.mem := rfl
@[simp] theorem modDie_wr (s : State) (d : Nat) (f : Die → Die) : (s.modDie d f).wr = s.wr := rfl
@[simp] theorem modDie_cores (s : State) (d : Nat) (f : Die → Die) : (s.modDie d f).cores = s.cores := rfl
@[simp] theorem modDie_cmds (s : State) (d : Nat) (f : Die → Die) : (s.modDie d f).cmds = s.cmds := rfl
@[simp] theorem modDie_accs (s : State) (d : Nat) (f : Die → Die) : (s.modDie d f).accs = s.accs := rfl
@[simp] theorem modDie_props (s : State) (d : Nat) (f : Die → Die) : (s.modDie d f).props = s.props := rfl
@[simp] theorem modDie_seqNos (s : State) (d : Nat) (f : Die → Die) : (s.modDie d f).seqNos = s.seqNos := rfl
@[simp] theorem modDie_ver (s : State) (d : Nat) (f : Die → Die) : (s.modDie d f).ver = s.ver := rfl
@[simp] theorem modDie_shadow (s : State) (d : Nat) (f : Die → Die) : (s.modDie d f).shadow = s.shadow := rfl
@[simp] theorem modDie_bad (s : State) (d : Nat) (f : Die → Die) : (s.modDie d f).bad = s.bad := rfl
@[simp] theorem modDie_invals (s : State) (d : Nat) (f : Die → Die) : (s.modDie d f).invals = s.invals := rfl
@[simp] theorem modDie_remote (s : State) (d : Nat) (f : Die → Die) : (s.modDie d f).remote = s.remote := rfl
@[simp] theorem modDie_place (s : State) (d : Nat) (f : Die → Die) : (s.modDie d f).place = s.place := rfl
@[simp] theorem modDie_faults (s : State) (d : Nat) (f : Die → Die) : (s.modDie d f).faults = s.faults := rfl
@[simp] theorem modDie_text (s : State) (d : Nat) (f : Die → Die) : (s.modDie d f).text = s.text := rfl
@[simp] theorem modDie_links (s : State) (d : Nat) (f : Die → Die) : (s.modDie d f).links = s.links := rfl
@[simp] theorem modDie_pod (s : State) (d : Nat) (f : Die → Die) : (s.modDie d f).pod = s.pod := rfl
@[simp] theorem modDie_ctl (s : State) (d : Nat) (f : Die → Die) : (s.modDie d f).ctl = s.ctl := rfl
@[simp] theorem modDie_svc (s : State) (d : Nat) (f : Die → Die) : (s.modDie d f).svc = s.svc := rfl
@[simp] theorem modDie_tele (s : State) (d : Nat) (f : Die → Die) : (s.modDie d f).tele = s.tele := rfl
@[simp] theorem modDie_supply (s : State) (d : Nat) (f : Die → Die) : (s.modDie d f).supply = s.supply := rfl
@[simp] theorem modDie_capped (s : State) (d : Nat) (f : Die → Die) : (s.modDie d f).capped = s.capped := rfl
@[simp] theorem modDie_trip (s : State) (d : Nat) (f : Die → Die) : (s.modDie d f).trip = s.trip := rfl
@[simp] theorem modDie_sampled (s : State) (d : Nat) (f : Die → Die) : (s.modDie d f).sampled = s.sampled := rfl

@[simp] theorem modDie_dies (s : State) (d : Nat) (f : Die → Die) : (s.modDie d f).dies = s.dies.modify d f := rfl

/-! ## modLaunch -/

@[simp] theorem modLaunch_now (s : State) (n : Nat) (f : Launch → Launch) : (s.modLaunch n f).now = s.now := rfl
@[simp] theorem modLaunch_wall (s : State) (n : Nat) (f : Launch → Launch) : (s.modLaunch n f).wall = s.wall := rfl
@[simp] theorem modLaunch_agenda (s : State) (n : Nat) (f : Launch → Launch) : (s.modLaunch n f).agenda = s.agenda := rfl
@[simp] theorem modLaunch_curCore (s : State) (n : Nat) (f : Launch → Launch) : (s.modLaunch n f).curCore = s.curCore := rfl
@[simp] theorem modLaunch_curEng (s : State) (n : Nat) (f : Launch → Launch) : (s.modLaunch n f).curEng = s.curEng := rfl
@[simp] theorem modLaunch_curSvc (s : State) (n : Nat) (f : Launch → Launch) : (s.modLaunch n f).curSvc = s.curSvc := rfl
@[simp] theorem modLaunch_curTry (s : State) (n : Nat) (f : Launch → Launch) : (s.modLaunch n f).curTry = s.curTry := rfl
@[simp] theorem modLaunch_freeCtr (s : State) (n : Nat) (f : Launch → Launch) : (s.modLaunch n f).freeCtr = s.freeCtr := rfl
@[simp] theorem modLaunch_nextId (s : State) (n : Nat) (f : Launch → Launch) : (s.modLaunch n f).nextId = s.nextId := rfl
@[simp] theorem modLaunch_bigMem (s : State) (n : Nat) (f : Launch → Launch) : (s.modLaunch n f).bigMem = s.bigMem := rfl
@[simp] theorem modLaunch_hostsel (s : State) (n : Nat) (f : Launch → Launch) : (s.modLaunch n f).hostsel = s.hostsel := rfl
@[simp] theorem modLaunch_boot (s : State) (n : Nat) (f : Launch → Launch) : (s.modLaunch n f).boot = s.boot := rfl
@[simp] theorem modLaunch_mem (s : State) (n : Nat) (f : Launch → Launch) : (s.modLaunch n f).mem = s.mem := rfl
@[simp] theorem modLaunch_wr (s : State) (n : Nat) (f : Launch → Launch) : (s.modLaunch n f).wr = s.wr := rfl
@[simp] theorem modLaunch_cores (s : State) (n : Nat) (f : Launch → Launch) : (s.modLaunch n f).cores = s.cores := rfl
@[simp] theorem modLaunch_dies (s : State) (n : Nat) (f : Launch → Launch) : (s.modLaunch n f).dies = s.dies := rfl
@[simp] theorem modLaunch_cmds (s : State) (n : Nat) (f : Launch → Launch) : (s.modLaunch n f).cmds = s.cmds := rfl
@[simp] theorem modLaunch_accs (s : State) (n : Nat) (f : Launch → Launch) : (s.modLaunch n f).accs = s.accs := rfl
@[simp] theorem modLaunch_props (s : State) (n : Nat) (f : Launch → Launch) : (s.modLaunch n f).props = s.props := rfl
@[simp] theorem modLaunch_seqNos (s : State) (n : Nat) (f : Launch → Launch) : (s.modLaunch n f).seqNos = s.seqNos := rfl
@[simp] theorem modLaunch_ver (s : State) (n : Nat) (f : Launch → Launch) : (s.modLaunch n f).ver = s.ver := rfl
@[simp] theorem modLaunch_shadow (s : State) (n : Nat) (f : Launch → Launch) : (s.modLaunch n f).shadow = s.shadow := rfl
@[simp] theorem modLaunch_bad (s : State) (n : Nat) (f : Launch → Launch) : (s.modLaunch n f).bad = s.bad := rfl
@[simp] theorem modLaunch_invals (s : State) (n : Nat) (f : Launch → Launch) : (s.modLaunch n f).invals = s.invals := rfl
@[simp] theorem modLaunch_remote (s : State) (n : Nat) (f : Launch → Launch) : (s.modLaunch n f).remote = s.remote := rfl
@[simp] theorem modLaunch_faults (s : State) (n : Nat) (f : Launch → Launch) : (s.modLaunch n f).faults = s.faults := rfl
@[simp] theorem modLaunch_text (s : State) (n : Nat) (f : Launch → Launch) : (s.modLaunch n f).text = s.text := rfl
@[simp] theorem modLaunch_links (s : State) (n : Nat) (f : Launch → Launch) : (s.modLaunch n f).links = s.links := rfl
@[simp] theorem modLaunch_pod (s : State) (n : Nat) (f : Launch → Launch) : (s.modLaunch n f).pod = s.pod := rfl
@[simp] theorem modLaunch_ctl (s : State) (n : Nat) (f : Launch → Launch) : (s.modLaunch n f).ctl = s.ctl := rfl
@[simp] theorem modLaunch_svc (s : State) (n : Nat) (f : Launch → Launch) : (s.modLaunch n f).svc = s.svc := rfl
@[simp] theorem modLaunch_tele (s : State) (n : Nat) (f : Launch → Launch) : (s.modLaunch n f).tele = s.tele := rfl
@[simp] theorem modLaunch_supply (s : State) (n : Nat) (f : Launch → Launch) : (s.modLaunch n f).supply = s.supply := rfl
@[simp] theorem modLaunch_capped (s : State) (n : Nat) (f : Launch → Launch) : (s.modLaunch n f).capped = s.capped := rfl
@[simp] theorem modLaunch_trip (s : State) (n : Nat) (f : Launch → Launch) : (s.modLaunch n f).trip = s.trip := rfl
@[simp] theorem modLaunch_sampled (s : State) (n : Nat) (f : Launch → Launch) : (s.modLaunch n f).sampled = s.sampled := rfl

/-! ## modCmd -/

@[simp] theorem modCmd_now (s : State) (n : Nat) (f : Cmd → Cmd) : (s.modCmd n f).now = s.now := rfl
@[simp] theorem modCmd_wall (s : State) (n : Nat) (f : Cmd → Cmd) : (s.modCmd n f).wall = s.wall := rfl
@[simp] theorem modCmd_agenda (s : State) (n : Nat) (f : Cmd → Cmd) : (s.modCmd n f).agenda = s.agenda := rfl
@[simp] theorem modCmd_curCore (s : State) (n : Nat) (f : Cmd → Cmd) : (s.modCmd n f).curCore = s.curCore := rfl
@[simp] theorem modCmd_curEng (s : State) (n : Nat) (f : Cmd → Cmd) : (s.modCmd n f).curEng = s.curEng := rfl
@[simp] theorem modCmd_curSvc (s : State) (n : Nat) (f : Cmd → Cmd) : (s.modCmd n f).curSvc = s.curSvc := rfl
@[simp] theorem modCmd_curTry (s : State) (n : Nat) (f : Cmd → Cmd) : (s.modCmd n f).curTry = s.curTry := rfl
@[simp] theorem modCmd_freeCtr (s : State) (n : Nat) (f : Cmd → Cmd) : (s.modCmd n f).freeCtr = s.freeCtr := rfl
@[simp] theorem modCmd_nextId (s : State) (n : Nat) (f : Cmd → Cmd) : (s.modCmd n f).nextId = s.nextId := rfl
@[simp] theorem modCmd_bigMem (s : State) (n : Nat) (f : Cmd → Cmd) : (s.modCmd n f).bigMem = s.bigMem := rfl
@[simp] theorem modCmd_hostsel (s : State) (n : Nat) (f : Cmd → Cmd) : (s.modCmd n f).hostsel = s.hostsel := rfl
@[simp] theorem modCmd_boot (s : State) (n : Nat) (f : Cmd → Cmd) : (s.modCmd n f).boot = s.boot := rfl
@[simp] theorem modCmd_mem (s : State) (n : Nat) (f : Cmd → Cmd) : (s.modCmd n f).mem = s.mem := rfl
@[simp] theorem modCmd_wr (s : State) (n : Nat) (f : Cmd → Cmd) : (s.modCmd n f).wr = s.wr := rfl
@[simp] theorem modCmd_cores (s : State) (n : Nat) (f : Cmd → Cmd) : (s.modCmd n f).cores = s.cores := rfl
@[simp] theorem modCmd_dies (s : State) (n : Nat) (f : Cmd → Cmd) : (s.modCmd n f).dies = s.dies := rfl
@[simp] theorem modCmd_accs (s : State) (n : Nat) (f : Cmd → Cmd) : (s.modCmd n f).accs = s.accs := rfl
@[simp] theorem modCmd_props (s : State) (n : Nat) (f : Cmd → Cmd) : (s.modCmd n f).props = s.props := rfl
@[simp] theorem modCmd_seqNos (s : State) (n : Nat) (f : Cmd → Cmd) : (s.modCmd n f).seqNos = s.seqNos := rfl
@[simp] theorem modCmd_ver (s : State) (n : Nat) (f : Cmd → Cmd) : (s.modCmd n f).ver = s.ver := rfl
@[simp] theorem modCmd_shadow (s : State) (n : Nat) (f : Cmd → Cmd) : (s.modCmd n f).shadow = s.shadow := rfl
@[simp] theorem modCmd_bad (s : State) (n : Nat) (f : Cmd → Cmd) : (s.modCmd n f).bad = s.bad := rfl
@[simp] theorem modCmd_invals (s : State) (n : Nat) (f : Cmd → Cmd) : (s.modCmd n f).invals = s.invals := rfl
@[simp] theorem modCmd_remote (s : State) (n : Nat) (f : Cmd → Cmd) : (s.modCmd n f).remote = s.remote := rfl
@[simp] theorem modCmd_place (s : State) (n : Nat) (f : Cmd → Cmd) : (s.modCmd n f).place = s.place := rfl
@[simp] theorem modCmd_faults (s : State) (n : Nat) (f : Cmd → Cmd) : (s.modCmd n f).faults = s.faults := rfl
@[simp] theorem modCmd_text (s : State) (n : Nat) (f : Cmd → Cmd) : (s.modCmd n f).text = s.text := rfl
@[simp] theorem modCmd_links (s : State) (n : Nat) (f : Cmd → Cmd) : (s.modCmd n f).links = s.links := rfl
@[simp] theorem modCmd_pod (s : State) (n : Nat) (f : Cmd → Cmd) : (s.modCmd n f).pod = s.pod := rfl
@[simp] theorem modCmd_ctl (s : State) (n : Nat) (f : Cmd → Cmd) : (s.modCmd n f).ctl = s.ctl := rfl
@[simp] theorem modCmd_svc (s : State) (n : Nat) (f : Cmd → Cmd) : (s.modCmd n f).svc = s.svc := rfl
@[simp] theorem modCmd_tele (s : State) (n : Nat) (f : Cmd → Cmd) : (s.modCmd n f).tele = s.tele := rfl
@[simp] theorem modCmd_supply (s : State) (n : Nat) (f : Cmd → Cmd) : (s.modCmd n f).supply = s.supply := rfl
@[simp] theorem modCmd_capped (s : State) (n : Nat) (f : Cmd → Cmd) : (s.modCmd n f).capped = s.capped := rfl
@[simp] theorem modCmd_trip (s : State) (n : Nat) (f : Cmd → Cmd) : (s.modCmd n f).trip = s.trip := rfl
@[simp] theorem modCmd_sampled (s : State) (n : Nat) (f : Cmd → Cmd) : (s.modCmd n f).sampled = s.sampled := rfl

/-! ## modCtl -/

@[simp] theorem modCtl_now (s : State) (f : CtlSt → CtlSt) : (s.modCtl f).now = s.now := rfl
@[simp] theorem modCtl_wall (s : State) (f : CtlSt → CtlSt) : (s.modCtl f).wall = s.wall := rfl
@[simp] theorem modCtl_agenda (s : State) (f : CtlSt → CtlSt) : (s.modCtl f).agenda = s.agenda := rfl
@[simp] theorem modCtl_curCore (s : State) (f : CtlSt → CtlSt) : (s.modCtl f).curCore = s.curCore := rfl
@[simp] theorem modCtl_curEng (s : State) (f : CtlSt → CtlSt) : (s.modCtl f).curEng = s.curEng := rfl
@[simp] theorem modCtl_curSvc (s : State) (f : CtlSt → CtlSt) : (s.modCtl f).curSvc = s.curSvc := rfl
@[simp] theorem modCtl_curTry (s : State) (f : CtlSt → CtlSt) : (s.modCtl f).curTry = s.curTry := rfl
@[simp] theorem modCtl_freeCtr (s : State) (f : CtlSt → CtlSt) : (s.modCtl f).freeCtr = s.freeCtr := rfl
@[simp] theorem modCtl_nextId (s : State) (f : CtlSt → CtlSt) : (s.modCtl f).nextId = s.nextId := rfl
@[simp] theorem modCtl_bigMem (s : State) (f : CtlSt → CtlSt) : (s.modCtl f).bigMem = s.bigMem := rfl
@[simp] theorem modCtl_hostsel (s : State) (f : CtlSt → CtlSt) : (s.modCtl f).hostsel = s.hostsel := rfl
@[simp] theorem modCtl_boot (s : State) (f : CtlSt → CtlSt) : (s.modCtl f).boot = s.boot := rfl
@[simp] theorem modCtl_mem (s : State) (f : CtlSt → CtlSt) : (s.modCtl f).mem = s.mem := rfl
@[simp] theorem modCtl_wr (s : State) (f : CtlSt → CtlSt) : (s.modCtl f).wr = s.wr := rfl
@[simp] theorem modCtl_cores (s : State) (f : CtlSt → CtlSt) : (s.modCtl f).cores = s.cores := rfl
@[simp] theorem modCtl_dies (s : State) (f : CtlSt → CtlSt) : (s.modCtl f).dies = s.dies := rfl
@[simp] theorem modCtl_cmds (s : State) (f : CtlSt → CtlSt) : (s.modCtl f).cmds = s.cmds := rfl
@[simp] theorem modCtl_accs (s : State) (f : CtlSt → CtlSt) : (s.modCtl f).accs = s.accs := rfl
@[simp] theorem modCtl_props (s : State) (f : CtlSt → CtlSt) : (s.modCtl f).props = s.props := rfl
@[simp] theorem modCtl_seqNos (s : State) (f : CtlSt → CtlSt) : (s.modCtl f).seqNos = s.seqNos := rfl
@[simp] theorem modCtl_ver (s : State) (f : CtlSt → CtlSt) : (s.modCtl f).ver = s.ver := rfl
@[simp] theorem modCtl_shadow (s : State) (f : CtlSt → CtlSt) : (s.modCtl f).shadow = s.shadow := rfl
@[simp] theorem modCtl_bad (s : State) (f : CtlSt → CtlSt) : (s.modCtl f).bad = s.bad := rfl
@[simp] theorem modCtl_invals (s : State) (f : CtlSt → CtlSt) : (s.modCtl f).invals = s.invals := rfl
@[simp] theorem modCtl_remote (s : State) (f : CtlSt → CtlSt) : (s.modCtl f).remote = s.remote := rfl
@[simp] theorem modCtl_place (s : State) (f : CtlSt → CtlSt) : (s.modCtl f).place = s.place := rfl
@[simp] theorem modCtl_faults (s : State) (f : CtlSt → CtlSt) : (s.modCtl f).faults = s.faults := rfl
@[simp] theorem modCtl_text (s : State) (f : CtlSt → CtlSt) : (s.modCtl f).text = s.text := rfl
@[simp] theorem modCtl_links (s : State) (f : CtlSt → CtlSt) : (s.modCtl f).links = s.links := rfl
@[simp] theorem modCtl_pod (s : State) (f : CtlSt → CtlSt) : (s.modCtl f).pod = s.pod := rfl
@[simp] theorem modCtl_svc (s : State) (f : CtlSt → CtlSt) : (s.modCtl f).svc = s.svc := rfl
@[simp] theorem modCtl_tele (s : State) (f : CtlSt → CtlSt) : (s.modCtl f).tele = s.tele := rfl
@[simp] theorem modCtl_supply (s : State) (f : CtlSt → CtlSt) : (s.modCtl f).supply = s.supply := rfl
@[simp] theorem modCtl_capped (s : State) (f : CtlSt → CtlSt) : (s.modCtl f).capped = s.capped := rfl
@[simp] theorem modCtl_trip (s : State) (f : CtlSt → CtlSt) : (s.modCtl f).trip = s.trip := rfl
@[simp] theorem modCtl_sampled (s : State) (f : CtlSt → CtlSt) : (s.modCtl f).sampled = s.sampled := rfl

@[simp] theorem modCtl_ctl (s : State) (f : CtlSt → CtlSt) : (s.modCtl f).ctl = f s.ctl := rfl

/-! ## modText -/

@[simp] theorem modText_now (s : State) (f : TextSt → TextSt) : (s.modText f).now = s.now := rfl
@[simp] theorem modText_wall (s : State) (f : TextSt → TextSt) : (s.modText f).wall = s.wall := rfl
@[simp] theorem modText_agenda (s : State) (f : TextSt → TextSt) : (s.modText f).agenda = s.agenda := rfl
@[simp] theorem modText_curCore (s : State) (f : TextSt → TextSt) : (s.modText f).curCore = s.curCore := rfl
@[simp] theorem modText_curEng (s : State) (f : TextSt → TextSt) : (s.modText f).curEng = s.curEng := rfl
@[simp] theorem modText_curSvc (s : State) (f : TextSt → TextSt) : (s.modText f).curSvc = s.curSvc := rfl
@[simp] theorem modText_curTry (s : State) (f : TextSt → TextSt) : (s.modText f).curTry = s.curTry := rfl
@[simp] theorem modText_freeCtr (s : State) (f : TextSt → TextSt) : (s.modText f).freeCtr = s.freeCtr := rfl
@[simp] theorem modText_nextId (s : State) (f : TextSt → TextSt) : (s.modText f).nextId = s.nextId := rfl
@[simp] theorem modText_bigMem (s : State) (f : TextSt → TextSt) : (s.modText f).bigMem = s.bigMem := rfl
@[simp] theorem modText_hostsel (s : State) (f : TextSt → TextSt) : (s.modText f).hostsel = s.hostsel := rfl
@[simp] theorem modText_boot (s : State) (f : TextSt → TextSt) : (s.modText f).boot = s.boot := rfl
@[simp] theorem modText_mem (s : State) (f : TextSt → TextSt) : (s.modText f).mem = s.mem := rfl
@[simp] theorem modText_wr (s : State) (f : TextSt → TextSt) : (s.modText f).wr = s.wr := rfl
@[simp] theorem modText_cores (s : State) (f : TextSt → TextSt) : (s.modText f).cores = s.cores := rfl
@[simp] theorem modText_dies (s : State) (f : TextSt → TextSt) : (s.modText f).dies = s.dies := rfl
@[simp] theorem modText_cmds (s : State) (f : TextSt → TextSt) : (s.modText f).cmds = s.cmds := rfl
@[simp] theorem modText_accs (s : State) (f : TextSt → TextSt) : (s.modText f).accs = s.accs := rfl
@[simp] theorem modText_props (s : State) (f : TextSt → TextSt) : (s.modText f).props = s.props := rfl
@[simp] theorem modText_seqNos (s : State) (f : TextSt → TextSt) : (s.modText f).seqNos = s.seqNos := rfl
@[simp] theorem modText_ver (s : State) (f : TextSt → TextSt) : (s.modText f).ver = s.ver := rfl
@[simp] theorem modText_shadow (s : State) (f : TextSt → TextSt) : (s.modText f).shadow = s.shadow := rfl
@[simp] theorem modText_bad (s : State) (f : TextSt → TextSt) : (s.modText f).bad = s.bad := rfl
@[simp] theorem modText_invals (s : State) (f : TextSt → TextSt) : (s.modText f).invals = s.invals := rfl
@[simp] theorem modText_remote (s : State) (f : TextSt → TextSt) : (s.modText f).remote = s.remote := rfl
@[simp] theorem modText_place (s : State) (f : TextSt → TextSt) : (s.modText f).place = s.place := rfl
@[simp] theorem modText_faults (s : State) (f : TextSt → TextSt) : (s.modText f).faults = s.faults := rfl
@[simp] theorem modText_links (s : State) (f : TextSt → TextSt) : (s.modText f).links = s.links := rfl
@[simp] theorem modText_pod (s : State) (f : TextSt → TextSt) : (s.modText f).pod = s.pod := rfl
@[simp] theorem modText_ctl (s : State) (f : TextSt → TextSt) : (s.modText f).ctl = s.ctl := rfl
@[simp] theorem modText_svc (s : State) (f : TextSt → TextSt) : (s.modText f).svc = s.svc := rfl
@[simp] theorem modText_tele (s : State) (f : TextSt → TextSt) : (s.modText f).tele = s.tele := rfl
@[simp] theorem modText_supply (s : State) (f : TextSt → TextSt) : (s.modText f).supply = s.supply := rfl
@[simp] theorem modText_capped (s : State) (f : TextSt → TextSt) : (s.modText f).capped = s.capped := rfl
@[simp] theorem modText_trip (s : State) (f : TextSt → TextSt) : (s.modText f).trip = s.trip := rfl
@[simp] theorem modText_sampled (s : State) (f : TextSt → TextSt) : (s.modText f).sampled = s.sampled := rfl

@[simp] theorem modText_text (s : State) (f : TextSt → TextSt) : (s.modText f).text = f s.text := rfl

/-! ## commit -/

@[simp] theorem commit_now (s : State) (t : State) : (t.commit s).now = s.now := rfl
@[simp] theorem commit_wall (s : State) (t : State) : (t.commit s).wall = s.wall := rfl
@[simp] theorem commit_agenda (s : State) (t : State) : (t.commit s).agenda = s.agenda := rfl
@[simp] theorem commit_curCore (s : State) (t : State) : (t.commit s).curCore = s.curCore := rfl
@[simp] theorem commit_curEng (s : State) (t : State) : (t.commit s).curEng = s.curEng := rfl
@[simp] theorem commit_curSvc (s : State) (t : State) : (t.commit s).curSvc = s.curSvc := rfl
@[simp] theorem commit_curTry (s : State) (t : State) : (t.commit s).curTry = s.curTry := rfl
@[simp] theorem commit_freeCtr (s : State) (t : State) : (t.commit s).freeCtr = s.freeCtr := rfl
@[simp] theorem commit_nextId (s : State) (t : State) : (t.commit s).nextId = s.nextId := rfl
@[simp] theorem commit_bigMem (s : State) (t : State) : (t.commit s).bigMem = s.bigMem := rfl
@[simp] theorem commit_hostsel (s : State) (t : State) : (t.commit s).hostsel = s.hostsel := rfl
@[simp] theorem commit_boot (s : State) (t : State) : (t.commit s).boot = s.boot := rfl
@[simp] theorem commit_cores (s : State) (t : State) : (t.commit s).cores = s.cores := rfl
@[simp] theorem commit_dies (s : State) (t : State) : (t.commit s).dies = s.dies := rfl
@[simp] theorem commit_cmds (s : State) (t : State) : (t.commit s).cmds = s.cmds := rfl
@[simp] theorem commit_accs (s : State) (t : State) : (t.commit s).accs = s.accs := rfl
@[simp] theorem commit_props (s : State) (t : State) : (t.commit s).props = s.props := rfl
@[simp] theorem commit_seqNos (s : State) (t : State) : (t.commit s).seqNos = s.seqNos := rfl
@[simp] theorem commit_ver (s : State) (t : State) : (t.commit s).ver = s.ver := rfl
@[simp] theorem commit_shadow (s : State) (t : State) : (t.commit s).shadow = s.shadow := rfl
@[simp] theorem commit_bad (s : State) (t : State) : (t.commit s).bad = s.bad := rfl
@[simp] theorem commit_invals (s : State) (t : State) : (t.commit s).invals = s.invals := rfl
@[simp] theorem commit_remote (s : State) (t : State) : (t.commit s).remote = s.remote := rfl
@[simp] theorem commit_place (s : State) (t : State) : (t.commit s).place = s.place := rfl
@[simp] theorem commit_faults (s : State) (t : State) : (t.commit s).faults = s.faults := rfl
@[simp] theorem commit_text (s : State) (t : State) : (t.commit s).text = s.text := rfl
@[simp] theorem commit_links (s : State) (t : State) : (t.commit s).links = s.links := rfl
@[simp] theorem commit_pod (s : State) (t : State) : (t.commit s).pod = s.pod := rfl
@[simp] theorem commit_ctl (s : State) (t : State) : (t.commit s).ctl = s.ctl := rfl
@[simp] theorem commit_svc (s : State) (t : State) : (t.commit s).svc = s.svc := rfl
@[simp] theorem commit_tele (s : State) (t : State) : (t.commit s).tele = s.tele := rfl
@[simp] theorem commit_supply (s : State) (t : State) : (t.commit s).supply = s.supply := rfl
@[simp] theorem commit_capped (s : State) (t : State) : (t.commit s).capped = s.capped := rfl
@[simp] theorem commit_trip (s : State) (t : State) : (t.commit s).trip = s.trip := rfl
@[simp] theorem commit_sampled (s : State) (t : State) : (t.commit s).sampled = s.sampled := rfl
/-! ## modHere -/

@[simp] theorem modHere_now (s : State) (f : EngSt → EngSt) : (s.modHere f).now = s.now := by unfold State.modHere; split <;> rfl
@[simp] theorem modHere_wall (s : State) (f : EngSt → EngSt) : (s.modHere f).wall = s.wall := by unfold State.modHere; split <;> rfl
@[simp] theorem modHere_agenda (s : State) (f : EngSt → EngSt) : (s.modHere f).agenda = s.agenda := by unfold State.modHere; split <;> rfl
@[simp] theorem modHere_curCore (s : State) (f : EngSt → EngSt) : (s.modHere f).curCore = s.curCore := by unfold State.modHere; split <;> rfl
@[simp] theorem modHere_curEng (s : State) (f : EngSt → EngSt) : (s.modHere f).curEng = s.curEng := by unfold State.modHere; split <;> rfl
@[simp] theorem modHere_curSvc (s : State) (f : EngSt → EngSt) : (s.modHere f).curSvc = s.curSvc := by unfold State.modHere; split <;> rfl
@[simp] theorem modHere_curTry (s : State) (f : EngSt → EngSt) : (s.modHere f).curTry = s.curTry := by unfold State.modHere; split <;> rfl
@[simp] theorem modHere_freeCtr (s : State) (f : EngSt → EngSt) : (s.modHere f).freeCtr = s.freeCtr := by unfold State.modHere; split <;> rfl
@[simp] theorem modHere_nextId (s : State) (f : EngSt → EngSt) : (s.modHere f).nextId = s.nextId := by unfold State.modHere; split <;> rfl
@[simp] theorem modHere_bigMem (s : State) (f : EngSt → EngSt) : (s.modHere f).bigMem = s.bigMem := by unfold State.modHere; split <;> rfl
@[simp] theorem modHere_hostsel (s : State) (f : EngSt → EngSt) : (s.modHere f).hostsel = s.hostsel := by unfold State.modHere; split <;> rfl
@[simp] theorem modHere_boot (s : State) (f : EngSt → EngSt) : (s.modHere f).boot = s.boot := by unfold State.modHere; split <;> rfl
@[simp] theorem modHere_mem (s : State) (f : EngSt → EngSt) : (s.modHere f).mem = s.mem := by unfold State.modHere; split <;> rfl
@[simp] theorem modHere_wr (s : State) (f : EngSt → EngSt) : (s.modHere f).wr = s.wr := by unfold State.modHere; split <;> rfl
@[simp] theorem modHere_dies (s : State) (f : EngSt → EngSt) : (s.modHere f).dies = s.dies := by unfold State.modHere; split <;> rfl
@[simp] theorem modHere_cmds (s : State) (f : EngSt → EngSt) : (s.modHere f).cmds = s.cmds := by unfold State.modHere; split <;> rfl
@[simp] theorem modHere_accs (s : State) (f : EngSt → EngSt) : (s.modHere f).accs = s.accs := by unfold State.modHere; split <;> rfl
@[simp] theorem modHere_props (s : State) (f : EngSt → EngSt) : (s.modHere f).props = s.props := by unfold State.modHere; split <;> rfl
@[simp] theorem modHere_seqNos (s : State) (f : EngSt → EngSt) : (s.modHere f).seqNos = s.seqNos := by unfold State.modHere; split <;> rfl
@[simp] theorem modHere_ver (s : State) (f : EngSt → EngSt) : (s.modHere f).ver = s.ver := by unfold State.modHere; split <;> rfl
@[simp] theorem modHere_shadow (s : State) (f : EngSt → EngSt) : (s.modHere f).shadow = s.shadow := by unfold State.modHere; split <;> rfl
@[simp] theorem modHere_bad (s : State) (f : EngSt → EngSt) : (s.modHere f).bad = s.bad := by unfold State.modHere; split <;> rfl
@[simp] theorem modHere_invals (s : State) (f : EngSt → EngSt) : (s.modHere f).invals = s.invals := by unfold State.modHere; split <;> rfl
@[simp] theorem modHere_remote (s : State) (f : EngSt → EngSt) : (s.modHere f).remote = s.remote := by unfold State.modHere; split <;> rfl
@[simp] theorem modHere_place (s : State) (f : EngSt → EngSt) : (s.modHere f).place = s.place := by unfold State.modHere; split <;> rfl
@[simp] theorem modHere_faults (s : State) (f : EngSt → EngSt) : (s.modHere f).faults = s.faults := by unfold State.modHere; split <;> rfl
@[simp] theorem modHere_text (s : State) (f : EngSt → EngSt) : (s.modHere f).text = s.text := by unfold State.modHere; split <;> rfl
@[simp] theorem modHere_links (s : State) (f : EngSt → EngSt) : (s.modHere f).links = s.links := by unfold State.modHere; split <;> rfl
@[simp] theorem modHere_pod (s : State) (f : EngSt → EngSt) : (s.modHere f).pod = s.pod := by unfold State.modHere; split <;> rfl
@[simp] theorem modHere_ctl (s : State) (f : EngSt → EngSt) : (s.modHere f).ctl = s.ctl := by unfold State.modHere; split <;> rfl
@[simp] theorem modHere_svc (s : State) (f : EngSt → EngSt) : (s.modHere f).svc = s.svc := by unfold State.modHere; split <;> rfl
@[simp] theorem modHere_tele (s : State) (f : EngSt → EngSt) : (s.modHere f).tele = s.tele := by unfold State.modHere; split <;> rfl
@[simp] theorem modHere_supply (s : State) (f : EngSt → EngSt) : (s.modHere f).supply = s.supply := by unfold State.modHere; split <;> rfl
@[simp] theorem modHere_capped (s : State) (f : EngSt → EngSt) : (s.modHere f).capped = s.capped := by unfold State.modHere; split <;> rfl
@[simp] theorem modHere_trip (s : State) (f : EngSt → EngSt) : (s.modHere f).trip = s.trip := by unfold State.modHere; split <;> rfl
@[simp] theorem modHere_sampled (s : State) (f : EngSt → EngSt) : (s.modHere f).sampled = s.sampled := by unfold State.modHere; split <;> rfl

/-! ## modRegs -/

@[simp] theorem modRegs_now (s : State) (f : List W64 → List W64) : (s.modRegs f).now = s.now := by unfold State.modRegs; split <;> rfl
@[simp] theorem modRegs_wall (s : State) (f : List W64 → List W64) : (s.modRegs f).wall = s.wall := by unfold State.modRegs; split <;> rfl
@[simp] theorem modRegs_agenda (s : State) (f : List W64 → List W64) : (s.modRegs f).agenda = s.agenda := by unfold State.modRegs; split <;> rfl
@[simp] theorem modRegs_curCore (s : State) (f : List W64 → List W64) : (s.modRegs f).curCore = s.curCore := by unfold State.modRegs; split <;> rfl
@[simp] theorem modRegs_curEng (s : State) (f : List W64 → List W64) : (s.modRegs f).curEng = s.curEng := by unfold State.modRegs; split <;> rfl
@[simp] theorem modRegs_curSvc (s : State) (f : List W64 → List W64) : (s.modRegs f).curSvc = s.curSvc := by unfold State.modRegs; split <;> rfl
@[simp] theorem modRegs_curTry (s : State) (f : List W64 → List W64) : (s.modRegs f).curTry = s.curTry := by unfold State.modRegs; split <;> rfl
@[simp] theorem modRegs_freeCtr (s : State) (f : List W64 → List W64) : (s.modRegs f).freeCtr = s.freeCtr := by unfold State.modRegs; split <;> rfl
@[simp] theorem modRegs_nextId (s : State) (f : List W64 → List W64) : (s.modRegs f).nextId = s.nextId := by unfold State.modRegs; split <;> rfl
@[simp] theorem modRegs_bigMem (s : State) (f : List W64 → List W64) : (s.modRegs f).bigMem = s.bigMem := by unfold State.modRegs; split <;> rfl
@[simp] theorem modRegs_hostsel (s : State) (f : List W64 → List W64) : (s.modRegs f).hostsel = s.hostsel := by unfold State.modRegs; split <;> rfl
@[simp] theorem modRegs_boot (s : State) (f : List W64 → List W64) : (s.modRegs f).boot = s.boot := by unfold State.modRegs; split <;> rfl
@[simp] theorem modRegs_mem (s : State) (f : List W64 → List W64) : (s.modRegs f).mem = s.mem := by unfold State.modRegs; split <;> rfl
@[simp] theorem modRegs_wr (s : State) (f : List W64 → List W64) : (s.modRegs f).wr = s.wr := by unfold State.modRegs; split <;> rfl
@[simp] theorem modRegs_dies (s : State) (f : List W64 → List W64) : (s.modRegs f).dies = s.dies := by unfold State.modRegs; split <;> rfl
@[simp] theorem modRegs_cmds (s : State) (f : List W64 → List W64) : (s.modRegs f).cmds = s.cmds := by unfold State.modRegs; split <;> rfl
@[simp] theorem modRegs_accs (s : State) (f : List W64 → List W64) : (s.modRegs f).accs = s.accs := by unfold State.modRegs; split <;> rfl
@[simp] theorem modRegs_props (s : State) (f : List W64 → List W64) : (s.modRegs f).props = s.props := by unfold State.modRegs; split <;> rfl
@[simp] theorem modRegs_seqNos (s : State) (f : List W64 → List W64) : (s.modRegs f).seqNos = s.seqNos := by unfold State.modRegs; split <;> rfl
@[simp] theorem modRegs_ver (s : State) (f : List W64 → List W64) : (s.modRegs f).ver = s.ver := by unfold State.modRegs; split <;> rfl
@[simp] theorem modRegs_shadow (s : State) (f : List W64 → List W64) : (s.modRegs f).shadow = s.shadow := by unfold State.modRegs; split <;> rfl
@[simp] theorem modRegs_bad (s : State) (f : List W64 → List W64) : (s.modRegs f).bad = s.bad := by unfold State.modRegs; split <;> rfl
@[simp] theorem modRegs_invals (s : State) (f : List W64 → List W64) : (s.modRegs f).invals = s.invals := by unfold State.modRegs; split <;> rfl
@[simp] theorem modRegs_remote (s : State) (f : List W64 → List W64) : (s.modRegs f).remote = s.remote := by unfold State.modRegs; split <;> rfl
@[simp] theorem modRegs_place (s : State) (f : List W64 → List W64) : (s.modRegs f).place = s.place := by unfold State.modRegs; split <;> rfl
@[simp] theorem modRegs_faults (s : State) (f : List W64 → List W64) : (s.modRegs f).faults = s.faults := by unfold State.modRegs; split <;> rfl
@[simp] theorem modRegs_text (s : State) (f : List W64 → List W64) : (s.modRegs f).text = s.text := by unfold State.modRegs; split <;> rfl
@[simp] theorem modRegs_links (s : State) (f : List W64 → List W64) : (s.modRegs f).links = s.links := by unfold State.modRegs; split <;> rfl
@[simp] theorem modRegs_pod (s : State) (f : List W64 → List W64) : (s.modRegs f).pod = s.pod := by unfold State.modRegs; split <;> rfl
@[simp] theorem modRegs_ctl (s : State) (f : List W64 → List W64) : (s.modRegs f).ctl = s.ctl := by unfold State.modRegs; split <;> rfl
@[simp] theorem modRegs_svc (s : State) (f : List W64 → List W64) : (s.modRegs f).svc = s.svc := by unfold State.modRegs; split <;> rfl
@[simp] theorem modRegs_tele (s : State) (f : List W64 → List W64) : (s.modRegs f).tele = s.tele := by unfold State.modRegs; split <;> rfl
@[simp] theorem modRegs_supply (s : State) (f : List W64 → List W64) : (s.modRegs f).supply = s.supply := by unfold State.modRegs; split <;> rfl
@[simp] theorem modRegs_capped (s : State) (f : List W64 → List W64) : (s.modRegs f).capped = s.capped := by unfold State.modRegs; split <;> rfl
@[simp] theorem modRegs_trip (s : State) (f : List W64 → List W64) : (s.modRegs f).trip = s.trip := by unfold State.modRegs; split <;> rfl
@[simp] theorem modRegs_sampled (s : State) (f : List W64 → List W64) : (s.modRegs f).sampled = s.sampled := by unfold State.modRegs; split <;> rfl

/-! ## missLine -/

@[simp] theorem missLine_now (s : State) (a l : Nat) : (s.missLine a l).now = s.now := by unfold State.missLine; split <;> rfl
@[simp] theorem missLine_wall (s : State) (a l : Nat) : (s.missLine a l).wall = s.wall := by unfold State.missLine; split <;> rfl
@[simp] theorem missLine_agenda (s : State) (a l : Nat) : (s.missLine a l).agenda = s.agenda := by unfold State.missLine; split <;> rfl
@[simp] theorem missLine_curCore (s : State) (a l : Nat) : (s.missLine a l).curCore = s.curCore := by unfold State.missLine; split <;> rfl
@[simp] theorem missLine_curEng (s : State) (a l : Nat) : (s.missLine a l).curEng = s.curEng := by unfold State.missLine; split <;> rfl
@[simp] theorem missLine_curSvc (s : State) (a l : Nat) : (s.missLine a l).curSvc = s.curSvc := by unfold State.missLine; split <;> rfl
@[simp] theorem missLine_curTry (s : State) (a l : Nat) : (s.missLine a l).curTry = s.curTry := by unfold State.missLine; split <;> rfl
@[simp] theorem missLine_freeCtr (s : State) (a l : Nat) : (s.missLine a l).freeCtr = s.freeCtr := by unfold State.missLine; split <;> rfl
@[simp] theorem missLine_nextId (s : State) (a l : Nat) : (s.missLine a l).nextId = s.nextId := by unfold State.missLine; split <;> rfl
@[simp] theorem missLine_bigMem (s : State) (a l : Nat) : (s.missLine a l).bigMem = s.bigMem := by unfold State.missLine; split <;> rfl
@[simp] theorem missLine_hostsel (s : State) (a l : Nat) : (s.missLine a l).hostsel = s.hostsel := by unfold State.missLine; split <;> rfl
@[simp] theorem missLine_boot (s : State) (a l : Nat) : (s.missLine a l).boot = s.boot := by unfold State.missLine; split <;> rfl
@[simp] theorem missLine_mem (s : State) (a l : Nat) : (s.missLine a l).mem = s.mem := by unfold State.missLine; split <;> rfl
@[simp] theorem missLine_wr (s : State) (a l : Nat) : (s.missLine a l).wr = s.wr := by unfold State.missLine; split <;> rfl
@[simp] theorem missLine_dies (s : State) (a l : Nat) : (s.missLine a l).dies = s.dies := by unfold State.missLine; split <;> rfl
@[simp] theorem missLine_cmds (s : State) (a l : Nat) : (s.missLine a l).cmds = s.cmds := by unfold State.missLine; split <;> rfl
@[simp] theorem missLine_accs (s : State) (a l : Nat) : (s.missLine a l).accs = s.accs := by unfold State.missLine; split <;> rfl
@[simp] theorem missLine_props (s : State) (a l : Nat) : (s.missLine a l).props = s.props := by unfold State.missLine; split <;> rfl
@[simp] theorem missLine_seqNos (s : State) (a l : Nat) : (s.missLine a l).seqNos = s.seqNos := by unfold State.missLine; split <;> rfl
@[simp] theorem missLine_ver (s : State) (a l : Nat) : (s.missLine a l).ver = s.ver := by unfold State.missLine; split <;> rfl
@[simp] theorem missLine_shadow (s : State) (a l : Nat) : (s.missLine a l).shadow = s.shadow := by unfold State.missLine; split <;> rfl
@[simp] theorem missLine_bad (s : State) (a l : Nat) : (s.missLine a l).bad = s.bad := by unfold State.missLine; split <;> rfl
@[simp] theorem missLine_invals (s : State) (a l : Nat) : (s.missLine a l).invals = s.invals := by unfold State.missLine; split <;> rfl
@[simp] theorem missLine_remote (s : State) (a l : Nat) : (s.missLine a l).remote = s.remote := by unfold State.missLine; split <;> rfl
@[simp] theorem missLine_place (s : State) (a l : Nat) : (s.missLine a l).place = s.place := by unfold State.missLine; split <;> rfl
@[simp] theorem missLine_faults (s : State) (a l : Nat) : (s.missLine a l).faults = s.faults := by unfold State.missLine; split <;> rfl
@[simp] theorem missLine_text (s : State) (a l : Nat) : (s.missLine a l).text = s.text := by unfold State.missLine; split <;> rfl
@[simp] theorem missLine_links (s : State) (a l : Nat) : (s.missLine a l).links = s.links := by unfold State.missLine; split <;> rfl
@[simp] theorem missLine_pod (s : State) (a l : Nat) : (s.missLine a l).pod = s.pod := by unfold State.missLine; split <;> rfl
@[simp] theorem missLine_ctl (s : State) (a l : Nat) : (s.missLine a l).ctl = s.ctl := by unfold State.missLine; split <;> rfl
@[simp] theorem missLine_svc (s : State) (a l : Nat) : (s.missLine a l).svc = s.svc := by unfold State.missLine; split <;> rfl
@[simp] theorem missLine_tele (s : State) (a l : Nat) : (s.missLine a l).tele = s.tele := by unfold State.missLine; split <;> rfl
@[simp] theorem missLine_supply (s : State) (a l : Nat) : (s.missLine a l).supply = s.supply := by unfold State.missLine; split <;> rfl
@[simp] theorem missLine_capped (s : State) (a l : Nat) : (s.missLine a l).capped = s.capped := by unfold State.missLine; split <;> rfl
@[simp] theorem missLine_trip (s : State) (a l : Nat) : (s.missLine a l).trip = s.trip := by unfold State.missLine; split <;> rfl
@[simp] theorem missLine_sampled (s : State) (a l : Nat) : (s.missLine a l).sampled = s.sampled := by unfold State.missLine; split <;> rfl

/-! ## waitTurn -/

@[simp] theorem waitTurn_now (s : State) (n : Nat) : (s.waitTurn n).now = s.now := rfl
@[simp] theorem waitTurn_wall (s : State) (n : Nat) : (s.waitTurn n).wall = s.wall := rfl
@[simp] theorem waitTurn_curCore (s : State) (n : Nat) : (s.waitTurn n).curCore = s.curCore := rfl
@[simp] theorem waitTurn_curEng (s : State) (n : Nat) : (s.waitTurn n).curEng = s.curEng := rfl
@[simp] theorem waitTurn_curSvc (s : State) (n : Nat) : (s.waitTurn n).curSvc = s.curSvc := rfl
@[simp] theorem waitTurn_curTry (s : State) (n : Nat) : (s.waitTurn n).curTry = s.curTry := rfl
@[simp] theorem waitTurn_freeCtr (s : State) (n : Nat) : (s.waitTurn n).freeCtr = s.freeCtr := rfl
@[simp] theorem waitTurn_nextId (s : State) (n : Nat) : (s.waitTurn n).nextId = s.nextId := rfl
@[simp] theorem waitTurn_bigMem (s : State) (n : Nat) : (s.waitTurn n).bigMem = s.bigMem := rfl
@[simp] theorem waitTurn_hostsel (s : State) (n : Nat) : (s.waitTurn n).hostsel = s.hostsel := rfl
@[simp] theorem waitTurn_boot (s : State) (n : Nat) : (s.waitTurn n).boot = s.boot := rfl
@[simp] theorem waitTurn_mem (s : State) (n : Nat) : (s.waitTurn n).mem = s.mem := rfl
@[simp] theorem waitTurn_wr (s : State) (n : Nat) : (s.waitTurn n).wr = s.wr := rfl
@[simp] theorem waitTurn_cores (s : State) (n : Nat) : (s.waitTurn n).cores = s.cores := rfl
@[simp] theorem waitTurn_dies (s : State) (n : Nat) : (s.waitTurn n).dies = s.dies := rfl
@[simp] theorem waitTurn_cmds (s : State) (n : Nat) : (s.waitTurn n).cmds = s.cmds := rfl
@[simp] theorem waitTurn_accs (s : State) (n : Nat) : (s.waitTurn n).accs = s.accs := rfl
@[simp] theorem waitTurn_props (s : State) (n : Nat) : (s.waitTurn n).props = s.props := rfl
@[simp] theorem waitTurn_seqNos (s : State) (n : Nat) : (s.waitTurn n).seqNos = s.seqNos := rfl
@[simp] theorem waitTurn_ver (s : State) (n : Nat) : (s.waitTurn n).ver = s.ver := rfl
@[simp] theorem waitTurn_shadow (s : State) (n : Nat) : (s.waitTurn n).shadow = s.shadow := rfl
@[simp] theorem waitTurn_bad (s : State) (n : Nat) : (s.waitTurn n).bad = s.bad := rfl
@[simp] theorem waitTurn_invals (s : State) (n : Nat) : (s.waitTurn n).invals = s.invals := rfl
@[simp] theorem waitTurn_remote (s : State) (n : Nat) : (s.waitTurn n).remote = s.remote := rfl
@[simp] theorem waitTurn_place (s : State) (n : Nat) : (s.waitTurn n).place = s.place := rfl
@[simp] theorem waitTurn_faults (s : State) (n : Nat) : (s.waitTurn n).faults = s.faults := rfl
@[simp] theorem waitTurn_text (s : State) (n : Nat) : (s.waitTurn n).text = s.text := rfl
@[simp] theorem waitTurn_links (s : State) (n : Nat) : (s.waitTurn n).links = s.links := rfl
@[simp] theorem waitTurn_pod (s : State) (n : Nat) : (s.waitTurn n).pod = s.pod := rfl
@[simp] theorem waitTurn_ctl (s : State) (n : Nat) : (s.waitTurn n).ctl = s.ctl := rfl
@[simp] theorem waitTurn_svc (s : State) (n : Nat) : (s.waitTurn n).svc = s.svc := rfl
@[simp] theorem waitTurn_tele (s : State) (n : Nat) : (s.waitTurn n).tele = s.tele := rfl
@[simp] theorem waitTurn_supply (s : State) (n : Nat) : (s.waitTurn n).supply = s.supply := rfl
@[simp] theorem waitTurn_capped (s : State) (n : Nat) : (s.waitTurn n).capped = s.capped := rfl
@[simp] theorem waitTurn_trip (s : State) (n : Nat) : (s.waitTurn n).trip = s.trip := rfl
@[simp] theorem waitTurn_sampled (s : State) (n : Nat) : (s.waitTurn n).sampled = s.sampled := rfl

end Sys2Proof.Machine
end

