-- ==== Sys2Proof/Laws/Seat.lean ====
section
/-!
SUPPORT. Where the issuing engine stands, and that the updates its words make leave it standing there.
-/
namespace Sys2Proof.Machine

/-- A change of a core that keeps its current contexts and its assist keeps every engine's seat. -/
theorem seat_modCore {s : State} {c : Nat} {f : Core → Core} (hc : ∀ co, (f co).cur = co.cur)
    (ha : ∀ co, (f co).assist.active = co.assist.active) : (s.modCore c f).seat = s.seat := by
  simp only [State.seat, modCore_cores, modCore_curCore, modCore_curEng, List.getElem?_modify]
  cases s.cores[s.curCore]? with
  | none => rfl
  | some co => by_cases h : c = s.curCore <;> simp [h, hc, ha]

@[simp] theorem seat_modCtx (s : State) (c k : Nat) (f : Ctx → Ctx) : (s.modCtx c k f).seat = s.seat :=
  seat_modCore (fun _ => rfl) (fun _ => rfl)

@[simp] theorem seat_modEng (s : State) (c k : Nat) (e : Engine) (f : EngSt → EngSt) : (s.modEng c k e f).seat = s.seat :=
  seat_modCtx _ _ _ _

@[simp] theorem seat_modHere (s : State) (f : EngSt → EngSt) : (s.modHere f).seat = s.seat := by
  unfold State.modHere
  split
  · exact seat_modCore (fun _ => rfl) (fun _ => rfl)
  · exact seat_modEng _ _ _ _ _
  · rfl

@[simp] theorem seat_modRegs (s : State) (f : List W64 → List W64) : (s.modRegs f).seat = s.seat := by
  unfold State.modRegs
  split
  · exact seat_modCore (fun _ => rfl) (fun _ => rfl)
  · exact seat_modCtx _ _ _ _
  · rfl

/-- The context in a slot after a core is changed. -/
theorem ctx?_modCore (s : State) (c c' k : Nat) (f : Core → Core) :
    (s.modCore c f).ctx? c' k = if c = c' then (s.cores[c']?).bind fun co => ((f co).slots[k]?).join else s.ctx? c' k := by
  simp only [State.ctx?, modCore_cores, List.getElem?_modify]
  cases s.cores[c']? with
  | none => simp
  | some co => by_cases h : c = c' <;> simp [h]

/-- The context in a slot after a context is changed. -/
theorem ctx?_modCtx (s : State) (c k c' k' : Nat) (f : Ctx → Ctx) :
    (s.modCtx c k f).ctx? c' k' = if c = c' ∧ k = k' then (s.ctx? c' k').map f else s.ctx? c' k' := by
  simp only [State.modCtx, ctx?_modCore]
  by_cases h : c = c'
  · simp only [h, if_true, true_and, State.ctx?]
    cases s.cores[c']? with
    | none => simp
    | some co =>
      simp only [Option.bind_some, List.getElem?_modify]
      cases co.slots[k']? with
      | none => simp
      | some o => by_cases hk : k = k' <;> simp [hk]
  · simp [h]

/-- The issuing engine stands in a context exactly when it has a seat that is taken. -/
theorem here_isSome_iff (s : State) :
    s.here.isSome = (match s.seat with | some (k, _) => (s.ctx? s.curCore k).isSome | none => false) := by
  unfold State.here
  cases hs : s.seat with
  | none => rfl
  | some p =>
    obtain ⟨k, a⟩ := p
    simp only [Option.bind_some]
    cases hc : s.cores[s.curCore]? with
    | none => simp [State.ctx?, hc]
    | some co => cases s.ctx? s.curCore k <;> simp

theorem here_isSome_modHere (s : State) (f : EngSt → EngSt) : (s.modHere f).here.isSome = s.here.isSome := by
  simp only [here_isSome_iff, seat_modHere, modHere_curCore]
  cases hs : s.seat with
  | none => rfl
  | some p =>
    obtain ⟨k, a⟩ := p
    simp only [State.modHere, hs]
    cases a
    · simp only [State.modEng, ctx?_modCtx]
      by_cases h : True <;> simp
    · simp only [ctx?_modCore]
      simp [State.ctx?]

theorem here_isSome_modRegs (s : State) (f : List W64 → List W64) : (s.modRegs f).here.isSome = s.here.isSome := by
  simp only [here_isSome_iff, seat_modRegs, modRegs_curCore]
  cases hs : s.seat with
  | none => rfl
  | some p =>
    obtain ⟨k, a⟩ := p
    simp only [State.modRegs, hs]
    cases a
    · simp [ctx?_modCtx]
    · simp only [ctx?_modCore]
      simp [State.ctx?]

theorem here_isSome_modCtx (s : State) (c k : Nat) (f : Ctx → Ctx) : (s.modCtx c k f).here.isSome = s.here.isSome := by
  simp only [here_isSome_iff, seat_modCtx, modCtx_curCore]
  cases s.seat with
  | none => rfl
  | some p =>
    simp only [ctx?_modCtx]
    split <;> simp

/-- A change of a core that keeps its slots, its current contexts and its assist leaves the issuing engine where it stands. -/
theorem here_isSome_modCore {s : State} {c : Nat} {f : Core → Core} (hs : ∀ co, (f co).slots = co.slots)
    (hc : ∀ co, (f co).cur = co.cur) (ha : ∀ co, (f co).assist.active = co.assist.active) :
    (s.modCore c f).here.isSome = s.here.isSome := by
  have hx : ∀ k, (s.modCore c f).ctx? s.curCore k = s.ctx? s.curCore k := by
    intro k
    rw [ctx?_modCore]
    split
    · simp [hs, State.ctx?]
    · rfl
  simp only [here_isSome_iff, seat_modCore hc ha, modCore_curCore, hx]

end Sys2Proof.Machine
end

