-- ==== Sys2Proof/Laws/Operands.lean ====
section
/-!
SUPPORT. What the shared operations of every word answer: reading and writing registers, guards, sources, moving on.
-/
namespace Sys2Proof.Machine

/-- An engine that stands in a context enters an iteration, and stands there still. -/
theorem setLoop_ok {s : State} (l : LoopSt) (h : s.here.isSome = true) :
    ∃ t, setLoop l s = .ok ((), t) ∧ t.here.isSome = true := by
  obtain ⟨g, hg⟩ := Option.isSome_iff_exists.mp h
  unfold setLoop
  rw [here_bind hg]
  simp only [get_bind_run, modEng_bind_run]
  split
  · exact ⟨_, rfl, by rw [here_isSome_modRegs, here_isSome_modHere]; exact h⟩
  · exact ⟨_, rfl, by rw [here_isSome_modHere]; exact h⟩

/-- A table entry with no error in it is read. -/
theorem tableOk_ok {s : State} {k : Nat} (h : s.bad.contains (4, k) = false) : tableOk k s = .ok ((), s) := by
  unfold tableOk
  simp only [get_bind_run, h]
  rfl

theorem tableOk_state {s t : State} {k : Nat} {v : Unit} (h : tableOk k s = .ok (v, t)) : t = s := by
  unfold tableOk at h
  simp only [get_bind_run] at h
  split at h
  · cases h
  · cases h; rfl

theorem advance_ok {s : State} (n : Nat) (h : s.here.isSome = true) : ∃ t, advance n s = .ok ((), t) := by
  obtain ⟨g, hg⟩ := Option.isSome_iff_exists.mp h
  unfold advance
  rw [here_bind hg]
  simp only [modEng_bind_run]
  cases g.eng.sect with
  | none => exact ⟨_, rfl⟩
  | some sc =>
    cases g.eng.loop with
    | none => exact ⟨_, rfl⟩
    | some l =>
      simp only
      by_cases h1 : sc.widx + n ≤ l.word + l.len
      · rw [if_pos h1]; exact ⟨_, rfl⟩
      · rw [if_neg h1]
        by_cases h2 : l.iter + 1 < l.total
        · rw [if_pos h2]
          obtain ⟨t, ht, -⟩ := setLoop_ok { l with iter := l.iter + 1, idx := loopIndices g.eng.cnt l.nd (l.iter + 1) }
            (s := s.modHere fun en => { en with modifier := none, dv := false, child := none, chain := 0, chained := [] })
            (by rw [here_isSome_modHere]; exact h)
          rw [bind_ok ht]
          exact ⟨_, rfl⟩
        · rw [if_neg h2]; exact ⟨_, rfl⟩

/-- An engine that stands in a context moves on. -/
theorem advance_eq {s : State} (h : s.here.isSome = true) : advance 1 s = .ok ((), s.advanced) := by
  obtain ⟨t, ht⟩ := advance_ok 1 h
  simp [State.advanced, ht]

theorem readReg_zero {s : State} {h : Here} (e : s.here = some h) : readReg 0 s = .ok (0, s) := by
  simp [readReg, here_bind e]

theorem readReg_ok {s : State} {h : Here} {r : Nat} (e : s.here = some h) (hr : r ≠ 0) (hb : h.eng.isBusy s.now r = false)
    (hg : s.filesGood h) : readReg r s = .ok (((s.regsHere h)[r]?).getD 0, s) := by
  unfold readReg
  rw [here_bind e]
  simp only [get_bind_run, hr, if_false, hb, Bool.not_false, require_bind_true]
  split
  · rfl
  · rw [bind_ok (tableOk_ok (hg.resolve_left ‹_›))]; rfl

theorem readReg_busy {s : State} {h : Here} {r : Nat} (e : s.here = some h) (hr : r ≠ 0) (hb : h.eng.isBusy s.now r = true) :
    readReg r s = .error .stall := by
  simp [readReg, here_bind e, hr, hb, bind_error (require_false s)]

theorem writeReg_ok {s : State} {r : Nat} (v : W64) (lat : Nat) (h : s.regFree r) :
    writeReg r v lat s = .ok ((), s.withReg r v lat) := by
  unfold writeReg State.withReg
  by_cases hr : r = 0
  · simp [hr]
  · obtain h | ⟨g, e, hb⟩ := h
    · exact absurd h hr
    · simp only [hr, if_false, here_bind e, get_bind_run, hb, Bool.not_false, require_bind_true, modify_bind_run]
      split <;> rfl

theorem writeReg_busy {s : State} {h : Here} {r : Nat} (v : W64) (lat : Nat) (e : s.here = some h) (hr : r ≠ 0)
    (hb : h.eng.isBusy s.now r = true) : writeReg r v lat s = .error .stall := by
  simp [writeReg, here_bind e, hr, hb, bind_error (require_false s)]

theorem here_isSome_withReg (s : State) (r : Nat) (v : W64) (lat : Nat) : (s.withReg r v lat).here.isSome = s.here.isSome := by
  unfold State.withReg
  split
  · rfl
  · simp only
    split
    · exact here_isSome_modRegs _ _
    · rw [here_isSome_modHere, here_isSome_modRegs]

theorem guardOn_free {g : Guard} (s : State) (h : g.g = false) : guardOn g s = .ok (true, s) := by simp [guardOn, h]

theorem readReg_state {s t : State} {r : Nat} {v : W64} (h : readReg r s = .ok (v, t)) : t = s ∧ s.here.isSome = true := by
  cases e : s.here with
  | none => simp [readReg, here, e, bind, StateT.bind, Except.bind] at h
  | some g =>
    by_cases hr : r = 0
    · subst hr; rw [readReg_zero e] at h; cases h; exact ⟨rfl, rfl⟩
    · cases hb : g.eng.isBusy s.now r with
      | true => rw [readReg_busy e hr hb] at h; cases h
      | false =>
        unfold readReg at h
        rw [here_bind e] at h
        simp only [get_bind_run, hr, if_false, hb, Bool.not_false, require_bind_true] at h
        split at h
        · cases h; exact ⟨rfl, rfl⟩
        · obtain ⟨_, u, h1, h2⟩ := bind_ok_inv h
          have := tableOk_state h1
          subst this
          cases h2; exact ⟨rfl, rfl⟩

/-- A guard changes nothing. -/
theorem guardOn_state {g : Guard} {s t : State} {b : Bool} (h : guardOn g s = .ok (b, t)) : t = s := by
  unfold guardOn at h
  by_cases hg : g.g
  · simp only [hg, Bool.not_true, Bool.false_eq_true, if_false] at h
    obtain ⟨a, u, h1, h2⟩ := bind_ok_inv h
    obtain ⟨-, rfl⟩ := here_ok_inv h1
    simp only [get_bind_run] at h2
    split at h2
    · obtain ⟨_, u, h3, h4⟩ := bind_ok_inv h2
      obtain ⟨_, w, h5, h6⟩ := bind_ok_inv h4
      simp at h6
      unfold require at h3
      split at h3 <;> simp at h3
      rw [← h6.2, tableOk_state h5, ← h3]
    · obtain ⟨_, u, h3, h4⟩ := bind_ok_inv h2
      simp at h4
      rw [← h4.2, (readReg_state h3).1]
  · simp [hg] at h
    exact h.2.symm

/-- A source popped from an inbound queue, or read from a register: the engine stands in its context after it. -/
theorem source_here {r : BitVec 6} {on : Bool} {s t : State} {v : W64} (h : source on r s = .ok (v, t)) (hs : s.here.isSome = true) :
    t.here.isSome = true := by
  unfold source at h
  split at h
  · unfold popInbound at h
    obtain ⟨g, hg⟩ := Option.isSome_iff_exists.mp hs
    rw [here_bind hg] at h
    simp only [bind_pure_comp] at h
    cases hq : g.ctx.inqs[inqIndex g.e.tag (inboundSender r.toNat)]? with
    | none => rw [hq] at h; cases h
    | some l =>
      cases l with
      | nil => rw [hq] at h; cases h
      | cons w rest =>
        rw [hq] at h
        simp only [modCtx, map_run, modify_ok, Except.ok.injEq, Prod.mk.injEq] at h
        rw [← h.2]
        split
        · rw [here_isSome_modCtx]; exact hs
        · exact hs
  · split at h
    · rw [(readReg_state h).1]; exact hs
    · simp at h; rw [← h.2]; exact hs

/-- A word of three scalar sources, executing: its value reaches D, and the engine moves on. -/
theorem scalarWord_ok {g : Guard} {d a b c : BitVec 6} {lat : Nat} {f : W64 → W64 → W64 → W64} {s s1 s2 s3 : State} {x y z : W64}
    (hs : s.here.isSome = true) (hg : guardOn g s = .ok (true, s)) (ha : source true a s = .ok (x, s1))
    (hb : source true b s1 = .ok (y, s2)) (hc : source true c s2 = .ok (z, s3)) (hd : s3.regFree d.toNat) :
    scalarWord g d a b c lat f s = .ok ((), (s3.withReg d.toNat (f x y z) lat).advanced) := by
  unfold scalarWord
  rw [bind_ok hg, bind_ok ha, bind_ok hb, bind_ok hc]
  simp only [if_true]
  rw [bind_ok (writeReg_ok _ _ hd)]
  exact advance_eq (by rw [here_isSome_withReg]; exact source_here hc (source_here hb (source_here ha hs)))

/-- The same word guarded off: inbound queues are popped, nothing is written (R87). -/
theorem scalarWord_off {g : Guard} {d a b c : BitVec 6} {lat : Nat} {f : W64 → W64 → W64 → W64} {s s1 s2 s3 : State} {x y z : W64}
    (hs : s.here.isSome = true) (hg : guardOn g s = .ok (false, s)) (ha : source false a s = .ok (x, s1))
    (hb : source false b s1 = .ok (y, s2)) (hc : source false c s2 = .ok (z, s3)) :
    scalarWord g d a b c lat f s = .ok ((), s3.advanced) := by
  unfold scalarWord
  rw [bind_ok hg, bind_ok ha, bind_ok hb, bind_ok hc]
  simp only [Bool.false_eq_true, if_false]
  exact advance_eq (source_here hc (source_here hb (source_here ha hs)))

/-- A source of register 0 is zero. -/
theorem source_zero {s : State} (h : s.here.isSome = true) : source true 0 s = .ok (0, s) := by
  obtain ⟨g, e⟩ := Option.isSome_iff_exists.mp h
  simp [source, readReg_zero e]

end Sys2Proof.Machine
end

