-- ==== Sys2Proof/Laws/Vector.lean ====
section
/-!
SUPPORT. What V's shared operations answer: putting a result, ending a word, committing results that need no assist.
-/
namespace Sys2Proof.Machine

@[simp] theorem modCtx_ok (f : Ctx → Ctx) (s : State) : modCtx f s = .ok (⟨⟩, s.modCtxHere f) := rfl
@[simp] theorem modCtx_bind_run {β : Type} (f : Ctx → Ctx) (k : PUnit → M β) (s : State) : (modCtx f >>= k) s = k ⟨⟩ (s.modCtxHere f) := rfl

theorem seat_modCtxHere (s : State) (f : Ctx → Ctx) : (s.modCtxHere f).seat = s.seat := by
  unfold State.modCtxHere; split
  · exact seat_modCtx _ _ _ _
  · rfl

@[simp] theorem modCtxHere_now (s : State) (f : Ctx → Ctx) : (s.modCtxHere f).now = s.now := by
  unfold State.modCtxHere; split <;> rfl

@[simp] theorem modCtxHere_curCore (s : State) (f : Ctx → Ctx) : (s.modCtxHere f).curCore = s.curCore := by
  unfold State.modCtxHere; split <;> rfl

@[simp] theorem modCtxHere_curEng (s : State) (f : Ctx → Ctx) : (s.modCtxHere f).curEng = s.curEng := by
  unfold State.modCtxHere; split <;> rfl

theorem here_isSome_modCtxHere (s : State) (f : Ctx → Ctx) : (s.modCtxHere f).here.isSome = s.here.isSome := by
  unfold State.modCtxHere; split
  · exact here_isSome_modCtx _ _ _ _
  · rfl

/-- What a view of the issuing engine says. -/
theorem here_some_iff {s : State} {h : Here} : s.here = some h ↔
    ∃ co, s.seat = some (h.k, h.asst) ∧ s.cores[s.curCore]? = some co ∧ s.ctx? s.curCore h.k = some h.ctx ∧ h.c = s.curCore ∧
      h.e = s.curEng ∧ h.eng = if h.asst then co.assist.eng else h.ctx.eng s.curEng := by
  unfold State.here
  constructor
  · intro e
    cases hs : s.seat with
    | none => simp [hs] at e
    | some p =>
      obtain ⟨k, a⟩ := p
      cases hc : s.cores[s.curCore]? with
      | none => simp [hs, hc] at e
      | some co =>
        cases hx : s.ctx? s.curCore k with
        | none => simp [hs, hc, hx] at e
        | some x =>
          simp only [hs, hc, hx, Option.bind_some, Option.map_some, Option.some.injEq] at e
          subst e
          exact ⟨co, rfl, rfl, hx, rfl, rfl, rfl⟩
  · rintro ⟨co, hs, hc, hx, h1, h2, h3⟩
    rw [hs]
    simp only [Option.bind_some, hc, hx, Option.map_some, Option.some.injEq]
    cases h
    simp only at h1 h2 h3
    simp [h1, h2, h3]

/-- The view after the issuing engine's context changes. -/
theorem here_modCtxHere {s : State} {h : Here} (e : s.here = some h) (f : Ctx → Ctx) :
    (s.modCtxHere f).here = some { h with ctx := f h.ctx, eng := if h.asst then h.eng else (f h.ctx).eng h.e } := by
  obtain ⟨co, hs, hc, hx, h1, h2, h3⟩ := here_some_iff.mp e
  have hm : s.modCtxHere f = s.modCtx s.curCore h.k f := by simp [State.modCtxHere, hs]
  rw [here_some_iff, hm]
  refine ⟨{ co with slots := co.slots.modify h.k (Option.map f) }, ?_, ?_, ?_, h1, h2, ?_⟩
  · rw [seat_modCtx]; exact hs
  · simp [State.modCtx, State.modCore, hc]
  · simp [ctx?_modCtx, hx]
  · cases ha : h.asst with
    | true => simp [h3, ha]
    | false => simp [h2, State.modCtx, State.modCore]

/-- A change of the context that leaves the engines alone leaves the issuing engine's fetch state. -/
theorem here_modCtxHere_engs {s : State} {h : Here} (e : s.here = some h) (f : Ctx → Ctx) (hf : ∀ x, (f x).engs = x.engs) :
    (s.modCtxHere f).here = some { h with ctx := f h.ctx } := by
  rw [here_modCtxHere e]
  obtain ⟨co, hs, hc, hx, h1, h2, h3⟩ := here_some_iff.mp e
  cases ha : h.asst with
  | true => simp
  | false => simp [Ctx.eng, hf, h3, ha, h2]

/-- The fetch state of an engine after a change of it. -/
theorem eng_modEng (x : Ctx) (e : Engine) (f : EngSt → EngSt) :
    (x.modEng e f).eng e = if e.tag < x.engs.length then f (x.eng e) else x.eng e := by
  by_cases hl : e.tag < x.engs.length
  · simp [Ctx.eng, Ctx.modEng, hl]
  · simp [Ctx.eng, Ctx.modEng, hl]

/-- The view after the issuing engine's fetch state changes, which a context whose engine list is short would not hold. -/
theorem here_modHere {s : State} {h : Here} (e : s.here = some h) (f : EngSt → EngSt) :
    (s.modHere f).here = some { h with ctx := if h.asst then h.ctx else h.ctx.modEng h.e f,
                                       eng := if h.asst || decide (h.e.tag < h.ctx.engs.length) then f h.eng else h.eng } := by
  obtain ⟨co, hs, hc, hx, h1, h2, h3⟩ := here_some_iff.mp e
  rw [here_some_iff]
  cases ha : h.asst with
  | true =>
    have hm : s.modHere f = s.modCore s.curCore fun co => { co with assist := { co.assist with eng := f co.assist.eng } } := by
      simp [State.modHere, hs, ha]
    rw [hm]
    refine ⟨{ co with assist := { co.assist with eng := f co.assist.eng } }, ?_, ?_, ?_, h1, h2, ?_⟩
    · have hk := seat_modCore (s := s) (c := s.curCore) (f := fun co => { co with assist := { co.assist with eng := f co.assist.eng } })
        (fun _ => rfl) (fun _ => rfl)
      exact hk.trans (hs.trans (by rw [ha]))
    · simp [State.modCore, hc]
    · rw [ctx?_modCore, modCore_curCore]; simpa [State.ctx?, hc] using hx
    · simp [h3, ha]
  | false =>
    have hm : s.modHere f = s.modCtx s.curCore h.k fun x => x.modEng s.curEng f := by
      simp [State.modHere, hs, ha, State.modEng]
    rw [hm]
    refine ⟨{ co with slots := co.slots.modify h.k (Option.map fun x => x.modEng s.curEng f) }, ?_, ?_, ?_, h1, h2, ?_⟩
    · rw [seat_modCtx, hs, ha]
    · simp [State.modCtx, State.modCore, hc]
    · simp [ctx?_modCtx, hx, h2]
    · simp only [Bool.false_or, decide_eq_true_eq, Bool.false_eq_true, if_false]
      rw [h2, show (s.modCtx s.curCore h.k fun x => x.modEng s.curEng f).curEng = s.curEng from rfl, eng_modEng, h3, ha]
      rfl

theorem pushEntry_ok {s : State} {d : Nat} {v : VReg} {k : Car} {lat : Nat} (hd : 32 ≤ d) (h : s.vFree d) :
    pushEntry (d - 32) { data := v, car := k } lat s = .ok ((), s.vPut d v (some k) lat) := by
  obtain ⟨g, e, hq⟩ := h
  rw [if_pos hd] at hq
  unfold pushEntry
  rw [here_bind e]
  simp only [get_bind_run, hq, require_bind_true]
  simp [State.vPut, hd]

theorem vPut_reg {s : State} {d : Nat} {v : VReg} {car : Option Car} {lat : Nat} (hd : d < 32) : s.vPut d v car lat =
    (s.modCtxHere (·.putReg d v car)).modHere fun en => { en with busy := (d, s.now + lat) :: en.busy } := by
  unfold State.vPut
  rw [if_neg (by omega)]

theorem vWrite_ok {s : State} {d : Nat} (v : VReg) (car : Option Car) (lat : Nat) (hd : d < 32) (h : s.vFree d) :
    vWrite d v car lat s = .ok ((), s.vPut d v car lat) := by
  obtain ⟨g, e, hq⟩ := h
  rw [if_neg (by omega)] at hq
  unfold vWrite
  rw [here_bind e]
  simp only [get_bind_run, hq, Bool.not_false, require_bind_true, modCtx_bind_run, modEng_ok]
  rw [vPut_reg hd]
  cases car <;> rfl

/-- A destination that can take a result takes it. -/
theorem vOut_ok {s : State} {d : Nat} (v : VReg) (car : Option Car) (lat : Nat) (h : s.vFree d) :
    vOut d v car lat s = .ok ((), s.vPut d v car lat) := by
  unfold vOut
  by_cases hd : 32 ≤ d
  · rw [if_pos hd, pushEntry_ok hd h]
    simp [State.vPut, hd]
  · rw [if_neg hd]
    exact vWrite_ok v car lat (by omega) h

theorem here_isSome_vPut (s : State) (d : Nat) (v : VReg) (car : Option Car) (lat : Nat) :
    (s.vPut d v car lat).here.isSome = s.here.isSome := by
  unfold State.vPut
  split
  · exact here_isSome_modCtxHere _ _
  · rw [here_isSome_modHere, here_isSome_modCtxHere]

@[simp] theorem modHere_now' (s : State) (f : EngSt → EngSt) : (s.modHere f).now = s.now := by
  unfold State.modHere; split <;> rfl

@[simp] theorem vPut_now (s : State) (d : Nat) (v : VReg) (car : Option Car) (lat : Nat) : (s.vPut d v car lat).now = s.now := by
  unfold State.vPut; split <;> simp

/-- A result put into one register leaves another one free. -/
theorem vFree_vPut {s : State} {d e : Nat} {v : VReg} {car : Option Car} {lat : Nat} (hd : d < 32) (he : e < 32) (hne : d ≠ e)
    (h : s.vFree e) : (s.vPut d v car lat).vFree e := by
  obtain ⟨g, hg, hq⟩ := h
  rw [if_neg (by omega)] at hq
  have h2 := here_modHere (here_modCtxHere_engs hg (·.putReg d v car) (fun _ => rfl)) fun en => { en with busy := (d, s.now + lat) :: en.busy }
  rw [← vPut_reg hd] at h2
  refine ⟨_, h2, ?_⟩
  rw [if_neg (by omega), vPut_now]
  simp only [EngSt.isBusy] at hq ⊢
  split
  · simp [hq, hne]
  · exact hq

/-- A group that can take a result takes it, one register after the other. -/
theorem vOutGroup_ok {s : State} {d g w : Nat} (l : List Nat) (lat : Nat) (h : s.vFreeGroup d g) :
    vOutGroup d g w l lat s = .ok ((), s.vPutGroup d g w l lat) := by
  unfold vOutGroup State.vPutGroup
  unfold State.vFreeGroup at h
  by_cases hg : g ≤ 1
  · rw [if_pos hg] at h
    rw [if_pos hg, if_pos hg]
    exact vOut_ok _ _ _ h
  · rw [if_neg hg] at h
    rw [if_neg hg, if_neg hg]
    obtain ⟨h32, hf⟩ := h
    have key : ∀ (js : List Nat) (t : State), js.Nodup → (∀ j ∈ js, j < g) → (∀ j ∈ js, t.vFree (d + j)) →
        (js.forM fun j => vWrite (d + j) (packElems w (groupPart g j l)) none lat) t =
          .ok ((), js.foldl (fun t j => t.vPut (d + j) (packElems w (groupPart g j l)) none lat) t) := by
      intro js
      induction js with
      | nil => intro t _ _ _; rfl
      | cons j rest ih =>
        intro t hn hl hfr
        show ((vWrite (d + j) (packElems w (groupPart g j l)) none lat) >>= fun _ => rest.forM _) t = _
        rw [bind_ok (vWrite_ok _ _ _ (by have := hl j (by simp); omega) (hfr j (by simp)))]
        rw [List.nodup_cons] at hn
        refine ih _ hn.2 (fun i hi => hl i (by simp [hi])) fun i hi => ?_
        have h1 := hl j (by simp)
        have h2 := hl i (by simp [hi])
        refine vFree_vPut (by omega) (by omega) ?_ (hfr i (by simp [hi]))
        intro he
        have : i = j := by omega
        exact hn.1 (this ▸ hi)
    exact key _ _ List.nodup_range (fun j hj => List.mem_range.mp hj) fun j hj => hf j (List.mem_range.mp hj)

/-- V's word ends. -/
theorem vEnd_ok {s : State} (n : Nat) (h : s.here.isSome = true) : vEnd n s = .ok ((), s.vDone n) := by
  unfold vEnd State.vDone
  rw [bind_ok (advance_eq h)]
  simp only [get_bind_run]
  by_cases hn : n ≤ 1
  · rw [if_pos hn, if_pos hn]; rfl
  · rw [if_neg hn, if_neg hn]; rfl

theorem here_isSome_vPutGroup (s : State) (d g w : Nat) (l : List Nat) (lat : Nat) :
    (s.vPutGroup d g w l lat).here.isSome = s.here.isSome := by
  unfold State.vPutGroup
  split
  · exact here_isSome_vPut _ _ _ _ _
  · generalize List.range g = js
    induction js generalizing s with
    | nil => rfl
    | cons j rest ih => rw [List.foldl_cons, ih, here_isSome_vPut]

/-- A word's results, none of which needs the assist routine, reach their destination. -/
theorem vCommit_ok {s0 u : State} {v : VShape} {res : List FRes} {items : List (List W64)} {h : Here} (e : u.here = some h)
    (hr : ∀ b d, h.eng.req ≠ .answer b d) (hc : u.ftz h.ctx.lid = true ∨ ∀ r ∈ res, r.sub = false)
    (hf : u.vFreeGroup v.x.d.toNat v.g) :
    vCommit s0 v res items u =
      .ok ((), (u.vPutGroup v.x.d.toNat v.g (typeWidth v.dt) (res.map (flushF v.dt)) v.lat).vDone v.cyc) := by
  have ha : assistAnswer u = .ok (none, u) := by
    unfold assistAnswer
    rw [here_bind e]
    cases hq : h.eng.req with
    | answer b d => exact absurd hq (hr b d)
    | none => rfl
    | wait n => rfl
  have hn : (if u.ftz h.ctx.lid then none else res.findIdx? (·.sub)) = none := by
    obtain hc | hc := hc
    · simp [hc]
    · split
      · rfl
      · rw [List.findIdx?_eq_none_iff]; simpa using hc
  unfold vCommit
  rw [bind_ok ha]
  simp only
  rw [here_bind e]
  simp only [get_bind_run, hn]
  rw [bind_ok (vOutGroup_ok _ _ hf)]
  exact vEnd_ok _ (by rw [here_isSome_vPutGroup, e]; rfl)

/-- A guard that is on lets V's word run, whatever its engine waits for. -/
theorem vGuard_on {g : Guard} {s : State} (h : guardOn g s = .ok (true, s)) (hs : s.here.isSome = true) : vGuard g s = .ok (true, s) := by
  obtain ⟨k, e⟩ := Option.isSome_iff_exists.mp hs
  unfold vGuard
  rw [here_bind e]
  cases k.eng.req <;> first | exact h | rfl

/-- A guard that is off stops V's word where no assist answer stands. -/
theorem vGuard_off {g : Guard} {s : State} (h : guardOn g s = .ok (false, s)) (hs : s.unanswered) : vGuard g s = .ok (false, s) := by
  obtain ⟨k, e, hr⟩ := hs
  unfold vGuard
  rw [here_bind e]
  cases hq : k.eng.req with
  | answer b d => exact absurd hq (hr _ _)
  | none => exact h
  | wait n => exact h

/-- A guarded-off word passes its first source on, or leaves its register alone. -/
theorem vOff_ok {s : State} {d w : Nat} {a : VIn} (hs : s.here.isSome = true) (hd : d < 32 ∨ s.vFree d) :
    vOff d a w s = .ok ((), s.vOffDone d a w) := by
  unfold vOff State.vOffDone
  by_cases h : 32 ≤ d
  · rw [if_pos h, if_pos h, bind_ok (pushEntry_ok h (hd.resolve_left (by omega)))]
    exact vEnd_ok 1 (by rw [here_isSome_vPut]; exact hs)
  · rw [if_neg h, if_neg h]
    exact vEnd_ok 1 hs

end Sys2Proof.Machine
end

