-- ==== Sys2Proof/Laws/Tables.lean ====
section
/-!
SUPPORT. What the shared operations of S's table words answer: the status, the read of an object, waiting behind the core's other engines.
-/
namespace Sys2Proof.Machine

/-- A table word ends with its status in its destination register. -/
theorem tableStatus_ok {s : State} {r n : Nat} (hf : s.regFree r) (hs : s.here.isSome = true) :
    tableStatus r n s = .ok ((), (s.withReg r (BitVec.ofNat 64 n) 1).advanced) := by
  unfold tableStatus
  rw [bind_ok (writeReg_ok _ _ hf)]
  exact advance_eq (by rw [here_isSome_withReg]; exact hs)

/-- An object that is not 32-byte aligned is the trap of class 5. -/
theorem readObject_mis {h : Here} {s0 s : State} {va : W64} {fin} (hv : va.toNat % 32 ≠ 0) :
    readObject h s0 va fin s = .error (.trap { cause := 5 }) := by
  unfold readObject; rw [if_pos hv]; rfl

/-- Asking for the launch's memory defaults changes nothing. -/
theorem tableMods_state {s t : State} {m : Mods} (h : tableMods s = .ok (m, t)) : t = s := by
  unfold tableMods launchHere at h
  obtain ⟨a, u, h1, h2⟩ := bind_ok_inv h
  obtain ⟨b, v, h3, h4⟩ := bind_ok_inv h1
  obtain ⟨-, rfl⟩ := here_ok_inv h3
  cases h4; cases h2; rfl

/-- Where an engine issues, the memory defaults of its launch are there. -/
theorem tableMods_ok {s : State} {h : Here} (e : s.here = some h) : ∃ m, tableMods s = .ok (m, s) := by
  unfold tableMods launchHere
  rw [bind_assoc]
  simp only [here_bind e, get_bind_run, pure_bind_run]
  exact ⟨_, rfl⟩

/-- A table word whose read is still on its way stalls. -/
theorem readObject_wait {h : Here} {s : State} {va : W64} {fin} (e : s.here = some h) (n : Nat) (hv : va.toNat % 32 = 0) (hr : h.eng.req = .wait n) :
    readObject h s va fin s = .error .stall := by
  unfold readObject
  obtain ⟨m, hm⟩ := tableMods_ok e
  rw [if_neg (by simp [hv]), bind_ok hm]
  simp [memIssue, hr]

/-- A table word whose read is answered goes on with the object. -/
theorem readObject_answer {h : Here} {s : State} {va : W64} {fin} {d} (e : s.here = some h) (hv : va.toNat % 32 = 0) (hr : h.eng.req = .answer true d) :
    readObject h s va fin s = fin (objOf d) (s.modHere fun en => { en with req := .none }) := by
  unfold readObject
  obtain ⟨m, hm⟩ := tableMods_ok e
  rw [if_neg (by simp [hv]), bind_ok hm]
  simp [memIssue, hr]

/-- A table word whose page can be read asks for its object. -/
theorem readObject_issue {h : Here} {s : State} {va : W64} {fin} {m ps} (hv : va.toNat % 32 = 0) (hr : h.eng.req = .none)
    (hm : tableMods s = .ok (m, s)) (hp : s.reads h (objectReq h va m) ps) :
    readObject h s va fin s = .ok ((), s.awaited h (objectReq h va m) ps) := by
  unfold readObject
  rw [if_neg (by simp [hv]), bind_ok hm]
  obtain ⟨ho, hp | ⟨pkg, off, hp, rfl⟩⟩ := hp
  · simp only [memIssue, hr, get_bind_run]
    simp only [objectReq] at hp
    rw [hp]
    simp only [AccKind.reads, AccKind.writes]
    simp only [Here.waiter] at ho
    simp [ho, State.awaited, State.withAccesses, objectReq, Here.agent, Here.waiter]
  · simp only [memIssue, hr, get_bind_run]
    simp only [objectReq] at hp
    rw [hp]
    simp only [AccKind.reads, AccKind.writes]
    simp only [Here.waiter] at ho
    simp [ho, State.awaited, State.withAccesses, objectReq, Here.agent, Here.waiter]

/-- No engine of the core has its turn still to come: the word goes on. -/
theorem afterOthers_ok {s : State} {h : Here} (e : s.here = some h) (hl : s.laterTurn h.c = none) : afterOthers s = .ok ((), s) := by
  unfold afterOthers
  rw [here_bind e]
  simp [hl]

/-- An engine of the core has its turn still to come: the word is tried again behind it. -/
theorem afterOthers_later {s : State} {h : Here} {tag} (e : s.here = some h) (hl : s.laterTurn h.c = some tag) (ht : s.curTry < 5) :
    afterOthers s = .error (.later tag) := by
  unfold afterOthers
  rw [here_bind e]
  simp only [get_bind_run, hl]
  rw [if_pos ht]; rfl

/-- A tile placed on a core leaves the issuing engine where it stands. -/
theorem here_isSome_placeTile (s : State) (c k t : Nat) (o : Obj) (first count live : Nat) :
    (s.placeTile c k t o first count live).here.isSome = s.here.isSome := by
  rw [State.placeTile, here_isSome_modCtx]
  split
  · exact here_isSome_modCore (fun _ => rfl) (fun _ => rfl) (fun _ => rfl)
  · rfl

end Sys2Proof.Machine
end

