-- ==== Sys2Proof/Tests/Slice0.lean ====
section
/-!
SUPPORT. The model's own tests: words written out from their encodings, ill-formed terms that the checks refuse, single steps
whose results the spec gives, and for the statements with hypotheses states and operands that meet them.
-/
set_option Elab.async false

namespace Sys2Proof.Tests
open Sys2Proof.Machine

/-! ## Terms -/

/-- No guard. -/
def noG : Guard := ⟨false, false, 0, 0⟩
/-- An R-format word with no type, SUB, rounding or mask. -/
def wR (d a b c : BitVec 6) : RWord := ⟨noG, d, a, b, c, 0, 0, 0, 0, 0, 63⟩
/-- The same with TYPE and SUB. -/
def wRT (d a b c : BitVec 6) (type sub : BitVec 4) : RWord := ⟨noG, d, a, b, c, type, sub, 0, 0, 0, 63⟩
/-- An I-format word. -/
def wI (d a : BitVec 6) (sub : BitVec 4) (imm : BitVec 32) : IWord := ⟨noG, d, a, sub, imm⟩
/-- An M-format word. -/
def wM (data base index : BitVec 6) (size scale : BitVec 4) (disp : BitVec 32) : MWord := ⟨noG, data, base, index, size, scale, disp⟩
/-- A T-format word. -/
def wT (ta tb td : BitVec 8) (bar : BitVec 10) (preg : BitVec 6) (cmd : BitVec 34) : TWord := ⟨noG, ta, tb, td, bar, preg, cmd⟩
/-- A J-format word. -/
def wJ (treg tbit : BitVec 6) (cond : BitVec 4) (off : BitVec 32) : JWord := ⟨noG, treg, tbit, cond, off⟩

/-! ## Decoding: words written out from the spec's encodings, granule 2 first -/

theorem test_decode_compare : decode .S 0x42000090_420C0000_3F000000 0 = .ok (.cmplt (wR 9 1 2 3)) := by decide
theorem test_decode_guarded_mov : decode .S 0x39890C40_80000000_3F000000 0 = .ok (.mov { wR 4 2 0 0 with guard := ⟨true, false, 9, 3⟩ }) := by
  decide
theorem test_decode_vadd : decode .V 0x20000030_62028000_3F000000 0 = .ok (.vadd (wRT 3 1 34 0 10 0)) := by decide
theorem test_decode_masked_vmax : decode .V 0x27C50860_F1028000_07000000 0 =
    .ok (.vmax { wRT 6 3 49 0 10 0 with guard := ⟨true, true, 5, 2⟩, mask := 7 }) := by decide
theorem test_decode_vwmul : decode .V 0x42000040_42008000_3F000000 0 = .ok (.vwmul (wRT 4 1 2 0 2 0)) := by decide
theorem test_decode_brc : decode .S 0x02000070_0C000000_FFFFFFA0 0 = .ok (.brc (wJ 7 0 3 (-96))) := by decide
theorem test_decode_loop : decode .S 0x060000A0_04000000_00000004 0 = .ok (.loop (wI 10 0 1 4)) := by decide
theorem test_decode_lset : decode .S 0x05000001_44000000_00000008 0 = .ok (.lset (wI 0 5 1 8)) := by decide
theorem test_decode_tdef : decode .S 0x88000000_001C0030_0000000D 0 = .ok (.tdef (wT 0 0 7 0 12 13)) := by decide
theorem test_decode_load : decode .S 0x60000051_87620000_00000010 0 = .ok (.ld (wM 5 6 7 6 2 16)) := by decide
theorem test_decode_cas : decode .S 0x690000A0_CB300000_00000008 0 = .ok (.acas (wM 10 3 11 3 0 8)) := by decide
theorem test_decode_copy : decode .X 0xC0000000_00140721_40000000 0 = .ok (.cpy (wT 0 0 5 7 8 0x140000000)) := by decide
theorem test_decode_bmv : decode .B 0xC0000010_14000320_00000000 0 = .ok (.bmv (wT 4 5 0 3 8 0)) := by decide
theorem test_decode_drain : decode .B 0xC4000000_00240210_04000000 0 = .ok (.cdrain (wT 0 0 9 2 4 0x4000000)) := by decide
theorem test_decode_cstat : decode .B 0xC5000000_00000014_00000013 0 = .ok (.cstat (wT 0 0 0 0 5 0x13)) := by decide
theorem test_decode_nrow : decode .S 0xA3000008_00180428_00000107 0 = .ok (.nrow (wT 2 0 6 4 10 0x107)) := by decide
theorem test_decode_vtld : decode .V 0x7800000C_000000C8_60000040 0 = .ok (.vtld (wT 3 0 0 0 50 0x60000040)) := by decide
theorem test_decode_barinit : decode .S 0x0C000000_0000070C_00000A00 0 = .ok (.barinit (wT 0 0 0 7 3 0xA00)) := by decide
theorem test_decode_remote_arrive : decode .S 0x0D000000_00000502_08040040 0 = .ok (.barriveR (wT 0 0 0 5 0 0x208040040)) := by decide
theorem test_decode_qpush : decode .S 0x98000002_00000C00_3F000000 0 = .ok (.qpush (wRT 0 8 0 0 0 3)) := by decide
theorem test_decode_rnext : decode .S 0x940000A0_00000000_3F000000 0 = .ok (.rnext (wR 10 0 0 0)) := by decide
theorem test_decode_xrd : decode .S 0xA8000050_80000400_3F000000 0 = .ok (.xrd (wRT 5 2 0 0 0 1)) := by decide
theorem test_decode_launch : decode .S 0x90000051_00000000_3F000000 0 = .ok (.launch (wR 5 4 0 0)) := by decide
theorem test_decode_tokpop : decode .S 0xB0000000_000C0120_00000002 0 = .ok (.tokpop (wT 0 0 3 1 8 2)) := by decide
theorem test_decode_vunpk : decode .V 0x45000020_3603C000_3F000000 0 = .ok (.vunpk (wRT 2 0 54 0 15 0)) := by decide
theorem test_decode_vlut : decode .V 0x50000040_A103C000_3F000000 0 = .ok (.vlut (wRT 4 2 33 0 15 0)) := by decide
theorem test_decode_vbxn : decode .V 0x47000080_0002E800_3F000000 0 = .ok (.vbxn (wRT 8 0 0 0 11 10)) := by decide
theorem test_decode_sqpush : decode .S 0x0A000001_C0001000_3F000000 0 = .ok (.sqpush (wRT 0 7 0 0 0 4)) := by decide
theorem test_decode_nh_lq : decodeService 0x0005850B = some (.nhLq 10 11) := by decide
theorem test_decode_nh_fpool : decodeService 0x0073428B = some (.nhFpool 5 6 7) := by decide
theorem test_decode_nh_trig : decodeService 0x0005E50B = some (.nhTrig 10 11) := by decide
theorem test_decode_modifier : decode .S 0xFE000230_00000000_00000000 0 = .ok (.memModifier ⟨4, 3, 0, 0⟩) := by decide
theorem test_decode_carried : decode .X 0xC1000000_00140721_00000000 0xC0000010_14000320_00000000 =
    .ok (.cpyf ⟨wT 0 0 5 7 8 0x100000000, 0xC0000010_14000320_00000000⟩) := by decide
/-- An unassigned opcode is refused by name (R85). -/
theorem test_decode_unassigned : decode .S 0xEE000000_00000000_00000000 0 = .bad .unassigned := by decide
/-- The Y words of one engine's map are not another's (R107). -/
theorem test_decode_other_engine : decode .S 0xC4000000_00240210_04000000 0 = .bad .unassigned := by decide

/-! ## Well-formedness: a term each check refuses beside one it takes (R85, R88 to R97, R217, R218) -/

theorem test_wf_unused_field : wellFormed .S (.clz (wR 1 2 0 0)) = true ∧ wellFormed .S (.clz (wR 1 2 3 0)) = false := by decide
theorem test_wf_own_inbound_code : wellFormed .S (.add (wR 1 49 2 0)) = true ∧ wellFormed .S (.add (wR 1 48 2 0)) = false ∧
    wellFormed .A (.add (wR 1 49 2 0)) = false ∧ wellFormed .B (.add (wR 1 50 2 0)) = false ∧ wellFormed .X (.add (wR 1 51 2 0)) = false := by decide
theorem test_wf_destination_code : wellFormed .S (.add (wR 47 1 2 0)) = true ∧ wellFormed .S (.add (wR 48 1 2 0)) = false := by decide
theorem test_wf_register_zero : wellFormed .S (.srd (wI 1 0 0 7)) = true ∧ wellFormed .S (.srd (wI 0 0 0 7)) = false := by decide
theorem test_wf_literal_range : wellFormed .S (.srd (wI 1 0 0 8)) = false ∧ wellFormed .S (.flgrd (wI 1 0 0 16)) = false := by decide
theorem test_wf_mask_register : wellFormed .V (.vcmplt (wRT 31 1 2 0 10 0)) = true ∧ wellFormed .V (.vcmplt (wRT 32 1 2 0 10 0)) = false := by
  decide
theorem test_wf_queue_code : wellFormed .V (.vqpop (wR 3 32 0 0)) = true ∧ wellFormed .V (.vqpop (wR 3 31 0 0)) = false := by decide
theorem test_wf_codebook_source : wellFormed .V (.vlut (wRT 4 2 33 0 15 0)) = true ∧ wellFormed .V (.vlut (wRT 4 2 48 0 15 0)) = false := by
  decide
theorem test_wf_block_register : wellFormed .S (.qpush (wRT 0 8 0 0 0 3)) = true ∧ wellFormed .S (.qpush (wRT 0 9 0 0 0 3)) = false := by decide
theorem test_wf_source_group : wellFormed .V (.vnrw (wRT 8 4 0 0 6 0)) = true ∧ wellFormed .V (.vnrw (wRT 8 5 0 0 6 0)) = false := by decide
theorem test_wf_destination_group : wellFormed .V (.vwmul (wRT 4 1 2 0 2 0)) = true ∧ wellFormed .V (.vwmul (wRT 5 1 2 0 2 0)) = false := by decide
theorem test_wf_count_on_v : wellFormed .V (.lset (wI 0 48 0 0)) = true ∧ wellFormed .V (.lset (wI 0 5 0 0)) = false := by decide
theorem test_wf_barrier_register : wellFormed .V (.barinit (wT 0 0 0 7 48 0)) = true ∧ wellFormed .V (.barinit (wT 0 0 0 7 3 0)) = false := by decide
theorem test_wf_unset_guard : wellFormed .S (.add { wR 1 2 3 0 with guard := ⟨true, true, 4, 5⟩ }) = true ∧
    wellFormed .S (.add { wR 1 2 3 0 with guard := ⟨false, true, 0, 0⟩ }) = false ∧
    wellFormed .V (.vqpop { wR 3 32 0 0 with guard := ⟨true, false, 32, 0⟩ }) = false := by decide
theorem test_wf_random_bits : wellFormed .S (.fadd { wRT 1 2 3 0 10 0 with rnd := 2, rb := 4, srn := 7 }) = true ∧
    wellFormed .S (.fadd { wRT 1 2 3 0 10 0 with rnd := 1, rb := 4 }) = false ∧
    wellFormed .S (.fmin { wRT 1 2 3 0 10 0 with rnd := 1 }) = false := by decide
theorem test_wf_mask : wellFormed .S (.add { wR 1 2 3 0 with mask := 7 }) = false ∧ wellFormed .V (.vadd { wR 1 2 3 0 with mask := 7 }) = true ∧
    wellFormed .V (.vadd { wR 1 2 3 0 with mask := 32 }) = false := by decide
theorem test_wf_type_and_sub : wellFormed .S (.add (wRT 1 2 3 0 1 0)) = false ∧ wellFormed .S (.mulh (wRT 1 2 3 0 0 2)) = true ∧
    wellFormed .S (.mulh (wRT 1 2 3 0 0 3)) = false ∧ wellFormed .S (.fadd (wRT 1 2 3 0 9 0)) = false := by decide
theorem test_wf_bit_number : wellFormed .S (.bset (wRT 1 2 0 63 0 0)) = true ∧ wellFormed .S (.bset (wRT 1 2 3 63 0 0)) = false ∧
    wellFormed .S (.bset (wRT 1 2 3 0 0 1)) = true ∧ wellFormed .S (.bset (wRT 1 2 3 1 0 1)) = false := by decide
theorem test_wf_memory_word : wellFormed .S (.ld (wM 5 6 7 6 6 16)) = true ∧ wellFormed .S (.ld (wM 5 6 7 8 0 0)) = false ∧
    wellFormed .S (.ld (wM 5 6 7 0 7 0)) = false ∧ wellFormed .S (.st (wM 5 6 7 4 0 0)) = false ∧ wellFormed .B (.ld (wM 5 6 7 0 0 0)) = false := by
  decide
theorem test_wf_atomic : wellFormed .A (.aadd (wM 5 6 7 2 0 0)) = true ∧ wellFormed .A (.aadd (wM 5 6 7 1 0 0)) = false ∧
    wellFormed .A (.aadd (wM 5 6 7 2 1 0)) = false := by decide
theorem test_wf_command_fields : wellFormed .S (.tfree (wT 0 0 7 0 0 0)) = true ∧ wellFormed .S (.tfree (wT 1 0 7 0 0 0)) = false ∧
    wellFormed .S (.tfree (wT 0 0 7 1 0 0)) = false ∧ wellFormed .S (.tfree (wT 0 0 7 0 3 0)) = false ∧
    wellFormed .S (.tfree (wT 0 0 7 0 0 1)) = false := by decide
theorem test_wf_branch : wellFormed .S (.br (wJ 0 0 0 (-96))) = true ∧ wellFormed .S (.br (wJ 1 0 0 0)) = false ∧
    wellFormed .S (.brc (wJ 7 3 6 0)) = false ∧ wellFormed .S (.brc (wJ 7 3 2 0)) = false ∧ wellFormed .V (.brc (wJ 32 0 0 0)) = false := by decide
theorem test_wf_loop : wellFormed .S (.loop (wI 0 0 5 32)) = true ∧ wellFormed .S (.loop (wI 0 0 0 0)) = false ∧
    wellFormed .S (.loop (wI 0 0 0 33)) = false ∧ wellFormed .S (.loop (wI 43 0 5 1)) = false ∧ wellFormed .V (.loop (wI 1 0 0 1)) = false := by decide
theorem test_wf_saturation : wellFormed .V (.vadd (wRT 1 2 3 0 7 1)) = true ∧ wellFormed .V (.vadd (wRT 1 2 3 0 10 1)) = false := by decide
theorem test_wf_conversion : wellFormed .V (.vcvt (wRT 0 4 0 0 10 2)) = true ∧ wellFormed .V (.vcvt (wRT 0 4 0 0 10 10)) = false ∧
    wellFormed .V (.vcvt (wRT 0 8 0 0 10 0)) = false ∧ wellFormed .V (.vcvt (wRT 1 4 0 0 10 2)) = false := by decide
theorem test_wf_widths : wellFormed .V (.vwadd (wRT 4 1 2 0 6 0)) = false ∧ wellFormed .V (.vwadd (wRT 4 1 2 0 4 1)) = false ∧
    wellFormed .V (.vnrw (wRT 8 4 0 0 2 1)) = false ∧ wellFormed .V (.vbxn (wRT 8 0 0 0 12 10)) = false := by decide
theorem test_wf_code_type : wellFormed .V (.vpack (wRT 1 2 0 0 13 0)) = true ∧ wellFormed .V (.vpack (wRT 1 2 0 0 12 0)) = false := by decide
theorem test_wf_index_group : wellFormed .V (.vperm (wRT 1 2 4 0 4 0)) = true ∧ wellFormed .V (.vperm (wRT 8 2 5 0 2 0)) = false := by decide
theorem test_wf_row_command : wellFormed .S (.nmax (wT 2 0 6 4 10 0)) = true ∧ wellFormed .S (.nmax (wT 2 1 6 4 10 0)) = false ∧
    wellFormed .S (.nscale (wT 2 1 6 4 10 0x200000000)) = false := by decide
theorem test_wf_tile_offset : wellFormed .V (.vtld (wT 3 0 0 0 48 0)) = true ∧ wellFormed .V (.vtld (wT 3 0 0 0 5 0)) = false := by decide
theorem test_wf_engine : wellFormed .V (.add (wR 1 2 3 0)) = false ∧ wellFormed .A (.fadd (wRT 1 2 3 0 10 0)) = false ∧
    wellFormed .S (.vadd (wR 1 2 3 0)) = false := by decide
theorem test_wf_overlap : overlaps (.vwmul (wRT 4 5 2 0 2 0)) = true ∧ overlaps (.vwmul (wRT 4 6 2 0 2 0)) = false ∧
    decode .V 0x42000040_45008000_3F000000 0 ≠ .ok (.vwmul (wRT 4 5 2 0 2 0)) := by decide
theorem test_wf_modifier : wellFormed .S (.memModifier ⟨4, 4, 3, 3⟩) = true ∧ wellFormed .S (.memModifier ⟨5, 0, 0, 0⟩) = false ∧
    wellFormed .S (.memModifier ⟨0, 5, 0, 0⟩) = false ∧ wellFormed .S (.memModifier ⟨0, 0, 4, 0⟩) = false := by decide
theorem test_wf_modifier_before : modifierOk ⟨1, 0, 0, 0⟩ (.ld (wM 5 6 7 6 2 16)) = true ∧ modifierOk ⟨2, 0, 0, 0⟩ (.ld (wM 5 6 7 6 2 16)) = false ∧
    modifierOk ⟨0, 0, 0, 0⟩ (.add (wR 1 2 3 0)) = false := by decide
theorem test_wf_step_is_no_word : wellFormed .S .placement = false ∧ encode .placement = none := by decide


/-! ## States for single steps -/

/-- A launch of one context on core 0: 64 bytes of text at address 0, a span of one core. -/
def lnch : Launch :=
  { newLaunch 4096 (BitVec.ofNat 1024 (64 * 2 ^ 64 + 4 * 2 ^ 384)) [] [] 0 0 with phase := .placed 0 0 0 }

/-- Its context in slot 0 of core 0, whose engine stands at word 1 of a section of four, changed by `f`. -/
def ctxOf (e : Engine) (f : Ctx → Ctx) : Ctx :=
  f (({ freshCtx lnch 0 0 with
        sregs := List.replicate 4 ((List.range 48).map (BitVec.ofNat 64)),
        vregs := (List.range 32).map (BitVec.ofNat 4096) } : Ctx).modEng e fun en =>
    { en with pc := 20, pos := 1, sect := some { hdr := 0, len := 4, done := false, n := 0, widx := 1, copyQ := none },
              secs := [{ n := 0, done := false, finished := false, bind := none }] })

/-- Text: a section of engine `e` with four words, `w` the second of them and no-operations about it; then the header of an empty
section of the next engine; no header waits. -/
def textOf (e : Engine) (w : W96) : List Byte :=
  let nop := bytesLE 12 ((encode (.nop (wI 0 0 0 0))).getD 0).toNat
  let free := 0x200 * (2 ^ 40 + 2 ^ 30 + 2 ^ 20 + 2 ^ 10)
  bytesLE 8 (e.tag * 2 ^ 61 + 4 * 2 ^ 50 + free) ++ nop ++ bytesLE 12 w.toNat ++ nop ++ nop ++ bytesLE 8 ((e.tag + 1) % 5 * 2 ^ 61 + free)

/-- Core 0 with that context and text. -/
def coreOf (e : Engine) (f : Ctx → Ctx) (w : W96) : Core :=
  { Core.zero with slots := [some (ctxOf e f), none, none, none], cur := List.replicate 5 (some 0),
                   icache := [{ asid := 0, va := 0, bytes := textOf e w }] }

/-- The machine with that core alone, its launch placed. -/
def st (e : Engine) (f : Ctx → Ctx := id) (w : W96 := 0) : State :=
  { State.reset with cores := [coreOf e f w], curEng := e, place := { State.reset.place with launches := [lnch] } }

/-- A tile-shape object of a type and level with these extents and strides, dimension 0 first (R56). -/
def objDims (type level : Nat) (l : List (Nat × Nat)) : Obj :=
  BitVec.ofNat 768 (4 * type + level +
    (((l ++ List.replicate (6 - l.length) (1, 0)).zipIdx).map fun (p : (Nat × Nat) × Nat) => (p.1.1 + p.1.2 * 2 ^ 32) * 2 ^ (128 + 64 * p.2)).sum)

/-- The sealed copy of an object placed at a run of stripes or granules. -/
def placedObj (o : Obj) (first count : Nat) : Obj := o ||| BitVec.ofNat 768 (2 ^ 736 + count * 2 ^ 720 + first * 2 ^ 704)

/-- A context that holds tile `t`. -/
def withTile (t : Nat) (o : Obj) (first count : Nat) (x : Ctx) : Ctx :=
  { x with tiles := x.tiles ++ [(t, { obj := placedObj o first count, dirty := [], live := 0 })] }

/-- The answer of an operation is as named. -/
def gives {α : Type} [DecidableEq α] (m : M α) (s : State) (a : α) (u : State) : Bool :=
  match m s with
  | .ok (b, t) => decide (b = a) && decide (t = u)
  | .error _ => false

theorem gives_ok {α : Type} [DecidableEq α] {m : M α} {s u : State} {a : α} (h : gives m s a u = true) : m s = .ok (a, u) := by
  unfold gives at h
  split at h
  · next b t hm => simp only [Bool.and_eq_true, decide_eq_true_eq] at h; rw [hm, h.1, h.2]
  · cases h

/-- The view of the issuing engine exists and satisfies `p`. -/
theorem here_any {s : State} {p : Here → Bool} (h : s.here.any p = true) : ∃ g, s.here = some g ∧ p g = true := by
  cases hs : s.here with
  | none => rw [hs] at h; cases h
  | some g => rw [hs] at h; exact ⟨g, rfl, h⟩

theorem regFree_of {s : State} {r : Nat} (h : (s.here.any fun g => !g.eng.isBusy s.now r) = true) : s.regFree r := by
  obtain ⟨g, hg, hb⟩ := here_any h
  exact .inr ⟨g, hg, by simpa using hb⟩

/-- A next state satisfies `p`. -/
def after (o : Host.Outcome State Fault Refusal) (p : State → Bool) : Bool :=
  match o with
  | .next t => p t
  | _ => false

/-! ## Context changes -/

/-- Register `r` of file `f` holds `v`. -/
def withSreg (f r : Nat) (v : W64) (x : Ctx) : Ctx := { x with sregs := x.sregs.modify f (·.set r v) }
/-- An answer has come for the word of an engine. -/
def answered (e : Engine) (ok : Bool) (d : List W64) (x : Ctx) : Ctx := x.modEng e fun en => { en with req := .answer ok d }
/-- Barrier `b` is live with EXPECT 4, COUNT `c` and phase `p`. -/
def withBar (b : Nat) (c : BitVec 32) (p : Bool) (x : Ctx) : Ctx :=
  { x with bars := x.bars ++ [(b, { expect := 4, count := c, phase := p, ovf := false, lost := false, ref := false })] }
/-- A guard that is off. -/
def offG : Guard := ⟨true, false, 0, 0⟩
/-- A translation of the first 64 KiB to physical address 0. -/
def leafAt0 : Leaf := { asid := 0, mirror := false, page := 0, level := 0, pte := 0x1E1, ptePa := 0x100 }
/-- The core's TLB holds that translation. -/
def translated (s : State) : State := s.modCore 0 fun co => { co with tlb := [leafAt0] }
/-- 64 × 4 elements of f32 in 1024 bytes. -/
def tileF32 : Obj := objDims 10 0 [(64, 1), (4, 64)]
/-- The words of an object. -/
def objWords (o : Obj) : List W64 := (List.range 12).map fun i => BitVec.ofNat 64 (bitsOf o (64 * i + 63) (64 * i))
/-- The launch changed. -/
def withLaunch (f : Launch → Launch) (s : State) : State := s.modLaunch 4096 f
/-- A stage map whose queue 3, of four entries, is pushed by stage 0 and popped by stage 1. -/
def staged (l : Launch) : Launch :=
  { l with record := l.record ||| BitVec.ofNat 1024 (8 * 2 ^ 192), smap := List.replicate 152 0 ++ bytesLE 8 (2 + 1 * 2 ^ 13) ++ List.replicate 96 0 }
/-- A parameter block of 64 bytes that is the descriptor of 64 elements of f32 (R270). -/
def described (l : Launch) : Launch :=
  { l with record := l.record ||| BitVec.ofNat 1024 (64 * 2 ^ 96),
           pblock := bytesLE 64 (64 + 2 ^ 32 + 2 ^ 64 + 2 ^ 96 + 2 ^ 128 + 2 ^ 160 + 4 * 2 ^ 256 + 10 * 2 ^ 448) }
/-- 512 elements of i8. -/
def tileI8 : Obj := objDims 2 0 [(512, 1)]
/-- 64 elements of w32. -/
def tileW32 : Obj := objDims 7 0 [(64, 1)]
/-- 32 × 32 elements of BX8. -/
def tileBX : Obj := objDims 11 0 [(32, 1), (32, 32)]
/-- Four rows of 128 codes of one bit, and their buckets. -/
def tileC1 : Obj := objDims 13 0 [(128, 1), (4, 128)] ||| BitVec.ofNat 768 (1152 * 2 ^ 640)
/-- The buckets of four rows of 128 codes of one bit (R71). -/
def tilePB : Obj := objDims 16 0 [(128, 0), (4, 288)] ||| BitVec.ofNat 768 (1152 * 2 ^ 640)
/-- A list of 16 keys with values of f32 (R73). -/
def tileKV : Obj := objDims 19 0 [(16, 1)] ||| BitVec.ofNat 768 (10 * 2 ^ 12)
/-- The registers 20 to 24 of file `f` hold zero. -/
def zeroRegs (f : Nat) : Ctx → Ctx :=
  withSreg f 20 0 ∘ withSreg f 21 0 ∘ withSreg f 22 0 ∘ withSreg f 23 0 ∘ withSreg f 24 0
/-- A record of a dense product over letter 0 of two operands of 32 by 32, the other letters in the key (R75). -/
def recDense : Obj :=
  BitVec.ofNat 768 (3 * 2 ^ 8 + 1 * 2 ^ 12 + 6 * 2 ^ 20 + (31 + 31 * 2 ^ 16 + 31 * 2 ^ 32) * 2 ^ 64 + 5 * 2 ^ 208 + 0xFFFF10 * 2 ^ 256 +
    0xFFFF20 * 2 ^ 280)

/-! ## Hypotheses as checks -/

/-- An operation answers, with what `p` says. -/
def okAnd {α : Type} (m : M α) (s : State) (p : α → State → Bool) : Bool :=
  match m s with
  | .ok (a, u) => p a u
  | .error _ => false
/-- An engine issues and its word is not guarded off. -/
def runs (g : Guard) (s : State) : Bool := s.here.isSome && gives (guardOn g) s true s
/-- An engine issues and its word is guarded off. -/
def isOff (g : Guard) (s : State) : Bool := s.here.isSome && gives (guardOn g) s false s
/-- `State.regFree`. -/
def free (s : State) (r : Nat) : Bool := r == 0 || s.here.any fun g => !g.eng.isBusy s.now r
/-- `State.vFree`. -/
def vFreeB (s : State) (d : Nat) : Bool := s.here.any fun h => if 32 ≤ d then h.ctx.queueRoom (d - 32) else !h.eng.isBusy s.now d
/-- `State.vFreeGroup`. -/
def vFreeG (s : State) (d g : Nat) : Bool :=
  if g ≤ 1 then vFreeB s d else decide (d + g ≤ 32) && (List.range g).all fun j => vFreeB s (d + j)
/-- `State.commits`. -/
def commitsB (u : State) (res : List FRes) : Bool :=
  u.here.any fun h => (match h.eng.req with | .answer _ _ => false | _ => true) && (u.ftz h.ctx.lid || res.all fun r => !r.sub)
/-- Two values wait for the issuing engine from A. -/
def fed (e : Engine) (x : Ctx) : Ctx := { x with inqs := x.inqs.set (inqIndex e.tag 1) [9, 10] }
/-- The step gives this state. -/
def isNext (o : Host.Outcome State Fault Refusal) (t : State) : Bool := after o fun u => decide (u = t)

/-! ## States that meet the hypotheses of the statements: words -/

theorem wit_scalar : ([wR 4 7 2 3, wR 0 49 2 3, { wR 47 47 47 47 with sub := 1 }].all fun x => let s := st .S (fed .S)
    runs x.guard s && scalarForms.all fun p => okAnd (takeSources (p.srcs x)) s fun l u => l.length == 3 && free u x.d.toNat) = true := by
  decide +kernel
theorem wit_immediate : ([wI 5 9 0 0, wI 0 49 1 0xFFFFFFFF, wI 47 9 2 0x80000000].all fun x => let s := st .X (fed .X)
    runs x.guard s && okAnd (source true x.a) s fun _ u => free u x.d.toNat) = true := by decide +kernel
theorem wit_lea : (let x := wM 47 6 49 0 3 (-4); let s := st .B (fed .B)
    runs x.guard s && okAnd (takeSources [x.base, x.index]) s fun l u => l.length == 2 && free u x.data.toNat) = true := by decide +kernel
theorem wit_division : (let s := st .A (withSreg 1 9 (1 <<< 63) ∘ withSreg 1 10 0)
    runs noG s && okAnd (takeSources [9, 10]) s fun l u => l == ([1 <<< 63, 0] : List W64) && okAnd (source true 9) u fun _ v =>
      v.here.any (fun g => !g.eng.isBusy v.now 64) && free v 5) = true := by decide +kernel
theorem wit_compare : ([0, 1, 2].all fun sub => let x := { wR 47 9 49 63 with sub := sub }; let s := st .S (fed .S)
    runs x.guard s && okAnd (takeSources [x.a, x.b]) s fun l u => l.length == 2 && gives (readReg x.d.toNat) u 47 u) = true := by decide +kernel
theorem wit_bins_movhi : (let s := st .S
    [wR 5 9 63 0, wR 5 9 0 63].all (fun x => runs x.guard s && okAnd (source true x.a) s fun _ u => gives (readReg 5) u 5 u)) = true := by
  decide +kernel
theorem wit_float : ([0, 1, 2, 3].all fun rnd => let x := { wRT 4 9 7 49 10 0 with rnd := rnd, rb := 3, srn := 5 }; let s := st .S (fed .S)
    runs x.guard s && floatForms.all fun p => okAnd (takeSources (p.srcs x)) s fun l u => l.length == 3 && okAnd (roundingS x) u fun _ v =>
      decide (v = u) && free u 4) = true := by decide +kernel
theorem wit_fcvt : (let x := wRT 4 9 0 0 6 10; let s := st .S
    runs x.guard s && gives (takeSources [x.a, 0, 0]) s [9, 0, 0] s && okAnd (roundingS x) s fun _ v => decide (v = s) && free s 4) = true := by
  decide +kernel
/-- R47: an i32 below zero saturates to 0 as a w32, a w32 beyond the greatest i32 to that. -/
theorem test_fcvt_saturates : fcvtResult 7 6 rne 0xFFFFFFFF = 0 ∧ fcvtResult 6 7 rne 0xFFFFFFFF = 0x7FFFFFFF ∧
    fcvtResult 7 6 rne 5 = 5 := by decide +kernel
theorem wit_guarded_off : (let x := { wR 4 7 2 3 with guard := offG }; let y := { wR 4 49 2 3 with guard := offG }; let s := st .S (fed .S)
    isOff offG s && (scalarForms.all fun p => (p.srcs x).all fun r => decide (r.toNat < 48)) && okAnd (source true y.a) s fun v _ => v == 9) = true := by
  decide +kernel

/-- A branch whose target is the first header of the engine's text, or the end of the text. -/
theorem wit_branch : (let s := st .A; s.here.any fun h => runs noG s && gives (checkTarget (branchTarget h 0)) s () s && decide (h.eng.stack.length < 8) &&
    okAnd (testReg 7) s fun v u => decide (u = s) && branchTest v 0 3) = true := by decide +kernel
theorem wit_branch_malformed : (let s := st .A; s.here.any fun h => [2, 60, 56].all fun off => okAnd textLen s fun len _ =>
    decide ((branchTarget h off).toNat % 4 ≠ 0 ∨ len < (branchTarget h off).toNat + 8) || okAnd (headerAt (branchTarget h off).toNat) s fun w _ =>
      bitsOf w 63 61 != h.e.tag) = true := by decide +kernel
theorem wit_call_full : (let s := st .A fun x => x.modEng .A fun en => { en with stack := List.replicate 8 0 }
    s.here.any fun h => runs noG s && decide (8 ≤ h.eng.stack.length)) = true := by decide +kernel
theorem wit_branch_not_taken : (let s := st .A; runs noG s && isOff offG s && okAnd (testReg 7) s fun v _ => !branchTest v 0 2) = true := by
  decide +kernel
theorem wit_ret : (let s := st .A; let t := st .A fun x => x.modEng .A fun en => { en with stack := [56] }
    runs noG s && s.here.any (fun h => h.eng.stack == []) && runs noG t && t.here.any fun h => h.eng.stack.getLast? == some 56) = true := by decide +kernel
theorem wit_lset : (let s := st .A; runs noG s && isOff offG s && gives (countOf true 7) s 7 s && okAnd (countOf false 7) s fun _ _ => true) = true := by
  decide +kernel
/-- Bodies of one word and of the section's last, with counts above zero and with a zero count. -/
theorem wit_loop : ([(1, 3), (2, 3), (2, 0)].all fun (p : BitVec 32 × BitVec 32) =>
    let s := st .A fun x => x.modEng .A fun en => { en with cnt := [p.2, 2, 0, 0, 0, 0] }
    runs noG s && isOff offG s && s.here.any fun h => decide (h.widx + p.1.toNat % 64 < h.slen) &&
      okAnd (checkBody h.e (h.hdr + 8) (p.1.toNat % 64) (h.widx + 1)) s fun ws t => ws.length == p.1.toNat && decide (t = s) &&
        ((loopTotal h.eng.cnt 2 == 0) == (p.2 == 0)) && (List.range 2).all fun j => !h.eng.isBusy t.now (10 + j)) = true := by decide +kernel
theorem wit_loop_passed : (let s := st .A; okAnd (advance 2) s fun _ v => v.here.any fun h => h.widx == 3) = true := by decide +kernel
theorem wit_loop_counts : (let cnt : List (BitVec 32) := [1, 4294967295, 2]; decide (3 ≤ cnt.length) && cnt.all (· != 0) && decide (5 < loopTotal cnt 3)) = true := by
  decide +kernel
/-- WSEC at an engine that has dropped out, one that has retired exactly enough, one short of it. -/
theorem wit_wsec : ([(true, 0), (false, 5), (false, 4)].all fun (p : Bool × BitVec 32) =>
    let s := st .A fun x => x.modEng .B fun en => { en with rc := p.2, dropped := p.1 }
    runs noG s && gives (countOf true 0) s 0 s && Engine.ofTag 3 == some .B && s.here.any fun g => (g.ctx.eng .B).dropped == p.1 &&
      decide (0 ≤ ((g.ctx.eng .B).rc - (g.secN + (0 + 4) + 1)).toInt) == (p.2 == 5)) = true := by decide +kernel
theorem wit_trap : (let s := st .A; runs noG s && isOff offG s && gives (countOf true 7) s 7 s && s.here.any fun g => decide (g.ctx.trap = none) && !g.asst) = true := by
  decide +kernel
theorem wit_swr : (let s := st .S; runs noG s && gives (source true 7) s 7 s && s.here.any fun h => (s.launch? h.ctx.lid).isSome) = true := by
  decide +kernel
theorem wit_pbind : ([0, 4088, 4096, 4].all fun (v : W64) => let s := st .S (withSreg 0 7 v)
    runs noG s && gives (source true 7) s v s && (decide (v.toNat % 8 = 0 ∧ v.toNat < 4096) == (v == 0 || v == 4088))) = true := by decide +kernel
theorem wit_sqpush : ([7, 8].all fun n => let s := st .S fun x => { x with inqs := x.inqs.set (inqIndex 4 0) (List.replicate n 1) }
    gives (source true 7) s 7 s && s.here.any fun g => ((g.ctx.inqs[inqIndex 4 g.e.tag]?).getD []).length == n) = true := by decide +kernel

/-- The accesses of a request whose address translates. -/
def issuesB (u : State) (r : MemReq) : Bool :=
  u.here.any fun h => !h.asst && decide (h.eng.req = .none) && decide (r.mods.race ≠ 1) &&
    (match u.find (dieOf h.c) (some h.c) (asidOf h.ctx.lid) r.va r.size r.kind.code with
     | .parts ps => decide (u.badLine (dieOf h.c) r.kind ps = none) && (!r.kind.writes || u.leadRoom (dieOf h.c) (u.writesAhead (dieOf h.c) + 1)) &&
         (!r.kind.reads || (decide (u.outstanding h.waiter < 16) && (r.dest == 0 || !h.eng.isBusy u.now r.dest)))
     | _ => false)
/-- At the start of a line, its last byte, and across two lines. -/
theorem wit_load_store : ([0, 57, 61].all fun d => let x := wM 5 6 0 6 0 d; let s := translated (st .S)
    runs noG s && s.here.any fun h => okAnd (takeSources [x.base, x.index]) s fun l u => okAnd (modsHere 0) u fun m v => decide (v = u) &&
      issuesB u (loadReq h x ((l[0]?).getD 0) ((l[1]?).getD 0) m) && okAnd (takeSources [x.data, x.base, x.index]) s fun k w => okAnd (modsHere 1) w fun n _ =>
        issuesB w (storeReq h x ((k[0]?).getD 0) ((k[1]?).getD 0) ((k[2]?).getD 0) n)) = true := by decide +kernel
theorem wit_atomic : (let s := translated (st .A); runs noG s && gives (takeSources [6, 7]) s [6, 7] s && gives (readReg 5) s 5 s && okAnd (modsHere 2) s fun m _ => s.here.any fun h =>
    atomicForms.all fun p => issuesB s (atomicReq h p.2 (wM 5 6 7 2 0 10) 6 7 5 m) && decide ((6 + immOf 10 : W64).toNat % mSize (wM 5 6 7 2 0 10) = 0) &&
      decide ((6 + immOf 11 : W64).toNat % mSize (wM 5 6 7 2 0 11) ≠ 0)) = true := by decide +kernel
theorem wit_load_answer : (let s := st .S (answered .S true [0x8234]); let t := s.modHere fun en => { en with req := .none }
    runs noG s && gives (takeSources [6, 0]) s [6, 0] s && okAnd (modsHere 0) s (fun _ u => decide (u = s)) && free t 5 &&
      s.here.any fun h => decide (h.eng.req = .answer true [0x8234])) = true := by decide +kernel
/-- In the block, its last word, beyond it, misaligned. -/
theorem wit_pld : ([0, 52, 56, 3].all fun d => let x := wM 5 8 0 2 0 d; let s := withLaunch described (st .A)
    runs noG s && okAnd (takeSources [x.base, x.index]) s fun _ u => free u 5 && u.here.any fun h => (u.launch? h.ctx.lid).isSome) = true := by decide +kernel
/-- A context whose engine has a fence under way, or none, of order `o`. -/
def fencing (o : BitVec 3) (f : Option (Nat × Nat)) : State :=
  st .A fun x => x.modEng .A fun en => { en with modifier := some ⟨o, 3, 0, 0⟩, fence := f }
/-- The hypotheses of FENCE's clauses in it. -/
def fenceMet (o : BitVec 3) (f : Option (Nat × Nat)) : Bool :=
  let s := fencing o f
  runs noG s && okAnd (modsHere 2) s (fun m u => decide (u = s) && m.order == o.toNat && s.here.any fun h => s.fenceDone h m 0 1) && s.here.any fun h =>
    decide (h.eng.fence = f) && decide (s.fenceBehind h.c = none) && f.all (fun p => s.tileWritesDone h.c h.k p.1) && s.fencePerformed h 1 &&
      s.causedApplied (dieOf h.c) (List.range 8)
theorem wit_fence_first : fenceMet 2 none = true := by decide +kernel
theorem wit_fence_acquire : fenceMet 1 (some (0, 1)) = true := by decide +kernel
theorem wit_fence_release : fenceMet 2 (some (0, 1)) = true := by decide +kernel
theorem wit_fence_full : fenceMet 4 (some (0, 1)) = true := by decide +kernel
/-- X has still to issue in the cycle; a tile write of V is on its way. -/
theorem wit_fence_stays :
    (let s : State := { fencing 0 none with agenda := [.core 0 .X] }
     let d : State := (fencing 0 none).modCtx 0 0 fun x => { x with twrites := [{ t := 0, bytes := [], issued := 0, due := 9, secN := 0 }] }
     s.here.any (fun h => decide (s.fenceBehind h.c = some 4)) &&
       okAnd (modsHere 2) d fun m _ => d.here.any fun h => decide (h.eng.fence = none) && !d.fenceDone h m 0 d.nextId) = true := by decide +kernel

/-! ## States that meet the hypotheses: tables, launches, queues, barriers -/

/-- A TDEF whose object has been read. -/
def defining (f : Ctx → Ctx) : State := st .S (answered .S true (objWords tileF32) ∘ withSreg 0 12 64 ∘ f)
/-- The answer taken. -/
def taken (s : State) : State := s.modHere fun en => { en with req := .none }
/-- The hypotheses of TDEF's three answers. -/
def tdefMet (s : State) (status : Nat) : Bool :=
  let t := taken s
  runs noG s && gives (readReg 12) s 64 s && s.here.any fun h => decide (h.eng.req = .answer true (objWords tileF32)) && free t 13 &&
    !(h.ctx.tiles.any (·.1 == 7)) && tileValid (objOf (objWords tileF32)) &&
    let live := (((t.cores[h.c]?).map Core.liveTiles).getD []).length
    match t.tileRoom h.c (objOf (objWords tileF32)) with
    | some (f, n) => if status = 0 then decide (live < 256) && free (t.placeTile h.c h.k 7 (objOf (objWords tileF32)) f n (t.now + 1)) 13
                     else status == 1 && decide (256 ≤ live)
    | none => status == 2 && decide (live < 256)
theorem wit_tdef : tdefMet (defining id) 0 = true := by decide +kernel
theorem wit_tdef_no_room : tdefMet (defining (withTile 1 (objDims 10 0 [(65536, 1)]) 0 256)) 2 = true := by decide +kernel
theorem wit_tdef_no_entry : tdefMet (defining fun x =>
    { x with tiles := (List.range 256).map fun i => (300 + i, { obj := placedObj tileF32 0 1, dirty := [], live := 0 }) }) 1 = true := by decide +kernel
/-- The hypotheses of CDEF's two answers, `n` records being held. -/
def cdefMet (n : Nat) : Bool :=
  let s := st .S (answered .S true (objWords recDense) ∘ withSreg 0 12 64 ∘ fun x => { x with recs := List.replicate n (6, 0, 0) })
  runs noG s && gives (readReg 12) s 64 s && free (taken s) 13 && recordValid (objOf (objWords recDense)) && s.here.any fun h =>
    !(h.ctx.recs.any (·.1 == 5)) && (((s.cores[h.c]?).map (·.slots)).getD []).foldl (fun m y => m + ((y.map (·.recs)).getD []).length) 0 == n
theorem wit_cdef : (cdefMet 63 && cdefMet 64) = true := by decide +kernel
theorem wit_tile_words : (let s := st .S (withTile 7 tileF32 0 1 ∘ fun x => { x with recs := [(5, recDense, 0)] })
    runs noG s && gives (readReg 12) s 12 s && s.here.any fun h => h.ctx.tiles.any (fun q => q.1 == 7 && decide (q.2.live ≤ s.now)) &&
      (s.laterTurn h.c).isNone && !(s.tileInUse h.c h.k 7 s.now) && s.bad.isEmpty && !(h.ctx.tiles.any (·.1 == 8)) && h.ctx.recs.any (·.1 == 5) &&
      !(h.ctx.recs.any (·.1 == 6)) && free s 11) = true := by decide +kernel
/-- The object of a TDEF and a CDEF is read from this package and from another; its address is misaligned; its read is on its way; what it is
breaks the rules. -/
theorem wit_table_reads : (([64, 2 <<< 62 ||| 5 <<< 44 ||| 64] : List W64).all fun (va : W64) => let s := translated (st .S (withSreg 0 12 va)); let u : State := { s with ctl := { s.ctl with pkgid := 5 } }
    runs noG u && gives (readReg 12) u va u && okAnd tableMods u (fun _ v => decide (v = u)) && u.here.any fun h => decide (h.eng.req = .none) &&
      !(h.ctx.tiles.any (·.1 == 7)) && !(h.ctx.recs.any (·.1 == 5)) && decide (u.outstanding h.waiter < 16) &&
      match u.find (dieOf h.c) (some h.c) (asidOf h.ctx.lid) va 96 AccKind.load.code with
      | .parts ps => va == 64 && !ps.isEmpty
      | .peer pkg off => va != 64 && pkg == 5 && off == 64
      | _ => false) = true := by decide +kernel
theorem wit_table_waits : (let s := st .S (withSreg 0 12 64 ∘ withSreg 0 13 65 ∘ fun x => x.modEng .S fun en => { en with req := .wait 4 })
    let t := st .S (answered .S true (List.replicate 12 0xFFFF) ∘ withSreg 0 12 64)
    runs noG s && runs noG t && gives (readReg 12) s 64 s && gives (readReg 13) s 65 s && gives (readReg 12) t 64 t && s.here.any (fun h => decide (h.eng.req = .wait 4)) &&
      t.here.any fun h => decide (h.eng.req = .answer true (List.replicate 12 0xFFFF)) && !(tileValid (objOf (List.replicate 12 0xFFFF))) &&
        !(recordValid (objOf (List.replicate 12 0xFFFF)))) = true := by decide +kernel
theorem wit_table_off : isOff offG (st .S) = true := by decide +kernel
/-- TFREE and CFREE with an engine's turn to come; TFREE of a tile that a command uses, that a chain uses, that TDEF defines in this cycle. -/
theorem wit_table_frees : (let s := st .S (withTile 7 tileF32 0 1 ∘ withTile 8 tileF32 1 1 ∘ fun x => { x with
        recs := [(5, recDense, 0)], tiles := x.tiles ++ [(9, { obj := placedObj tileF32 2 1, dirty := [], live := 1 })],
        engs := x.engs.modify 2 fun en => { en with chained := [8] } })
    let t : State := { s with agenda := [.core 0 .B, .core 0 .X] }
    runs noG s && runs noG t && t.laterTurn 0 == some 4 && decide (t.curTry < 5) && t.here.isSome && s.here.any fun h => (s.laterTurn h.c).isNone &&
      h.ctx.recs.any (·.1 == 5) && h.ctx.tiles.any (fun q => q.1 == 9 && decide (s.now < q.2.live)) && s.tileInUse h.c h.k 8 0 &&
      ({ s with cmds := [{ h.command s (.cpy (wT 7 0 1 7 20 0)) 1 1 7 [] noMods with issued := 0 }] } : State).tileInUse h.c h.k 7 0) = true := by decide +kernel
/-- R67: a TFREE that has waited since cycle 2 is held by a use that started then, not by a copy issued after. -/
theorem test_tfree_since : (let s := st .S (withTile 7 tileF32 0 1); s.here.any fun h => [(2, true), (3, false)].all fun (p : Nat × Bool) =>
    ({ s with cmds := [{ h.command s (.cpy (wT 7 0 1 7 20 0)) 1 1 7 [] noMods with issued := p.1 }] } : State).tileInUse h.c h.k 7 2 == p.2) = true := by
  decide +kernel
/-- What TDEF, TFREE, TINFO, CDEF and CFREE leave (R206 to R210). -/
theorem ev_table_words : (let d := defining id; let c := st .S (answered .S true (objWords recDense) ∘ withSreg 0 12 64)
    let f := st .S (withTile 7 tileF32 0 1 ∘ fun x => { x with recs := [(5, recDense, 0)] })
    after (exec (.tdef (wT 0 0 7 0 12 13)) d) (fun t => t.sreg 0 0 0 13 == some 0 && (t.ctx? 0 0).any fun x => x.tiles.any fun q => q.1 == 7 && q.2.live == 1) &&
      after (exec (.cdef (wT 0 0 0 0 12 (5 * 64 + 13))) c) (fun t => t.sreg 0 0 0 13 == some 0 && (t.ctx? 0 0).any fun x => decide (x.recs = [(5, recDense, 1)])) &&
      after (exec (.tfree (wT 0 0 7 0 0 0)) f) (fun t => (t.ctx? 0 0).any (·.tiles.isEmpty)) &&
      after (exec (.tinfo (wT 7 0 0 0 14 2)) f) (fun t => t.sreg 0 0 0 14 == some (64 + 2 ^ 32)) &&
      after (exec (.cfree (wT 0 0 0 0 0 (5 * 64))) f) fun t => (t.ctx? 0 0).any (·.recs.isEmpty)) = true := by decide +kernel

/-- A LAUNCH that the checks refuse. -/
theorem wit_launch_refused : (let s := st .S (withSreg 0 4 64); runs noG s && gives (source true 4) s 64 s && s.here.any fun h =>
    (s.launch? h.ctx.lid).any fun l => l.child.isNone && s.allPerformed h.agent s.nextId && s.causedApplied (dieOf h.c) (List.range 8) &&
      match s.checkLaunch (.work (asidOf h.ctx.lid) 64) (some l) with
      | (t, .refused _ _) => t.here.isSome && free t 5
      | _ => false) = true := by decide +kernel
/-- Tickets of a refused submission, of another address space, of a launch that is gone, of one in the part. -/
theorem wit_lwait : ([(3, 0), (2 ^ 52, 1), (2 ^ 28 * 5, 2), (2 ^ 28, 3)].all fun (p : Nat × Nat) =>
    let s := st .S (withSreg 0 4 (BitVec.ofNat 64 p.1)); runs noG s && okAnd (source true 4) s fun v u => decide (u = s) && free u 5 && s.here.any fun h =>
      if v.toNat % 16 ≠ 0 then p.2 == 0 else if v.toNat / 2 ^ 52 ≠ asidOf h.ctx.lid then p.2 == 1
      else if u.launchState (asidOf h.ctx.lid) (v.toNat / 2 ^ 28 % 2 ^ 24) = 2 then p.2 == 2 else p.2 == 3) = true := by decide +kernel

/-- A context of a stage, its word answered or not, in a launch that has a stage queue. -/
def queued (stage : Nat) (f : Ctx → Ctx) : State := withLaunch staged (st .S (f ∘ fun x => { x with stage := stage }))
theorem wit_queue_answer : ([true, false].all fun ok => let s := queued 0 (answered .S ok [1, 2, 3, 4, 5, 6, 7, 8])
    runs noG s && free s 5 && s.here.any (fun h => decide (h.eng.req = .answer ok [1, 2, 3, 4, 5, 6, 7, 8])) &&
      okAnd (writeBlock 8 [1, 2, 3, 4, 5, 6, 7, 8]) s fun _ t => free t 5) = true := by decide +kernel
theorem wit_queue_asks : ([0, 1, 2].all fun stage => let s := queued stage id
    runs noG s && s.here.any fun h => decide (h.eng.req = .none) && (s.launch? h.ctx.lid).any fun l =>
      (l.queueEnt? 2).isNone && (l.queueEnt? 3).any (fun e => decide (e.prod = 0) && decide (e.cons = 1)) && gives (releaseSpan h) s () s &&
        okAnd (readBlock 8) s fun _ u => decide (u = s)) = true := by decide +kernel
theorem wit_ranges : ([(.S, true), (.S, false), (.A, false)].all fun (p : Engine × Bool) =>
    let s := st p.1; let t := st p.1 (answered p.1 p.2 [5, 6, 1])
    runs noG s && okAnd (takeSources [7, 2, 3]) s (fun l u => l.length == 3 && decide (u = s)) && s.here.any (fun h => decide (h.eng.req = .none)) &&
      runs noG t && free t 10 && free (t.withReg 10 5 1) 11 && t.here.any fun h => decide (h.eng.req = .answer p.2 [5, 6, 1])) = true := by decide +kernel

/-- Core 0 in assist mode, serving element 1 of a word of V. -/
def assisting (v : W64) : State :=
  (st .S).modCore 0 fun co => { co with assist := { co.assist with
    active := some { k := 0, unit := 0, ins := .vadd (wR 1 2 3 0), cmd := 0, eng := .V, record := [11, 12], items := [[1, 2, 3, 4, 5], [6, 7, 8, 9, 10]],
                     at_ := 0, first := 1, count := 1, base := [5, 6], written := [], sum := none },
    regs := ((List.range 48).map (BitVec.ofNat 64)).set 5 v,
    eng := { EngSt.zero with pc := 20, sect := some { hdr := 0, len := 4, done := false, n := 0, widx := 1, copyQ := none } } } }
/-- The codes that end it: done, 7, a trap's, one above 16. -/
theorem wit_assist : ([0, 7, 16, 17].all fun v => let s := assisting v; runs noG s && okAnd assistHere s fun p u =>
    decide (u = s) && p.2.first == 1 && p.2.count == 1 && gives (source true 5) s v s && gives (takeSources [1, 9]) s [1, 9] s &&
      gives (takeSources [2, 9]) s [2, 9] s && free s 6) = true := by decide +kernel
theorem wit_no_assist : (st .S).here.any (fun g => !g.asst) = true := by decide +kernel

/-- EXPECT at 1, at its greatest, one above it, and 0. -/
theorem wit_barinit : ([1, 0xFFFFFFFF, 0x100000000, 0].all fun (v : W64) => let s := st .S (withSreg 0 7 v)
    runs noG s && gives (countOf true 7) s v s && s.here.any fun h => ((s.cores[h.c]?).any fun co => decide (co.liveBars < 1024)) &&
      (decide (0 < v.toNat ∧ v.toNat < 2 ^ 32) == (v == 1 || v == 0xFFFFFFFF))) = true := by decide +kernel
/-- A rectangle of the span, and one that leaves it. -/
theorem wit_barrive : (let s := st .S (withBar 7 4 false); runs noG s && gives (countOf true 7) s 7 s && s.bad.isEmpty && s.here.any fun h => (h.ctx.bar? 7).isSome &&
    (s.launch? h.ctx.lid).any fun l => l.origin?.isSome && rectOk 0 l.spanW l.spanH && !(rectOk 1 l.spanW l.spanH)) = true := by decide +kernel
theorem wit_barinit_f : (let s := st .S; let t := st .S (withBar 7 4 false); runs noG s && runs noG t && s.here.any (fun h => !(h.ctx.bars.any (·.1 == 7))) &&
    t.here.any fun h => h.ctx.bars.any (·.1 == 7) && !(t.barInUse h.c h.k 7)) = true := by decide +kernel
theorem wit_bwait : ([true, false].all fun ph => let s := st .S (withBar 7 4 ph); runs noG s && gives (countOf true 6) s 6 s && s.bad.isEmpty && s.here.any fun h =>
    (h.ctx.bar? 7).any (fun b => b.phase == ph && !b.ref && !b.lost) && decide (h.ctx.bar? 8 = none) && h.e != .V && free s 5) = true := by decide +kernel
theorem wit_btest_vector : (let s := st .V (withBar 7 3 true); runs noG s && s.here.any fun h => h.e == .V && !(h.eng.isBusy s.now 5)) = true := by
  decide +kernel
/-- COUNT at 1, at EXPECT. -/
theorem wit_arrivals : ([1, 4].all fun c => let b : Barrier := { expect := 4, count := c, phase := false, ovf := false, lost := false, ref := false }
    decide (1 ≤ b.count.toNat ∧ b.count.toNat ≤ b.expect.toNat)) = true := by decide +kernel

/-! ## States that meet the hypotheses: commands -/

/-- Tiles for the commands. -/
def tiles : Ctx → Ctx :=
  withBar 7 4 false ∘ withTile 1 tileF32 0 1 ∘ withTile 2 tileF32 1 1 ∘ withTile 3 tileI8 2 1 ∘ withTile 4 tileW32 3 1 ∘ withTile 5 tileBX 4 2 ∘
    withTile 6 tileC1 6 1 ∘ withTile 8 tilePB 7 1 ∘ withTile 9 tileKV 8 1 ∘ withTile 10 (objDims 3 0 [(64, 1)]) 9 1 ∘
    withTile 11 tileF32 10 1
/-- The tiles of a row-engine word, right (tile 11) or not (tile 3), with CMD[8] and without. -/
theorem wit_row_command : (let s := st .S (tiles ∘ withSreg 0 20 0 ∘ withSreg 0 21 1); runs noG s && gives (readReg 20) s 0 s && gives (readReg 21) s 1 s &&
    (s.here.any fun h => (h.ctx.bar? 7).isSome && (s.cores[h.c]?).any fun co => decide (co.rowQ.length < 4)) &&
    rowForms.all fun p => [0, 0x10b].all fun c => [11, 3].all fun td => let x := wT 1 (if p.2.1 (wT 0 0 0 0 0 c) then 2 else 0) td 7 20 c
      okAnd (tileHere 1) s fun a _ => okAnd (tileHere td.toNat) s fun d _ => okAnd (tileIf (p.2.1 x) x.tb.toNat) s fun b _ =>
        okAnd (tileIf (p.2.2.2 && x.cmd.getLsbD 8) (bitsOf x.cmd 7 0)) s fun t _ =>
          rowOk (p.1 x) [0, if p.2.2.1 then 1 else 0] a d b t == (td == 11)) = true := by decide +kernel
theorem wit_row_full : (let s := (st .S).modCore 0 fun co => { co with rowQ := [1, 2, 3, 4] }
    runs noG s && (s.cores[0]?).any fun co => decide (4 ≤ co.rowQ.length)) = true := by decide +kernel

/-- Walks between memory and a tile; a queue's form is taken as its tile form. -/
def walking : State := withLaunch described (st .A (zeroRegs 1 ∘ tiles))
theorem wit_walk : (let s := walking; runs noG s && gives (readReg 20) s 0 s && gives (readReg 21) s 0 s && gives (readReg 22) s 0 s && s.here.any fun h =>
    (h.ctx.bar? 7).isSome && decide ((s.queueOf h.c h.k 0 0).length < 4) && (s.launch? h.ctx.lid).any fun l =>
      [wT 1 0 0 7 20 0x80000000, wT 0 0 0 7 20 0x180000000].all (fun x => okAnd (modsHere 0) s fun _ u => decide (u = s) &&
        okAnd (tileIf (walkSource (.aqrd x) == 0) x.ta.toNat) s fun a _ => okAnd (tileIf (walkDest (.aqrd x) == 0) x.td.toNat) s fun d _ =>
          walkOk (.aqrd x) (bitsOf x.cmd 11 0) (l.descBits (bitsOf x.cmd 11 0)) 0 a d false) &&
      [wT 1 0 2 7 20 0, wT 1 0 0 7 20 0x100000000].all (fun x => okAnd (modsHere 1) s fun _ u => decide (u = s) &&
        okAnd (tileIf (walkSource (.aqwr x) == 0) x.ta.toNat) s fun a _ => okAnd (tileIf (walkDest (.aqwr x) == 0) x.td.toNat) s fun d _ =>
          walkOk (.aqwr x) (bitsOf x.cmd 11 0) (l.descBits (bitsOf x.cmd 11 0)) 0 a d false) &&
      [wT 1 4 0 7 20 0x8000000A, wT 1 4 2 7 20 10].all fun x => okAnd (tileHere 4) s fun b _ => b.type == 7 &&
        okAnd (tileIf (walkSource (.gather x) == 0) x.ta.toNat) s fun a _ => okAnd (tileIf (walkDest (.gather x) == 0) x.td.toNat) s fun d _ =>
          a.all (·.type == 10) && d.all fun v => v.type == 10 && !v.windowed) = true := by decide +kernel
theorem wit_compact : (let s := walking; [2, 1].all fun td => okAnd (tileHere 1) s fun u _ => okAnd (tileHere 10) s fun v _ => okAnd (tileHere td) s fun w _ =>
    okAnd (tileHere 4) s fun z _ => compactOk u v w z (td == 1) == (td == 2)) = true := by decide +kernel

/-- A B engine with an anchor, a record and the tiles. -/
def contracting : State := st .B (zeroRegs 2 ∘ tiles ∘ fun x => { x with ga := 2 ^ 17, recs := [(5, recDense, 0)] })
theorem wit_contraction : (let s := contracting; runs noG s && s.here.any fun h => (h.ctx.bar? 7).isSome &&
    ((s.cores[h.c]?).any fun co => decide (co.unitQ.length < 4)) && !(s.carriedDue h.c) && okAnd (readThree 20) s fun rs u => decide (u = s) &&
      [(.bmv (wT 8 3 0 7 20 0), rs, true), (.bmv (wT 1 3 0 7 20 0), rs, false), (.bdot (wT 5 5 0 7 20 0), rs, true), (.bdot (wT 1 5 0 7 20 0), rs, false),
       (.join (wT 5 5 0 7 0 5), [], true), (.join (wT 4 5 0 7 0 5), [], false)].all (fun (p : Instr × List W64 × Bool) =>
          (s.contractOk h.c h.k h.ctx.ga p.1 p.2.1 (fun t => s.tile? h.c h.k t)).1 == p.2.2) &&
      drainOk (wT 0 0 1 7 20 0) false (s.tile? h.c h.k 1) (s.tile? h.c h.k 0) && drainOk (wT 0 0 9 7 0 0x8000000) true (s.tile? h.c h.k 9) (s.tile? h.c h.k 0) &&
      okAnd (tileHere 4) s (fun t _ => t.type == 7 && !t.windowed) && okAnd (tileHere 1) s fun t _ => t.type != 7) = true := by decide +kernel
/-- R309: with K field 0 a k0 beyond the extent leaves no sum to make, and no fault; a K field that leaves the tile is one. -/
theorem test_bdot_range : (let s := contracting; let u := s.tile? 0 0 5
    [(32, true), (31, true), (2 ^ 32 + 31, true), (2 ^ 32 + 32, false)].all fun (p : W64 × Bool) => bdotOk (wT 5 5 0 7 20 0) [0, p.1, 0] (2 ^ 17) u u == p.2) = true := by decide +kernel
/-- R76: a field without bits overlaps nothing. -/
theorem test_record_fields : ([(31, 5, true), (0, 3, true), (1, 3, false)].all fun (p : Nat × Nat × Bool) => recordValid (BitVec.ofNat 768
    (3 * 2 ^ 8 + 1 * 2 ^ 12 + 6 * 2 ^ 20 + (31 + 31 * 2 ^ 16 + p.1 * 2 ^ 32) * 2 ^ 64 + p.2.1 * 2 ^ 208 + 0xFFFF10 * 2 ^ 256 + 0xFFFF20 * 2 ^ 280)) == p.2.2) = true := by
  decide +kernel
/-- An anchor at its greatest and one above it. -/
theorem wit_anchor : ([0x1FFFF, 0x20000].all fun v => let s := st .B (withSreg 2 9 v); runs noG s && gives (source true 9) s v s) = true := by decide +kernel
theorem wit_cstat : (let s := contracting; runs noG s && free s 9 && s.here.any fun h => (s.cores[h.c]?).isSome && (s.launch? h.ctx.lid).isSome &&
    !(s.cmds.any fun y => y.c == h.c && y.k == h.k && y.unit == 2)) = true := by decide +kernel

/-- An X engine with a copy between memory and a tile in its registers. -/
def copying : State := st .X (zeroRegs 3 ∘ withSreg 3 22 (2 ^ 33 + 64) ∘ tiles)
/-- Its queue 1 is full. -/
def copyingFull : State :=
  match copying.here with
  | some h => { copying with cmds := (List.range 16).map fun i => { h.command copying (.cpy (wT 0 0 1 7 20 0)) 1 1 7 [] noMods with id := i } }
  | none => copying
theorem wit_copy : (let s := copying; okAnd (oneQueue 1) s fun _ u => runs noG u && u.here.any fun h => (h.ctx.bar? 7).isSome &&
    decide ((u.queueOf h.c h.k 1 1).length < 16) && okAnd (readCopy 20) u fun rs v => decide (v = u) &&
      okAnd (modsHere 2) u (fun _ w => decide (w = u)) && okAnd (modsHere 1) u (fun _ w => decide (w = u)) &&
      [(wT 0 0 1 7 20 0xC0000000, false), (wT 0 0 1 7 20 0x80000000, true)].all (fun (p : TWord × Bool) =>
        okAnd (tileIf (!p.2 && !(copyArgs p.1 p.2 rs).sm) p.1.ta.toNat) u fun sv _ => okAnd (tileIf (!(copyArgs p.1 p.2 rs).dm) p.1.td.toNat) u fun dv _ =>
          copyOk (copyArgs p.1 p.2 rs) sv dv) &&
      okAnd (readCarried 0xC0000010_14000320_00000000) u fun more w => decide (w = u) && more.length == 3) = true := by decide +kernel
theorem wit_carried_copy : (let s := copying; okAnd (oneQueue 1) s fun _ u => okAnd (readCopy 20) u fun rs _ => u.here.any fun h =>
    okAnd (advance 2) (u.withCmd { h.command u (.cpyf ⟨wT 0 0 1 7 20 0xC0000000, 0xC0000010_14000320_00000000⟩) 1 1 7 (rs ++ [0, 0, 0]) noMods with
      ranges := allRows (wT 0 0 1 7 20 0xC0000000) false rs }) fun _ _ => true) = true := by decide +kernel
theorem wit_sort : (let s := copying; okAnd (oneQueue 1) s fun _ u => okAnd (tileHere 6) u fun a _ => okAnd (tileHere 8) u fun d _ => okAnd (tileHere 9) u fun l _ =>
    okAnd (readReg 20) u fun r _ => sortOk r a d && sortkOk l l && !(sortkOk a l)) = true := by decide +kernel
theorem wit_queue_full : (let s := copyingFull; okAnd (oneQueue 1) s fun _ u => runs noG u && u.here.any fun h => decide (16 ≤ (u.queueOf h.c h.k 1 1).length)) = true := by
  decide +kernel
theorem wit_queue_status : (let s := copyingFull; let t := copying; runs noG s && runs noG t && free s 5 && s.here.any fun h => !(s.maskedCmds h.c h.k 2).isEmpty &&
    (t.maskedCmds h.c h.k 2).isEmpty && (t.queueOf h.c h.k 1 1).isEmpty) = true := by decide +kernel

/-- A request that has been tokenised. -/
def tokenised : TextReq :=
  { slot := 3, port := 0, conn := 1, reqid := 77, lid := 4096, queue := 2, vocab := 0, vpa := 0, image := [], maxReply := 10, raw := false, bos := false,
    text := [], tokens := some [5, 6, 7], posted := true, popped := false }
/-- An X engine of a launch that queue 2 is bound to, with these requests in it; register 10 holds `ec`. -/
def texting (rq : List RqRecord) (ec : W64) : State :=
  let s := st .X (tiles ∘ withSreg 3 9 77 ∘ withSreg 3 10 ec)
  { s with text := { s.text with rqbind := s.text.rqbind.set 2 0x8000000000001000, rq := s.text.rq.set 2 rq,
                                 toks := s.text.toks.set 1 { reqs := [tokenised], cmds := [], opens := [] } } }
theorem wit_tokpop_empty : (let s := texting [] 0; runs noG s && free s 23 && s.here.any fun h => (h.ctx.bar? 7).isSome && okAnd (tileHere 4) s fun v u =>
    decide (u = s) && popOk v ((s.text.rqbind[2]?).getD 0) h.ctx.lid h.ctx.stage) = true := by decide +kernel
/-- What TOKPOP leaves, whatever the free tag is. -/
theorem wit_tokpop : (let s := texting [⟨1, 3⟩] 0; okAnd (tileHere 4) s fun v _ =>
    decide (((s.text.toks[1]?).map (·.reqs)).bind (·.find? (·.slot == 3)) = some tokenised) &&
      okAnd (popRecord (wT 0 0 4 7 20 2) v ⟨1, 3⟩ tokenised 2) s fun _ _ => true) = true := by decide +kernel
/-- Tokens up to the tile's last element, one beyond it, none, and a tile of another type. -/
theorem wit_tokpush : ([(0x30000003D, 4, true), (0x30000003E, 4, false), (0, 4, true), (0, 1, false)].all fun (p : W64 × Nat × Bool) => let s := texting [] p.1
    runs noG s && gives (readReg 9) s 77 s && gives (readReg 10) s p.1 s && okAnd (tileHere p.2.1) s fun v _ =>
      decide (v.type = 7 ∧ bitsOf p.1 31 0 + bitsOf p.1 63 32 ≤ v.numel) == p.2.2) = true := by decide +kernel

/-! ## States that meet the hypotheses: V -/

/-- 128 numbers of f32. -/
def nums (i : Nat) : VReg := packElems 32 ((List.range 128).map fun k => 0x3F800000 + 0x10000 * ((k + i) % 128))
/-- V's registers hold numbers of f32, an entry waits in operand queue 2, slot 3 holds a parameter. -/
def vec (f : Ctx → Ctx) : State :=
  st .V (f ∘ fun x => { x with vregs := (List.range 32).map nums, opqs := x.opqs.set 2 [{ data := nums 40, car := 5 }],
                               params := x.params.set 3 0x40000000 })
/-- Sources, mask and rounding of a word answer, and change nothing after the sources. -/
def vMet (l : List (Bool × BitVec 6)) (x : RWord) (s : State) (p : List VIn → (Nat → Bool) → (Nat → Nat) → State → Bool) : Bool :=
  runs x.guard s && okAnd (vSources l) s fun a u => okAnd (vMask x) u fun en v => decide (v = u) && okAnd (vRand x) u fun rb w => decide (w = u) && p a en rb u
/-- A word without RND, one rounded stochastically and masked, one from a queue to a queue. -/
theorem wit_elements : ([wRT 3 4 5 6 10 0, { wRT 3 4 51 6 10 0 with rnd := 2, rb := 9, srn := 7, mask := 7 }, wRT 35 34 5 6 10 0].all fun x =>
    elemForms.all fun p => vMet [(true, x.a), (decide (2 ≤ p.n), x.b), (decide (3 ≤ p.n), x.c)] x (vec id) fun l en rb u => match l with
      | [a, b, c] => commitsB u (elemResults x (p.op x) a b c en rb) && vFreeB u x.d.toNat
      | _ => false) = true := by decide +kernel
/-- A word that a guard on register 0's bit 0 holds back. -/
theorem wit_elements_off : (let x := { wRT 3 34 5 6 10 0 with guard := offG }; let s := vec fun x => { x with vregs := x.vregs.set 0 0 }
    isOff offG s && (elemForms.all fun p => okAnd (vSources [(true, x.a), (decide (2 ≤ p.n), x.b), (decide (3 ≤ p.n), x.c)]) s fun l u =>
      l.length == 3 && vFreeB u 35)) = true := by decide +kernel
/-- Element 5 is the first subnormal result of an addition. -/
theorem wit_subnormal : (let x := wRT 3 20 18 0 10 0
    let s := vec fun c => { c with vregs := (c.vregs.set 20 (packElems 32 ((List.range 128).map fun k => if k = 5 then 0x00800001 else 0x40000000))).set 18
                                              (packElems 32 (List.replicate 128 0x80800000)) }
    vMet [(true, 20), (true, 18), (false, 0)] x s fun l en rb u => match l with
      | [a, b, c] => decide ((elemResults x (fun r a b _ => opAdd 10 false r a b) a b c en rb).findIdx? (·.sub) = some 5) && u.here.any fun h =>
          !h.asst && decide (h.eng.req = .none) && decide (h.e.tag < h.ctx.engs.length) && !(u.ftz h.ctx.lid) && vFreeB u 3 && (s.cores[h.c]?).isSome
      | _ => false) = true := by decide +kernel
theorem wit_vector_compare : (let x := { wRT 3 20 51 5 10 0 with mask := 7 }; vMet [(true, x.a), (true, x.b)] x (vec id) fun l _ _ u =>
    l.length == 2 && vFreeB u 3 && okAnd (vReg 5) u (fun _ v => decide (v = u)) && commitsB u []) = true := by decide +kernel
/-- A sum of f32 and a sum of i32; the least and the greatest; the running sums. -/
theorem wit_reductions : ([10, 4].all fun t => let x := wRT 3 20 0 0 t 0; vMet [(true, x.a)] x (vec id) fun l en rb u => u.here.any fun h => l.any fun a =>
    let w := typeWidth t.toNat
    let ins := (List.range (elemsOf t.toNat)).map fun i => (a.elem w i, en i)
    vFreeB u 3 && commitsB u [] && (isFloatT t.toNat == (t == 10)) &&
      (t == 4 || commitsB u [treeSum 10 (fun i => vRounding x (rb i)) (u.ftz h.ctx.lid) (log2N 10) 0 (ins.map fun p => ⟨if p.2 then p.1 else signBit 10, false⟩)]) &&
      commitsB u [redSelect t.toNat true ((ins.filter (·.2)).map (·.1)), redSelect t.toNat false ((ins.filter (·.2)).map (·.1))] &&
      commitsB u ((scanFrom t.toNat (u.ftz h.ctx.lid) 0 ((List.range (elemsOf t.toNat)).map fun i => (a.elem w i, en i, vRounding x (rb i)))).map (·.1))) = true := by
  decide +kernel
theorem wit_vpopc : (let x := { wRT 3 34 0 9 10 0 with mask := 7 }; vMet [(true, x.a)] x (vec id) fun l _ _ u => l.length == 1 && vFreeB u 3 &&
    wellFormed .V (.vpopc (wRT 3 5 0 0 10 0)) && wellFormed .V (.vtest (wRT 0 5 0 9 10 0))) = true := by decide +kernel
/-- f32 to f16, i8 to i32, i16 to u8. -/
theorem wit_convert : ([wRT 24 8 0 0 9 10, wRT 24 8 0 0 4 2, wRT 24 8 0 0 3 5].all fun x => let s := vec id
    runs x.guard s && decide (x.sub.toNat < 11) && okAnd (vWide x.a (max 1 (cvtGroups x).2) (typeWidth x.sub.toNat)) s fun a u => okAnd (vMask x) u fun en v =>
      decide (v = u) && okAnd (vRand x) u fun rb w => decide (w = u) && vFreeG u 24 (max 1 (cvtGroups x).1) &&
        commitsB u ((List.range (4096 / min (typeWidth x.type.toNat) (typeWidth x.sub.toNat))).map fun i => if en i then convert x.type.toNat x.sub.toNat
          (vRounding x (rb i)) (a i) else bitRes (a i))) = true := by decide +kernel
/-- BX8 to f32: exponents that are numbers, and one of 255 (R224). -/
theorem wit_convert_blocks : ([0x7F, 0xFF].all fun (b : Car) => let x := wRT 24 8 0 0 10 11; let s := vec fun c => { c with cars := c.cars.set 8 b }
    runs x.guard s && decide (11 ≤ x.sub.toNat) && okAnd (vGroupCars x.a (max 1 (cvtGroups x).2)) s fun l u => okAnd (vMask x) u fun _ v => decide (v = u) &&
      okAnd (vRand x) u fun _ w => decide (w = u) && ((l.any fun p => badCar 11 p.2) == (b == 0xFF)) && commitsB u [] && vFreeG u 24 (max 1 (cvtGroups x).1) &&
        u.here.any fun h => decide (h.eng.req = .none)) = true := by decide +kernel
/-- Width changes that a guard holds back: into a register and a queue, from a register, a group and a queue. -/
theorem wit_widths_off : (let s := vec fun x => { x with vregs := x.vregs.set 0 0 }
    isOff offG s && s.here.any (fun h => decide (h.eng.req = .none)) && okAnd (vSources [(true, 8), (true, 34), (false, 0)]) s (fun l _ => l.length == 3) &&
      okAnd (vSources [(false, 8), (true, 34), (true, 6)]) s (fun l _ => l.length == 3) &&
      [wRT 24 8 0 0 10 9, wRT 35 8 0 0 9 10, wRT 35 34 0 0 10 11].all (fun x => okAnd (vFirst x.a (max 1 (cvtGroups x).2)) s fun _ u => vFreeB u x.d.toNat) &&
      okAnd (vSource 34) s fun _ u => okAnd (vReg 8) u fun _ v => v.here.isSome && vFreeB v 24 && vFreeB v 35) = true := by decide +kernel
/-- With FTZ, sources that can be read and destinations that can take a result. -/
def flushing : State := withLaunch (fun l => { l with record := l.record ||| BitVec.ofNat 1024 (2 ^ 512) }) (vec fun x => { x with opqs := x.opqs.set 2 (List.replicate 3 { data := nums 40, car := 0 }) })
theorem wit_widths_complete : (let s := flushing; runs noG s && s.here.any fun h => decide (h.eng.req = .none) && s.ftz h.ctx.lid && s.bad.isEmpty &&
    (List.range 32).all (fun r => !h.eng.isBusy s.now r) && ((h.ctx.opqs[2]?).getD []).length == 3 && vFreeG s 24 4 && vFreeG s 35 1 &&
    [Instr.vcvt (wRT 24 34 0 0 10 9), .vwadd (wRT 24 34 34 0 2 1), .vwmul (wRT 24 8 34 0 9 0), .vwmad (wRT 24 8 34 34 9 0), .vnrw (wRT 24 8 34 0 7 1)].all fun i =>
      after (exec i s) fun t => (t.ctx? 0 0).any fun x => (x.eng .V).busy.any (·.1 == 24)) = true := by decide +kernel
/-- i8 to i16 and to i32, f16 to f32, and a narrowing. -/
theorem wit_widen : ([wRT 24 8 34 6 2 0, wRT 24 8 34 6 2 1, wRT 24 8 34 6 9 0].all fun x => let s := vec id
    runs x.guard s && okAnd (vWide x.a 1 (typeWidth x.type.toNat)) s (fun _ u1 => okAnd (vSource x.b) u1 fun _ u => okAnd (vMask x) u fun _ v => decide (v = u) &&
      okAnd (vRand x) u fun _ w => decide (w = u) && vFreeG u 24 (widenGroup x) && commitsB u []) &&
      okAnd (vWide x.a (widenGroup x) (typeWidth (wideType x))) s fun _ u1 => okAnd (vSource x.b) u1 fun _ u2 => okAnd (vSource x.c) u2 fun _ _ => true) = true := by
  decide +kernel
theorem wit_narrow : (let x := wRT 24 8 51 0 5 0; let s := vec id; runs x.guard s && okAnd (vSource x.b) s fun _ u => okAnd (vGroup x.a (narrowGroup x)) u fun l v =>
    decide (v = u) && l.length == narrowGroup x && commitsB u [] && vFreeB u 24) = true := by decide +kernel
theorem wit_codes : (let s := vec id; runs noG s && okAnd (vReg 8) s (fun _ u => decide (u = s) && okAnd (vSource 51) u fun _ v => okAnd (vReg 9) v fun _ w => vFreeB w 24) &&
    okAnd (vSource 34) s (fun _ u => vFreeB u 24) && okAnd (vSources [(true, 8), (true, 34)]) s fun l u => l.length == 2 && vFreeG u 24 2 && commitsB u []) = true := by
  decide +kernel
/-- Numbers, and a register with an infinity. -/
theorem wit_blocks : ([false, true].all fun bad => let x := wRT 30 8 0 0 11 10; let s := vec fun c => if bad then { c with vregs := c.vregs.set 9 0x7F800000 } else c
    runs noG s && okAnd (vGroup x.a (bxnGroup x)) s fun l u => decide (u = s) && okAnd (vRand x) s fun _ v => decide (v = s) && vFreeB s 30 &&
      ((List.range (elemsOf 11)).any fun i => (unpackF 10 (groupElem l 32 i)).special) == bad) = true := by decide +kernel
/-- R34: VMOV of a BX8 register takes the exponent pairs of 16 blocks and leaves the rest of the side-car zero; of BX4 it takes all 32. -/
theorem test_vmov_car : (([(11, 0x7F), (12, 1#512 <<< 300 ||| 0x7F)] : List (BitVec 4 × Car)).all fun (p : BitVec 4 × Car) =>
    after (exec (.vmov (wRT 30 8 0 0 p.1 0)) (vec fun c => { c with cars := c.cars.set 8 (1#512 <<< 300 ||| 0x7F) })) fun t => (t.ctx? 0 0).any fun x => x.cars[30]? == some p.2) = true := by
  decide +kernel
/-- R212: a guarded-off VCVT into a queue pushes its first source, though that is one of a group. -/
theorem test_vcvt_off : (let s := vec fun x => { x with vregs := x.vregs.set 0 0 }
    after (exec (.vcvt { wRT 35 8 0 0 9 10 with guard := offG }) s) fun t => (t.ctx? 0 0).any fun x => x.qpush.any fun q => q.q == 3 && q.entry.data == nums 8) = true := by decide +kernel
/-- A type with index registers in a pair, one with one register, a BX type. -/
theorem wit_movement : ([wRT 30 34 8 12 2 0, wRT 30 34 8 12 10 0, wRT 30 34 0 0 11 0].all fun x => vMet [(true, x.a)] x (vec id) fun _ _ _ u => vFreeB u 30 &&
    okAnd (vGroup 8 (indexGroup x.type.toNat)) u (fun _ v => decide (v = u)) && okAnd (vGroup 12 (indexGroup x.type.toNat)) u fun _ v => decide (v = u)) = true := by
  decide +kernel
theorem wit_vmovi : (let s := vec fun x => { x with vregs := x.vregs.set 0 0 }; runs noG s && isOff offG s && vFreeB s 3 && vFreeB s 35) = true := by decide +kernel
/-- Blocks of a tile of f32, at a block of a BX tile and between blocks, of codes at a byte and between bytes. -/
theorem wit_tile_moves : ([(1, 31, true), (5, 32, true), (5, 31, false), (6, 8, true), (6, 7, false)].all fun (p : Nat × BitVec 34 × Bool) => let s := vec tiles
    runs noG s && s.here.any fun h => okAnd (tileHere p.1) s (fun v u => decide (u = s) && (tileMoves v (tileIndex h (wT (BitVec.ofNat 8 p.1) 0 0 0 0 p.2.1)) == p.2.2)) &&
      okAnd (vSource 4) s fun _ u => okAnd (tileHere p.1) u fun v _ => !v.windowed && vFreeB s 3) = true := by decide +kernel
theorem wit_operand_queues : (let s := vec id; let t := vec fun x => { x with vregs := x.vregs.set 0 0 }
    runs noG s && isOff offG t && okAnd (vSource 34) s (fun _ u => vFreeB u 40 && vFreeB u 5) && okAnd (vSource 34) t fun _ u => u.here.isSome) = true := by decide +kernel
/-- A chain of `n` operations on tiles of f32, `k` of whose groups are done. -/
def chaining (n k : Nat) : State :=
  vec ((fun x => { x with params := ((x.params.set 4 (BitVec.ofNat 64 (10 * 256 + n))).set 5 0x100000000).set 6 0 }.modEng .V fun en => { en with chain := k }) ∘ tiles)
/-- Its hypotheses: the descriptor and the tiles as named, no subnormal, whether this is the last group. -/
def chainMet (s : State) (good last : Bool) : Bool :=
  runs noG s && s.here.any fun h => decide (h.eng.req = .none) && okAnd (tileHere 1) s fun a _ => okAnd (tileIf true 2) s fun b _ => okAnd (tileHere 11) s fun d u =>
    let ch := chainOf (chainBits h 4)
    let l0 := h.eng.chain * elemsOf ch.type
    decide (u = s) && ((chainOk (chainBits h 4) true && chainTiles ch.type a b d) == good) && (!good || (decide (d.numel ≤ l0 + elemsOf ch.type) == last &&
      ((s.vView h.c h.k).chainGroup h (wT 1 2 11 0 52 1) ch a b d l0 (min (elemsOf ch.type) (d.numel - l0))).all fun r => !r.sub))
theorem wit_chain : (chainMet (chaining 2 0) true false && chainMet (chaining 2 1) true true && chainMet (chaining 9 0) false false) = true := by decide +kernel

/-! ## Steps that are no word, each from a state that meets its hypotheses: launches -/

/-- The package is ready; ASID 1 has an entry in the table at address 0; core 0 runs a launch. -/
def part (f : Ctx → Ctx) (g : Launch → Launch) : State :=
  { st .S f with boot := { State.reset.boot with ready := true }, hostsel := true, mem := [(16, 1)], ctl := { State.reset.ctl with asidTab := 1 },
                 place := { State.reset.place with launches := [g lnch] } }
/-- The record of a launch of ASID 1 with 8 bytes of text. -/
def record1 : BitVec 1024 := BitVec.ofNat 1024 (8 * 2 ^ 64 + 2 ^ 320 + 64 * 2 ^ 384)
/-- A mailbox with a record in its window. -/
def mailed (r : BitVec 1024) (busy : Bool) (s : State) : State :=
  { s with place := { s.place with boxes := [{ window := (List.range 16).map fun i => BitVec.ofNat 64 (bitsOf r (64 * i + 63) (64 * i)), busy := busy, done := false,
                                               ticket := 0 }] } }
/-- A launch that waits for a place, at generation `g`. -/
def waiting1 (g : Nat) : Launch := { newLaunch (g * 4096 + 1) record1 [] [] 0 0 with eligible := 0 }

theorem ev_mailbox_submit : after (exec (.mailboxSubmit 0 7) (mailed record1 false (part id id))) (fun t => t.place.boxes.any fun b => b.busy && b.window.getLast? == some 7) = true := by
  decide +kernel
/-- The window is read only when submitted: a good record is accepted with generation 1, one of another ASID refused with status 2. -/
theorem ev_launch_acceptance : after (exec (.launchAcceptance 0) (mailed record1 true (part id id))) (fun t => t.place.launches.length == 2 &&
    t.place.boxes.any fun b => !b.busy && b.done && b.ticket == 0x0010000010000000) = true := by decide +kernel
theorem ev_launch_refused : after (exec (.launchAcceptance 0) (mailed (record1 ||| 2 ^ 321) true (part id id))) (fun t => t.place.launches.length == 1 &&
    t.place.boxes.any fun b => b.ticket == 0x0030000000000002) = true := by decide +kernel
/-- A submission when its level is full, and one short of it. -/
theorem wit_submit : ([63, 64].all fun n => let s : State := { part id id with place := { State.reset.place with launches := (List.range n).map fun i => waiting1 (i + 1) } }
    s.levelCount 0 == n && match s.checkLaunch (.bytes (List.replicate 128 0)) none, s.checkLaunch (.bytes (leBytes record1.toNat 128)) none with
      | (_, .refused sc _), (_, .ok r _ _) => sc == 1 && bitsOf r 383 381 == 0
      | _, _ => false) = true := by decide +kernel
/-- A launch that has yielded for a child of level 0, whose record lies at offset 0x10000: a good one, or zeros. -/
def yielding1 (good : Bool) : State :=
  let l : Launch := { newLaunch (4096 + 1) record1 [] [] 0 0 with phase := .yielding, child := some { prio := 0, idx := 0, va := 0x10000, d := 5, a := 4 } }
  { part id id with mem := (16, 1) :: (if good then [(0x10008, 8), (0x10028, 1), (0x10030, 64)] else []),
                    dies := State.reset.dies.set 1 { Die.zero with tlb := [{ leafAt0 with asid := 1, page := 0x10000, pte := 0x10001E1 }] },
                    place := { State.reset.place with launches := [l], yieldQ := [l.lid] } }
theorem ev_child_accept : after (exec (.childAcceptAfterYield 0) (yielding1 true)) (fun t => t.place.launches.length == 2 &&
    (t.launch? 4097).any fun l => decide (l.phase = .waitChild 8193)) = true := by decide +kernel
theorem ev_child_refused : after (exec (.childAcceptAfterYield 0) (yielding1 false)) (fun t => t.place.launches.length == 1 &&
    (t.launch? 4097).any fun l => decide (l.phase ≠ .yielding)) = true := by decide +kernel
theorem ev_placement : after (exec .placement { part id id with cores := [Core.zero], place := { State.reset.place with launches := [{ waiting1 1 with record := record1 }] } })
    (fun t => t.place.launches.any fun l => l.createAt == 32 && decide (l.phase = .placed 0 0 0)) = true := by decide +kernel
theorem ev_context_creation : (let l := { waiting1 1 with phase := .placed 0 0 0, toCreate := [0], createAt := 32 }
    let s : State := { part id id with now := 32, place := { State.reset.place with launches := [l] } }
    after (exec (.contextCreation 0 4097) s) fun t => decide (t.ctx? 0 1 = some (freshCtx l 0 0))) = true := by decide +kernel
/-- Patience ends with four launches of a lower level on the core, and with four of the same level. -/
def patient (prio : Nat) : State :=
  let l := { waiting1 9 with record := record1 ||| BitVec.ofNat 1024 (2 ^ 381) }
  let v (i : Nat) : Launch := { newLaunch (i * 4096 + 1) (record1 ||| BitVec.ofNat 1024 (prio * 2 ^ 381)) [] [] 0 0 with phase := .placed 0 0 0 }
  { part id id with
    wall := 200 * microsecond
    cores := [{ Core.zero with slots := (List.range 4).map fun i => some (freshCtx (v (i + 1)) 0 0) }]
    place := { State.reset.place with launches := l :: (List.range 4).map fun i => v (i + 1) } }
theorem ev_patience_victim : after (exec (.patienceExpiry 0x9001) (patient 0)) (fun t => (t.launch? 0x9001).any (fun l => l.target == some (0, 0)) &&
    t.place.launches.countP (fun l => l.pre.isSome) == 1) = true := by decide +kernel
theorem ev_patience_reserve : after (exec (.patienceExpiry 0x9001) (patient 1)) (fun t => t.place.resv == [(0x9001, 0, 0)] &&
    t.place.launches.countP (fun l => l.pre.isSome) == 0) = true := by decide +kernel
/-- A launch without contexts retires: it has no completion ring, so it is forgotten; with one it is to be recorded. -/
theorem ev_launch_retire : ([(0, 0), (2 ^ 256 * 64, 1)].all fun (p : Nat × Nat) =>
    let s := (part id fun l => { l with record := l.record ||| BitVec.ofNat 1024 p.1 }).modCore 0 fun co => { co with slots := List.replicate 4 none }
    (s.contextsOf 4096).isEmpty && s.accessesDone 4096 && after (exec (.launchRetire 4096) s) fun t => t.place.launches.length == p.2) = true := by decide +kernel
theorem ev_launch_end : (let s := part id fun l => { l with ending := some 1 }; after (exec (.launchEnd 4096) s) fun t =>
    t.place.launches.isEmpty && decide (t.ctx? 0 0 = none)) = true := by decide +kernel
/-- A load of the launch's is under way: it ends later. -/
theorem ev_launch_end_waits : (let a : Access := { id := 0, group := 0, ofs := 0, total := 4, agent := { code := 0, lid := 4096 }, die := 0, who := .engine 0 0 .S, kind := .load,
                                                   home := .die 0, va := 0, pa := 0x1000, size := 4, data := [], mods := ⟨0, 0, 0, 0⟩, dest := 5, signed := false, precise := false,
                                                   performed := false, answer := [], fail := none, sent := false, sect := 0, word := 0 }
    let s : State := { part id fun l => { l with ending := some 1 } with accs := [a] }
    after (exec (.launchEnd 4096) s) fun t => t.place.launches.length == 1 && (t.ctx? 0 0).any (·.stopping)) = true := by decide +kernel
theorem ev_launch_stop : (let s := part (fun x => { x with trap := some { cause := 15, sub := 0, eng := .S, agent := 0, va := 0, info1 := 0, info2 := 0, assist := false,
                                                                          multi := false, carried := false, cycle := 0 } }) id
    after (exec (.launchStop 4096) s) fun t => (t.launch? 4096).any fun l => l.pre == some 2) = true := by decide +kernel

/-- A launch whose record of 2^4 slots at offset 0x10000 is to be written; HEAD is 5, TAIL as given. -/
def recording (tail : Byte) : State :=
  { part id fun l => { l with record := l.record ||| BitVec.ofNat 1024 (0x10000 * 2 ^ 256 + 4 * 2 ^ 376), phase := .recording 1 } with
    mem := if tail = 0 then [(0x10000, 5)] else [(0x10000, 5), (0x10008, tail)], dies := State.reset.dies.set 1 { Die.zero with tlb := [{ leafAt0 with page := 0x10000, pte := 0x10001E1 }] } }
/-- The record takes number 5; with TAIL 0 the ring has room. -/
theorem ev_record_write : (let s := recording 0; s.nextRecord.isSome && after (exec .completionRecordWrite s) fun t => t.place.launches.isEmpty &&
    Mem.get t.mem 0x10000 == 6 && Mem.get t.mem (0x10000 + 64 + 5 * 64 + 8) == 6) = true := by decide +kernel
/-- R450: with HEAD 32 the ring is full at TAIL 16 and TAIL is read again after 1 µs; it has room at TAIL 17, and at one above HEAD. -/
theorem ev_ring_full : ([(16, true), (17, false), (48, false)].all fun (p : Byte × Bool) => let s : State := { recording 1 with mem := [(0x10000, 32), (0x10008, p.1)] }
    after (exec .completionRecordWrite s) fun t => (t.place.launches.any (fun l => l.ringSlot == some 32 && l.ringDue == s.wall + microsecond) == p.2) &&
      (t.place.launches.isEmpty != p.2) && Mem.get t.mem 0x10000 == 33) = true := by decide +kernel
theorem ev_ring_recheck : (let s : State := { recording 0 with place := { State.reset.place with launches := (recording 0).place.launches.map fun l => { l with ringSlot := some 5 } } }
    after (exec .ringTailRecheck s) fun t => t.place.launches.isEmpty && Mem.get t.mem (0x10000 + 64 + 5 * 64 + 8) == 6) = true := by decide +kernel

/-! ## Steps that are no word: stops, faults, restores -/

/-- A save pool of 16 units of 64 KiB from 1 MiB. -/
def pooled (n : Nat) (s : State) : State := { s with ctl := { s.ctl with savePool := BitVec.ofNat 64 (n * 2 ^ 44 + 16 * 2 ^ 16) } }
theorem ev_save_pool : ([16, 0].all fun n => [2, 0].all fun cause => let s := (pooled n (part id fun l => { l with pre := some cause })).modCore 0 fun _ => Core.zero
    after (exec (.savePoolReserve 4096) s) fun t => (t.launch? 4096).any fun l => (l.image == if n = 16 then some 0x100000 else none) &&
      (l.ending == if n = 0 ∧ cause = 2 then some 2 else none)) = true := by decide +kernel
theorem ev_preemption : (let s := part id fun l => { l with pre := some 0, image := some 0x100000, imageSize := 4096 }
    after (exec (.preemption 4096) s) fun t => (t.ctx? 0 0).any (·.stopping)) = true := by decide +kernel
/-- An asked-for image that nothing can be read of ends the restore. -/
theorem ev_restore_refused : (let s : State := { part id fun l => { l with image := some 0x100000, saved := true } with cores := [Core.zero] }
    s.launch? 4096 != none && after (exec (.restore 4096) s) fun t => (t.launch? 4096).any fun l => l.ending == some 3) = true := by decide +kernel
theorem ev_preq : ([(false, some 3), (true, none)].all fun (p : Bool × Option Nat) =>
    let s : State := { part id id with ctl := { State.reset.ctl with preq := if p.1 then 1 <<< 63 else 0 } }
    after (exec (.preqWrite 0xC000000000001000) s) fun t => (t.launch? 4096).any (fun l => l.pre == p.2 && l.hold == p.2.isSome) && t.ctl.preq.getLsbD 63) = true := by
  decide +kernel
/-- A fault of the launch. -/
def fault1 (stop : Bool) : FaultEntry := { bits := 2 ^ 12, inService := false, waiters := [.engine 0 0 .S], stop := stop, lid := 4096 }
theorem ev_fault_enter : (let s : State := { part id id with faults := { State.reset.faults with raised := [fault1 false], nextTag := 9, irqEn := true } }
    after (exec .faultQueueEnter s) fun t => t.faults.irq && t.faults.nextTag == 10 && t.faults.entries.any fun f => bitsOf f.bits 95 64 == 9) = true := by decide +kernel
/-- FQACK of the entry in service, its agent resumed or its launch ended. -/
theorem ev_fqack : ([(9, none), (2 ^ 32 + 9, some 1)].all fun (p : Nat × Option Nat) =>
    let f : FaultEntry := { fault1 false with bits := BitVec.ofNat 256 (9 * 2 ^ 64), inService := true }
    let s : State := { part (fun x => x.modEng .S fun en => { en with held := true }) id with faults := { State.reset.faults with entries := [f] } }
    after (exec (.fqackWrite (BitVec.ofNat 64 p.1)) s) fun t => t.faults.entries.isEmpty && ((t.launch? 4096).any fun l => l.ending == p.2) &&
      (p.2.isSome || (t.ctx? 0 0).any fun x => !(x.eng .S).held)) = true := by decide +kernel
/-- An assist of core 0. -/
def assist0 (k unit cmd : Nat) (ins : Instr) (e : Engine) : Assist :=
  { k := k, unit := unit, ins := ins, cmd := cmd, eng := e, record := [], items := [], at_ := 0, first := 0, count := 1, base := [], written := [], sum := none }
theorem ev_assist_entry : (let q := assist0 0 0 0 (.vadd (wR 1 2 3 0)) .V
    let s := ({ part id id with now := 1 } : State).modCore 0 fun co => { co with assist := { co.assist with waiting := [q] }, cur := List.replicate 5 none };
    after (exec (.subnormalAssistEntry 0) s) fun t => t.cores.any fun (co : Core) => decide (co.assist.active = some q) && co.assist.waiting.isEmpty && co.assist.eng.pc == 0) = true := by
  decide +kernel

/-! ## Steps that are no word: engines, queues, barriers -/

/-- The engine of `st` at the text's start, before a section. -/
def unentered (e : Engine) (f : Ctx → Ctx) : State :=
  st e fun x => f (x.modEng e fun en => { en with pc := 0, pos := 0, sect := none, secs := [] })
theorem ev_section_entry : (let s := unentered .A id; after (exec (.sectionEntry 0 .A) s) fun t => (t.ctx? 0 0).any fun x =>
    (x.eng .A).pc == 8 && (x.eng .A).pos == 1 && (x.eng .A).ready == 1 && (x.eng .A).sect.any fun q => q.len == 4 && q.widx == 0 && q.n == 0) = true := by decide +kernel
/-- Another engine's section is stepped over; a header that the text ends in is malformed (R83). -/
theorem ev_section_steps : ([(56, 64, 0), (60, 60, 1)].all fun (p : BitVec 32 × BitVec 32 × Nat) => let s := unentered .A fun x => x.modEng .A fun en => { en with pc := p.1 }
    after (exec (.sectionEntry 0 .A) s) fun t => (t.ctx? 0 0).any fun x => (x.eng .A).pc == p.2.1 && x.trap.isSome == (p.2.2 == 1) && x.trap.all fun q => q.cause == 3) = true := by
  decide +kernel
theorem ev_end_of_text : (let s := unentered .A fun x => x.modEng .A fun en => { en with pc := 64 }
    after (exec (.endOfText 0 .A) s) fun t => (t.ctx? 0 0).any fun x => (x.eng .A).halted && (x.eng .A).yielded) = true := by decide +kernel
/-- Two sections finished, the third not: two retire. -/
theorem ev_section_retire : (let o (n : BitVec 32) (f : Bool) : OpenSec := { n := n, done := false, finished := f, bind := none }
    let s := st .A fun x => x.modEng .A fun en => { en with secs := [o 0 true, o 1 true, o 2 false] }
    after (exec (.sectionRetire 0 0 .A) s) fun t => (t.ctx? 0 0).any fun x => (x.eng .A).rc == 2 && (x.eng .A).secs.length == 1) = true := by decide +kernel
/-- R165: the last engine to drop out ends the context; with a trap pending it stays. A flag write of its own is nothing it waits for. -/
theorem ev_drop_out : ([true, false].all fun trap => let s := st .A fun x =>
      { x with engs := x.engs.map (fun en => { en with halted := true, dropped := en.sect.isNone, sect := none, secs := [] }),
               flagw := [{ eng := .A, slot := 3, val := 1, due := 9, secN := 0 }],
               trap := if trap then some { cause := 15, sub := 0, eng := .S, agent := 0, va := 0, info1 := 0, info2 := 0, assist := false, multi := false, carried := false, cycle := 0 }
                       else none }
    !(s.cmdPending 0 0 .A none) && after (exec (.engineDropOut 0 0 .A) s) fun t => (t.ctx? 0 0).isSome == trap) = true := by decide +kernel
/-- Two contexts: the one after the current is chosen, and the current one again when no other may issue. -/
theorem ev_context_switch : ([true, false].all fun two => let s := (st .A).modCore 0 fun co =>
      { co with slots := [some (ctxOf .A id), if two then some (ctxOf .A id) else none, none, none] }
    after (exec (.contextSwitch 0 .A) s) fun t => t.cores.any fun (co : Core) => co.cur[1]? == some (some (if two then 1 else 0))) = true := by decide +kernel
/-- R161, R411: A, held back by the slip check, stands at its own header behind S's section. -/
theorem ev_stands_at_header : (let s := st .S fun x => x.modEng .A fun en => { en with pc := 0, pos := 9, sect := none, secs := [] }
    after (exec (.contextSwitch 0 .A) s) fun t => ((t.ctx? 0 0).any fun x => (x.eng .A).pc == 56) && t.cores.any fun (co : Core) => co.cur[1]? == some none) = true := by
  decide +kernel
theorem ev_writeback : (let s : State := { st .A fun x => x.modEng .A fun en => { en with busy := [(5, 3), (6, 4)] } with now := 3 }
    after (exec (.scalarResultWriteback 0 0 .A) s) fun t => (t.ctx? 0 0).any fun x => (x.eng .A).busy == [(6, 4)]) = true := by decide +kernel
/-- R213: of the pushes due this cycle A's enters before V's, whichever was issued first; one due later waits. -/
theorem ev_vector_writeback : (let p (tag due : Nat) (d : VReg) : QPush := { q := 2, tag := tag, due := due, entry := { data := d, car := 0 } }
    let s : State := { st .V fun x => { x with qpush := [p 2 3 8, p 1 3 7, p 2 4 9] } with now := 3 }
    after (exec (.vectorResultWriteback 0 0) s) fun t => (t.ctx? 0 0).any fun x => x.qpush == [p 2 4 9] &&
      x.opqs[2]? == some [{ data := 7, car := 0 }, { data := 8, car := 0 }]) = true := by decide +kernel
/-- R188: of two writes of one cycle to a slot the later engine's of V, then B stands; SWR's clears are made too. -/
theorem ev_flag_write : (let w (e : Engine) (i : Nat) (v : W64) : FlagWrite := { eng := e, slot := i, val := v, due := 3, secN := 0 }
    let s : State := { st .V fun x => { x with flagw := [w .V 4 7, w .B 4 8, w .V 5 9], flagclr := 0x8000, flags := x.flags.set 15 1 } with now := 3 }
    after (exec (.flagWrite 0 0) s) fun t => (t.ctx? 0 0).any fun x => x.flags[4]? == some 8 && x.flags[5]? == some 9 && x.flags[15]? == some 0 && x.flagw.isEmpty && x.flagclr == 0) = true := by
  decide +kernel
theorem ev_inbound : (let s : State := { st .S fun x => { x with inpush := [{ dst := 0, src := 1, due := 2, val := 77 }] } with now := 2 }
    after (exec (.inboundQueueArrival 0 0) s) fun t => (t.ctx? 0 0).any fun x => x.inqs[inqIndex 0 1]? == some [77] && x.inpush.isEmpty) = true := by decide +kernel
theorem ev_tile_store : (let s : State := { st .V fun x => withTile 1 tileF32 0 1 { x with twrites := [{ t := 1, bytes := [(3, 0xAB, 0xFF)], due := 5, issued := 0, secN := 0 }] } with now := 5 }
    after (exec (.tileStoreEffect 0 0) s) fun t => (t.ctx? 0 0).any (fun x => x.twrites.isEmpty) && t.cores.any fun (co : Core) => co.scratch.any (·.2 == 0xAB)) = true := by decide +kernel
/-- A range of 10 in draws of at least 4 for two contexts' worth of two: 4, of 8 left. -/
theorem ev_range : (let r : RuReq := { c := 0, k := 0, eng := .A, due := 0, init := none }
    let s := withLaunch (fun l => { l with ranges := l.ranges.set 0 { base := 100, rem := 10, kk := 1, min := 4, reqs := [r] } }) (st .A fun x => x.modEng .A fun en => { en with req := .wait 0 })
    after (exec (.rangeUnitService 4096 0) s) fun t => (t.ctx? 0 0).any fun x => decide ((x.eng .A).req = .answer false [100, BitVec.ofNat 64 (drawLen 10 4 1 1)])) = true := by decide +kernel
/-- A queue of four entries answers a pop with its oldest entry; a pop of an empty queue is held, a try form is refused. -/
def asking (ents : List (List W64)) (try_ held : Bool) : State :=
  withLaunch (fun l => let l := staged l; { l with squeues := l.squeues.set 3 { entries := ents, reqs := [{ c := 0, k := 0, op := 0, try_ := try_, data := [], due := 0, held := held, walk := 0 }] } })
    (st .S fun x => { x with stage := 1 })
theorem ev_stage_queue : ([([[1], [2]], false, false), ([], true, false), ([[1]], false, true)].all fun (p : List (List W64) × Bool × Bool) =>
    after (exec (if p.2.2 then .stageQueueHeldRetry 4096 3 else .stageQueueArrival 4096 3) (asking p.1 p.2.1 p.2.2)) fun t => (t.launch? 4096).any fun l =>
      (l.queue 3).entries == p.1.drop 1 && (l.queue 3).reqs.isEmpty && l.answers.any fun a => a.ok == !p.1.isEmpty && a.data == p.1.headD []) = true := by decide +kernel
theorem ev_stage_queue_held : after (exec (.stageQueueArrival 4096 3) (asking [] false false)) (fun t => (t.launch? 4096).any fun l =>
    (l.queue 3).reqs.any (fun r => r.held && r.due == 1) && l.answers.isEmpty) = true := by decide +kernel
/-- An answer is on its way to S, which waits. -/
def answering : State :=
  withLaunch (fun l => { l with answers := [{ c := 0, k := 0, ok := true, data := [5], due := 0, walk := 0, lid := 4096 }] })
    (st .S fun x => x.modEng .S fun en => { en with req := .wait 0 })
theorem ev_stage_answer : after (exec (.stageQueueAnswer 0 0) answering) (fun t => (t.ctx? 0 0).any (fun x => decide ((x.eng .S).req = .answer true [5])) &&
    (t.launch? 4096).any (·.answers.isEmpty)) = true := by decide +kernel
/-- R365 to R367: a barrier made, an arrival of 5 bytes at EXPECT 4, COUNT 4, at the end of the cycle. -/
theorem ev_barrier : (let s := st .S fun x => { withBar 7 4 false x with inits := [(8, 0, 16)], arrivals := [{ bar := 7, n := 5, ref := false, lost := false, lid := 4096, core := 0, due := 0, cmd := 0 }] }
    after (exec (.barrierArrival 0) s) fun t => (t.ctx? 0 0).any fun x => (x.bar? 7).any (fun b => b.phase && b.count == 3) && (x.bar? 8).any fun b => b.expect == 16 && b.count == 16) = true := by
  decide +kernel
theorem ev_remote_arrival : (let s : State := { st .S (withBar 7 4 false) with remote := [{ bar := 7, n := 4, ref := false, lost := false, lid := 4096, core := 0, due := 0, cmd := 0 }] }
    after (exec (.barrierArrival 0) s) fun t => t.remote.isEmpty && (t.ctx? 0 0).any fun x => (x.bar? 7).any fun b => b.phase && b.count == 4) = true := by decide +kernel
theorem ev_unassigned : after (exec (.unassignedOpcode 0) (st .S)) (fun t => (t.ctx? 0 0).any fun x => x.trap.any fun q => q.cause == 1) = true := by decide +kernel

/-! ## Steps that are no word: memory and links -/

/-- One access of the engine S of core 0, `n` the number of its bytes. -/
def access (kind : AccKind) (home : AccHome) (pa n : Nat) (data : List Byte) : Access :=
  { id := 0, group := 0, ofs := 0, total := n, agent := { code := 0, lid := 4096 }, die := 0, who := .engine 0 0 .S, kind := kind, home := home, va := 0, pa := pa, size := n,
    data := data, mods := ⟨0, 0, 0, 0⟩, dest := 5, signed := false, precise := false, performed := false, answer := [], fail := none, sent := false, sect := 0, word := 0 }
/-- Core 0 and the dies, with these accesses under way. -/
def accessing (l : List Access) (mem : List (Nat × Byte)) : State := { part id id with accs := l, mem := mem }
/-- R170: a missed line is fetched through the core's TLB and put into the cache. -/
theorem ev_icache_fill : (let s := (translated (part id id)).modCore 0 fun co => { co with icache := [], misses := [(0, 0, .A, 0)] }
    after (exec (.icacheFill 0) s) fun t => t.cores.any fun (co : Core) => (co.line? 0 0).isSome && co.misses.isEmpty) = true := by decide +kernel
/-- A walk of ASID 1 at offset 0 whose table entry at 16 points to a root page at 0x20000, its level-3 entry at `e`. -/
def walked (e : List (Nat × Byte)) : State :=
  { part id id with
    mem := [(16, 1), (19, 2)] ++ e
    dies := State.reset.dies.set 2 { Die.zero with
      walks := [{ asid := 1, mirror := false, off := 0, va := 0, kind := 0, lid := 4097, agent := 0, waiters := [] }] } }
/-- A table without an entry faults with CAUSE 9 (R256, R414). -/
theorem ev_walk_fault : after (exec (.walk 2) (walked [])) (fun t => t.dies[2]?.any (fun d => d.walks.isEmpty && d.tlb.isEmpty) && t.faults.raised.any fun f => bitsOf f.bits 63 56 == 9 ||
    f.lid == 4097) = true := by decide +kernel
/-- A leaf of 1 GiB at level 2, and a first touch of 2 MiB at level 1 with and without a frame in the pool (R255, R259, R260). -/
theorem ev_walk_leaf : after (exec (.walk 2) (walked [(0x20000, 1), (0x20003, 3), (0x30000, 0x65)])) (fun t => t.dies[2]?.any fun d => d.walks.isEmpty &&
    d.tlb.any fun l => l.asid == 1 && l.level == 2 && l.pte == 0x65) = true := by decide +kernel
theorem ev_walk_touch : ([[], [0x200000]].all fun pool =>
    let s := (walked [(0x20000, 1), (0x20003, 3), (0x30000, 1), (0x30003, 4), (0x40000, 0x74)]).modDie 2 fun d => { d with pool2m := pool }
    after (exec (.walk 2) s) fun t => t.dies[2]?.any (fun d => d.walks.isEmpty && d.pool2m.isEmpty && d.zeroing.length == pool.length) &&
      t.faults.raised.length + pool.length == 1) = true := by decide +kernel
/-- A zero-filled frame is entered where the entry is as it was, and given back where it has changed. -/
def zeroed (same : Bool) : State :=
  { part id id with
    mem := if same then [(0x100, 0xF0), (0x20000, 9)] else [(0x100, 0xF1), (0x20000, 9)]
    dies := State.reset.dies.set 2 { Die.zero with
      zeroing := [{ walk := { asid := 1, mirror := false, off := 0, va := 0, kind := 0, lid := 4097, agent := 0, waiters := [] }, pa := 0x20000, big := false, level := 0, pte := 0xF0,
                    ptePa := 0x100 }] } }
theorem ev_frame_zeroed : after (exec (.frameZeroed 2) (zeroed true)) (fun t => t.dies[2]?.any (fun d => d.tlb.any fun l => l.pte == touchedPte 0xF0 0x20000) &&
    Mem.get t.mem 0x20000 == 0 && Mem.get t.mem 0x100 == 0xE1) = true := by decide +kernel
theorem ev_frame_returned : after (exec (.frameZeroed 2) (zeroed false)) (fun t => t.dies[2]?.any (fun d => d.tlb.isEmpty && d.pool64 == [0x20000] && d.walks.length == 1) &&
    Mem.get t.mem 0x100 == 0xF1) = true := by decide +kernel
theorem wit_frame : (let p : W64 := 0xFFFF; let pa := 2 ^ 40 - 65536; decide (pa % 65536 = 0) && decide (pa < 2 ^ 40) && bitsOf (touchedPte p pa) 63 16 * 256 == pa) = true := by
  decide +kernel
theorem ev_load_return : (let s := accessing [{ access .load (.die 0) 0x100 4 [] with performed := true, answer := [1, 2, 3, 4] }] []
    after (exec (.loadReturn 0 0 .S) s) fun t => t.accs.isEmpty && t.sreg 0 0 0 5 == some 0x04030201) = true := by decide +kernel
/-- A load, a store, a fetch-and-add and a compare-and-swap that fails, each ready at its home. -/
theorem ev_access : ([(.load, 0xAA), (.store, 0x11), (.atomic 0 false 0, 0xBB), (.atomic 7 false 3, 0xAA)].all fun (p : AccKind × Byte) =>
    let a := access p.1 (.die 0) 0x100 4 [0x11, 0, 0, 0]; let s := accessing [a] [(0x100, 0xAA)]
    s.accReady a && !s.ctl.raceEn && decide (s.badRead a = none) && a.skip == [] && after (exec (.accessAtHomeDie 0) s) fun t => Mem.get t.mem 0x100 == p.2 &&
      (p.1 == .store || t.accs.any fun b => b.performed && b.answer == [0xAA, 0, 0, 0])) = true := by decide +kernel
theorem ev_propagate : (let p : Propagation := { dst := 3, pa := 0x100, data := [7], ver := 1, origin := 0, clock := List.replicate 8 0, mirror := none, acc := 9 }
    let s : State := { accessing [] [] with props := [p] }
    s.propReady p && after (exec (.writePropagate 0) s) fun t => t.props.isEmpty) = true := by decide +kernel
theorem ev_inval_ack : (let s : State := { accessing [{ access .load (.die 0) 0x100 4 [] with performed := true }] [] with invals := [{ core := 0, accs := [0] }] }
    after (exec (.invalidationAck 0) s) fun t => t.invals.isEmpty) = true := by decide +kernel
/-- A request of another package of the first bytes of an export at offset 0 of ASID 0, with no export there and with one (R248, R249). -/
def exporting (good : Bool) : State :=
  { part id id with mem := if good then [(0x1000F, 0xE0)] else [], ctl := { State.reset.ctl with expTab := 0x10001 }, dies := State.reset.dies.map fun d => { d with tlb := [leafAt0] } }
/-- Its request. -/
def request1 : PeerRequest := { port := 1, src := 9, id := 5, off := 0x40, size := 8, op := .read }
theorem ev_peer_refused : after (exec (.peerRequestArrival request1) (exporting false)) (fun t => t.accs.isEmpty && t.links.out.any fun m => match m with
      | .reply _ _ i a => i == 5 && a == .protection
      | _ => false) = true := by decide +kernel
theorem ev_peer_request : after (exec (.peerRequestArrival request1) (exporting true)) (fun t => t.accs.any fun a => a.pa == 0x40 && a.size == 8 && a.who == .package && a.word == 5 && a.sect == 9) =
    true := by decide +kernel
/-- An access that waits for another package's answer. -/
def abroad : State := accessing [{ access .load (.peer 3) 0x100 4 [] with sent := true }] []
theorem ev_peer_reply : ([(.data [1, 2, 3, 4], none), (.done, none), (.protection, some (10, 3)), (.translation, some (9, 5)), (.machineCheck 1, some (13, 1))].all fun (p : PeerAnswer × Option (Nat × Nat)) =>
    after (exec (.peerReplyArrival { port := 1, id := 0, ans := p.1 }) abroad) fun t => t.accs.any fun a => a.performed && a.fail == p.2) = true := by decide +kernel
/-- The answer to a push that nobody waits for is counted, one that is waited for kept for its command. -/
theorem ev_push_reply : (after (exec (.peerReplyArrival { port := 1, id := 0, ans := .full }) abroad) (fun t => t.dies[0]?.any (·.late == 1)) &&
    match copying.here with
    | some h => after (exec (.peerReplyArrival { port := 1, id := 7, ans := .accepted }) { copying with cmds := [{ h.command copying (.cpy (wT 0 0 1 7 20 0)) 1 1 7 [] noMods with
        id := 7, state := .sent }] }) fun t => t.links.pushAns == [(7, .accepted)]
    | none => false) = true := by decide +kernel
/-- A port that is up, and one that went down at wall-clock time 0. -/
def porting (up : Bool) (wall : Nat) : State :=
  let p : Port := { up := up, width := 1, lost := false, host := false, retrains := 4, downAt := if up then none else some 0 }
  { part id id with wall := wall, links := { State.reset.links with ports := State.reset.links.ports.set 2 p } }
theorem ev_link_down : after (exec (.linkDown 2) (porting true 5)) (fun t => t.links.ports[2]?.any fun x => !x.up && x.downAt == some 5) = true := by decide +kernel
theorem ev_link_up : ([1, 2].all fun w => !((porting false 5).linkOverdue 2) && after (exec (.linkRetrained 2 w) (porting false 5)) fun t => t.links.ports[2]?.any fun x =>
    x.up && x.width == w && x.retrains == 5 && x.downAt == none) = true := by decide +kernel
/-- R456: a link back within 2 ms is kept: at 2 ms, and a tick later. -/
theorem ev_link_lost : ([(2000 * microsecond, false), (2000 * microsecond + 1, true)].all fun (p : Nat × Bool) => (porting false p.1).linkOverdue 2 == p.2 &&
    after (exec (.linkReservationExpiry 2) (porting false p.1)) fun t => t.links.ports[2]?.any fun x => x.lost == p.2) = true := by decide +kernel

/-! ## Steps that are no word: commands -/

/-- A command of core 0's context, number 7, at barrier 7. -/
def cmd0 (ins : Instr) (e : Engine) (unit queue : Nat) (regs : List W64) (state : CmdState) : Cmd :=
  { id := 7, ins := ins, eng := e, c := 0, k := 0, lid := 4096, secN := 0, widx := 1, unit := unit, queue := queue, bar := 7, regs := regs, mods := noMods, carried := false,
    issued := 0, state := state, next := 0, ranges := [], park := 0, firstFull := none, part := 0, buf := [], ga := 0, sealed := 0, after := [], inflight := [] }
/-- A copy of four rows of 64 bytes from tile 1 to tile 2. -/
def copy0 (state : CmdState) (ranges : List (Nat × Nat)) : Cmd :=
  { cmd0 (.cpy (wT 1 0 2 7 20 0)) .X 1 0 [0, 0, 4 * 2 ^ 32 + 64, 64, 64] state with ranges := ranges }
/-- That copy and the assignments of the die's copy engines. -/
def moving (x : Cmd) (slots : List (Option CopySlot)) : State :=
  { part tiles id with cmds := [x], dies := State.reset.dies.set 0 { Die.zero with copies := slots } }
/-- Sixteen engines, the first with this assignment. -/
def engine0 (t : Option CopySlot) : List (Option CopySlot) := t :: List.replicate 15 none
theorem ev_copy_start : ([[(0, 3)], []].all fun rs => let s := moving (copy0 .waiting rs) (engine0 none)
    (s.startable 0).length == 1 && after (exec (.copyStart 0) s) fun t => if rs = [] then t.cmds.isEmpty
      else t.cmds.any (fun x => x.state == .running) && t.dies[0]?.any fun d => d.copies[0]? == some (some (newSlot 7 [(0, 3)]))) = true := by decide +kernel
theorem ev_copy_part : (let s := moving (copy0 .running []) (engine0 (some (newSlot 7 [(0, 3)])))
    (s.cmd? 7).isSome && after (exec (.copyPart 7) s) fun t => t.dies[0]?.any fun d => d.copies[0]? != some (some (newSlot 7 [(0, 3)]))) = true := by decide +kernel
/-- Row 0 read and written, its second copy engine having nothing. -/
theorem wit_copy_row : (let x := copy0 .running []; let s := moving x (engine0 none); (s.usedTile 0 0 1).isSome && s.cmdReleased x && x.copy?.any fun a =>
    !a.zero && !a.sm && !a.ib && !a.dm && a.rowb == 64 && !(acquires x.mods.order)) = true := by decide +kernel
theorem ev_copy_performed : (let s := moving (copy0 .running []) (engine0 none); (s.slotsFor 0 7).isEmpty && after (exec (.copyRowPerformed 7) s) fun t => t.cmds.isEmpty) = true := by
  decide +kernel
theorem ev_row_performed : (let t : CopySlot := { newSlot 7 [(1, 3)] with batch := [(0, List.replicate 64 0)], part := 64 }; let x := copy0 .running []; let s := moving x (engine0 (some t))
    s.slotAt 0 0 7 == some t && x.copy?.any fun a => ((s.rowPerformed x a 0 0).slotAt 0 0 7).any fun u => u.batch.isEmpty && u.part == 0) = true := by decide +kernel
/-- R282: a row that holds leaves its engine to the other rows; released, it is taken before them. -/
theorem ev_row_holds : (let s := moving (copy0 .running []) (engine0 (some { newSlot 7 [(1, 3)] with cur := some 0 })); let t := s.holdWaiter (.row 7 0)
    let u := t.releaseWaiter (.row 7 0)
    let cur (v : State) : Option Nat := ((v.slotAt 0 0 7).bind (·.cur))
    t.cmds.any (fun x => x.state == .held && x.heldRows == [{ row := 0, data := none, wait := true }]) && t.slotAt 0 0 7 == some (newSlot 7 [(1, 3)]) &&
      t.cmds.any (fun x => cur (t.slotTake x 0 0 (newSlot 7 [(1, 3)])) == some 1) &&
      u.cmds.any (fun x => x.state == .running && x.idleRows && cur (u.slotTake x 0 0 (newSlot 7 [(1, 3)])) == some 0)) = true := by decide +kernel
/-- R282: an idle engine takes the upper half of the rows not begun: 2 of 4, and 2 of 5 in two ranges. -/
theorem ev_steal : ([([(0, 3)], [(0, 1)], [(2, 3)]), ([(0, 2), (8, 9)], [(0, 2)], [(8, 9)])].all fun (p : List (Nat × Nat) × List (Nat × Nat) × List (Nat × Nat)) =>
    let s := moving (copy0 .running []) (engine0 (some { newSlot 7 p.1 with cur := some 9 }))
    (s.startable 0).isEmpty && (s.victim 0).isSome && takeUpper p.1 (rangeRows p.1 / 2) == p.2 && after (exec (.copySteal 0) s) fun t => t.dies[0]?.any fun d =>
      d.copies[1]? == some (some (newSlot 7 p.2.2)) && d.copies[0]?.any fun o => o.any fun u => u.todo == p.2.1) = true := by decide +kernel
/-- The word a CPYF carries enters the contraction unit. -/
def carried0 : State :=
  let f : FWord := ⟨wT 1 0 2 7 20 0, 0xC0000020_0C000750_00000000⟩
  { part (tiles ∘ fun x => { x with ga := 2 ^ 17 }) id with cmds := [{ copy0 .done [] with ins := .cpyf f, regs := [0, 0, 4 * 2 ^ 32 + 64, 64, 64, 0, 0, 0] }] }
theorem wit_carried : decide (decode .B 0xC0000020_0C000750_00000000 0 = .ok (.bmv (wT 8 3 0 7 20 0))) = true := by decide +kernel
theorem ev_carried : after (exec (.carriedWordEntry 7) carried0) (fun t => t.cmds.length == 2 && t.cores.any fun (co : Core) => co.unitQ.length == 1) = true := by decide +kernel
theorem ev_join_marker : (let s : State := { part tiles id with cmds := [{ cmd0 (.qjoin (wT 0 0 0 0 0 1)) .X 1 1 [] .waiting with after := [3] }] }
    after (exec (.joinMarkerComplete 7) s) fun t => t.cmds.isEmpty) = true := by decide +kernel

/-- Inbox 3 with a binding to stage queue 3 of the launch, which has room for four entries. -/
def inboxed (reg : W64) (spare : List Nat) (ents : Nat) : State :=
  let s := part id fun l => let l := staged { l with record := l.record ||| BitVec.ofNat 1024 (2 ^ 576 * 65536 + 2 ^ 640) }
                            { l with squeues := l.squeues.set 3 { entries := List.replicate ents [], reqs := [] } }
  { s with links := { s.links with inboxes := s.links.inboxes.set 3 { reg := reg, spare := spare } } }
/-- A binding to it. -/
def bound3 : W64 := 0x8000003000001000
/-- An inbox bound to nothing, a push of a wrong length, of a right one with room, with the queue full and no room in the overflow area. -/
theorem ev_inbox : (((inboxed 0 [] 0).inboxTarget 0).isNone && ((inboxed bound3 [] 0).inboxArrive 3 [1]).2 == .refused &&
    ((inboxed bound3 [] 3).inboxArrive 3 (List.replicate 64 1)).2 == .accepted && ((inboxed bound3 (List.range 512) 4).inboxArrive 3 (List.replicate 64 1)).2 == .full) = true := by
  decide +kernel
theorem wit_inbox : ((inboxed bound3 [] 3).inboxTarget bound3).any (fun p => p.1.inboxFits p.2 bound3 && inboxEntry bound3 == 64) = true := by decide +kernel
theorem wit_inbox_full : (let reg := bound3; ((inboxed reg (List.range 512) 4).inboxTarget reg).any fun p => !(p.1.inboxFits p.2 reg) && decide (inboxRoom p.1 reg ≤ 512)) = true := by
  decide +kernel
theorem ev_inbox_push : after (exec (.inboxPushArrival 3 { port := 1, src := 9, id := 5, row := List.replicate 64 1 }) (inboxed bound3 [] 0)) (fun t => t.links.out.length == 1 &&
    (t.launch? 4096).any fun l => (l.queue 3).entries.isEmpty && (l.queue 3).reqs.any fun r => r.inbox && decide (r.due = t.now + 1) && r.entries.length == 1) = true := by
  decide +kernel
/-- R458: of two pushes of one cycle to an inbox the lower port's is taken first, though it comes second in the agenda. -/
theorem ev_inbox_ports : (let p (port : Nat) (b : Byte) : InboxPush := { port := port, src := 9, id := port, row := List.replicate 64 b }
    let s : State := { inboxed bound3 [] 0 with agenda := [.event (.inboxPushArrival 3 (p 1 5))] }
    s.agenda.filterMap (lowerPush 3 2) == [p 1 5] && after (exec (.inboxPushArrival 3 (p 2 6)) s) fun t => t.agenda.isEmpty && t.links.out.length == 2 &&
      (t.launch? 4096).any fun l => (l.queue 3).reqs.map (fun r => r.data.headD 0 % 256) == [5, 6]) = true := by decide +kernel
/-- An inbox copy that waits for its answer, or is parked since time 0. -/
def pushing (state : CmdState) (first : Option Nat) (ans : List (Nat × PeerAnswer)) (wall : Nat) : State :=
  let x := { copy0 state [] with ins := .cpy (wT 1 0 0 7 20 0x10000000), buf := List.replicate 64 1, firstFull := first }
  { moving x (engine0 (some { newSlot 7 [] with batch := [(0, List.replicate 64 1)] })) with wall := wall, links := { State.reset.links with pushAns := ans } }
theorem ev_inbox_answer : ([(.accepted, 0), (.refused, 0), (.full, 1)].all fun (p : PeerAnswer × Nat) => after (exec (.inboxAnswer 7) (pushing .sent none [(7, p.1)] 5)) fun t =>
    t.links.pushAns.isEmpty && t.cmds.length == p.2 && t.cmds.all fun x => x.state == .parked 5 && x.firstFull == some 5) = true := by decide +kernel
/-- Sent again after 1 µs, refused after 100 µs. -/
theorem wit_park : ([microsecond, 100 * microsecond].all fun w => let s := pushing (.parked 0) (some 0) [] w
    (s.cmd? 7).any fun x => x.copy?.isSome && !(s.cmdStops x) && decide (0 + microsecond ≤ s.wall) && (s.launch? 4096).any fun l => decide (l.parkLimit = 100 * microsecond)) = true := by
  decide +kernel
theorem ev_park_limit : after (exec (.parkLimitExpiry 7) (pushing (.parked 0) (some 0) [] (100 * microsecond))) (fun t => t.cmds.isEmpty && (t.launch? 4096).any (·.refused == 1)) = true := by
  decide +kernel
theorem wit_overflow : (let reg := bound3; let s := (inboxed reg [0] 0).modDie 0 fun d => { d with tlb := [{ leafAt0 with page := 0x10000, pte := 0x10001E1 }, leafAt0] }
    (s.inboxTarget reg).any fun p => p.1.inboxFits p.2 reg) = true := by decide +kernel
/-- A walk that has done all its elements, one that has not, and a GCOMPACT. -/
def walk0 (ins : Instr) (next : Nat) : Cmd := { cmd0 ins .A 0 0 [0, 0] .running with next := next }
/-- A walk unit with that command. -/
def walkOf (x : Cmd) : State := { withLaunch described (part tiles id) with cmds := [x] }
theorem ev_walk_done : (let x := walk0 (.aqrd (wT 1 0 0 7 20 0x80000000)) 64; let s := walkOf x; (s.launch? 4096).any (fun l => decide (x.walkCount l ≤ x.next)) &&
    after (exec (.walkEntryPush 0) s) fun t => t.cmds.isEmpty) = true := by decide +kernel
theorem wit_walk_turns : ([(.aqrd (wT 1 0 0 7 20 0x80000000), false), (.aqrd (wT 0 0 0 7 20 0x180000000), true)].all fun (p : Instr × Bool) => let x := walk0 p.1 0; let s := walkOf x
    (walkWord p.1).isSome && !(s.cmdStops x) && (s.launch? 4096).any fun l => decide (x.next < x.walkCount l)) = true := by decide +kernel
theorem ev_compact : (let x := walk0 (.gcompact (wT 1 10 2 7 0 4)) 0; after (exec (.walkEntryPush 0) (walkOf x)) fun t => t.cmds.isEmpty) = true := by decide +kernel
/-- The Collator: one row of two, then the last; a list. -/
def sorting (ins : Instr) (rs : List (Nat × Nat)) : State := { part tiles id with cmds := [{ cmd0 ins .X 1 1 [0] .waiting with ranges := rs }] }
theorem ev_sort_row : ([(0, 1), (1, 1)].all fun (p : Nat × Nat) => let s := sorting (.sort (wT 6 0 8 7 20 1)) [p]
    ((s.collate 0).collHead 0).isSome && after (exec (.sortRow 0) s) fun t => t.cmds.isEmpty == (p.1 == 1) && t.cmds.all fun x => x.ranges == [(1, 1)]) = true := by decide +kernel
theorem ev_sortk : (let s := sorting (.sortk (wT 9 0 9 7 0 0)) []; ((s.collate 0).collHead 0).isSome && after (exec (.sortkComplete 0) s) fun t => t.cmds.isEmpty) = true := by decide +kernel

/-- The contraction unit with one command, running or not. -/
def unit0 (x : Cmd) (run : Option UnitRun) : State :=
  let s := part (tiles ∘ fun y => { y with ga := 2 ^ 17, recs := [(5, recDense, 0)] }) id
  { s with cores := s.cores.map fun co => { co with unitQ := [7], run := run }, cmds := [x] }
/-- Nothing left to apply. -/
def idleRun : UnitRun := { id := 7, terms := [], sums := List.replicate 32 0, heldTerm := none }
theorem ev_cinit_start : (let s := unit0 (cmd0 (.cinit (wT 0 0 0 7 0 1)) .B 2 0 [] .waiting) none
    s.lateSlot 0 == none && after (exec (.contractionStart 0) s) fun t => t.cores.any fun (co : Core) => co.run.isSome) = true := by decide +kernel
/-- A BDOT of two BX tiles, one whose first exponent byte is 255, one whose exponents spread too far (R296, R301). -/
theorem ev_contraction_start : ([(0, 0), (0xFF, 5), (0xFA, 6)].all fun (p : Byte × Nat) =>
    let s := (unit0 (cmd0 (.bdot (wT 5 5 0 7 20 0)) .B 2 0 [0, 0, 0] .waiting) none).modCore 0 fun co => { co with scratch := if p.1 = 0 then [] else [(8192, p.1)] };
    s.lateSlot 0 == none && after (exec (.contractionStart 0) s) fun t => if p.2 = 0 then t.cores.any fun (co : Core) => co.run.isSome
      else (t.ctx? 0 0).any fun x => x.trap.any fun q => q.cause == p.2) = true := by decide +kernel
/-- Row 2 of four, and the last. -/
theorem ev_bucket_row : ([2, 3].all fun n => let x := { cmd0 (.bmv (wT 8 3 0 7 20 0)) .B 2 0 [0, 0, 0] .running with next := n }; let s := unit0 x (some idleRun)
    (s.passDone 0).isSome && (s.workOf x).any (fun w => w.total == 4) && after (exec (.bucketRowComplete 0) s) fun t => t.cmds.any fun y => y.next == n + 1) = true := by decide +kernel
theorem ev_contraction_done : (let x := { cmd0 (.bdot (wT 5 5 0 7 20 0)) .B 2 0 [0, 0, 0] .running with next := 1 }; let s := unit0 x (some idleRun)
    (s.passDone 0).isSome && (s.workOf x).any (fun w => decide (w.total ≤ x.next)) && endBytes x != 0 && after (exec (.contractionComplete 0) s) fun t => t.cmds.isEmpty) = true := by
  decide +kernel
/-- A term with a place in the Catalogue, and the same key with the Catalogue full of other contexts' entries. -/
def term0 : Term := { key := 5, inv := false, bits := 1, direct := true }
theorem ev_apply : (let x := { cmd0 (.bdot (wT 5 5 0 7 20 0)) .B 2 0 [0, 0, 0] .running with next := 1 }; let s := unit0 x (some { idleRun with terms := [term0] })
    after (exec (.catalogueApply 0 0) s) fun t => t.cores.any fun (co : Core) => co.cat.length == 1 && co.run.any fun r => r.terms.isEmpty) = true := by decide +kernel
theorem ev_apply_held : (let x := { cmd0 (.bdot (wT 5 5 0 7 20 0)) .B 2 0 [0, 0, 0] .running with next := 1 }
    let s := (unit0 x (some { idleRun with terms := [{ term0 with direct := false }] })).modCore 0 fun co =>
      { co with cat := (List.range 32).map fun i => { slot := i % 8 * 512 + (homeSet 5 + i / 8) % 512, ctx := 1, inv := false, key := 2 ^ 40 + i, value := 0 } };
    (s.cores[0]?).any (fun co => (co.catApply 0 { term0 with direct := false }).isNone) && after (exec (.catalogueApply 0 0) s) fun t => t.cores.any fun (co : Core) =>
      co.run.any fun r => r.heldTerm.isSome) = true := by decide +kernel
theorem ev_drain : (let x := cmd0 (.cdrain (wT 0 0 1 7 20 0)) .B 2 0 [0] .running; let s := unit0 x (some idleRun)
    (drainWord x.ins).isSome && (s.usedTile 0 0 1).isSome && after (exec (.drainComplete 0) s) fun t => t.cmds.isEmpty) = true := by decide +kernel
/-- A row of NMAX, and a row of NSCALE whose products are subnormal. -/
def rowing (ins : Instr) (f : List (Nat × Byte)) : State :=
  let s := part tiles id
  { s with cores := s.cores.map fun co => { co with rowQ := [7], scratch := f }, cmds := [cmd0 ins .S 3 0 [0, 0] .running] }
theorem ev_row : (let s := rowing (.nmax (wT 1 0 11 7 20 0)) []; (s.rowHead 0).any (fun x => (rowWord x.ins).isSome) && after (exec (.rowEngineRowComplete 0) s) fun t =>
    t.cmds.any fun x => x.next == 1) = true := by decide +kernel
theorem ev_row_assist : (let f : List (Nat × Byte) := [(2, 0x80), (2051, 0x3F)]
    let s := rowing (.nscale (wT 1 2 11 7 20 0)) f
    after (exec (.rowEngineRowComplete 0) s) fun t => t.cores.any fun (co : Core) => co.assist.waiting.length == 1 && co.assist.waiting.any fun q => q.first == 0) = true := by decide +kernel
/-- R375: two queues' copies under way are rivals; which of them prevails in a sector is free (log 7). -/
theorem wit_rivals : (let x := copy0 .running []; let y := { copy0 .running [] with id := 8, queue := 3, rank := 1 }; let s := { moving x (engine0 none) with cmds := [x, y] }
    x.rival y 0 && y.begun && !({ y with state := .waiting } : Cmd).begun && !(x.rival { y with queue := x.queue } 0) &&
      (s.noteWrite x (tileSpace 2) 0 64).cmds.all fun z => (z.id == 8) || holdsByte z.written (tileSpace 2) 63) = true := by decide +kernel
/-- R279: a drain asks for the spilled terms a record at a time, in the Collator's line, and a sort behind it waits. -/
theorem wit_drain_spilled : (let x := cmd0 (.cdrain (wT 0 0 1 7 20 0)) .B 2 0 [0] .running
    let s := (unit0 x (some idleRun)).modCtx 0 0 fun y => { y with cat := { y.cat with sp := 2 } }; let k := s.collate 0
    (k.collHead 0).any (·.id == 7) && decide (x.inflight.length < 2) && k.ctx? 0 0 != none && k.launch? 4096 != none &&
      let z := { cmd0 (.sort (wT 6 0 8 7 20 1)) .X 1 1 [0] .waiting with id := 9, ranges := [(0, 1)] };
      (({ s with cmds := [z, x] } : State).collate 0).collHead 0 == k.collHead 0) = true := by decide +kernel
/-- R307: BDUMP writes 256 bytes of accumulators a cycle, and arrives at its barrier with as many. -/
theorem ev_bdump : (let s := unit0 (cmd0 (.bdump (wT 0 0 4 7 20 0)) .B 2 0 [40 * 2 ^ 32] .running) (some { idleRun with sums := [] })
    (s.passDone 0).isSome && after (exec (.contractionComplete 0) s) (fun t => t.cmds.any fun x => x.next == 32) &&
      after (exec (.contractionComplete 0) { s with cmds := s.cmds.map fun x => { x with next := 32 } }) fun t => t.cmds.isEmpty) = true := by decide +kernel
/-- R68, R288: a carried word that names a tile not live at its entry traps with a format fault that names its CPYF's last row, of four. -/
theorem ev_carried_refused : (let s := carried0.modCtx 0 0 fun x => { x with tiles := x.tiles.filter (·.1 != 8) }
    after (exec (.carriedWordEntry 7) s) fun t => (t.ctx? 0 0).any fun x => x.trap.any fun q => q.cause == 5 && q.carried && bitsOf q.info2 45 43 == 0 && q.info1 == 3) = true := by
  decide +kernel

/-! ## Errors that cannot be corrected (R424) -/

/-- These errors stand recorded. -/
def spoiled (l : List (Nat × Nat)) (s : State) : State := { s with bad := l }
/-- The first context of core 0 takes a machine-check with this SUB (R407). -/
def checked (o : Host.Outcome State Fault Refusal) (sub : Nat) : Bool :=
  after o fun t => (t.ctx? 0 0).any fun x => x.trap.any fun q => q.cause == 13 && q.sub == sub
/-- Commands that read a line of the scratchpad: a copy, a walk, a row of the row engine, a sort, a dot product, a drain's random bits. -/
theorem ev_bad_commands :
    (checked (exec (.copyPart 7) (spoiled [(2, 0)] (moving (copy0 .running []) (engine0 (some { newSlot 7 [(1, 3)] with cur := some 0 }))))) 2 &&
      checked (exec (.walkEntryPush 0) (spoiled [(2, 0)] (walkOf (walk0 (.aqrd (wT 1 0 0 7 20 0x80000000)) 0)))) 2 &&
      checked (exec (.rowEngineRowComplete 0) (spoiled [(2, 0)] (rowing (.nmax (wT 1 0 11 7 20 0)) []))) 2 &&
      checked (exec (.sortRow 0) (spoiled [(2, 192)] (sorting (.sort (wT 6 0 8 7 20 1)) [(0, 1)]))) 2 &&
      checked (exec (.contractionStart 0) (spoiled [(2, 128)] (unit0 (cmd0 (.bdot (wT 5 5 0 7 20 0)) .B 2 0 [0, 0, 0] .waiting) none))) 2 &&
      checked (exec (.drainComplete 0) (spoiled [(2, 32)] (unit0 (cmd0 (.cdrain (wT 0 2 1 7 20 0x200000000)) .B 2 0 [0] .running) (some idleRun)))) 2) = true := by
  decide +kernel
/-- Words that read a line of text, a register file, a tile's entry, a barrier's. -/
theorem ev_bad_words : (let s := st .S (withTile 7 tileF32 0 1 ∘ withBar 7 4 false)
    checked (exec (.add (wR 4 7 2 3)) (spoiled [(4, fileKey 0 0 0)] s)) 4 && checked (exec (.tinfo (wT 7 0 0 0 14 2)) (spoiled [(4, tileKey 0 0 7)] s)) 4 &&
      checked (exec (.bwait (wT 0 0 0 7 0 0)) (spoiled [(4, barKey 0 0 7)] s)) 4 &&
      after (exec (.add (wR 4 7 2 3)) (spoiled [(4, fileKey 0 0 1)] s)) fun t => t.sreg 0 0 0 4 == some 9) = true := by decide +kernel

/-! ## Steps that are no word: text engines and bindings -/

/-- A text state: vocabulary slot 0 is checked or not, port 0's tag is 9, queue 2 is bound to the launch of ASID 1. -/
def texts (ok : Bool) (f : TextSt → TextSt) : State :=
  let s := part tiles id
  { s with text := f { s.text with ports := s.text.ports.set 0 9, rqbind := s.text.rqbind.set 2 0x8000000000001001, vocab := s.text.vocab.set 0 (if ok then 0xC000000000000000 else 0) } }
/-- A request frame of two bytes of text with REQID 5 and an ASID. -/
def frame (tag : BitVec 32) (asid n : Nat) : UetMessage :=
  { port := 0, conn := 1, tagged := true, tag := tag, body := leBytes (5 + asid * 2 ^ 80 + n * 2 ^ 160) 24 ++ [65, 66] }
/-- What a request ends as. -/
def arrived (o : Host.Outcome State Fault Refusal) (ring frames held : Nat) : Bool :=
  after o fun t => t.text.ring.length == ring && t.text.frames.length == frames && t.text.toks.any fun x => x.reqs.length == held
/-- Another tag goes to the host's ring; a wrong length, an ASID that is not bound, a vocabulary not checked are refused; a full pair of tokenisers too. -/
theorem ev_request_ring : arrived (exec (.requestArrival (frame 8 1 2)) (texts true id)) 1 0 0 = true := by decide +kernel
theorem ev_request_refused : (arrived (exec (.requestArrival (frame 9 1 3)) (texts true id)) 0 1 0 && arrived (exec (.requestArrival (frame 9 2 2)) (texts true id)) 0 1 0 && arrived (exec (.requestArrival (frame 9 1 2)) (texts false id)) 0 1 0) = true := by
  decide +kernel
theorem ev_request_full : arrived (exec (.requestArrival (frame 9 1 2)) (texts true fun x => { x with toks := x.toks.map fun t => { t with reqs := (List.range 64).map fun i => { tokenised with slot := i } } })) 0 1 64 = true := by
  decide +kernel
theorem ev_request_held : arrived (exec (.requestArrival (frame 9 1 2)) (texts true id)) 0 0 1 = true := by decide +kernel
theorem ev_unreliable : (after (exec (.unreliablePacketArrival 3) (texts true id)) (fun t => t.text.dropped == [0, 0, 0, 1]) &&
    after (exec (.rmaReadArrival 3) (texts true id)) fun t => t.text.rmaErrors == [0, 0, 0, 1]) = true := by decide +kernel
/-- A request whose image lists nothing: its tokens are known. -/
theorem ev_tokenise : (let s := texts true fun x => { x with toks := x.toks.set 1 { reqs := [{ tokenised with vpa := 0x40000, tokens := none, text := [65] }], cmds := [], opens := [] } }
    s.imageKept 0x40000 [] && after (exec (.tokeniseDone 1) s) fun t => t.text.toks[1]?.any fun x => x.reqs.any fun r => r.tokens == some [0]) = true := by decide +kernel
/-- Pieces 1 2 3: the pair 2 3 has the lower rank and becomes 9; then nothing merges. -/
theorem wit_merge : (let look (l r : Nat) : Option (Nat × Nat) := if l = 2 ∧ r = 3 then some (4, 9) else if l = 1 ∧ r = 2 then some (5, 8) else none
    bestMerge look [1, 2, 3] == some (1, 4, 9) && bestMerge look [1, 9] == none && mergePiece look 3 [1, 2, 3] == [1, 9]) = true := by decide +kernel
/-- 63 records stand in the queue and two requests wait: one is posted. -/
theorem ev_held_request : (let r (i : Nat) : TextReq := { tokenised with slot := i, posted := false }
    let s := texts true fun x => { x with rq := x.rq.set 2 (List.replicate 63 ⟨0, 0⟩), toks := x.toks.set 1 { reqs := [r 3, r 4], cmds := [], opens := [] } }
    after (exec (.heldRequestPost 2) s) fun t => (t.text.rq[2]?).any fun l => l.length == 64 && l.getLast? == some ⟨1, 3⟩) = true := by decide +kernel
theorem ev_tokpop_write : (let s := texts true fun x => { x with copies := [{ c := 0, k := 0, lid := 4096, eng := .X, secN := 0, tile := 4, bar := 7, tokens := [5, 6], tk := 1, slot := 3, issued := 0 }] }
    (s.usedTile 0 0 4).isSome && after (exec (.tokpopTileWrite 0) s) fun t => t.text.copies.isEmpty && t.cores.any fun (co : Core) => co.scratch.any (·.2 == 5)) = true := by decide +kernel
/-- An open handle of ASID 1 at detokeniser 0. -/
def open0 : OpenHandle :=
  { slot := 3, tag := 6, lid := 4096, port := 0, conn := 1, reqid := 5, vpa := 0, image := [], left := 4, seq := 0, hold := [], cut := false, badTok := false, trunc := false }
/-- A command on its way to it, with this handle. -/
def detok (hd : W64) (toks : Option (List Nat)) : State :=
  { texts true fun x => { x with toks := x.toks.set 0 { reqs := [], cmds := [{ id := 7, handle := hd, tokens := toks, count := 1 }], opens := [open0] } } with
    cmds := [cmd0 (.tokend (wT 0 0 0 7 9 0)) .X 4 0 [hd] .sent] }
/-- A command whose launch is gone is counted late (R423). -/
theorem ev_detokenise_late : after (exec (.detokeniserTake 0) { detok 0 none with cmds := [] }) (fun t => (t.text.toks[0]?).any (·.cmds.isEmpty) && (t.dies[0]?).any (·.late == 1)) =
    true := by decide +kernel
/-- Another handle, an end, a token. -/
theorem ev_detokenise : ([(0, none), (handleOf 4096 0 3 6, none), (handleOf 4096 0 3 6, some [0])].all fun (p : W64 × Option (List Nat)) =>
    after (exec (.detokeniserTake 0) (detok p.1 p.2)) fun t => t.cmds.isEmpty && (t.text.toks[0]?).any fun x => x.cmds.isEmpty && (x.opens.isEmpty == (p.1 != 0 && p.2.isNone))) = true := by
  decide +kernel
theorem ev_reply_close : (let s := texts true fun x => { x with toks := x.toks.set 0 { reqs := [], cmds := [], opens := [{ open0 with lid := 4097 }] } }
    s.launch? 4097 == none && after (exec (.replyClose 0) s) fun t => (t.text.toks[0]?).any (·.opens.isEmpty)) = true := by decide +kernel
theorem ev_rqbind : ([(0x8000000000001001, 1), (0, 0)].all fun (p : W64 × Nat) => let s := texts true fun x => { x with rq := x.rq.set 2 [⟨0, 0⟩] }
    after (exec (.rqbindWrite 2 p.1) s) fun t => t.text.rqbind[2]? == some p.1 && (p.2 == 1 || (t.text.rq[2]?).any (·.isEmpty))) = true := by decide +kernel
/-- V written 0 and 1 over 0 clears OK, 1 over 1 keeps it (R349). -/
theorem ev_vocab : ([(true, 0, false), (true, 0x8000000000000000, true), (false, 0x8000000000000000, false)].all fun (p : Bool × W64 × Bool) =>
    after (exec (.vocabWrite 0 p.2.1) (texts p.1 id)) fun t => (t.text.vocab[0]?).any fun w => w.getLsbD 63 == p.2.1.getLsbD 63 && w.getLsbD 62 == p.2.2) = true := by decide +kernel
theorem ev_vocab_check : (let s := texts true fun x => { x with vocab := x.vocab.set 0 0x8000000000000000 }
    after (exec (.vocabCheckDone 0) s) fun t => (t.text.vocab[0]?).any fun w => !(w.getLsbD 62) && w.getLsbD 61) = true := by decide +kernel
/-- A binding to a queue that another inbox is bound to from the same context clashes. -/
theorem ev_inbox_bind : ([(true, false), (false, true)].all fun (p : Bool × Bool) => let s := inboxed (if p.1 then bound3 else 0) [] 0
    (s.inboxClash 4 bound3 == p.1) && after (exec (.inboxBindWrite 4 bound3) s) fun t => (t.links.inboxes[4]?).any fun x => x.reg.getLsbD 63 == p.2) = true := by decide +kernel

/-! ## Steps that are no word: package and host -/

theorem ev_module_reset : after (exec (.moduleReset false) (part id id)) (fun t => !t.hostsel && t.mem == [(16, 1)] && t.place.launches.isEmpty && !t.boot.ready && t.cores.length == 1024) = true := by
  decide +kernel
/-- A package that has booted nothing, in a pod round or not. -/
def booting (f : PodSt → PodSt) : State := { State.reset with cores := [Core.zero], pod := f State.reset.pod, ctl := { State.reset.ctl with pkgid := 5 }, wall := 100 }
/-- Which of the two clauses applies rests on the signature, a free value (log 10). -/
theorem wit_boot : (let s := booting id; !s.boot.ready && !s.boot.fail && s.boot.image.isEmpty) = true := by decide +kernel
/-- A message of package `p` in round 0. -/
def hello (p : Nat) : Hello := { round := 0, pkg := p, excluded := [], sig := [] }
theorem ev_hello : after (exec (.helloReceived (hello 7)) (booting fun p => { p with helloEnd := 200 })) (fun t => t.pod.heard == [7]) = true := by decide +kernel
/-- The window has just ended: no lower number heard, one heard, one heard that is excluded. -/
theorem ev_hello_end : ([([6], [], 1), ([4], [], 0), ([4], [4], 1)].all fun (p : List Nat × List Nat × Nat) =>
    after (exec .helloWindowExpiry (booting fun x => { x with helloEnd := 100, heard := p.1, excluded := p.2.1 })) fun t => t.pod.role == p.2.2 && t.pod.helloEnd == 0 &&
      t.boot.ready == (p.2.2 == 1)) = true := by decide +kernel
/-- The window has just ended: a lower claim of another is followed, beside a lower number heard or not. -/
theorem ev_claims_at_end : ([([], [4], 2), ([4], [4], 2), ([4], [], 0), ([], [9], 1)].all fun (p : List Nat × List Nat × Nat) =>
    after (exec .helloWindowExpiry (booting fun x => { x with helloEnd := 100, heard := p.1, claims := p.2.1 })) fun t => t.pod.role == p.2.2) = true := by decide +kernel
/-- A leader distributes what its boot image lays down, its own number as the sender. -/
theorem ev_distribute : after (exec .helloWindowExpiry (booting fun x => { x with helloEnd := 100, plan := [{ pkg := 0, image := 1, pa := 0, bytes := [7], last := true }] }))
    (fun t => t.links.out.any fun m => match m with | .config c => c.pkg == 5 && c.bytes == [7] | _ => false) = true := by decide +kernel
/-- A claim that is followed, by a package without a role and by a leader of a higher number; a leader keeps its role against a higher one. -/
theorem wit_claim : ([(0, 3), (1, 3), (1, 7)].all fun (p : Nat × Nat) => let s := booting fun x => { x with role := p.1 }
    s.pod.claims.isEmpty && s.pod.role == p.1) = true := by decide +kernel
/-- A message for staging from the leader. -/
def staging : ConfigMessage := { pkg := 3, image := 1, pa := 0x100, bytes := [7, 8], last := true }
theorem ev_config : (let s := booting fun x => { x with role := 2, leader := some 3 }; s.inDram 0x100 2 && after (exec (.configMessage staging) s) fun t => Mem.get t.mem 0x101 == 8 &&
    t.pod.whole == [1] && t.pod.staged == [(1, 0x100, [7, 8])] && t.pod.timerEnd == some (100 + 5000000 * microsecond)) = true := by decide +kernel
theorem wit_image : ((booting fun x => { x with whole := [1] }).pod.whole.length == 1) = true := by decide +kernel
theorem ev_load_timer : after (exec .loadTimerExpiry (booting fun x => { x with role := 2, leader := some 3, timerEnd := some 100 })) (fun t => t.pod.round == 1 && t.pod.excluded == [3] &&
    t.pod.role == 0 && t.pod.timerEnd == none) = true := by decide +kernel
/-- Values in range, and ends of the range (R464). -/
theorem ev_pwrcap : ([(400, 400), (1600, 1600)].all fun (p : W64 × Nat) => after (exec (.pwrcapWrite (p.1 + 65536)) (part id id)) fun t => bitsOf t.ctl.pwrcap 15 0 == p.2 && t.ctl.pwrcap.getLsbD 16) = true := by
  decide +kernel
theorem ev_cap_released : (let s : State := { part id id with ctl := { State.reset.ctl with pwrcap := 65536 + 800 } }
    after (exec (.powerCapAdjust 800) s) fun t => t.capped == 750) = true := by decide +kernel
/-- 105 °C and 1/16 °C below; 115 °C trips. How far the supply is lowered is free (log 15). -/
theorem ev_thermal : ([(1679, false), (1680, false), (1840, true)].all fun (p : Nat × Bool) => after (exec (.thermalThrottle 3 p.1) (part id id)) (fun t =>
      (t.tele[3]?).any fun y => y.temp == (p.1 : Int) && (decide (1680 ≤ p.1) || y.mv == 750)) &&
    after (exec (.thermalTrip 3 p.1) (part id id)) fun t => t.trip == p.2) = true := by decide +kernel
theorem ev_supply : ([500, 750].all fun mv => after (exec (.supplyChange mv) (part id id)) fun t => t.supply == mv) = true := by decide +kernel
theorem ev_ageing : after (exec (.ageingUpdate 3 70000) (part id id)) (fun t => (t.tele[3]?).any fun y => y.months == 0xFFFF) = true := by decide +kernel
/-- Every source armed. -/
def arming : State := { part id id with now := 9, ctl := { State.reset.ctl with snapCtl := 0xF01, snapCmp := 9 } }
theorem ev_snapshot : ((List.range 4).all (fun src => arming.trigLatches src) && after (exec (.snapshotTrigger 3 0x10005) arming) (fun t => t.ctl.snapDue == some (9, [8], 8, 5)) &&
    after (exec .trigIn arming) (fun t => t.ctl.snapDue == some (9, [8], 2 ^ srcPin, 0)) && after (exec .snapcmpMatch arming) fun t => t.ctl.snapDue == some (9, [8], 2 ^ srcCounter, 0)) = true := by
  decide +kernel
/-- A trigger of cycle 9 that fired on die 2, seen in its own cycle, one after, and three after. Which of the other dies latches at the end of
c + 2 and which of c + 3 is free (log 11), so what a cycle after it leaves is no test's. -/
def latching (n : Nat) : State := { arming with now := n, ctl := { arming.ctl with snapDue := some (9, [8, 2], 8, 5) } }
theorem wit_snapshot_latch : (([9, 10, 12].all fun n => (latching n).ctl.snapDue == some (9, [8, 2], 8, 5) && (latching n).dies[2]?.isSome) &&
    decide ((latching 9).now < 9 + 1) && decide ((latching 10).now = 9 + 1) && decide (9 + 3 ≤ (latching 12).now) &&
    bitsOf (latchedCtl (latching 12).ctl.snapCtl 8 5) 15 12 == 8) = true := by decide +kernel
theorem ev_clears : (let s : State := { part id id with ctl := { State.reset.ctl with crdrop := 4, raceOvf := true, raceDrops := 5 }, dies := State.reset.dies.map fun d => { d with late := 6 } }
    after (exec .crdropClear s) (fun t => t.ctl.crdrop == 0 && t.ctl.raceOvf) && after (exec .racectlOvfClear s) (fun t => !t.ctl.raceOvf && t.ctl.raceDrops == 0 && t.ctl.crdrop == 4) &&
      after (exec (.lateCountClear 2) s) fun t => (t.dies[2]?).any (·.late == 0) && (t.dies[3]?).any (·.late == 6)) = true := by decide +kernel
/-- BAR2 offset 0x601000 is PWRCAP (R252): 800 is written, and read. -/
theorem ev_register : (let w : ControlAccess := { bar0 := false, write := true, off := 0x601000, size := 8, value := 800 }
    after (exec (.registerWrite w) (part id id)) (fun t => bitsOf t.ctl.pwrcap 15 0 == 800) &&
      after (exec (.registerWrite { w with write := false }) (part id id)) fun t => t.links.out.any fun m => match m with | .hostRead v => v == 1600 | _ => false) = true := by decide +kernel
/-- A load and a store of memory by service core 0, a store of PWRCAP, a fence. -/
def served : State := { part id id with mem := [(0x100, 7)] }
theorem ev_service : (let a : ServiceAccess := { op := .load, addr := 0x100, size := 8, rd := 5 }
    !(inControl 0x100) && served.inDram 0x100 8 && served.leadOk 0 && inControl (ctlBase + 0x601000) && served.causedApplied 8 (List.range 8) &&
      after (exec (.serviceCoreAccess 0 a) served) (fun t => (t.svc[0]?).any fun c => c.reg 5 == 7) &&
      after (exec (.serviceCoreAccess 0 { a with op := .store 9 }) served) (fun t => Mem.get t.mem 0x100 == 9) &&
      after (exec (.serviceCoreAccess 0 { a with op := .store 800, addr := ctlBase + 0x601000 }) served) (fun t => bitsOf t.ctl.pwrcap 15 0 == 800) &&
      after (exec (.serviceCoreAccess 0 { a with op := .fence }) served) fun t => (t.svc[0]?).any fun c => c.interval == 1 && c.regs == List.replicate 31 0) = true := by
  decide +kernel
/-- A read of PWRCAP, an AMO add, a load over two pages that lie together, of an address that does not exist, an unaligned AMO. -/
theorem ev_service_more : (let a : ServiceAccess := { op := .load, addr := ctlBase + 0x601000, size := 8, rd := 5 }
    let u := served.onService 0
    u.svcMayWrite 0x100 && after (exec (.serviceCoreAccess 0 a) served) (fun t => (t.svc[0]?).any fun c => c.reg 5 == 1600) &&
      after (exec (.serviceCoreAccess 0 { a with op := .amo 0 true false 5, addr := 0x100 }) served) (fun t => Mem.get t.mem 0x100 == 12 && (t.svc[0]?).any fun c => c.reg 5 == 7) &&
      decide (u.svcPlace .load 0 0xFFC 8 = .ok 0xFFC) && [(2 ^ 45, a.op, 5), (2 ^ 45, .store 1, 7), (0x101, .amo 0 false false 1, 6)].all fun (p : Nat × ServiceOp × Nat) =>
        after (exec (.serviceCoreAccess 0 { a with op := p.2.1, addr := p.1 }) served) fun t => (t.svc[0]?).any fun c => c.mcause.toNat == p.2.2 && t.mem == served.mem) = true := by
  decide +kernel
/-- R122, Sv39: satp with MODE 8 and a root table at 0x1000, whose leaf for the page is good, not accessed yet, absent, a user page. -/
theorem ev_service_translates : ([(0xCF, some 0x80000010), (0x8F, none), (0, none), (0xDF, none)].all fun (p : Byte × Option Nat) =>
    let s : State := { (part id id).modSvc 0 (fun c => { c with mode := 1, satp := 8#64 <<< 60 ||| 1 }) with mem := [(0x1000, p.1), (0x1003, 0x20)] }
    match s.svcPlace .load 0 0x10 8 with
    | .ok pa => p.2 == some pa
    | .error c => p.2.isNone && c == 13) = true := by decide +kernel
/-- R420: FQACK by a store of a service core is a release: it waits for a write that die 3 has not applied. -/
theorem ev_service_fqack : ([true, false].all fun behind =>
    let p : Propagation := { dst := 3, pa := 0x100, data := [7], ver := 1, origin := 0, clock := [1, 0, 0, 0, 0, 0, 0, 0], mirror := none, acc := 9 }
    let f : FaultEntry := { fault1 false with bits := BitVec.ofNat 256 (9 * 2 ^ 64), inService := true }
    let s : State := { (part id id).modDie 0 (fun d => { d with clock := [1, 0, 0, 0, 0, 0, 0, 0] }) with
                         faults := { State.reset.faults with entries := [f] }, props := if behind then [p] else [] }
    let a : ServiceAccess := { op := .store 9, addr := ctlBase + 0x128, size := 8, rd := 0 }
    ((s.onService 0).causedApplied 8 (List.range 8) != behind) && after (exec (.serviceCoreAccess 0 a) s) fun t => t.faults.entries.isEmpty != behind) = true := by
  decide +kernel

/-! ## The service cores' words -/

/-- Service core 0 with values in x10, x11 and x12. -/
def serving (a b c : W64) (f : ServiceCore → ServiceCore) : State :=
  (part id id).modSvc 0 fun x => f { x with regs := ((x.regs.set 9 a).set 10 b).set 11 c }
/-- x5 after a word. -/
def x5 (o : Host.Outcome State Fault Refusal) (v : W64) : Bool := after o fun t => (t.svc[0]?).any fun c => c.reg 5 == v && c.pc == 4
theorem ev_nh_lq : x5 (exec (.nhLq 5 10) (serving 0x40 0 0 id)) 1 = true := by decide +kernel
theorem ev_nh_lwait : (x5 (exec (.nhLwait 5 10) (serving 3 0 0 id)) 3 && x5 (exec (.nhLwait 5 10) (serving (5 <<< 28) 0 0 id)) 2 &&
    after (exec (.nhLwait 5 10) (serving (1 <<< 28) 0 0 id)) fun t => decide (t = serving (1 <<< 28) 0 0 id)) = true := by decide +kernel
theorem ev_nh_fence : (x5 (exec (.nhFence 5 10) (serving 4 0 0 id)) 1 && x5 (exec (.nhFence 5 10) (serving 3 0 0 id)) 0) = true := by decide +kernel
/-- An empty queue, one with two entries, a misaligned address. -/
theorem ev_nh_fqpop : (let s : State := { serving 0x100 0 0 id with faults := { State.reset.faults with entries := [fault1 false, fault1 false] } }
    x5 (exec (.nhFqpop 5 10) (serving 0x100 0 0 id)) (1 <<< 63) && x5 (exec (.nhFqpop 5 10) s) 1 && after (exec (.nhFqpop 5 10) s) (fun t => Mem.get t.mem 0x101 == 0x10 &&
      t.faults.entries.countP (·.inService) == 1) && after (exec (.nhFqpop 5 10) (serving 0x101 0 0 id)) fun t => (t.svc[0]?).any fun c => c.mcause == 2) = true := by decide +kernel
/-- Two pages of ASID 1 from 0x10000: a good word, a misaligned address, a count that is out of range. -/
theorem ev_nh_inval : (let v : W64 := 1 + 1 * 2 ^ 16; x5 (exec (.nhInval 5 10 11) (serving 0x10000 v 0 id)) 0 && x5 (exec (.nhInval 5 10 11) (serving 0x10001 v 0 id)) 1 &&
    (rangeCount v).isSome && (rangeCount (1 <<< 63)).isNone && x5 (exec (.nhIcinv 5 10 11) (serving 0x10000 v 0 id)) 0 && x5 (exec (.nhIcinv 5 10 11) (serving 0x10001 v 0 id)) 1) = true := by
  decide +kernel
/-- One frame of die 2 for its pool of 64 KiB frames, its address at 0x100; a malformed operand. -/
theorem ev_nh_fpool : (let s : State := { serving 0x100 2 0 id with mem := [(0x102, 5), (0x104, 0x40)] }
    x5 (exec (.nhFpool 5 10 11) { serving 0x100 (1 <<< 28) 0 id with mem := [(0x102, 5)] }) (3 <<< 62) && after (exec (.nhFpool 5 10 11) s) fun t => (t.dies[2]?).any fun d => d.pool64 == [0x4000050000]) = true := by
  decide +kernel
/-- The memory a fault entry would go to, and the list of frames, do not exist: the service core's own exceptions (log 4). -/
theorem ev_nh_no_memory : (let s : State := { serving (1 <<< 45) 0 0 id with faults := { State.reset.faults with entries := [fault1 false] } }
    after (exec (.nhFqpop 5 10) s) (fun t => (t.svc[0]?).any (fun c => c.mcause == 7) && t.faults.entries == [fault1 false]) &&
      after (exec (.nhFpool 5 10 11) s) fun t => (t.svc[0]?).any fun c => c.mcause == 5) = true := by decide +kernel
theorem ev_nh_trig : x5 (exec (.nhTrig 5 10) (serving 9 0 0 id)) 1 = true := by decide +kernel

/-! ## Operands, encodings, the step, frames -/

/-- A guard on bit 0 of a register that holds 5, on register 0, and on V's register 1. -/
theorem wit_guard : (let s := st .A (withSreg 1 9 5); let t := st .V fun x => { x with vregs := x.vregs.set 1 1 }
    gives (guardOn ⟨true, false, 9, 0⟩) s true s && gives (guardOn ⟨true, true, 9, 2⟩) s false s && gives (guardOn ⟨true, false, 0, 0⟩) s false s &&
      gives (guardOn ⟨true, true, 0, 63⟩) s true s && gives (guardOn ⟨true, false, 1, 0⟩) t true t && s.here.any (fun h => !(h.eng.isBusy s.now 9)) && free s 5) = true := by decide +kernel
/-- A busy register, an empty queue, a register that holds a value, the ends of the register file. -/
theorem wit_operands : (let s := st .A (fed .A ∘ fun x => x.modEng .A fun en => { en with busy := [(9, 5)] })
    s.here.any fun h => h.eng.isBusy s.now 9 && !(h.eng.isBusy s.now 47) && !h.asst && decide (fileOf h.e < h.ctx.sregs.length) && h.ctx.inqs[inqIndex 1 0]? == some [] &&
      inboundSender 49 == 1 && decide (((h.ctx.sregs[1]?).map List.length) = some 48) && h.eng.loop.isNone && h.eng.sect.isSome) = true := by decide +kernel
theorem wit_inbound : (let s := st .B (fed .B); s.here.any fun h => h.ctx.inqs[inqIndex h.e.tag (inboundSender 49)]? == some [9, 10]) = true := by decide +kernel
/-- A LOOP before the end of its body, at its end with iterations left, and at its last. -/
theorem wit_in_loop : ([(2, 0, 2), (1, 0, 2), (1, 1, 2)].all fun (p : Nat × Nat × Nat) =>
    let s := st .A fun x => x.modEng .A fun en => { en with cnt := [2, 0, 0, 0, 0, 0], loop := some { word := 0, len := p.1, nd := 1, d := 10, iter := p.2.1, total := p.2.2, idx := [0], body := [0, 0], lag := false } }
    s.here.any fun h => h.eng.loop.any fun l => h.eng.indexFree s.now l && h.eng.sect.any fun q => decide (q.widx + 1 ≤ l.word + l.len) == (p.1 == 2) && decide (l.iter + 1 < l.total) == (p.2.1 == 0)) = true := by
  decide +kernel
/-- R171, R177: settling changes nothing where the buffer is filled; an index that waits for a result is written once that has come, and the
buffer is filled from the text. -/
theorem wit_settle : (let loop (lag : Bool) (body : List W96) : LoopSt := { word := 0, len := 2, nd := 1, d := 10, iter := 1, total := 3, idx := [1], body := body, lag := lag }
    let s (lag : Bool) (body : List W96) (busy : List (Nat × Nat)) := st .A fun x => x.modEng .A fun en => { en with cnt := [3, 0, 0, 0, 0, 0], loop := some (loop lag body), busy := busy }
    gives settleLoop (s false [5, 6] []) () (s false [5, 6] []) && gives settleLoop (st .A) () (st .A) && (match settleLoop (s true [5, 6] [(10, 9)]) with | .error .stall => true | _ => false) &&
      okAnd settleLoop (s true [] []) fun _ t => t.sreg 0 0 1 10 == some 1 && t.here.any fun h => h.eng.loop.any fun l => !l.lag && l.body.length == 2) = true := by decide +kernel
/-- R181, R444: a displaced branch that is taken clears DV. -/
theorem ev_dv : (let s := st .A fun x => x.modEng .A fun en => { en with dv := true, dwr := 7 }
    after (exec (.br (wJ 0 0 0 0)) s) fun t => (t.ctx? 0 0).any fun x => !(x.eng .A).dv) = true := by decide +kernel
/-- A word of each format is well formed, encodes and decodes back; a CPYF with the word it carries. -/
theorem wit_encode : ([(.S, .add (wR 1 2 3 0)), (.A, .addI (wI 1 2 0 7)), (.A, .ld (wM 5 6 7 6 2 16)), (.S, .br (wJ 0 0 0 (-96))), (.B, .bmv (wT 8 3 0 7 20 0)),
    (.X, .cpyf ⟨wT 0 0 1 7 20 0xC0000000, 0xC0000020_0C000750_00000000⟩), (.A, .memModifier ⟨1, 2, 1, 1⟩)].all fun (p : Engine × Instr) =>
      wellFormed p.1 p.2 && (encode p.2).any fun w => decide (decode p.1 w (encodeNext p.2) = .ok p.2)) = true := by decide +kernel
theorem wit_encode_service : (encodeService (.nhLq 5 10)).any (fun w => decodeService w == some (.nhLq 5 10)) = true := by decide +kernel
/-- An engine about to take its turn at this word. -/
def turning (e : Engine) (w : W96) : State := { st e id w with agenda := [.core 0 e] }
/-- The state its turn begins in. -/
def atTurn (e : Engine) (s : State) : State := ({ s with agenda := [] } : State).onEngine 0 e
theorem wit_turn : ([(.A, 0x42000090_420C0000_3F000000), (.V, 0x20000030_62028000_3F000000)].all fun (p : Engine × W96) => let u := atTurn p.1 (turning p.1 p.2)
    !u.trip && (u.current 0 p.1).any (fun q => !(q.1.switches u.now q.2.1) && decide (q.2.1.ready ≤ u.now) && q.2.1.sect.isSome) &&
      (u.cores[0]?).any (fun co => co.assist.active.isNone) && u.here.any fun h => okAnd (standingWord h) u fun w v => decide (v = u) && w == p.2 && match decode h.e w 0 with
        | .ok _ => true
        | .bad _ => false) = true := by decide +kernel
/-- The same at a CPYF, its carried word after it. -/
theorem wit_turn_carries : (let w : W96 := 0xC0000020_0C000750_00000000
    let s := (turning .X ((encode (.cpyf ⟨wT 0 0 1 7 20 0xC0000000, w⟩)).getD 0)).modCore 0 fun co =>
      { co with icache := co.icache.map fun l => { l with bytes := l.bytes.take 32 ++ bytesLE 12 w.toNat ++ l.bytes.drop 44 } };
    let u := atTurn .X s;
    u.here.any fun h => h.eng.holdsWord (h.widx + 1) && okAnd (wordAt (h.hdr + 8 + 12 * (h.widx + 1))) u fun nx v => decide (v = u) && nx == w && okAnd (standingWord h) u fun i _ =>
      match decode h.e i nx with | .ok (.cpyf _) => true | _ => false) = true := by decide +kernel
theorem wit_service_turn : (let s : State := { (part id id).modSvc 0 (fun c => { c with pc := 0x100 }) with mem := [(0x100, 0x8B), (0x101, 0x42), (0x102, 0x73)] }
    (decodeService (s.serviceWord 0)).isSome) = true := by decide +kernel
theorem wit_settled : (let s := part id id; Mem.wf s.mem && s.wr.isEmpty && match step s with | .next t => Mem.wf t.mem && t.wr.isEmpty | _ => false) = true := by decide +kernel
theorem wit_issue : (let s := translated (st .A); s.wr.isEmpty && (encode (.st (wM 5 6 0 3 0 0))).isSome && after (exec (.st (wM 5 6 0 3 0 0)) s) fun t => t.accs.length == 1) = true := by
  decide +kernel
theorem wit_scalar_frame : (let s := st .A; s.wr.isEmpty && s.here.any (fun h => !h.asst) && regWordsR.length == 49 && after (exec (.add (wR 4 7 2 3)) s) fun t => t.sreg 0 0 1 4 == some 9) = true := by
  decide +kernel
theorem wit_vector_frame : (let s := vec id; s.wr.isEmpty && s.here.any (fun h => h.e == .V && h.ctx.sregs.length == 4) && after (exec (.vmov (wRT 3 4 0 0 10 0)) s) fun t =>
    (t.ctx? 0 0).any fun x => x.vregs[3]? == some (nums 4)) = true := by decide +kernel
end Sys2Proof.Tests
end

section
/-!
VPOPC (R234): what it puts into its destination, and why the count fits bits 63 to 0.
-/
namespace Sys2Proof.Machine

/-- How many enabled elements of a source are not all zero (R234). -/
def popcCount (x : RWord) (a : VIn) (en : Nat → Bool) : Nat :=
  (List.range (elemsOf x.type.toNat)).countP fun i => en i && a.elem (typeWidth x.type.toNat) i != 0

/-- Executing, VPOPC puts the count into D. -/
theorem exec_vpopc_on {x : RWord} {s u : State} {a : VIn} {en : Nat → Bool} (hg : guardOn x.guard s = .ok (true, s))
    (ha : vSource x.a s = .ok (a, u)) (hm : vMask x u = .ok (en, u)) (hf : u.vFree x.d.toNat) :
    exec (.vpopc x) s =
      .next (s.commit ((u.vPut x.d.toNat (BitVec.ofNat 4096 (popcCount x a en)) none 6).vDone 1)) := by
  have hs : u.here.isSome = true := by
    obtain ⟨h, e, -⟩ := hf
    simp [e]
  show execVpopc x s = _
  unfold execVpopc
  apply run_ok
  rw [bind_ok hg, bind_ok ha]
  simp only [if_true]
  rw [bind_ok hm, bind_ok (vOut_ok _ _ _ hf)]
  exact vEnd_ok 1 (by rw [here_isSome_vPut]; exact hs)

/-- A count is at most the number of elements, which is at most the register's number of bits. -/
theorem popcCount_le (x : RWord) (a : VIn) (en : Nat → Bool) : popcCount x a en ≤ 4096 := calc
  popcCount x a en ≤ (List.range (elemsOf x.type.toNat)).length := List.countP_le_length
  _ = 4096 / typeWidth x.type.toNat := List.length_range
  _ ≤ 4096 := Nat.div_le_self _ _

/-- A number below `2 ^ 64` in a register lies in bits 63 to 0. -/
theorem setWidth_ofNat_of_lt {n : Nat} (h : n < 2 ^ 64) : ((BitVec.ofNat 4096 n).setWidth 64).toNat = n := by
  rw [BitVec.setWidth_ofNat_of_le (by decide), BitVec.toNat_ofNat, Nat.mod_eq_of_lt h]

/-- A number below `2 ^ 64` in a register leaves every other bit clear. -/
theorem getLsbD_ofNat_of_lt {n i : Nat} (h : n < 2 ^ 64) (hi : 64 ≤ i) : (BitVec.ofNat 4096 n).getLsbD i = false := by
  have hlt : n < 2 ^ i := h.trans_le (Nat.pow_le_pow_right (by decide) hi)
  rw [BitVec.getLsbD_ofNat, Nat.testBit_lt_two_pow hlt, Bool.and_false]

/-- The TYPE, SUB and RND that R234 allows. -/
theorem vpopc_fields_of_wellFormed {x : RWord} (h : wellFormed .V (.vpopc x) = true) :
    x.type.toNat ≤ 10 ∧ x.sub = 0 ∧ x.rnd = 0 := by
  have he : elemR .V x zeroC zeroC (· ≤ 10) false false = true := by
    simpa [wellFormed, fieldsOk, overlaps] using h
  simp only [elemR, Bool.and_eq_true, decide_eq_true_eq, Bool.or_false, Bool.false_and, beq_iff_eq] at he
  obtain ⟨⟨⟨⟨-, htype⟩, hsub⟩, hrnd⟩, -⟩ := he
  exact ⟨htype, hsub, hrnd⟩

/-- Settles O34: VPOPC puts its count into D, a count that is at most 4096 and so stays within bits 63 to 0. -/
theorem vpopcCountsElements : Obligations.VpopcCountsElements := by
  refine ⟨fun x s u a en hg ha hm hf => ?_, fun x h => vpopc_fields_of_wellFormed h⟩
  have hlt : popcCount x a en < 2 ^ 64 := (popcCount_le x a en).trans_lt (by decide)
  exact ⟨_, exec_vpopc_on hg ha hm hf, setWidth_ofNat_of_lt hlt, fun i hi => getLsbD_ofNat_of_lt hlt hi⟩

end Sys2Proof.Machine
end

section
/-!
Arrivals at a barrier (R365): the closed form of the phases completed and the COUNT left is the rule's loop.
-/
namespace Sys2Proof.Machine

/-- Too few bytes to complete a phase only lower COUNT: the loop's exit. -/
theorem flipsOf_of_lt {n c : Nat} (e : Nat) (h : n < c) : flipsOf n c e = (0, c - n) := if_pos h

/-- One turn of R365's loop: COUNT's bytes complete a phase, and the rest arrives at a COUNT of EXPECT. -/
theorem flipsOf_of_le {n c e : Nat} (he : 1 ≤ e) (h : c ≤ n) :
    flipsOf n c e = (1 + (flipsOf (n - c) e e).1, (flipsOf (n - c) e e).2) := by
  rw [flipsOf, if_neg (Nat.not_lt.mpr h)]
  obtain hlt | hle := Nat.lt_or_ge (n - c) e
  · rw [flipsOf_of_lt e hlt, Nat.div_eq_of_lt hlt, Nat.mod_eq_of_lt hlt]
  · rw [flipsOf, if_neg (Nat.not_lt.mpr hle), Nat.div_eq_sub_div he hle, Nat.mod_eq_sub_mod hle, Nat.add_comm 1 (_ / e)]

/-- With as many turns as bytes the loop runs to its end, and its result is the closed form. -/
theorem arrivalLoop_eq_flipsOf {e : Nat} (he : 1 ≤ e) {k n c : Nat} (f : Nat) (hc : 1 ≤ c) (hn : n ≤ k) :
    arrivalLoop k n c e f = ((flipsOf n c e).2, f + (flipsOf n c e).1) := by
  induction k generalizing n c f with
  | zero => rw [flipsOf_of_lt e (by omega), arrivalLoop, Nat.add_zero]
  | succ k ih =>
    rw [arrivalLoop]
    split
    case isTrue hle => rw [ih (f + 1) he (by omega), flipsOf_of_le he hle, Nat.add_assoc]
    case isFalse hlt => rw [flipsOf_of_lt e (Nat.not_le.mp hlt), Nat.add_zero]

/-- The COUNT an arrival leaves is from 1 to EXPECT. -/
theorem flipsOf_count_bounds {c e : Nat} (n : Nat) (hc : 1 ≤ c) (hce : c ≤ e) :
    1 ≤ (flipsOf n c e).2 ∧ (flipsOf n c e).2 ≤ e := by
  have hmod : (n - c) % e < e := Nat.mod_lt _ (hc.trans hce)
  unfold flipsOf
  split <;> constructor <;> dsimp only <;> omega

/-- Settles O24: with a turn for each byte the loop yields `flipsOf`, which is what the barrier takes; no bytes complete no phase. -/
theorem arrivalsFollowTheLoop : Obligations.ArrivalsFollowTheLoop := by
  intro b n ref lost hc hce
  obtain ⟨hpos, hle⟩ := flipsOf_count_bounds n hc hce
  rw [arrivalLoop_eq_flipsOf (hc.trans hce) 0 hc le_rfl, Nat.zero_add]
  refine ⟨rfl, hpos, hle, ?_⟩
  rintro rfl
  exact congrArg Prod.fst (flipsOf_of_lt _ hc)

end Sys2Proof.Machine
end

section
/-!
Invariants of meanings: what a meaning keeps of a state wherever it ends, part by part along its sequencing.
-/
namespace Sys2Proof.Machine

/-- A meaning that begins in a state of `P` ends, where it ends, in one. -/
def Maintains {α : Type} (P : State → Prop) (m : M α) : Prop := ∀ s a t, P s → m s = .ok (a, t) → P t

section
variable {α β : Type} {P : State → Prop}

theorem maintains_bind {m : M α} {f : α → M β} (hm : Maintains P m) (hf : ∀ a, Maintains P (f a)) : Maintains P (m >>= f) := by
  intro s b u hs e
  obtain ⟨a, t, h1, h2⟩ := bind_ok_inv e
  exact hf a t b u (hm s a t hs h1) h2

theorem maintains_pure (a : α) : Maintains P (pure a : M α) := by
  intro s b t hs e
  cases e
  exact hs

theorem maintains_throw (e : Stop) : Maintains P (throw e : M α) := by
  intro s b t _ h
  cases h

theorem maintains_stall : Maintains P (stall : M α) := maintains_throw _
theorem maintains_raise (r : TrapReq) : Maintains P (raise r : M α) := maintains_throw _
theorem maintains_formatTrap (n : Nat) : Maintains P (formatTrap n : M α) := maintains_throw _
theorem maintains_illegal : Maintains P (illegal : M α) := maintains_throw _

theorem maintains_modify {g : State → State} (hg : ∀ s, P s → P (g s)) : Maintains P (modify g : M PUnit) := by
  intro s a t hs e
  cases e
  exact hg s hs

theorem maintains_modEng {g : EngSt → EngSt} (hg : ∀ s, P s → P (s.modHere g)) : Maintains P (modEng g) := maintains_modify hg

theorem maintains_modCtx {g : Ctx → Ctx} (hg : ∀ s, P s → P (s.modCtxHere g)) : Maintains P (modCtx g) := maintains_modify hg

theorem maintains_set {t : State} (ht : P t) : Maintains P (set t : M PUnit) := by
  intro s a u _ e
  cases e
  exact ht

/-- A state that is read is one of those the meaning is at. -/
theorem maintains_get_bind {f : State → M β} (hf : ∀ s, P s → Maintains P (f s)) : Maintains P ((get : M State) >>= f) :=
  fun s b u hs e => hf s hs s b u hs e

theorem maintains_require (b : Bool) : Maintains P (require b) := by
  cases b
  · exact maintains_stall
  · exact maintains_pure ()

theorem maintains_here : Maintains P here := by
  intro s h t hs e
  obtain ⟨-, rfl⟩ := here_ok_inv e
  exact hs

theorem maintains_map {m : M α} (g : α → β) (hm : Maintains P m) : Maintains P (g <$> m) := by
  intro s b t hs e
  rw [map_run] at e
  split at e
  next a u h =>
    cases e
    exact hm s a _ hs h
  next => cases e

theorem maintains_ite {c : Prop} [Decidable c] {m n : M α} (hm : Maintains P m) (hn : Maintains P n) :
    Maintains P (if c then m else n) := by
  split
  · exact hm
  · exact hn

theorem maintains_forM {l : List α} {f : α → M PUnit} (hf : ∀ a ∈ l, Maintains P (f a)) : Maintains P (l.forM f) := by
  induction l with
  | nil => exact maintains_pure _
  | cons a l ih => exact maintains_bind (hf a (by simp)) fun _ => ih fun b hb => hf b (by simp [hb])

end

/-- A meaning that changes nothing. -/
theorem maintains_of_state {α : Type} {P : State → Prop} {m : M α} (h : ∀ {s a t}, m s = .ok (a, t) → t = s) : Maintains P m := by
  intro s a t hs e
  rw [h e]
  exact hs

end Sys2Proof.Machine
end

section
/-!
Memory stays settled (log 2): every meaning of an instruction is run by `run`, which commits what it wrote; whatever else a step does
leaves memory and the write list alone.
-/
namespace Sys2Proof.Machine

/-- Memory and the writes that wait to reach it are the same. -/
def SameStore (s t : State) : Prop := t.mem = s.mem ∧ t.wr = s.wr

theorem SameStore.refl (s : State) : SameStore s s := ⟨rfl, rfl⟩

theorem SameStore.trans {s t u : State} (h : SameStore s t) (k : SameStore t u) : SameStore s u :=
  ⟨k.1.trans h.1, k.2.trans h.2⟩

theorem SameStore.settled {s t : State} (h : SameStore s t) (hs : s.Settled) : t.Settled := by
  obtain ⟨hm, hw⟩ := h
  obtain ⟨hwf, hnil⟩ := hs
  exact ⟨by rw [hm]; exact hwf, by rw [hw]; exact hnil⟩

/-- Updates one after the other, none of which touches memory. -/
theorem SameStore.foldl {α : Type} {f : State → α → State} (h : ∀ s a, SameStore s (f s a)) (l : List α) (s : State) :
    SameStore s (l.foldl f s) := by
  induction l generalizing s with
  | nil => exact .refl s
  | cons a l ih => exact (h s a).trans (ih _)

/-- What a step commits is settled. -/
theorem settled_commit {s : State} (t : State) (hs : s.Settled) : (s.commit t).Settled := ⟨commit_wf t hs.1, rfl⟩

/-! ## What `run` makes of a stop -/

theorem sameStore_modCore (s : State) (c : Nat) (f : Core → Core) : SameStore s (s.modCore c f) := ⟨rfl, rfl⟩
theorem sameStore_modEng (s : State) (c k : Nat) (e : Engine) (f : EngSt → EngSt) : SameStore s (s.modEng c k e f) := ⟨rfl, rfl⟩
theorem sameStore_modHere (s : State) (f : EngSt → EngSt) : SameStore s (s.modHere f) := ⟨modHere_mem s f, modHere_wr s f⟩
theorem sameStore_modRegs (s : State) (f : List W64 → List W64) : SameStore s (s.modRegs f) := ⟨modRegs_mem s f, modRegs_wr s f⟩

theorem sameStore_holdRow (s : State) (id r : Nat) : SameStore s (s.holdRow id r) := by
  unfold State.holdRow
  repeat' split
  all_goals exact ⟨rfl, rfl⟩

theorem sameStore_holdWaiter (s : State) (w : Waiter) : SameStore s (s.holdWaiter w) := by
  cases w with
  | row id r => exact sameStore_holdRow s id r
  | _ => exact ⟨rfl, rfl⟩

theorem sameStore_postWalk (s : State) (d c b p i : Nat) (w : Walk) : SameStore s (s.postWalk d c b p i w) := by
  have h : SameStore s (w.waiters.foldl State.holdWaiter s) := .foldl sameStore_holdWaiter _ s
  unfold State.postWalk
  simp only
  split
  · exact h
  · exact h.trans ⟨rfl, rfl⟩

theorem sameStore_letGo (s : State) (c : Nat) (a : Assist) (st : CmdState) (keep : Bool) : SameStore s (s.letGo c a st keep) := by
  unfold State.letGo
  cases keep <;> simp only <;> split <;> exact ⟨rfl, rfl⟩

theorem sameStore_leaveAssist (s : State) (c : Nat) (st : CmdState) (keep : Bool) : SameStore s (s.leaveAssist c st keep) := by
  unfold State.leaveAssist
  split
  · exact .refl s
  split
  · exact .refl s
  · refine SameStore.trans ?_ (sameStore_letGo _ c _ st keep)
    split <;> exact ⟨rfl, rfl⟩

theorem sameStore_raise (s : State) (r : TrapReq) : SameStore s (s.raise r) := by
  unfold State.raise
  cases s.seat with
  | none => exact .refl s
  | some p =>
    obtain ⟨k, asst⟩ := p
    cases asst
    · exact ⟨rfl, rfl⟩
    · exact SameStore.trans ⟨rfl, rfl⟩ (sameStore_leaveAssist _ _ _ _)

/-- Whatever a meaning answers, its step leaves memory settled. -/
theorem settled_run {m : M Unit} {s t : State} (hs : s.Settled) (h : run m s = .next t) : t.Settled := by
  obtain ⟨u, -, rfl⟩ | rfl | ⟨n, rfl⟩ | ⟨d, w, rfl⟩ | ⟨a, l, rfl⟩ | ⟨d, c, b, p, i, w, rfl⟩ | ⟨q, rfl⟩ := run_cases h
  · exact settled_commit u hs
  · exact hs
  · exact hs
  · exact hs
  · exact SameStore.settled ⟨missLine_mem s a l, missLine_wr s a l⟩ hs
  · exact (sameStore_postWalk s d c b p i w).settled hs
  · exact (sameStore_raise s q).settled hs

/-- Every instruction's step is a meaning run at the state it finds, or at that state seen from another engine. -/
theorem exec_eq_run (i : Instr) (s : State) : ∃ (m : M Unit) (u : State), exec i s = run m u ∧ SameStore s u := by
  cases i <;> dsimp only [exec] <;> exact ⟨_, _, rfl, rfl, rfl⟩

theorem settled_exec {i : Instr} {s t : State} (hs : s.Settled) (h : exec i s = .next t) : t.Settled := by
  obtain ⟨m, u, e, hu⟩ := exec_eq_run i s
  exact settled_run (hu.settled hs) (e ▸ h)

/-- A step of the part's own is an instruction's meaning. -/
theorem settled_runOwn {o : Own} {s t : State} (hs : s.Settled) (h : runOwn o s = .next t) : t.Settled := by
  have he : ∃ (m : M Unit) (u : State), runOwn o s = run m u ∧ SameStore s u := by
    cases o <;> dsimp only [runOwn] <;> exact ⟨_, _, rfl, rfl, rfl⟩
  obtain ⟨m, u, e, hu⟩ := he
  exact settled_run (hu.settled hs) (e ▸ h)

/-! ## An engine's turn -/

theorem maintains_textBytes {P : State → Prop} (off n : Nat) : Maintains P (textBytes off n) := by
  have hline (l : ILine) : Maintains P (lineBytes l) := maintains_ite (maintains_raise _) (maintains_pure _)
  unfold textBytes
  refine maintains_bind maintains_here fun h => maintains_get_bind fun s _ => maintains_ite (maintains_pure _) ?_
  simp only
  split
  · exact maintains_stall
  split
  · exact maintains_throw _
  refine maintains_bind (hline _) fun bs => maintains_ite (maintains_pure _) ?_
  split
  · exact maintains_throw _
  · exact maintains_bind (hline _) fun cs => maintains_pure _

theorem maintains_wordAt {P : State → Prop} (off : Nat) : Maintains P (wordAt off) :=
  maintains_bind (maintains_textBytes off 12) fun _ => maintains_pure _

theorem maintains_bodyWords {P : State → Prop} (base n w : Nat) : Maintains P (bodyWords base n w) := by
  induction n generalizing w with
  | zero => exact maintains_pure _
  | succ n ih => exact maintains_bind (maintains_wordAt _) fun _ => maintains_bind (ih _) fun _ => maintains_pure _

theorem maintains_sectionWord {P : State → Prop} (h : Here) (w : Nat) : Maintains P (sectionWord h w) := by
  unfold sectionWord
  split
  · exact maintains_wordAt _
  · exact maintains_ite (maintains_pure _) (maintains_wordAt _)

theorem maintains_setLoop {P : State → Prop} (hh : ∀ s f, P s → P (s.modHere f)) (hr : ∀ s f, P s → P (s.modRegs f)) (l : LoopSt) :
    Maintains P (setLoop l) := by
  unfold setLoop
  refine maintains_bind maintains_here fun h => maintains_get_bind fun s _ => maintains_bind (maintains_modEng fun s => hh s _) fun _ => ?_
  exact maintains_ite (maintains_modify fun s => hr s _) (maintains_pure _)

theorem maintains_settleLoop {P : State → Prop} (hh : ∀ s f, P s → P (s.modHere f)) (hr : ∀ s f, P s → P (s.modRegs f)) :
    Maintains P settleLoop := by
  unfold settleLoop
  refine maintains_bind maintains_here fun h => ?_
  split
  · exact maintains_pure _
  next l _ =>
    refine maintains_get_bind fun s _ => maintains_bind (maintains_require _) fun _ => ?_
    have hfill : Maintains P (do
        let ws ← bodyWords (h.hdr + 8) l.len (l.word + 1)
        modEng fun en => { en with loop := en.loop.map fun m => { m with body := ws } }) :=
      maintains_bind (maintains_bodyWords _ _ _) fun ws => maintains_modEng fun s => hh s _
    have hset := maintains_setLoop hh hr l
    split <;> simp only <;> split
    · exact maintains_bind hset fun _ => hfill
    · exact hfill
    · exact maintains_bind hset fun _ => maintains_pure _
    · exact maintains_pure _

theorem maintains_fetchWord {P : State → Prop} (hh : ∀ s f, P s → P (s.modHere f)) (hr : ∀ s f, P s → P (s.modRegs f)) :
    Maintains P fetchWord := by
  unfold fetchWord
  refine maintains_bind (maintains_settleLoop hh hr) fun _ => maintains_bind maintains_here fun h =>
    maintains_bind (maintains_bind (maintains_sectionWord _ _) fun _ => maintains_pure _) fun w => ?_
  simp only
  split
  · exact maintains_illegal
  -- the word after it is read where the format needs it
  split
  case' h_1 => refine maintains_ite (maintains_bind (maintains_sectionWord _ _) fun nx => ?_) (maintains_bind (maintains_pure _) fun nx => ?_)
  case' h_2 => refine maintains_ite (maintains_bind (maintains_sectionWord _ _) fun nx => ?_) (maintains_bind (maintains_pure _) fun nx => ?_)
  case' h_3 => refine maintains_bind (maintains_pure _) fun nx => ?_
  all_goals
    split
    · exact maintains_raise _
    · exact maintains_illegal
    · exact maintains_ite (maintains_pure _) maintains_illegal
    · exact maintains_ite (maintains_pure _) maintains_illegal
    · exact maintains_pure _

/-- The state an engine's turn goes on in, whatever it is. -/
def FetchResult.state? : FetchResult → Option State
  | .idle => none
  | .unit _ s => some s
  | .word _ s => some s
  | .stop _ s => some s

theorem settled_standing {s t : State} {c : Nat} {e : Engine} {en : EngSt} {len : Nat} (hs : s.Settled)
    (h : (s.standing c e en len).state? = some t) : t.Settled := by
  unfold State.standing at h
  split at h
  · cases h
  split at h
  · split at h <;> cases h <;> exact hs
  split at h
  next i u hu =>
    cases h
    exact maintains_fetchWord (fun s f => (sameStore_modHere s f).settled) (fun s f => (sameStore_modRegs s f).settled) s i _ hs hu
  next => cases h; exact hs

theorem sameStore_standAtHeader (s : State) (c : Nat) (e : Engine) (k : Nat) : SameStore s (s.standAtHeader c e k) := by
  unfold State.standAtHeader
  split
  · simp only
    split <;> exact ⟨rfl, rfl⟩
  · exact .refl s

theorem sameStore_switchContext (s : State) (c : Nat) (e : Engine) : SameStore s (s.switchContext c e) := by
  unfold State.switchContext
  cases s.cores[c]? with
  | none => exact .refl s
  | some co =>
    simp only
    have h (u : State) : SameStore u ((List.range 4).foldl (fun s k => s.standAtHeader c e k) u) :=
      .foldl (fun s k => sameStore_standAtHeader s c e k) _ u
    have hold : SameStore s (match (co.cur[e.tag]?).join with
        | some k => s.modEng c k e fun en => { en with yielded := false, wdc := 0 }
        | none => s) := by
      split
      · exact sameStore_modEng _ _ _ _ _
      · exact .refl s
    split
    · exact (hold.trans (h _)).trans (sameStore_modCore _ _ _)
    · exact (hold.trans (h _)).trans ((sameStore_modCore _ _ _).trans (sameStore_modEng _ _ _ _ _))

theorem settled_engineFetch {s t : State} {c : Nat} {e : Engine} (hs : s.Settled) (h : (s.engineFetch c e).state? = some t) :
    t.Settled := by
  have hu : (s.onEngine c e).Settled := hs
  have hv : ((s.onEngine c e).switchContext c e).Settled := (sameStore_switchContext _ c e).settled hu
  unfold State.engineFetch at h
  simp only at h
  split at h
  · split at h
    · cases h
    · exact settled_standing hu h
  have hchoose : ∀ {r : FetchResult}, r = (match ((s.onEngine c e).switchContext c e).current c e with
      | some (_, en, n) => if ((s.onEngine c e).switchContext c e).now < en.ready then .unit (.contextSwitch c e) (s.onEngine c e)
          else ((s.onEngine c e).switchContext c e).standing c e en n
      | none => .unit (.contextSwitch c e) (s.onEngine c e)) → r.state? = some t → t.Settled := by
    rintro r rfl h
    split at h
    · split at h
      · cases h; exact hu
      · exact settled_standing hv h
    · cases h; exact hu
  split at h
  · split at h
    · exact hchoose rfl h
    · exact settled_standing hu h
  · exact hchoose rfl h

theorem settled_afterTurn {word : Bool} {c : Nat} {e : Engine} {s t : State} (hs : s.Settled) (ht : t.Settled) :
    (afterTurn word c e s t).Settled := by
  unfold afterTurn
  split
  · exact ht
  split
  · split
    · exact ht
    simp only
    split
    · exact (sameStore_raise s _).settled hs
    · split <;> exact ht
  · exact ht

theorem settled_afterUnit {o : Own} {c : Nat} {e : Engine} {s t : State} (hs : s.Settled) (ht : t.Settled) :
    (afterUnit o c e s t).Settled := by
  unfold afterUnit
  split
  · exact ht
  · exact settled_afterTurn hs ht

theorem settled_afterPop {i : Instr} {c : Nat} {e : Engine} {s t : State} (ht : t.Settled) : (afterPop i c e s t).Settled := by
  unfold afterPop
  split
  · split
    · split
      · simp only
        split <;> exact ht
      · exact ht
    · exact ht
  · exact ht

theorem settled_thenState {f : State → State} {o : Host.Outcome State Fault Refusal} {t : State} (ho : ∀ u, o = .next u → (f u).Settled)
    (h : thenState f o = .next t) : t.Settled := by
  cases o with
  | next u => cases h; exact ho u rfl
  | fault r => cases h
  | refused r => cases h

theorem settled_engineTurn {c : Nat} {e : Engine} {s t : State} (hs : s.Settled) (h : engineTurn c e s = .next t) : t.Settled := by
  unfold engineTurn at h
  split at h
  · cases h; exact hs
  next why u hu =>
    have hv : u.Settled := settled_engineFetch hs (by rw [hu]; rfl)
    exact settled_thenState (fun w hw => settled_afterTurn hv (settled_run hv hw)) h
  next o u hu =>
    have hv : u.Settled := settled_engineFetch hs (by rw [hu]; rfl)
    exact settled_thenState (fun w hw => settled_afterUnit hv (settled_runOwn hv hw)) h
  next i u hu =>
    have hv : u.Settled := settled_engineFetch hs (by rw [hu]; rfl)
    exact settled_thenState (fun w hw => settled_afterPop (settled_afterTurn hv (settled_exec hv hw))) h

/-! ## A step -/

theorem settled_serviceTurn {n : Nat} {s t : State} (hs : s.Settled) (h : serviceTurn n s = .next t) : t.Settled := by
  have hn : (s.onService n).Settled := hs
  unfold serviceTurn at h
  split at h
  · exact settled_exec hn h
  · split at h
    · cases h; exact hn
    · cases h

theorem settled_runTurn {u : Turn} {s t : State} (hs : s.Settled) (h : runTurn u s = .next t) : t.Settled := by
  cases u with
  | core c e => exact settled_engineTurn (s := { s with curTry := 0 }) hs h
  | again c e n => exact settled_engineTurn (s := { s with curTry := n }) hs h
  | service n => exact settled_serviceTurn hs h
  | own o => exact settled_runOwn hs h
  | event i => exact settled_exec hs h
  | tick => cases h; exact hs

/-- Settles O56: what a step leaves was committed, or its turn left memory and the write list as they were. -/
theorem memoryInvariantKeptByEveryStep : Obligations.MemoryInvariantKeptByEveryStep := by
  intro s t hs h
  unfold step at h
  split at h
  next =>
    split at h
    · cases h
    · cases h; exact hs
  next u rest _ =>
    have hr : ({ s with agenda := rest } : State).Settled := hs
    split at h
    · exact settled_exec hr h
    · cases h
    · exact settled_runTurn hr h

end Sys2Proof.Machine
end

section
/-!
The opcode map and the encoder (R84 to R108, R131): at most one row fits a word, each format's fields are read back where they were
put, and so decoding a word's encoding gives the word.
-/
namespace Sys2Proof

/-! ## The opcode map -/

/-- The rows of one opcode on one engine. -/
def cell (e : Engine) (op : BitVec 8) : List OpRow := opRows.filter fun r => r.op == op && r.engs.contains e

/-- The rows that fit a word are those of its cell whose form it has. -/
theorem fitting_eq_cell (e : Engine) (w : W96) :
    (opRows.filter fun r => r.op == opOf w && r.engs.contains e && r.form w) = (cell e (opOf w)).filter (·.form w) := by
  rw [cell, List.filter_filter]
  exact List.filter_congr fun r _ => Bool.and_comm _ _

/-- The cells two words share; a bit or a field below the opcode tells which of them it is. -/
def sharedCells : List (Engine × BitVec 8) :=
  (Engine.all.flatMap fun e => [(e, 0x0C), (e, 0x0D)]) ++
    [(.S, 0x91), (.S, 0x98), (.S, 0x99), (.S, 0xB0), (.X, 0xB0), (.B, 0xC4), (.B, 0xC7)]

theorem cell_length_le_one_or_shared (e : Engine) (op : BitVec 8) : (cell e op).length ≤ 1 ∨ (e, op) ∈ sharedCells := by
  have table : ∀ r ∈ opRows, ∀ e ∈ r.engs, (cell e r.op).length ≤ 1 ∨ (e, r.op) ∈ sharedCells := by decide +kernel
  cases hc : cell e op with
  | nil => exact .inl (Nat.zero_le _)
  | cons r l =>
    have hr : r ∈ cell e op := by rw [hc]; exact List.mem_cons_self
    obtain ⟨hm, hk⟩ := List.mem_filter.mp hr
    obtain ⟨hop, he⟩ := (Bool.and_eq_true _ _).mp hk
    rw [← hc, ← eq_of_beq hop]
    exact table r hm e (List.contains_iff_mem.mp he)

/-- Of two rows with opposite forms one fits. -/
theorem filter_opposite_forms {l : List OpRow} {w : W96} (h : ∃ r q, l = [r, q] ∧ r.form w = !q.form w) :
    (l.filter (·.form w)).length ≤ 1 := by
  obtain ⟨r, q, rfl, h⟩ := h
  cases hq : q.form w <;> simp [h, hq]

/-- The two rows of a shared cell have opposite forms. -/
theorem shared_cells_opposite (w : W96) : ∀ p ∈ sharedCells, ∃ r q, cell p.1 p.2 = [r, q] ∧ r.form w = !q.form w := by
  unfold sharedCells Engine.all
  simp only [List.flatMap_cons, List.flatMap_nil, List.append_nil, List.cons_append, List.nil_append, List.forall_mem_cons]
  refine ⟨?_, ?_, ?_, ?_, ?_, ?_, ?_, ?_, ?_, ?_, ?_, ?_, ?_, ?_, ?_, ?_, ?_, by simp⟩
  all_goals exact ⟨_, _, rfl, rfl⟩

/-- Settles O52: a cell holds one row, or two with opposite forms. -/
theorem opcodeMapIsUnambiguous : Obligations.OpcodeMapIsUnambiguous := by
  intro e w
  rw [fitting_eq_cell]
  obtain h | h := cell_length_le_one_or_shared e (opOf w)
  · exact (List.length_filter_le _ _).trans h
  · exact filter_opposite_forms (shared_cells_opposite w _ h)

/-- A row that fits is the one decoding finds. -/
theorem rowOf_eq_some {e : Engine} {w : W96} {r : OpRow} (hr : r ∈ opRows)
    (hf : (r.op == opOf w && r.engs.contains e && r.form w) = true) : rowOf e w = some r := by
  have hmem : r ∈ opRows.filter fun r => r.op == opOf w && r.engs.contains e && r.form w := List.mem_filter.mpr ⟨hr, hf⟩
  have hlen := opcodeMapIsUnambiguous e w
  rw [rowOf, ← List.head?_filter]
  match h : opRows.filter fun r => r.op == opOf w && r.engs.contains e && r.form w with
  | [] => rw [h] at hmem; cases hmem
  | [q] => rw [h] at hmem ⊢; rw [List.mem_singleton.mp hmem]; rfl
  | _ :: _ :: _ => rw [h] at hlen; simp at hlen

/-! ## Fields -/

theorem fieldAt_ofNat {n lo : Nat} (h : lo + n ≤ 96) (v : Nat) :
    (fieldAt n (BitVec.ofNat 96 v) lo).toNat = v / 2 ^ lo % 2 ^ n := by
  have hd : (2 : Nat) ^ 96 = 2 ^ lo * 2 ^ (96 - lo) := by rw [← Nat.pow_add]; congr 1; omega
  rw [fieldAt, BitVec.toNat_ofNat, BitVec.toNat_ofNat, hd, Nat.mod_mul_right_div_self]
  exact Nat.mod_mod_of_dvd _ (Nat.pow_dvd_pow 2 (by omega))

theorem bit96_ofNat {k : Nat} (h : k < 96) (v : Nat) : bit96 (BitVec.ofNat 96 v) k = (v / 2 ^ k % 2 == 1) := by
  have hf : (BitVec.ofNat 96 v).toNat / 2 ^ k % 2 = v / 2 ^ k % 2 := by
    have := fieldAt_ofNat (n := 1) (lo := k) (by omega) v
    simpa [fieldAt] using this
  rw [bit96, hf]

/-- The opcode stands above the guard and the operands, which lie below bit 74. -/
theorem opOf_packHead (op : BitVec 8) (g : Guard) {r : Nat} (hr : r < 2 ^ 74) : opOf (BitVec.ofNat 96 (packHead op g + r)) = op := by
  apply BitVec.eq_of_toNat_eq
  rw [opOf, fieldAt_ofNat (by decide)]
  have h1 := g.g.toNat_lt
  have h2 := g.neg.toNat_lt
  simp only [packHead, putAt]
  omega

theorem guardOf_packHead (op : BitVec 8) (g : Guard) {r : Nat} (hr : r < 2 ^ 74) :
    guardOf (BitVec.ofNat 96 (packHead op g + r)) = g := by
  obtain ⟨on, neg, greg, gbit⟩ := g
  have h1 := on.toNat_lt
  have h2 := neg.toNat_lt
  simp only [guardOf, Guard.mk.injEq, packHead, putAt]
  refine ⟨?_, ?_, ?_, ?_⟩
  · rw [bit96_ofNat (by decide)]
    cases on <;> simp only [Bool.toNat_true, Bool.toNat_false, beq_iff_eq, beq_eq_false_iff_ne] <;> omega
  · rw [bit96_ofNat (by decide)]
    cases neg <;> simp only [Bool.toNat_true, Bool.toNat_false, beq_iff_eq, beq_eq_false_iff_ne] <;> omega
  all_goals
    apply BitVec.eq_of_toNat_eq
    rw [fieldAt_ofNat (by decide)]
    omega

/-- A field below bit 74 is read from the operands alone. -/
theorem fieldAt_packHead {n lo : Nat} (h : lo + n ≤ 74) (op : BitVec 8) (g : Guard) (r : Nat) :
    (fieldAt n (BitVec.ofNat 96 (packHead op g + r)) lo).toNat = r / 2 ^ lo % 2 ^ n := by
  have hd : ∃ k, packHead op g = 2 ^ lo * (2 ^ n * k) := by
    refine ⟨2 ^ (74 - (lo + n)) * (op.toNat * 2 ^ 14 + g.g.toNat * 2 ^ 13 + g.neg.toNat * 2 ^ 12 + g.greg.toNat * 2 ^ 6 + g.gbit.toNat), ?_⟩
    rw [← Nat.mul_assoc, ← Nat.mul_assoc, ← Nat.pow_add, ← Nat.pow_add, show lo + n + (74 - (lo + n)) = 74 by omega]
    simp only [packHead, putAt]
    omega
  obtain ⟨k, hk⟩ := hd
  rw [fieldAt_ofNat (by omega), hk, Nat.add_comm, Nat.add_mul_div_left _ _ (Nat.two_pow_pos lo), Nat.add_mul_mod_self_left]

section
variable (op : BitVec 8)

@[simp] theorem opOf_packR (x : RWord) : opOf (packR op x) = op := by
  simp only [packR, Nat.add_assoc]
  exact opOf_packHead op _ (by simp only [putAt]; omega)

@[simp] theorem rOf_packR (x : RWord) : rOf (packR op x) = x := by
  obtain ⟨g, d, a, b, c, type, sub, rnd, rb, srn, mask⟩ := x
  simp only [rOf, packR, Nat.add_assoc, RWord.mk.injEq]
  refine ⟨guardOf_packHead op g (by simp only [putAt]; omega), ?_, ?_, ?_, ?_, ?_, ?_, ?_, ?_, ?_, ?_⟩
  all_goals
    apply BitVec.eq_of_toNat_eq
    rw [fieldAt_packHead (by decide)]
    simp only [putAt]
    omega

@[simp] theorem reservedZero_packR (x : RWord) : reservedZero .R (packR op x) = true := by
  simp only [reservedZero, packR, Nat.add_assoc, beq_iff_eq]
  apply BitVec.eq_of_toNat_eq
  rw [fieldAt_packHead (by decide)]
  simp only [putAt, BitVec.reduceToNat]
  omega

@[simp] theorem opOf_packI (x : IWord) : opOf (packI op x) = op := by
  simp only [packI, Nat.add_assoc]
  exact opOf_packHead op _ (by simp only [putAt]; omega)

@[simp] theorem iOf_packI (x : IWord) : iOf (packI op x) = x := by
  obtain ⟨g, d, a, sub, imm⟩ := x
  simp only [iOf, packI, Nat.add_assoc, IWord.mk.injEq]
  refine ⟨guardOf_packHead op g (by simp only [putAt]; omega), ?_, ?_, ?_, ?_⟩
  all_goals
    apply BitVec.eq_of_toNat_eq
    rw [fieldAt_packHead (by decide)]
    simp only [putAt]
    omega

@[simp] theorem reservedZero_packI (x : IWord) : reservedZero .I (packI op x) = true := by
  simp only [reservedZero, packI, Nat.add_assoc, beq_iff_eq]
  apply BitVec.eq_of_toNat_eq
  rw [fieldAt_packHead (by decide)]
  simp only [putAt, BitVec.reduceToNat]
  omega

@[simp] theorem opOf_packM (x : MWord) : opOf (packM op x) = op := by
  simp only [packM, Nat.add_assoc]
  exact opOf_packHead op _ (by simp only [putAt]; omega)

@[simp] theorem mOf_packM (x : MWord) : mOf (packM op x) = x := by
  obtain ⟨g, data, base, index, size, scale, disp⟩ := x
  simp only [mOf, packM, Nat.add_assoc, MWord.mk.injEq]
  refine ⟨guardOf_packHead op g (by simp only [putAt]; omega), ?_, ?_, ?_, ?_, ?_, ?_⟩
  all_goals
    apply BitVec.eq_of_toNat_eq
    rw [fieldAt_packHead (by decide)]
    simp only [putAt]
    omega

@[simp] theorem reservedZero_packM (x : MWord) : reservedZero .M (packM op x) = true := by
  simp only [reservedZero, packM, Nat.add_assoc, beq_iff_eq]
  apply BitVec.eq_of_toNat_eq
  rw [fieldAt_packHead (by decide)]
  simp only [putAt, BitVec.reduceToNat]
  omega

@[simp] theorem opOf_packT (x : TWord) : opOf (packT op x) = op := by
  simp only [packT, Nat.add_assoc]
  exact opOf_packHead op _ (by simp only [putAt]; omega)

@[simp] theorem tOf_packT (x : TWord) : tOf (packT op x) = x := by
  obtain ⟨g, ta, tb, td, bar, preg, cmd⟩ := x
  simp only [tOf, packT, Nat.add_assoc, TWord.mk.injEq]
  refine ⟨guardOf_packHead op g (by simp only [putAt]; omega), ?_, ?_, ?_, ?_, ?_, ?_⟩
  all_goals
    apply BitVec.eq_of_toNat_eq
    rw [fieldAt_packHead (by decide)]
    simp only [putAt]
    omega

@[simp] theorem opOf_packJ (x : JWord) : opOf (packJ op x) = op := by
  simp only [packJ, Nat.add_assoc]
  exact opOf_packHead op _ (by simp only [putAt]; omega)

@[simp] theorem jOf_packJ (x : JWord) : jOf (packJ op x) = x := by
  obtain ⟨g, treg, tbit, cond, off⟩ := x
  simp only [jOf, packJ, Nat.add_assoc, JWord.mk.injEq]
  refine ⟨guardOf_packHead op g (by simp only [putAt]; omega), ?_, ?_, ?_, ?_⟩
  all_goals
    apply BitVec.eq_of_toNat_eq
    rw [fieldAt_packHead (by decide)]
    simp only [putAt]
    omega

@[simp] theorem reservedZero_packJ (x : JWord) : reservedZero .J (packJ op x) = true := by
  simp only [reservedZero, packJ, Nat.add_assoc, beq_iff_eq]
  apply BitVec.eq_of_toNat_eq
  rw [fieldAt_packHead (by decide)]
  simp only [putAt, BitVec.reduceToNat]
  omega

end

@[simp] theorem opOf_packP (x : PWord) : opOf (packP x) = 0xFE := by
  apply BitVec.eq_of_toNat_eq
  rw [opOf, packP, fieldAt_ofNat (by decide)]
  simp only [putAt, BitVec.reduceToNat]
  omega

@[simp] theorem pOf_packP (x : PWord) : pOf (packP x) = x := by
  obtain ⟨order, scope, cache, race⟩ := x
  simp only [pOf, packP, PWord.mk.injEq]
  refine ⟨?_, ?_, ?_, ?_⟩
  all_goals
    apply BitVec.eq_of_toNat_eq
    rw [fieldAt_ofNat (by decide)]
    simp only [putAt]
    omega

@[simp] theorem reservedZero_packP (x : PWord) : reservedZero .P (packP x) = true := by
  simp only [reservedZero, packP, Bool.and_eq_true, beq_iff_eq]
  refine ⟨⟨?_, ?_⟩, ?_⟩
  all_goals
    apply BitVec.eq_of_toNat_eq
    rw [fieldAt_ofNat (by decide)]
    simp only [putAt, BitVec.reduceToNat]
    omega

@[simp] theorem opOf_packK (x : BitVec 88) : opOf (packK x) = 0xFF := by
  apply BitVec.eq_of_toNat_eq
  rw [opOf, packK, fieldAt_ofNat (by decide)]
  simp only [putAt, BitVec.reduceToNat]
  omega

@[simp] theorem field_packK (x : BitVec 88) : fieldAt 88 (packK x) 0 = x := by
  apply BitVec.eq_of_toNat_eq
  rw [packK, fieldAt_ofNat (by decide)]
  simp only [putAt]
  omega

@[simp] theorem reservedZero_T (w : W96) : reservedZero .T w = true := rfl
@[simp] theorem reservedZero_none (w : W96) : reservedZero .none w = true := rfl

/-! ## The row of a word -/

/-- A bit of CMD outside those a word may set is clear. -/
theorem cmd_bit_clear {e : Engine} {x : TWord} {ta tb td bar : Bool} {preg : Nat → Bool} {mask : BitVec 34} {k : Nat}
    (h : tFields e x ta tb td bar preg mask = true) (hk : k < 34) (hm : mask.getLsbD k = false) : x.cmd.getLsbD k = false := by
  simp only [tFields, Bool.and_eq_true, beq_iff_eq] at h
  have hz := congrArg (·.getLsbD k) h.2
  simpa only [BitVec.getLsbD_and, BitVec.getLsbD_not, hm, hk, decide_true, Bool.not_false, Bool.and_true, Bool.true_and, BitVec.ofNat_eq_ofNat,
    BitVec.getLsbD_zero] using hz

/-- The row of a word stands in the map at the word's own number, has its opcode and builds it from its encoding. -/
theorem row_builds {i : Instr} {w : W96} (h : encode i = some w) : ∃ r, opRows[i.ctorIdx]? = some r ∧ r.op = opOf w ∧
    r.build w (encodeNext i) = i ∧ reservedZero r.fmt w = true := by
  cases i <;> simp only [encode, Option.some.injEq, reduceCtorEq] at h <;> subst h <;> refine ⟨_, rfl, ?_⟩ <;>
    simp only [opOf_packR, opOf_packI, opOf_packM, opOf_packT, opOf_packJ, opOf_packP, opOf_packK, rOf_packR, iOf_packI, mOf_packM, tOf_packT,
      jOf_packJ, pOf_packP, field_packK, reservedZero_packR, reservedZero_packI, reservedZero_packM, reservedZero_packJ, reservedZero_packP,
      reservedZero_T, reservedZero_none, encodeNext, and_self]

/-- A word's fields are right only on an engine of its row. -/
theorem row_engine {e : Engine} {i : Instr} {r : OpRow} (hr : opRows[i.ctorIdx]? = some r) (hf : fieldsOk e i = true) :
    r.engs.contains e = true := by
  have h : (r.engs.contains e || !fieldsOk e i) = true := by
    cases i <;> cases hr <;> cases e <;> rfl
  simpa [hf] using h

theorem sysR_type_sub {e : Engine} {x : RWord} {d a b c : Engine → BitVec 6 → Bool} {type sub : BitVec 4 → Bool}
    (h : sysR e x d a b c type sub = true) : type x.type = true ∧ sub x.sub = true := by
  simp only [sysR, Bool.and_eq_true] at h
  obtain ⟨⟨⟨⟨-, ht⟩, hs⟩, -⟩, -⟩ := h
  exact ⟨ht, hs⟩

/-- A word's encoding has the form of its row: where two words share a cell, their fields tell which it is. -/
theorem row_form {e : Engine} {i : Instr} {w : W96} {r : OpRow} (h : encode i = some w) (hr : opRows[i.ctorIdx]? = some r)
    (hf : fieldsOk e i = true) : r.form w = true := by
  -- the row of every other word takes any form
  cases i <;> cases hr <;> try rfl
  all_goals
    cases h
    simp only [fieldsOk, Bool.and_eq_true] at hf
    simp only [tOf_packT, rOf_packR, Bool.not_eq_true']
  case barinit => exact cmd_bit_clear hf (by decide) (by decide)
  case barrive => exact cmd_bit_clear hf (by decide) (by decide)
  case tokpop => exact cmd_bit_clear hf.2 (by decide) (by decide)
  case cdrain => exact cmd_bit_clear hf.2 (by decide) (by decide)
  case banch => exact cmd_bit_clear hf.2 (by decide) (by decide)
  case barinitF => exact hf.2
  case barriveR => exact hf.2
  case tokpopT => exact hf.2
  case cdrainL => exact hf.2
  case banchR => exact hf.2
  case lwaitT => exact (sysR_type_sub hf.2).2
  case qpushT => exact (sysR_type_sub hf.2).1
  case qpopT => exact (sysR_type_sub hf.2).1
  case lwaitW => rw [eq_of_beq (sysR_type_sub hf.2).2]; rfl
  case qpush => rw [eq_of_beq (sysR_type_sub hf.2).1]; rfl
  case qpop => rw [eq_of_beq (sysR_type_sub hf.2).1]; rfl

/-- Only the words of the engines' maps are well formed, and they have an encoding. -/
theorem encode_isSome {e : Engine} {i : Instr} (hf : fieldsOk e i = true) : ∃ w, encode i = some w := by
  have h : ((encode i).isSome || !fieldsOk e i) = true := by cases i <;> rfl
  exact Option.isSome_iff_exists.mp (by simpa [hf] using h)

/-! ## Decoding an encoding -/

theorem rowOf_encode {e : Engine} {i : Instr} {w : W96} (h : encode i = some w) (hf : fieldsOk e i = true) :
    ∃ r, rowOf e w = some r ∧ r.build w (encodeNext i) = i ∧ reservedZero r.fmt w = true := by
  obtain ⟨r, hr, hop, hb, hz⟩ := row_builds h
  refine ⟨r, rowOf_eq_some (List.mem_of_getElem? hr) ?_, hb, hz⟩
  simp [hop, List.contains_iff_mem.mp (row_engine hr hf), row_form h hr hf]

theorem decodeWord_encode {e : Engine} {i : Instr} {w : W96} (h : encode i = some w) (hf : wellFormed e i = true) :
    decodeWord e w (encodeNext i) = .ok i := by
  rw [wellFormed, Bool.and_eq_true, Bool.not_eq_true'] at hf
  obtain ⟨hfields, hover⟩ := hf
  obtain ⟨r, hr, hb, hz⟩ := rowOf_encode h hfields
  simp [decodeWord, hr, hb, hz, hfields, hover]

theorem decode_encode {e : Engine} {i : Instr} {w : W96} (h : encode i = some w) (hf : wellFormed e i = true)
    (hc : ∀ f, i = .cpyf f → ∃ j, carriedDecode f.carried = .ok j) : decode e w (encodeNext i) = .ok i := by
  rw [decode, decodeWord_encode h hf]
  split
  next f he =>
    cases he
    obtain ⟨j, hj⟩ := hc f rfl
    rw [hj]
  next => rfl

/-! ## The service cores' words -/

theorem field32_ofNat {n lo : Nat} (h : lo + n ≤ 32) (v : Nat) : (field32 n (BitVec.ofNat 32 v) lo).toNat = v / 2 ^ lo % 2 ^ n := by
  have hd : (2 : Nat) ^ 32 = 2 ^ lo * 2 ^ (32 - lo) := by rw [← Nat.pow_add]; congr 1; omega
  rw [field32, BitVec.toNat_ofNat, BitVec.toNat_ofNat, hd, Nat.mod_mul_right_div_self]
  exact Nat.mod_mod_of_dvd _ (Nat.pow_dvd_pow 2 (by omega))

/-- The fields of a service core's word are read back where they were put (R131, R482). -/
theorem fields_packService {f3 : Nat} (hf : f3 < 8) (rd rs1 rs2 : BitVec 5) :
    field32 7 (packService f3 rd rs1 rs2) 0 = 0x0B ∧ field32 7 (packService f3 rd rs1 rs2) 25 = 0 ∧
      field32 5 (packService f3 rd rs1 rs2) 7 = rd ∧ field32 5 (packService f3 rd rs1 rs2) 15 = rs1 ∧
      field32 5 (packService f3 rd rs1 rs2) 20 = rs2 ∧ (field32 3 (packService f3 rd rs1 rs2) 12).toNat = f3 := by
  simp only [packService]
  refine ⟨BitVec.eq_of_toNat_eq ?_, BitVec.eq_of_toNat_eq ?_, BitVec.eq_of_toNat_eq ?_, BitVec.eq_of_toNat_eq ?_, BitVec.eq_of_toNat_eq ?_, ?_⟩
  all_goals
    rw [field32_ofNat (by decide)]
    simp only [putAt, BitVec.reduceToNat]
    omega

theorem decodeService_encodeService {i : Instr} {w : BitVec 32} (h : encodeService i = some w) : decodeService w = some i := by
  cases i <;> cases h <;> simp [decodeService, fields_packService]

/-- Settles O51: a word's encoding finds the word's own row, whose checks a well-formed word passes. -/
theorem decodeOfEncode : Obligations.DecodeOfEncode := by
  refine ⟨fun e i hf hc => ?_, fun i w => decodeService_encodeService⟩
  obtain ⟨w, hw⟩ := encode_isSome (Bool.and_eq_true _ _ ▸ hf).1
  exact ⟨w, hw, decode_encode hw hf hc⟩

end Sys2Proof
end

section
/-!
Facts about numbers: the bit counts (R192), the indices of a LOOP (R177), a draw from a range (R159).
-/
namespace Sys2Proof.Machine

/-! ## Bit counts -/

/-- From above the highest set bit `n`, the scan counts down to it. -/
theorem leadingZeros_of_highest {a : W64} {n k : Nat} (hn : a.getLsbD n = true) (hz : ∀ j, n < j → a.getLsbD j = false) (hk : n < k) :
    leadingZeros a k = k - 1 - n := by
  induction k with
  | zero => omega
  | succ k ih =>
    rw [leadingZeros]
    obtain rfl | hlt := Nat.eq_or_lt_of_le (Nat.lt_succ_iff.mp hk)
    · simp [hn]
    · rw [hz k hlt, ih hlt]
      simp only [Bool.false_eq_true, if_false]
      omega

/-- From a bit at or below the lowest set bit `n`, the scan counts up to it. -/
theorem trailingZeros_of_lowest {a : W64} {n k : Nat} (hlt : n < 64) (hn : a.getLsbD n = true) (hz : ∀ j < n, a.getLsbD j = false)
    (hk : 64 - k ≤ n) (hk' : k ≤ 64) : trailingZeros a k = n + k - 64 := by
  induction k with
  | zero => omega
  | succ k ih =>
    rw [trailingZeros]
    obtain rfl | hne := Decidable.em (63 - k = n)
    · simp only [hn, if_true]
      omega
    · rw [hz (63 - k) (by omega), ih (by omega) (by omega)]
      simp only [Bool.false_eq_true, if_false]
      omega

theorem leadingZeros_zero (k : Nat) : leadingZeros 0 k = k := by
  induction k with
  | zero => rfl
  | succ k ih => rw [leadingZeros, BitVec.ofNat_eq_ofNat, BitVec.getLsbD_zero, ← BitVec.ofNat_eq_ofNat, ih, if_neg Bool.false_ne_true, Nat.add_comm]

theorem trailingZeros_zero (k : Nat) : trailingZeros 0 k = k := by
  induction k with
  | zero => rfl
  | succ k ih => rw [trailingZeros, BitVec.ofNat_eq_ofNat, BitVec.getLsbD_zero, ← BitVec.ofNat_eq_ofNat, ih, if_neg Bool.false_ne_true, Nat.add_comm]

theorem countP_or_disjoint {α : Type} (p q : α → Bool) (l : List α) (h : ∀ a, p a = true → q a = false) :
    l.countP (fun a => p a || q a) = l.countP p + l.countP q := by
  induction l with
  | nil => rfl
  | cons a l ih =>
    simp only [List.countP_cons, ih]
    cases hp : p a
    · simp only [Bool.false_or, Bool.false_eq_true, if_false]
      omega
    · simp only [h a hp, Bool.true_or, Bool.false_eq_true, if_true, if_false]
      omega

/-- A bit set that was clear is one more set bit. -/
theorem countP_set_bit {a : W64} {n : Nat} (hlt : n < 64) (hn : a.getLsbD n = false) :
    (List.range 64).countP (fun i => (a ||| bitAt n).getLsbD i) = (List.range 64).countP (fun i => a.getLsbD i) + 1 := by
  have hbits : ∀ i ∈ List.range 64, ((a ||| bitAt n).getLsbD i = true ↔ (a.getLsbD i || i == n) = true) := by
    intro i hi
    have hi : i < 64 := List.mem_range.mp hi
    by_cases h : i = n
    · subst h
      simp [bitAt, hi]
    · have : ¬ (n ≤ i ∧ i - n = 0) := by omega
      simp [bitAt, hi, h, BitVec.getElem_shiftLeft, this]
  have hone : (List.range 64).countP (fun i => i == n) = 1 := by
    rw [← List.count]
    exact List.count_eq_one_of_mem List.nodup_range (List.mem_range.mpr hlt)
  rw [List.countP_congr hbits, countP_or_disjoint, hone]
  intro i hi
  rw [beq_eq_false_iff_ne]
  rintro rfl
  rw [hn] at hi
  cases hi

/-- Settles O5: each count is the length of a scan that ends at the highest or the lowest set bit, or a count of bits. -/
theorem bitCountsCountBits : Obligations.BitCountsCountBits := by
  refine ⟨?_, ?_, by decide, ?_, ?_, ?_⟩
  · rw [aluClz, leadingZeros_zero]; rfl
  · rw [aluCtz, trailingZeros_zero]; rfl
  · intro a n hlt hn hz
    rw [aluClz, leadingZeros_of_highest hn hz hlt, BitVec.toNat_ofNat]
    omega
  · intro a n hlt hn hz
    rw [aluCtz, trailingZeros_of_lowest hlt hn hz (by omega) le_rfl, BitVec.toNat_ofNat]
    omega
  · intro a n hlt hn
    have hle : (List.range 64).countP (fun i => a.getLsbD i) ≤ 64 := by
      simpa using List.countP_le_length (p := fun i => a.getLsbD i) (l := List.range 64)
    rw [aluPopc, aluPopc, countP_set_bit hlt hn, BitVec.toNat_ofNat, BitVec.toNat_ofNat]
    omega

/-! ## The indices of a LOOP -/

/-- How many iterations pass while dimension `k` stands still: the product of the counts below it. -/
def loopStride (cnt : List (BitVec 32)) (k : Nat) : Nat := ((cnt.take k).map BitVec.toNat).foldl (· * ·) 1

theorem loopStride_succ {cnt : List (BitVec 32)} {k : Nat} (hk : k < cnt.length) :
    loopStride cnt (k + 1) = loopStride cnt k * ((cnt[k]?).getD 0).toNat := by
  rw [loopStride, loopStride, List.take_add_one, List.getElem?_eq_getElem hk, List.map_append, List.foldl_append]
  rfl

/-- An index is a digit of the iteration's number, in the radix of its count. -/
theorem loopIdx_toNat (cnt : List (BitVec 32)) (f k : Nat) (hk : (cnt[k]?).getD 0 ≠ 0) :
    (loopIdx cnt f k).toNat = f / loopStride cnt k % ((cnt[k]?).getD 0).toNat := by
  have hpos : 0 < ((cnt[k]?).getD 0).toNat := Nat.pos_of_ne_zero fun h => hk (BitVec.eq_of_toNat_eq h)
  rw [loopIdx, BitVec.toNat_ofNat]
  exact Nat.mod_eq_of_lt ((Nat.mod_lt _ hpos).trans (BitVec.isLt _))

/-- The digits below dimension `n`, weighed by their strides, are the number's remainder by the next stride. -/
theorem sum_loopIdx {cnt : List (BitVec 32)} (f : Nat) {n : Nat} (hn : n ≤ cnt.length) (hz : ∀ k < n, (cnt[k]?).getD 0 ≠ 0) :
    ((List.range n).map fun k => (loopIdx cnt f k).toNat * loopStride cnt k).sum = f % loopStride cnt n := by
  induction n with
  | zero => simp [loopStride, Nat.mod_one]
  | succ n ih =>
    rw [List.range_succ, List.map_append, List.sum_append, ih (by omega) fun k hk => hz k (by omega), loopStride_succ hn, Nat.mod_mul]
    simp [loopIdx_toNat cnt f n (hz n (by omega)), Nat.mul_comm]

/-- Settles O10: the indices are the digits of the iteration's number, dimension 0 the lowest. -/
theorem loopIndicesCount : Obligations.LoopIndicesCount := by
  intro cnt nd f hlen hne
  have hz : ∀ k < nd, (cnt[k]?).getD 0 ≠ 0 := by
    intro k hk
    have hc : cnt[k]? = some cnt[k] := List.getElem?_eq_getElem (hk.trans_le hlen)
    rw [hc]
    exact hne _ (List.mem_take_iff_getElem.mpr ⟨k, by omega, rfl⟩)
  refine ⟨?_, fun k hk => ?_, fun hf => ?_⟩
  · have h0 : loopIdx cnt 0 = fun _ => 0 := funext fun k => by simp [loopIdx]
    rw [loopIndices, h0, List.map_const', List.length_range]
  · rw [loopIdx_toNat cnt f k (hz k hk)]
    exact Nat.mod_lt _ (Nat.pos_of_ne_zero fun h => hz k hk (BitVec.eq_of_toNat_eq h))
  · exact (sum_loopIdx f hlen hz).trans (Nat.mod_eq_of_lt hf)

/-! ## Draws -/

theorem le_cdiv_mul (a : Nat) {b : Nat} (hb : 0 < b) : a ≤ cdiv a b * b := by
  rw [cdiv, Nat.mul_comm]
  have h1 := Nat.div_add_mod (a + b - 1) b
  have h2 := Nat.mod_lt (a + b - 1) hb
  omega

/-- Settles O21: a draw is what is left, or at least MIN and at least the share rounded up. -/
theorem drawsShareTheRange : Obligations.DrawsShareTheRange := by
  intro rem m k p hk hp hm
  have hkp : 0 < k * p := Nat.mul_pos hk hp
  have hshare : rem ≤ max m (cdiv rem (k * p)) * (k * p) :=
    (le_cdiv_mul rem hkp).trans (Nat.mul_le_mul_right _ (Nat.le_max_right _ _))
  have hself : rem ≤ rem * (k * p) := Nat.le_mul_of_pos_right rem hkp
  unfold drawLen
  split
  next h => subst h; simp
  next h =>
    refine ⟨Nat.min_le_left _ _, fun _ => by omega, fun h => by omega, ?_⟩
    obtain h | h := Nat.le_total rem (max m (cdiv rem (k * p)))
    · rwa [Nat.min_eq_left h]
    · rwa [Nat.min_eq_right h]

end Sys2Proof.Machine
end

section
/-!
What a word issues is no write: the meaning of every word of an engine but LAUNCH, operation by operation along its sequencing,
leaves the write list empty, so nothing reaches memory in the cycle it issues.
-/
namespace Sys2Proof.Machine

/-- A meaning that writes no memory. -/
def NoWrites {α : Type} (m : M α) : Prop := Maintains (fun s => s.wr = []) m

/-- A change of the state that writes no memory. -/
def KeepsWrites (g : State → State) : Prop := ∀ s, (g s).wr = s.wr

@[simp] theorem keepsWrites_iff (g : State → State) : KeepsWrites g ↔ ∀ s, (g s).wr = s.wr := Iff.rfl

section
variable {α β : Type}

theorem noWrites_bind {m : M α} {f : α → M β} (hm : NoWrites m) (hf : ∀ a, NoWrites (f a)) : NoWrites (m >>= f) := maintains_bind hm hf

theorem noWrites_get_bind {f : State → M β} (hf : ∀ s, s.wr = [] → NoWrites (f s)) : NoWrites ((get : M State) >>= f) := maintains_get_bind hf

@[simp] theorem noWrites_pure (a : α) : NoWrites (pure a : M α) := maintains_pure a
@[simp] theorem noWrites_throw (e : Stop) : NoWrites (throw e : M α) := maintains_throw e
@[simp] theorem noWrites_stall : NoWrites (stall : M α) := maintains_stall
@[simp] theorem noWrites_raise (r : TrapReq) : NoWrites (raise r : M α) := maintains_raise r
@[simp] theorem noWrites_formatTrap (n : Nat) : NoWrites (formatTrap n : M α) := maintains_formatTrap n
@[simp] theorem noWrites_illegal : NoWrites (illegal : M α) := maintains_illegal
@[simp] theorem noWrites_require (b : Bool) : NoWrites (require b) := maintains_require b
@[simp] theorem noWrites_here : NoWrites here := maintains_here
@[simp] theorem noWrites_get : NoWrites (get : M State) := maintains_of_state fun h => by cases h; rfl
@[simp] theorem noWrites_map {m : M α} (g : α → β) (hm : NoWrites m) : NoWrites (g <$> m) := maintains_map g hm
@[simp] theorem noWrites_modify {g : State → State} (hg : KeepsWrites g) : NoWrites (modify g : M PUnit) :=
  maintains_modify fun s hs => (hg s).trans hs
@[simp] theorem noWrites_modEng (g : EngSt → EngSt) : NoWrites (modEng g) := maintains_modEng fun s hs => (modHere_wr s g).trans hs
@[simp] theorem noWrites_set {t : State} (ht : t.wr = []) : NoWrites (set t : M PUnit) := maintains_set ht

@[simp] theorem noWrites_ite {c : Prop} [Decidable c] {m n : M α} (hm : NoWrites m) (hn : NoWrites n) : NoWrites (if c then m else n) := maintains_ite hm hn

@[simp] theorem noWrites_forM {l : List α} {f : α → M PUnit} (hf : ∀ a, NoWrites (f a)) : NoWrites (forM l f) := maintains_forM fun a _ => hf a

@[simp] theorem noWrites_mapM {l : List α} {f : α → M β} (hf : ∀ a, NoWrites (f a)) : NoWrites (l.mapM f) := by
  induction l with
  | nil => exact noWrites_pure _
  | cons a l ih =>
    rw [List.mapM_cons]
    exact noWrites_bind (hf a) fun _ => noWrites_bind ih fun _ => noWrites_pure _

end

@[simp] theorem modCtxHere_wr (s : State) (f : Ctx → Ctx) : (s.modCtxHere f).wr = s.wr := by
  unfold State.modCtxHere; split <;> rfl

@[simp] theorem noWrites_modCtx (g : Ctx → Ctx) : NoWrites (modCtx g) := maintains_modCtx fun s hs => (modCtxHere_wr s g).trans hs
@[simp] theorem noWrites_tableOk (k : Nat) : NoWrites (tableOk k) := maintains_of_state tableOk_state
@[simp] theorem noWrites_textBytes (off n : Nat) : NoWrites (textBytes off n) := maintains_textBytes off n
@[simp] theorem noWrites_wordAt (off : Nat) : NoWrites (wordAt off) := maintains_wordAt off
@[simp] theorem noWrites_bodyWords (b n w : Nat) : NoWrites (bodyWords b n w) := maintains_bodyWords b n w
@[simp] theorem noWrites_setLoop (l : LoopSt) : NoWrites (setLoop l) :=
  maintains_setLoop (fun s f => (modHere_wr s f).trans) (fun s f => (modRegs_wr s f).trans) l

@[simp] theorem cleanTable_wr (s : State) (k : Nat) : (s.cleanTable k).wr = s.wr := rfl
@[simp] theorem modTok_wr (s : State) (n : Nat) (f : TokSt → TokSt) : (s.modTok n f).wr = s.wr := rfl
@[simp] theorem queueRequest_wr (s : State) (l q : Nat) (r : SqReq) : (s.queueRequest l q r).wr = s.wr := rfl
@[simp] theorem rangeRequest_wr (s : State) (l q : Nat) (r : RuReq) : (s.rangeRequest l q r).wr = s.wr := rfl
@[simp] theorem raiseAssist_wr (s : State) (c : Nat) (a : Assist) : (s.raiseAssist c a).wr = s.wr := rfl

@[simp] theorem bumpInterval_wr (s : State) (n : Nat) : (s.bumpInterval n).wr = s.wr := by
  unfold State.bumpInterval
  dsimp only
  split <;> rfl

@[simp] theorem placeTile_wr (s : State) (c k t : Nat) (o : Obj) (a b l : Nat) : (s.placeTile c k t o a b l).wr = s.wr := by
  unfold State.placeTile
  dsimp only
  split <;> rfl

@[simp] theorem noWrites_malformedText {α : Type} : NoWrites (malformedText : M α) := maintains_raise _
@[simp] theorem noWrites_textLen : NoWrites textLen := by
  unfold textLen
  repeat' first | with_reducible refine noWrites_get_bind fun s hs => ?_ | with_reducible refine noWrites_bind ?_ fun _ => ?_ | split
  all_goals simp [*]
@[simp] theorem noWrites_headerAt (n : Nat) : NoWrites (headerAt n) := by
  unfold headerAt
  repeat' first | with_reducible refine noWrites_get_bind fun s hs => ?_ | with_reducible refine noWrites_bind ?_ fun _ => ?_ | split
  all_goals simp [*]

@[simp] theorem noWrites_advance (n : Nat) : NoWrites (advance n) := by
  unfold advance
  repeat' first | with_reducible refine noWrites_get_bind fun s hs => ?_ | with_reducible refine noWrites_bind ?_ fun _ => ?_ | split
  all_goals simp [*]

@[simp] theorem noWrites_readReg (r : Nat) : NoWrites (readReg r) := by
  unfold readReg
  repeat' first | with_reducible refine noWrites_get_bind fun s hs => ?_ | with_reducible refine noWrites_bind ?_ fun _ => ?_ | split
  all_goals simp [*]

@[simp] theorem noWrites_writeReg (r : Nat) (v : W64) (lat : Nat) : NoWrites (writeReg r v lat) := by
  unfold writeReg
  repeat' first | with_reducible refine noWrites_get_bind fun s hs => ?_ | with_reducible refine noWrites_bind ?_ fun _ => ?_ | split
  all_goals simp [*]

@[simp] theorem noWrites_popInbound (r : Nat) : NoWrites (popInbound r) := by
  unfold popInbound
  dsimp only
  repeat' first | with_reducible refine noWrites_get_bind fun s hs => ?_ | with_reducible refine noWrites_bind ?_ fun _ => ?_ | split
  all_goals simp [*]

@[simp] theorem noWrites_guardOn (g : Guard) : NoWrites (guardOn g) := by
  unfold guardOn
  repeat' first | with_reducible refine noWrites_get_bind fun s hs => ?_ | with_reducible refine noWrites_bind ?_ fun _ => ?_ | split
  all_goals simp [*]

@[simp] theorem noWrites_source (on : Bool) (r : BitVec 6) : NoWrites (source on r) := by
  unfold source
  repeat' first | with_reducible refine noWrites_get_bind fun s hs => ?_ | with_reducible refine noWrites_bind ?_ fun _ => ?_ | split
  all_goals simp [*]

@[simp] theorem noWrites_scalarWord (g : Guard) (d a b c : BitVec 6) (lat : Nat) (f : W64 → W64 → W64 → W64) : NoWrites (scalarWord g d a b c lat f) := by
  unfold scalarWord
  repeat' first | with_reducible refine noWrites_get_bind fun s hs => ?_ | with_reducible refine noWrites_bind ?_ fun _ => ?_ | split
  all_goals simp [*]

@[simp] theorem noWrites_countOf (on : Bool) (r : BitVec 6) : NoWrites (countOf on r) := by
  unfold countOf
  repeat' first | with_reducible refine noWrites_get_bind fun s hs => ?_ | with_reducible refine noWrites_bind ?_ fun _ => ?_ | split
  all_goals simp [*]

@[simp] theorem noWrites_launchHere : NoWrites (launchHere) := by
  unfold launchHere
  repeat' first | with_reducible refine noWrites_get_bind fun s hs => ?_ | with_reducible refine noWrites_bind ?_ fun _ => ?_ | split
  all_goals simp [*]

@[simp] theorem noWrites_modsHere (col : Nat) : NoWrites (modsHere col) := by
  unfold modsHere
  repeat' first | with_reducible refine noWrites_get_bind fun s hs => ?_ | with_reducible refine noWrites_bind ?_ fun _ => ?_ | split
  all_goals simp [*]

@[simp] theorem noWrites_compareWord (g : Guard) (d a b : BitVec 6) (c sub : Nat) (lat : Nat) (rel : W64 → W64 → Bool) : NoWrites (compareWord g d a b c sub lat rel) := by
  unfold compareWord
  repeat' first | with_reducible refine noWrites_get_bind fun s hs => ?_ | with_reducible refine noWrites_bind ?_ fun _ => ?_ | split
  all_goals simp [*]

@[simp] theorem noWrites_divWord (g : Guard) (d a b : BitVec 6) (imm : Option W64) (f : W64 → W64 → W64) : NoWrites (divWord g d a b imm f) := by
  unfold divWord
  repeat' first | with_reducible refine noWrites_get_bind fun s hs => ?_ | with_reducible refine noWrites_bind ?_ fun _ => ?_ | split
  all_goals simp [*]

@[simp] theorem noWrites_checkTarget (tgt : BitVec 32) : NoWrites (checkTarget tgt) := by
  unfold checkTarget
  repeat' first | with_reducible refine noWrites_get_bind fun s hs => ?_ | with_reducible refine noWrites_bind ?_ fun _ => ?_ | split
  all_goals simp [*]

@[simp] theorem noWrites_jumpTo (tgt : BitVec 32) : NoWrites (jumpTo tgt) := by
  unfold jumpTo
  repeat' first | with_reducible refine noWrites_get_bind fun s hs => ?_ | with_reducible refine noWrites_bind ?_ fun _ => ?_ | split
  all_goals simp [*]

@[simp] theorem noWrites_testReg (r : Nat) : NoWrites (testReg r) := by
  unfold testReg
  repeat' first | with_reducible refine noWrites_get_bind fun s hs => ?_ | with_reducible refine noWrites_bind ?_ fun _ => ?_ | split
  all_goals simp [*]

@[simp] theorem noWrites_oneQueue (q : Nat) : NoWrites (oneQueue q) := by
  unfold oneQueue
  repeat' first | with_reducible refine noWrites_get_bind fun s hs => ?_ | with_reducible refine noWrites_bind ?_ fun _ => ?_ | split
  all_goals simp [*]

@[simp] theorem noWrites_checkBody (e : Engine) (base n w : Nat) : NoWrites (checkBody e base n w) := by
  unfold checkBody
  dsimp only
  repeat' first | with_reducible refine noWrites_get_bind fun s hs => ?_ | with_reducible refine noWrites_bind ?_ fun _ => ?_ | split
  all_goals simp [*]

@[simp] theorem noWrites_memIssue (h : Here) (s0 : State) (r : MemReq) (fin : List W64 → M Unit) (hfin : ∀ d, NoWrites (fin d)) (hs0 : s0.wr = []) : NoWrites (memIssue h s0 r fin) := by
  unfold memIssue
  dsimp only
  repeat' first | with_reducible refine noWrites_get_bind fun s hs => ?_ | with_reducible refine noWrites_bind ?_ fun _ => ?_ | split
  all_goals simp [*]

@[simp] theorem noWrites_finishLoad (dest size : Nat) (signed : Bool) (d : List W64) : NoWrites (finishLoad dest size signed d) := by
  unfold finishLoad
  repeat' first | with_reducible refine noWrites_get_bind fun s hs => ?_ | with_reducible refine noWrites_bind ?_ fun _ => ?_ | split
  all_goals simp [*]

@[simp] theorem noWrites_atomicWord (op : Nat) (x : MWord) : NoWrites (atomicWord op x) := by
  unfold atomicWord
  repeat' first | with_reducible refine noWrites_get_bind fun s hs => ?_ | with_reducible refine noWrites_bind ?_ fun _ => ?_ | split
  all_goals simp [*]

@[simp] theorem noWrites_imageOk (s : State) (c : Nat) (v : Shape) (runs : List (Nat × Nat)) : NoWrites (imageOk s c v runs) := by
  unfold imageOk
  repeat' first | with_reducible refine noWrites_get_bind fun s hs => ?_ | with_reducible refine noWrites_bind ?_ fun _ => ?_ | split
  all_goals simp [*]

@[simp] theorem noWrites_tileHere (t : Nat) : NoWrites (tileHere t) := by
  unfold tileHere
  repeat' first | with_reducible refine noWrites_get_bind fun s hs => ?_ | with_reducible refine noWrites_bind ?_ fun _ => ?_ | split
  all_goals simp [*]

@[simp] theorem noWrites_liveBar (b : Nat) : NoWrites (liveBar b) := by
  unfold liveBar
  repeat' first | with_reducible refine noWrites_get_bind fun s hs => ?_ | with_reducible refine noWrites_bind ?_ fun _ => ?_ | split
  all_goals simp [*]

@[simp] theorem noWrites_addCmd (x : Cmd) : NoWrites (addCmd x) := by
  unfold addCmd
  all_goals simp [*]

@[simp] theorem noWrites_tableMods : NoWrites (tableMods) := by
  unfold tableMods
  repeat' first | with_reducible refine noWrites_get_bind fun s hs => ?_ | with_reducible refine noWrites_bind ?_ fun _ => ?_ | split
  all_goals simp [*]

@[simp] theorem noWrites_readObject (h : Here) (s0 : State) (va : W64) (fin : Obj → M Unit) (hfin : ∀ d, NoWrites (fin d)) (hs0 : s0.wr = []) : NoWrites (readObject h s0 va fin) := by
  unfold readObject
  repeat' first | with_reducible refine noWrites_get_bind fun s hs => ?_ | with_reducible refine noWrites_bind ?_ fun _ => ?_ | split
  all_goals simp [*]

@[simp] theorem noWrites_tableStatus (r v : Nat) : NoWrites (tableStatus r v) := by
  unfold tableStatus
  repeat' first | with_reducible refine noWrites_get_bind fun s hs => ?_ | with_reducible refine noWrites_bind ?_ fun _ => ?_ | split
  all_goals simp [*]

@[simp] theorem noWrites_defineTile (h : Here) (t st : Nat) (o : Obj) : NoWrites (defineTile h t st o) := by
  unfold defineTile
  repeat' first | with_reducible refine noWrites_get_bind fun s hs => ?_ | with_reducible refine noWrites_bind ?_ fun _ => ?_ | split
  all_goals simp [*]

@[simp] theorem noWrites_afterOthers : NoWrites (afterOthers) := by
  unfold afterOthers
  repeat' first | with_reducible refine noWrites_get_bind fun s hs => ?_ | with_reducible refine noWrites_bind ?_ fun _ => ?_ | split
  all_goals simp [*]

@[simp] theorem noWrites_defineRecord (h : Here) (slot st : Nat) (o : Obj) : NoWrites (defineRecord h slot st o) := by
  unfold defineRecord
  dsimp only
  repeat' first | with_reducible refine noWrites_get_bind fun s hs => ?_ | with_reducible refine noWrites_bind ?_ fun _ => ?_ | split
  all_goals simp [*]

@[simp] theorem noWrites_sendArrive (h : Here) (x : TWord) (n : W64) (targets : List Nat) : NoWrites (sendArrive h x n targets) := by
  unfold sendArrive
  dsimp only
  repeat' first | with_reducible refine noWrites_get_bind fun s hs => ?_ | with_reducible refine noWrites_bind ?_ fun _ => ?_ | split
  all_goals simp [*]

@[simp] theorem noWrites_writeLow (r : Nat) (v : W64) : NoWrites (writeLow r v) := by
  unfold writeLow
  repeat' first | with_reducible refine noWrites_get_bind fun s hs => ?_ | with_reducible refine noWrites_bind ?_ fun _ => ?_ | split
  all_goals simp [*]

@[simp] theorem noWrites_releaseSpan (h : Here) : NoWrites (releaseSpan h) := by
  unfold releaseSpan
  repeat' first | with_reducible refine noWrites_get_bind fun s hs => ?_ | with_reducible refine noWrites_bind ?_ fun _ => ?_ | split
  all_goals simp [*]

@[simp] theorem noWrites_askQueue (h : Here) (l : Launch) (q op : Nat) (try_ : Bool) (data : List W64) : NoWrites (askQueue h l q op try_ data) := by
  unfold askQueue
  repeat' first | with_reducible refine noWrites_get_bind fun s hs => ?_ | with_reducible refine noWrites_bind ?_ fun _ => ?_ | split
  all_goals simp [*]

@[simp] theorem noWrites_queueStatus (x : RWord) (ok : Bool) : NoWrites (queueStatus x ok) := by
  unfold queueStatus
  repeat' first | with_reducible refine noWrites_get_bind fun s hs => ?_ | with_reducible refine noWrites_bind ?_ fun _ => ?_ | split
  all_goals simp [*]

@[simp] theorem noWrites_readBlock (r : Nat) : NoWrites (readBlock r) := by
  unfold readBlock
  all_goals simp [*]

@[simp] theorem noWrites_writeBlock (r : Nat) (d : List W64) : NoWrites (writeBlock r d) := by
  unfold writeBlock
  all_goals simp [*]

@[simp] theorem noWrites_pushWord (x : RWord) : NoWrites (pushWord x) := by
  unfold pushWord
  repeat' first | with_reducible refine noWrites_get_bind fun s hs => ?_ | with_reducible refine noWrites_bind ?_ fun _ => ?_ | split
  all_goals simp [*]

@[simp] theorem noWrites_popWord (x : RWord) : NoWrites (popWord x) := by
  unfold popWord
  repeat' first | with_reducible refine noWrites_get_bind fun s hs => ?_ | with_reducible refine noWrites_bind ?_ fun _ => ?_ | split
  all_goals simp [*]

@[simp] theorem noWrites_yieldHere (child : Nat) : NoWrites (yieldHere child) := by
  unfold yieldHere
  all_goals simp [*]

@[simp] theorem noWrites_lwaitDone (x : RWord) (v : W64) : NoWrites (lwaitDone x v) := by
  unfold lwaitDone
  repeat' first | with_reducible refine noWrites_get_bind fun s hs => ?_ | with_reducible refine noWrites_bind ?_ fun _ => ?_ | split
  all_goals simp [*]

@[simp] theorem noWrites_lwaitWord (x : RWord) (test : Bool) : NoWrites (lwaitWord x test) := by
  unfold lwaitWord
  dsimp only
  repeat' first | with_reducible refine noWrites_get_bind fun s hs => ?_ | with_reducible refine noWrites_bind ?_ fun _ => ?_ | split
  all_goals simp [*]

@[simp] theorem noWrites_enterSection (h : Here) (off : Nat) (hd : Header) : NoWrites (enterSection h off hd) := by
  unfold enterSection
  repeat' first | with_reducible refine noWrites_get_bind fun s hs => ?_ | with_reducible refine noWrites_bind ?_ fun _ => ?_ | split
  all_goals simp [*]

@[simp] theorem noWrites_enterUnit (h : Here) (x : Cmd) : NoWrites (enterUnit h x) := by
  unfold enterUnit
  repeat' first | with_reducible refine noWrites_get_bind fun s hs => ?_ | with_reducible refine noWrites_bind ?_ fun _ => ?_ | split
  all_goals simp [*]

@[simp] theorem noWrites_unitRoom (h : Here) : NoWrites (unitRoom h) := by
  unfold unitRoom
  repeat' first | with_reducible refine noWrites_get_bind fun s hs => ?_ | with_reducible refine noWrites_bind ?_ fun _ => ?_ | split
  all_goals simp [*]

@[simp] theorem noWrites_drainIssue (ins : Instr) (x : TWord) (list : Bool) : NoWrites (drainIssue ins x list) := by
  unfold drainIssue
  repeat' first | with_reducible refine noWrites_get_bind fun s hs => ?_ | with_reducible refine noWrites_bind ?_ fun _ => ?_ | split
  all_goals simp [*]

@[simp] theorem noWrites_writeFlag (slot : Nat) (v : W64) : NoWrites (writeFlag slot v) := by
  unfold writeFlag
  repeat' first | with_reducible refine noWrites_get_bind fun s hs => ?_ | with_reducible refine noWrites_bind ?_ fun _ => ?_ | split
  all_goals simp [*]

@[simp] theorem noWrites_vReg (r : Nat) : NoWrites (vReg r) := by
  unfold vReg
  repeat' first | with_reducible refine noWrites_get_bind fun s hs => ?_ | with_reducible refine noWrites_bind ?_ fun _ => ?_ | split
  all_goals simp [*]

@[simp] theorem noWrites_popQueue (q : Nat) : NoWrites (popQueue q) := by
  unfold popQueue
  repeat' first | with_reducible refine noWrites_get_bind fun s hs => ?_ | with_reducible refine noWrites_bind ?_ fun _ => ?_ | split
  all_goals simp [*]

@[simp] theorem noWrites_vSource (r : BitVec 6) : NoWrites (vSource r) := by
  unfold vSource
  repeat' first | with_reducible refine noWrites_get_bind fun s hs => ?_ | with_reducible refine noWrites_bind ?_ fun _ => ?_ | split
  all_goals simp [*]

@[simp] theorem noWrites_vSourceIf (b : Bool) (r : BitVec 6) : NoWrites (vSourceIf b r) := by
  unfold vSourceIf
  repeat' first | with_reducible refine noWrites_get_bind fun s hs => ?_ | with_reducible refine noWrites_bind ?_ fun _ => ?_ | split
  all_goals simp [*]

@[simp] theorem noWrites_vGroup (r : BitVec 6) (g : Nat) : NoWrites (vGroup r g) := by
  unfold vGroup
  all_goals simp [*]

@[simp] theorem noWrites_vWide (r : BitVec 6) (g w : Nat) : NoWrites (vWide r g w) := by
  unfold vWide
  repeat' first | with_reducible refine noWrites_get_bind fun s hs => ?_ | with_reducible refine noWrites_bind ?_ fun _ => ?_ | split
  all_goals simp [*]

@[simp] theorem noWrites_vMask (x : RWord) : NoWrites (vMask x) := by
  unfold vMask
  repeat' first | with_reducible refine noWrites_get_bind fun s hs => ?_ | with_reducible refine noWrites_bind ?_ fun _ => ?_ | split
  all_goals simp [*]

@[simp] theorem noWrites_vRand (x : RWord) : NoWrites (vRand x) := by
  unfold vRand
  repeat' first | with_reducible refine noWrites_get_bind fun s hs => ?_ | with_reducible refine noWrites_bind ?_ fun _ => ?_ | split
  all_goals simp [*]

@[simp] theorem noWrites_pushEntry (q : Nat) (e : QEntry) (lat : Nat) : NoWrites (pushEntry q e lat) := by
  unfold pushEntry
  repeat' first | with_reducible refine noWrites_get_bind fun s hs => ?_ | with_reducible refine noWrites_bind ?_ fun _ => ?_ | split
  all_goals simp [*]

@[simp] theorem noWrites_vWrite (r : Nat) (v : VReg) (car : Option Car) (lat : Nat) : NoWrites (vWrite r v car lat) := by
  unfold vWrite
  repeat' first | with_reducible refine noWrites_get_bind fun s hs => ?_ | with_reducible refine noWrites_bind ?_ fun _ => ?_ | split
  all_goals simp [*]

@[simp] theorem noWrites_vOut (d : Nat) (v : VReg) (car : Option Car) (lat : Nat) : NoWrites (vOut d v car lat) := by
  unfold vOut
  repeat' first | with_reducible refine noWrites_get_bind fun s hs => ?_ | with_reducible refine noWrites_bind ?_ fun _ => ?_ | split
  all_goals simp [*]

@[simp] theorem noWrites_vOutGroup (d g w : Nat) (l : List Nat) (lat : Nat) : NoWrites (vOutGroup d g w l lat) := by
  unfold vOutGroup
  repeat' first | with_reducible refine noWrites_get_bind fun s hs => ?_ | with_reducible refine noWrites_bind ?_ fun _ => ?_ | split
  all_goals simp [*]

@[simp] theorem noWrites_vEnd (n : Nat) : NoWrites (vEnd n) := by
  unfold vEnd
  repeat' first | with_reducible refine noWrites_get_bind fun s hs => ?_ | with_reducible refine noWrites_bind ?_ fun _ => ?_ | split
  all_goals simp [*]

@[simp] theorem noWrites_vGuard (g : Guard) : NoWrites (vGuard g) := by
  unfold vGuard
  repeat' first | with_reducible refine noWrites_get_bind fun s hs => ?_ | with_reducible refine noWrites_bind ?_ fun _ => ?_ | split
  all_goals simp [*]

@[simp] theorem noWrites_vOff (d : Nat) (a : VIn) (w : Nat) : NoWrites (vOff d a w) := by
  unfold vOff
  repeat' first | with_reducible refine noWrites_get_bind fun s hs => ?_ | with_reducible refine noWrites_bind ?_ fun _ => ?_ | split
  all_goals simp [*]

@[simp] theorem noWrites_assistAnswer : NoWrites (assistAnswer) := by
  unfold assistAnswer
  repeat' first | with_reducible refine noWrites_get_bind fun s hs => ?_ | with_reducible refine noWrites_bind ?_ fun _ => ?_ | split
  all_goals simp [*]

@[simp] theorem noWrites_vAssist {s0 : State} (hs0 : s0.wr = []) (ins : Instr) (unit op dt st rnd srn at_ first count : Nat) (desc : List W64)
    (items : List (List W64)) (base : List W64) (undo : List (Nat × VReg)) (undoTile : Option (Nat × List (Nat × Byte × Byte))) :
    NoWrites (vAssist s0 ins unit op dt st rnd srn at_ first count desc items base undo undoTile) := by
  unfold vAssist
  repeat' first | with_reducible refine noWrites_get_bind fun s hs => ?_ | with_reducible refine noWrites_bind ?_ fun _ => ?_ | split
  all_goals simp [*]

@[simp] theorem noWrites_vCommit (s0 : State) (v : VShape) (res : List FRes) (items : List (List W64)) (hs0 : s0.wr = []) : NoWrites (vCommit s0 v res items) := by
  unfold vCommit
  dsimp only
  repeat' first | with_reducible refine noWrites_get_bind fun s hs => ?_ | with_reducible refine noWrites_bind ?_ fun _ => ?_ | split
  all_goals simp [*]

@[simp] theorem noWrites_elemWord (ins : Instr) (x : RWord) (n lat : Nat) (f : Rounding → Nat → Nat → Nat → FRes) : NoWrites (elemWord ins x n lat f) := by
  unfold elemWord
  repeat' first | with_reducible refine noWrites_get_bind fun s hs => ?_ | with_reducible refine noWrites_bind ?_ fun _ => ?_ | split
  all_goals simp [*]

@[simp] theorem noWrites_vCompare (x : RWord) (rel : Option Int → Bool) : NoWrites (vCompare x rel) := by
  unfold vCompare
  repeat' first | with_reducible refine noWrites_get_bind fun s hs => ?_ | with_reducible refine noWrites_bind ?_ fun _ => ?_ | split
  all_goals simp [*]

@[simp] theorem noWrites_redCommit (s0 : State) (ins : Instr) (x : RWord) (lat : Nat) (res : FRes) (items : List (List W64)) (hs0 : s0.wr = []) : NoWrites (redCommit s0 ins x lat res items) := by
  unfold redCommit
  dsimp only
  repeat' first | with_reducible refine noWrites_get_bind fun s hs => ?_ | with_reducible refine noWrites_bind ?_ fun _ => ?_ | split
  all_goals simp [*]

@[simp] theorem noWrites_redWord (ins : Instr) (x : RWord) (f : Bool → (Nat → Rounding) → List (Nat × Bool) → FRes) : NoWrites (redWord ins x f) := by
  unfold redWord
  repeat' first | with_reducible refine noWrites_get_bind fun s hs => ?_ | with_reducible refine noWrites_bind ?_ fun _ => ?_ | split
  all_goals simp [*]

@[simp] theorem noWrites_vGroupCars (r : BitVec 6) (g : Nat) : NoWrites (vGroupCars r g) := by
  unfold vGroupCars
  repeat' first | with_reducible refine noWrites_get_bind fun s hs => ?_ | with_reducible refine noWrites_bind ?_ fun _ => ?_ | split
  all_goals simp [*]

@[simp] theorem noWrites_vFirst (r : BitVec 6) (g : Nat) : NoWrites (vFirst r g) := by
  unfold vFirst
  repeat' first | with_reducible refine noWrites_get_bind fun s hs => ?_ | with_reducible refine noWrites_bind ?_ fun _ => ?_ | split
  all_goals simp [*]

@[simp] theorem noWrites_cvtFromBx (x : RWord) (s0 : State) (on : Bool) (hs0 : s0.wr = []) : NoWrites (cvtFromBx x s0 on) := by
  unfold cvtFromBx
  repeat' first | with_reducible refine noWrites_get_bind fun s hs => ?_ | with_reducible refine noWrites_bind ?_ fun _ => ?_ | split
  all_goals simp [*]

@[simp] theorem noWrites_widenWord (ins : Instr) (x : RWord) (mad : Bool) (fi : Int → Int → Int → Int) (ff : FVal → FVal → FVal → Exact) : NoWrites (widenWord ins x mad fi ff) := by
  unfold widenWord
  repeat' first | with_reducible refine noWrites_get_bind fun s hs => ?_ | with_reducible refine noWrites_bind ?_ fun _ => ?_ | split
  all_goals simp [*]

@[simp] theorem noWrites_moveWord (x : RWord) (lat cyc : Nat) (a : VIn) (f : Nat → Nat) : NoWrites (moveWord x lat cyc a f) := by
  unfold moveWord
  repeat' first | with_reducible refine noWrites_get_bind fun s hs => ?_ | with_reducible refine noWrites_bind ?_ fun _ => ?_ | split
  all_goals simp [*]

@[simp] theorem noWrites_vTileWrite (h : Here) (t : Nat) (v : Shape) (bytes : List (Nat × Byte × Byte)) : NoWrites (vTileWrite h t v bytes) := by
  unfold vTileWrite
  repeat' first | with_reducible refine noWrites_get_bind fun s hs => ?_ | with_reducible refine noWrites_bind ?_ fun _ => ?_ | split
  all_goals simp [*]

@[simp] theorem noWrites_chainTile (h : Here) (t : Nat) : NoWrites (chainTile h t) := by
  unfold chainTile
  repeat' first | with_reducible refine noWrites_get_bind fun s hs => ?_ | with_reducible refine noWrites_bind ?_ fun _ => ?_ | split
  all_goals simp [*]

@[simp] theorem noWrites_tileIf (b : Bool) (t : Nat) : NoWrites (tileIf b t) := by
  unfold tileIf
  repeat' first | with_reducible refine noWrites_get_bind fun s hs => ?_ | with_reducible refine noWrites_bind ?_ fun _ => ?_ | split
  all_goals simp [*]

@[simp] theorem noWrites_rowIssue (ins : Instr) (x : TWord) (second eps : Bool) : NoWrites (rowIssue ins x second eps) := by
  unfold rowIssue
  dsimp only
  repeat' first | with_reducible refine noWrites_get_bind fun s hs => ?_ | with_reducible refine noWrites_bind ?_ fun _ => ?_ | split
  all_goals simp [*]

@[simp] theorem noWrites_assistHere : NoWrites (assistHere) := by
  unfold assistHere
  repeat' first | with_reducible refine noWrites_get_bind fun s hs => ?_ | with_reducible refine noWrites_bind ?_ fun _ => ?_ | split
  all_goals simp [*]

@[simp] theorem noWrites_modAssist (c : Nat) (f : Assist → Assist) : NoWrites (modAssist c f) := by
  unfold modAssist
  dsimp only
  all_goals simp [*]

@[simp] theorem noWrites_readThree (r : Nat) : NoWrites (readThree r) := by
  unfold readThree
  all_goals simp [*]

@[simp] theorem noWrites_contractIssue (i : Instr) (x : TWord) (regs : Bool) : NoWrites (contractIssue i x regs) := by
  unfold contractIssue
  repeat' first | with_reducible refine noWrites_get_bind fun s hs => ?_ | with_reducible refine noWrites_bind ?_ fun _ => ?_ | split
  all_goals simp [*]

@[simp] theorem noWrites_queueRoomFor (q : Nat) : NoWrites (queueRoomFor q) := by
  unfold queueRoomFor
  repeat' first | with_reducible refine noWrites_get_bind fun s hs => ?_ | with_reducible refine noWrites_bind ?_ fun _ => ?_ | split
  all_goals simp [*]

@[simp] theorem noWrites_readCopy (r : Nat) : NoWrites (readCopy r) := by
  unfold readCopy
  all_goals simp [*]

@[simp] theorem noWrites_readCarried (w : W96) : NoWrites (readCarried w) := by
  unfold readCarried
  repeat' first | with_reducible refine noWrites_get_bind fun s hs => ?_ | with_reducible refine noWrites_bind ?_ fun _ => ?_ | split
  all_goals simp [*]

@[simp] theorem noWrites_copyIssue (i : Instr) (x : TWord) (zero : Bool) (col n : Nat) (carried : M (List W64)) (hc : NoWrites carried) : NoWrites (copyIssue i x zero col n carried) := by
  unfold copyIssue
  repeat' first | with_reducible refine noWrites_get_bind fun s hs => ?_ | with_reducible refine noWrites_bind ?_ fun _ => ?_ | split
  all_goals simp [*]

@[simp] theorem noWrites_popRecord (x : TWord) (v : Shape) (rcd : RqRecord) (r : TextReq) (q : Nat) : NoWrites (popRecord x v rcd r q) := by
  unfold popRecord
  dsimp only
  repeat' first | with_reducible refine noWrites_get_bind fun s hs => ?_ | with_reducible refine noWrites_bind ?_ fun _ => ?_ | split
  all_goals simp [*]

@[simp] theorem noWrites_popEmpty (x : TWord) (try_ : Bool) : NoWrites (popEmpty x try_) := by
  unfold popEmpty
  repeat' first | with_reducible refine noWrites_get_bind fun s hs => ?_ | with_reducible refine noWrites_bind ?_ fun _ => ?_ | split
  all_goals simp [*]

@[simp] theorem noWrites_popText (x : TWord) (try_ : Bool) : NoWrites (popText x try_) := by
  unfold popText
  repeat' first | with_reducible refine noWrites_get_bind fun s hs => ?_ | with_reducible refine noWrites_bind ?_ fun _ => ?_ | split
  all_goals simp [*]

@[simp] theorem noWrites_sendText (h : Here) (i : Instr) (x : TWord) (handle : W64) (tokens : Option (List Nat)) (count : Nat) : NoWrites (sendText h i x handle tokens count) := by
  unfold sendText
  dsimp only
  repeat' first | with_reducible refine noWrites_get_bind fun s hs => ?_ | with_reducible refine noWrites_bind ?_ fun _ => ?_ | split
  all_goals simp [*]

@[simp] theorem noWrites_walkRoom : NoWrites (walkRoom) := by
  unfold walkRoom
  repeat' first | with_reducible refine noWrites_get_bind fun s hs => ?_ | with_reducible refine noWrites_bind ?_ fun _ => ?_ | split
  all_goals simp [*]

@[simp] theorem noWrites_addWalkCmd (i : Instr) (x : TWord) (regs : List W64) (mods : Mods) : NoWrites (addWalkCmd i x regs mods) := by
  unfold addWalkCmd
  repeat' first | with_reducible refine noWrites_get_bind fun s hs => ?_ | with_reducible refine noWrites_bind ?_ fun _ => ?_ | split
  all_goals simp [*]

@[simp] theorem noWrites_walkIssue (i : Instr) (x : TWord) (col : Nat) : NoWrites (walkIssue i x col) := by
  unfold walkIssue
  dsimp only
  repeat' first | with_reducible refine noWrites_get_bind fun s hs => ?_ | with_reducible refine noWrites_bind ?_ fun _ => ?_ | split
  all_goals simp [*]

@[simp] theorem noWrites_indexIssue (i : Instr) (x : TWord) (col : Nat) : NoWrites (indexIssue i x col) := by
  unfold indexIssue
  dsimp only
  repeat' first | with_reducible refine noWrites_get_bind fun s hs => ?_ | with_reducible refine noWrites_bind ?_ fun _ => ?_ | split
  all_goals simp [*]

@[simp] theorem noWrites_roundingS (x : RWord) : NoWrites (roundingS x) := by
  unfold roundingS
  repeat' first | with_reducible refine noWrites_get_bind fun s hs => ?_ | with_reducible refine noWrites_bind ?_ fun _ => ?_ | split
  all_goals simp [*]

@[simp] theorem noWrites_floatWord (x : RWord) (a b c : BitVec 6) (lat : Nat) (f : Rounding → W64 → W64 → W64 → W64) : NoWrites (floatWord x a b c lat f) := by
  unfold floatWord
  repeat' first | with_reducible refine noWrites_get_bind fun s hs => ?_ | with_reducible refine noWrites_bind ?_ fun _ => ?_ | split
  all_goals simp [*]

@[simp] theorem raise_wr (s : State) (r : TrapReq) : (s.raise r).wr = s.wr := (sameStore_raise s r).2
@[simp] theorem leaveAssist_wr (s : State) (c : Nat) (st : CmdState) (keep : Bool) : (s.leaveAssist c st keep).wr = s.wr :=
  (sameStore_leaveAssist s c st keep).2
@[simp] theorem assistTrap_wr (s : State) (c : Nat) (a : Assist) (n : Nat) (v : W64) : (s.assistTrap c a n v).wr = s.wr := by
  simp [State.assistTrap]
@[simp] theorem foldl_bumpInterval_wr (l : List Nat) (s : State) : (l.foldl State.bumpInterval s).wr = s.wr := by
  induction l generalizing s with
  | nil => rfl
  | cons a l ih => exact (ih _).trans (bumpInterval_wr s a)

@[simp] theorem fireTrigger_wr (s : State) (a b c : Nat) : (s.fireTrigger a b c).wr = s.wr := by
  unfold State.fireTrigger
  repeat' split
  all_goals rfl

@[simp] theorem writeTile_wr (s : State) (c k n : Nat) (l : List (Nat × Byte × Byte)) : (s.writeTile c k n l).wr = s.wr := by
  unfold State.writeTile
  dsimp only
  split
  · rfl
  · split <;> rfl

@[simp] theorem cmdArrive_wr (s : State) (x : Cmd) (n : Nat) (ref lost : Bool) : (s.cmdArrive x n ref lost).wr = s.wr := by
  unfold State.cmdArrive State.arrive
  repeat' split
  all_goals rfl

@[simp] theorem foldl_bumpInterval_agents_wr (l : List Cmd) (s : State) :
    (l.foldl (fun s y => s.bumpInterval y.agent.code) s).wr = s.wr := by
  induction l generalizing s with
  | nil => rfl
  | cons a l ih => exact (ih _).trans (bumpInterval_wr s _)

@[simp] theorem complete_wr (s : State) (x : Cmd) : (s.complete x).wr = s.wr := by
  unfold State.complete
  simp only [foldl_bumpInterval_agents_wr]
  split <;> simp

@[simp] theorem rowFinish_wr (s : State) (x : Cmd) (w : TWord) (r : Nat) (d : Shape) (l : List Nat) (o : Option Nat) :
    (s.rowFinish x w r d l o).wr = s.wr := by
  unfold State.rowFinish
  dsimp only
  repeat' split
  all_goals simp

@[simp] theorem rowEnd_wr (s : State) (n : Nat) (a : Shape) : (s.rowEnd n a).wr = s.wr := by
  unfold State.rowEnd
  repeat' split
  all_goals simp

@[simp] theorem assistDone_wr (s : State) (c : Nat) (a : Assist) : (s.assistDone c a).wr = s.wr := by
  unfold State.assistDone
  dsimp only
  repeat' split
  all_goals simp

/-! ## The words -/

/-- An engine's word but LAUNCH is a meaning, run at the state it finds, that writes no memory. -/
theorem exec_noWrites {i : Instr} {w : W96} {s : State} (hw : encode i = some w) (hl : ∀ x, i ≠ .launch x) (hs : s.wr = []) :
    ∃ m, NoWrites m ∧ exec i s = run m s := by
  cases i
  case launch x => exact absurd rfl (hl x)
  -- only the engines' words have an encoding
  all_goals try (exfalso; cases hw; done)
  all_goals
    refine ⟨_, ?_, by dsimp only [exec]; rfl⟩
    try dsimp only
    repeat' first | with_reducible refine noWrites_get_bind fun s hs => ?_ | with_reducible refine noWrites_bind ?_ fun _ => ?_ | split
  all_goals simp [*]

theorem run_mem_of_noWrites {m : M Unit} {s t : State} (hm : NoWrites m) (hs : s.wr = []) (h : run m s = .next t) : t.mem = s.mem := by
  obtain ⟨u, hu, rfl⟩ | rfl | ⟨n, rfl⟩ | ⟨d, w, rfl⟩ | ⟨a, l, rfl⟩ | ⟨d, c, b, p, i, w, rfl⟩ | ⟨q, rfl⟩ := run_cases h
  · rw [commit_mem, hm s () u hs hu]
    rfl
  · rfl
  · rfl
  · rfl
  · exact missLine_mem s a l
  · exact (sameStore_postWalk s d c b p i w).1
  · exact (sameStore_raise s q).1

/-- Settles O57: every word's meaning writes no memory, so its step commits none. -/
theorem issuingChangesNoMemory : Obligations.IssuingChangesNoMemory := by
  intro i w s t hw hl hs h
  obtain ⟨m, hm, e⟩ := exec_noWrites hw hl hs
  exact run_mem_of_noWrites hm hs (e ▸ h)

end Sys2Proof.Machine
end

section
/-!
What a scalar word that writes one register leaves alone: a state that differs from a word's start in that register, the index
registers of its LOOP and its engine's place only, kept by every operation such a word is made of.
-/
namespace Sys2Proof.Machine

/-- A context that differs from another as a word of engine `e` that writes register `d` may leave it: in that register and the index
registers of its LOOP, the engine's place, the inbound queues and the trap record. -/
structure CtxFrame (x : Ctx) (e : Engine) (d : Nat) (y : Ctx) : Prop where
  same : SameContext x y
  vregs : y.vregs = x.vregs
  cars : y.cars = x.cars
  opqs : y.opqs = x.opqs
  qpush : y.qpush = x.qpush
  engs : ∀ f, f ≠ e → y.eng f = x.eng f
  regs : ∀ f r, f ≠ fileOf e ∨ (r ≠ d ∧ loopWrites (x.eng e) r = false) →
    ((y.sregs[f]?).bind fun l => l[r]?) = ((x.sregs[f]?).bind fun l => l[r]?)
  loop : ∀ r, loopWrites (y.eng e) r = true → loopWrites (x.eng e) r = true

/-- A state that differs so from the one a word of `h` starts in, with no write under way. -/
structure FrameOf (s : State) (h : Here) (d : Nat) (t : State) : Prop where
  wr : t.wr = []
  mem : t.mem = s.mem
  outside : SameOutside s t
  curCore : t.curCore = h.c
  curEng : t.curEng = h.e
  seat : t.seat = some (h.k, false)
  cores : ∀ (c : Nat) (co : Core), s.cores[c]? = some co → ∃ cp : Core, t.cores[c]? = some cp ∧ SameCore co cp
  others : ∀ c k, (c, k) ≠ (h.c, h.k) → t.ctx? c k = s.ctx? c k
  ctx : ∃ y, t.ctx? h.c h.k = some y ∧ CtxFrame h.ctx h.e d y

/-! ## Changes of the issuing engine's context -/

theorem tag_injective {e f : Engine} (h : e.tag = f.tag) : e = f := by cases e <;> cases f <;> first | rfl | cases h

theorem eng_modEng_other {x : Ctx} {e f : Engine} {g : EngSt → EngSt} (h : f ≠ e) : (x.modEng e g).eng f = x.eng f := by
  have ht : e.tag ≠ f.tag := fun he => h (tag_injective he).symm
  simp [Ctx.eng, Ctx.modEng, ht]

/-- A change of the engine's place that keeps or leaves its LOOP. -/
theorem CtxFrame.modEng {x y : Ctx} {e : Engine} {d : Nat} {g : EngSt → EngSt} (hy : CtxFrame x e d y)
    (hg : ∀ r, loopWrites (g (y.eng e)) r = true → loopWrites (x.eng e) r = true) : CtxFrame x e d (y.modEng e g) := by
  refine ⟨hy.same, hy.vregs, hy.cars, hy.opqs, hy.qpush, fun f hf => (eng_modEng_other hf).trans (hy.engs f hf), hy.regs, fun r hr => ?_⟩
  cases he : y.engs[e.tag]? with
  | none =>
    refine hy.loop r ?_
    simpa [Ctx.eng, Ctx.modEng, List.getElem?_modify, he] using hr
  | some en =>
    refine hg r ?_
    simpa [Ctx.eng, Ctx.modEng, List.getElem?_modify, he] using hr

/-- A change of the engine's registers that keeps those outside `d` and the index registers. -/
theorem CtxFrame.modRegs {x y : Ctx} {e : Engine} {d : Nat} {g : List W64 → List W64} (hy : CtxFrame x e d y)
    (hg : ∀ l r, r ≠ d → loopWrites (x.eng e) r = false → (g l)[r]? = l[r]?) :
    CtxFrame x e d { y with sregs := y.sregs.modify (fileOf e) g } := by
  refine ⟨hy.same, hy.vregs, hy.cars, hy.opqs, hy.qpush, hy.engs, fun f r hfr => ?_, hy.loop⟩
  rw [← hy.regs f r hfr, List.getElem?_modify]
  cases y.sregs[f]? with
  | none => rfl
  | some l =>
    by_cases hf : fileOf e = f
    · obtain ⟨hr, hl⟩ := hfr.resolve_left (fun h => h hf.symm)
      simpa [hf] using hg l r hr hl
    · simp [hf]

theorem CtxFrame.inqs {x y : Ctx} {e : Engine} {d : Nat} (hy : CtxFrame x e d y) (q : List (List W64)) :
    CtxFrame x e d { y with inqs := q } :=
  ⟨hy.same, hy.vregs, hy.cars, hy.opqs, hy.qpush, hy.engs, hy.regs, hy.loop⟩

theorem CtxFrame.post {x y : Ctx} {e : Engine} {d : Nat} (hy : CtxFrame x e d y) (t : Trap) : CtxFrame x e d (y.post t) := by
  unfold Ctx.post
  have h (u : Option Trap) : CtxFrame x e d { y with trap := u } :=
    ⟨hy.same, hy.vregs, hy.cars, hy.opqs, hy.qpush, hy.engs, hy.regs, hy.loop⟩
  split
  · exact h _
  · split
    · exact h _
    · exact hy

theorem CtxFrame.refl (x : Ctx) (e : Engine) (d : Nat) : CtxFrame x e d x := by
  refine ⟨?_, rfl, rfl, rfl, rfl, fun _ _ => rfl, fun _ _ _ => rfl, fun _ h => h⟩
  simp [SameContext]

/-! ## Changes of the state -/

variable {s t : State} {h : Here} {d : Nat}

theorem FrameOf.modCtx {f : Ctx → Ctx} (ht : FrameOf s h d t) (hf : ∀ y, CtxFrame h.ctx h.e d y → CtxFrame h.ctx h.e d (f y)) :
    FrameOf s h d (t.modCtx h.c h.k f) := by
  obtain ⟨y, hy, hc⟩ := ht.ctx
  refine ⟨ht.wr, ht.mem, ht.outside, ht.curCore, ht.curEng, (seat_modCtx _ _ _ _).trans ht.seat, fun c co hco => ?_, fun c k hck => ?_,
    f y, by simp [ctx?_modCtx, hy], hf y hc⟩
  · obtain ⟨cp, hcp, hsame⟩ := ht.cores c co hco
    by_cases hcc : h.c = c
    · refine ⟨{ cp with slots := cp.slots.modify h.k (Option.map f) }, by simp [State.modCtx, hcp, hcc], ?_⟩
      simpa [SameCore] using hsame
    · exact ⟨cp, by simp [State.modCtx, hcp, hcc], hsame⟩
  · rw [ctx?_modCtx, if_neg (fun hk => hck (by rw [hk.1, hk.2]))]
    exact ht.others c k hck

theorem FrameOf.modHere {g : EngSt → EngSt} (ht : FrameOf s h d t)
    (hg : ∀ en, (∀ r, loopWrites en r = true → loopWrites (h.ctx.eng h.e) r = true) →
      ∀ r, loopWrites (g en) r = true → loopWrites (h.ctx.eng h.e) r = true) : FrameOf s h d (t.modHere g) := by
  have e : t.modHere g = t.modCtx h.c h.k (·.modEng h.e g) := by
    simp only [State.modHere, ht.seat, ht.curCore, ht.curEng, State.modEng]
  rw [e]
  exact ht.modCtx fun y hc => hc.modEng (hg _ hc.loop)

/-- The LOOP the engine is in writes no other index registers than at the word's start. -/
theorem FrameOf.here_loop {g : Here} (ht : FrameOf s h d t) (e : t.here = some g) (r : Nat) (hr : loopWrites g.eng r = true) :
    loopWrites (h.ctx.eng h.e) r = true := by
  obtain ⟨co, hseat, -, hx, hc, he, heng⟩ := here_some_iff.mp e
  rw [ht.seat] at hseat
  obtain ⟨hk, ha⟩ := Prod.mk.inj (Option.some.inj hseat)
  obtain ⟨y, hy, hfr⟩ := ht.ctx
  rw [ht.curCore, ← hk, hy] at hx
  rw [heng, ← ha, if_neg (by simp), ← Option.some.inj hx, ht.curEng] at hr
  exact hfr.loop r hr

theorem FrameOf.modRegs {g : List W64 → List W64} (ht : FrameOf s h d t)
    (hg : ∀ l r, r ≠ d → loopWrites (h.ctx.eng h.e) r = false → (g l)[r]? = l[r]?) : FrameOf s h d (t.modRegs g) := by
  have e : t.modRegs g = t.modCtx h.c h.k fun x => { x with sregs := x.sregs.modify (fileOf h.e) g } := by
    simp only [State.modRegs, ht.seat, ht.curCore, ht.curEng]
  rw [e]
  exact ht.modCtx fun y hc => hc.modRegs hg

theorem FrameOf.modCtxHere {f : Ctx → Ctx} (ht : FrameOf s h d t) (hf : ∀ y, CtxFrame h.ctx h.e d y → CtxFrame h.ctx h.e d (f y)) :
    FrameOf s h d (t.modCtxHere f) := by
  have e : t.modCtxHere f = t.modCtx h.c h.k f := by simp only [State.modCtxHere, ht.seat, ht.curCore]
  rw [e]
  exact ht.modCtx hf

theorem FrameOf.raise (ht : FrameOf s h d t) (q : TrapReq) : FrameOf s h d (t.raise q) := by
  have e : t.raise q = t.modCtx h.c h.k fun x =>
      (x.modEng h.e fun en => { en with req := .none }).post (q.toTrap h.c h.k h.e false t.now) := by
    simp only [State.raise, ht.seat, ht.curCore, ht.curEng]
    rfl
  rw [e]
  exact ht.modCtx fun y hc => (hc.modEng fun r hr => hc.loop r hr).post _

theorem FrameOf.start (hw : s.wr = []) (e : s.here = some h) (ha : h.asst = false) : FrameOf s h d s := by
  obtain ⟨co, hseat, hco, hx, hc, he, -⟩ := here_some_iff.mp e
  rw [← hc] at hx
  rw [ha] at hseat
  exact ⟨hw, rfl, by simp [SameOutside], hc.symm, he.symm, hseat, fun c co hco => ⟨co, hco, by simp [SameCore]⟩,
    fun _ _ _ => rfl, h.ctx, hx, .refl _ _ _⟩

/-! ## Meanings -/

/-- A stop that only stalls or traps, or finds no context. -/
def Stop.plain : Stop → Prop
  | .stall => True
  | .trap _ => True
  | .fault _ => True
  | _ => False

/-- A meaning that keeps `P` where it goes on, and elsewhere only stalls or traps. -/
def Keeps {α : Type} (P : State → Prop) (m : M α) : Prop :=
  ∀ s, P s → (∀ a t, m s = .ok (a, t) → P t) ∧ ∀ e, m s = .error e → e.plain

section
variable {α β : Type} {P : State → Prop}

theorem keeps_bind {m : M α} {f : α → M β} (hm : Keeps P m) (hf : ∀ a, Keeps P (f a)) : Keeps P (m >>= f) := by
  refine fun s hs => ⟨fun b u e => ?_, fun x e => ?_⟩
  · obtain ⟨a, t, h1, h2⟩ := bind_ok_inv e
    exact (hf a t ((hm s hs).1 a t h1)).1 b u h2
  · obtain h1 | ⟨a, t, h1, h2⟩ := bind_error_inv e
    · exact (hm s hs).2 x h1
    · exact (hf a t ((hm s hs).1 a t h1)).2 x h2

theorem keeps_get_bind {f : State → M β} (hf : ∀ s, Keeps P (f s)) : Keeps P ((get : M State) >>= f) :=
  fun s hs => hf s s hs

theorem keeps_pure (a : α) : Keeps P (pure a : M α) := fun s hs => ⟨fun _ _ e => by cases e; exact hs, fun _ e => nomatch e⟩

theorem keeps_stall : Keeps P (stall : M α) := fun _ _ => ⟨fun _ _ e => (nomatch e), fun _ e => by cases e; trivial⟩

theorem keeps_raise (r : TrapReq) : Keeps P (raise r : M α) := fun _ _ => ⟨fun _ _ e => (nomatch e), fun _ e => by cases e; trivial⟩

theorem keeps_require (b : Bool) : Keeps P (require b) := by
  cases b
  · exact keeps_stall
  · exact keeps_pure ()

theorem keeps_modify {g : State → State} (hg : ∀ s, P s → P (g s)) : Keeps P (modify g : M PUnit) :=
  fun s hs => ⟨fun _ _ e => by cases e; exact hg s hs, fun _ e => nomatch e⟩

/-- What follows a look at the issuing engine begins in the state it looks at. -/
theorem keeps_here_bind {f : Here → M β} (hf : ∀ g s, s.here = some g → P s →
    (∀ a t, f g s = .ok (a, t) → P t) ∧ ∀ e, f g s = .error e → e.plain) : Keeps P (here >>= f) := by
  intro s hs
  cases e : s.here with
  | some g => rw [here_bind e]; exact hf g s e hs
  | none =>
    have he : (here >>= f) s = .error (.fault .noContext) := bind_error (by simp [here, e])
    rw [he]
    exact ⟨fun _ _ k => (nomatch k), fun _ k => by cases k; trivial⟩

theorem keeps_ite {c : Prop} [Decidable c] {m n : M α} (hm : Keeps P m) (hn : Keeps P n) : Keeps P (if c then m else n) := by
  split
  · exact hm
  · exact hn

theorem keeps_here : Keeps P here := by
  refine fun s hs => ⟨fun g t e => ?_, fun x e => ?_⟩
  · rw [(here_ok_inv e).2]; exact hs
  · cases hh : s.here with
    | some g => rw [here_ok hh] at e; cases e
    | none => simp [here, hh] at e; rw [← e]; trivial

theorem keeps_tableOk (k : Nat) : Keeps P (tableOk k) :=
  keeps_get_bind fun _ => keeps_ite (keeps_raise _) (keeps_pure _)

theorem keeps_readReg (r : Nat) : Keeps P (readReg r) :=
  keeps_bind keeps_here fun _ => keeps_get_bind fun _ => keeps_ite (keeps_pure _)
    (keeps_bind (keeps_require _) fun _ => by
      dsimp only
      split
      · exact keeps_pure _
      · exact keeps_bind (keeps_tableOk _) fun _ => keeps_pure _)

theorem keeps_guardOn (g : Guard) : Keeps P (guardOn g) :=
  keeps_ite (keeps_pure _) (keeps_bind keeps_here fun _ => keeps_get_bind fun _ => keeps_ite
    (keeps_bind (keeps_require _) fun _ => keeps_bind (keeps_tableOk _) fun _ => keeps_pure _)
    (keeps_bind (keeps_readReg _) fun _ => keeps_pure _))

theorem keeps_roundingS (x : RWord) : Keeps P (roundingS x) :=
  keeps_ite (keeps_bind (keeps_readReg _) fun _ => keeps_pure _) (keeps_pure _)

theorem keeps_launchHere : Keeps P launchHere :=
  keeps_bind keeps_here fun _ => keeps_get_bind fun _ => keeps_pure _

end

/-- A frame is kept by a meaning that goes on in the same state or stalls or traps. -/
theorem keeps_source (on : Bool) (r : BitVec 6) : Keeps (FrameOf s h d) (source on r) := by
  refine keeps_ite ?_ (keeps_ite (keeps_readReg _) (keeps_pure _))
  refine keeps_bind keeps_here fun g => ?_
  dsimp only
  split
  · exact keeps_bind (keeps_modify fun t ht => FrameOf.modCtxHere ht fun y hy => hy.inqs _) fun _ => keeps_pure _
  · exact keeps_stall

theorem keeps_writeReg (v : W64) (lat : Nat) : Keeps (FrameOf s h d) (writeReg d v lat) := by
  refine keeps_ite (keeps_pure _) (keeps_bind keeps_here fun g => keeps_get_bind fun u => keeps_bind (keeps_require _) fun _ =>
    keeps_bind (keeps_modify fun t ht => ht.modRegs fun l r hr _ => ?_) fun _ => keeps_ite (keeps_pure _) (keeps_modify fun t ht => ?_))
  · exact List.getElem?_set_ne (Ne.symm hr)
  · exact ht.modHere fun _ hen => hen

theorem loopWrites_goto (en : EngSt) (w r : Nat) (hr : loopWrites (en.goto w) r = true) : loopWrites en r = true := by
  unfold EngSt.goto at hr
  split at hr
  · exact hr
  · split at hr
    · exact hr
    · simp [EngSt.finish, loopWrites] at hr

theorem keeps_goto (w : Nat) : Keeps (FrameOf s h d) (modEng (·.goto w)) :=
  keeps_modify fun _ ht => ht.modHere fun en hen r hr => hen r (loopWrites_goto en w r hr)

/-- Index values written change the index registers only. -/
theorem writeIndices_getElem? (l : List W64) (d r : Nat) (idx : List (BitVec 32)) (h : d = 0 ∨ r < d ∨ d + idx.length ≤ r) :
    (writeIndices l d idx)[r]? = l[r]? := by
  unfold writeIndices
  split
  · rfl
  next h0 =>
    have hr := h.resolve_left h0
    have aux (ps : List (BitVec 32 × Nat)) (hps : ∀ p ∈ ps, d + p.2 ≠ r) (l : List W64) :
        (ps.foldl (fun r (v, j) => r.set (d + j) (v.setWidth 64)) l)[r]? = l[r]? := by
      induction ps generalizing l with
      | nil => rfl
      | cons p ps ih => exact (ih (fun q hq => hps q (by simp [hq])) _).trans (List.getElem?_set_ne (hps p (by simp)))
    refine aux _ (fun p hp => ?_) l
    have := List.snd_lt_of_mem_zipIdx hp
    omega

/-- Entering an iteration of the LOOP the engine is in writes its index registers. -/
theorem keeps_setLoop {l : LoopSt} (hl : ∀ r, l.d ≠ 0 → l.d ≤ r → r < l.d + l.nd → loopWrites (h.ctx.eng h.e) r = true)
    (hidx : l.idx.length = l.nd) : Keeps (FrameOf s h d) (setLoop l) := by
  have hloop (b : Bool) : Keeps (FrameOf s h d) (modEng fun en => { en with loop := some { l with lag := b } }) := by
    refine keeps_modify fun t ht => ht.modHere fun en _ r hr => ?_
    simp only [loopWrites, Bool.and_eq_true, bne_iff_ne, decide_eq_true_eq] at hr
    exact hl r hr.1.1 hr.1.2 hr.2
  refine keeps_bind keeps_here fun g => keeps_get_bind fun u => keeps_bind (hloop _) fun _ => ?_
  refine keeps_ite (keeps_modify fun t ht => ht.modRegs fun regs r _ hr => ?_) (keeps_pure _)
  refine writeIndices_getElem? _ _ _ _ ?_
  rw [hidx]
  by_contra hcon
  rw [hl r (by omega) (by omega) (by omega)] at hr
  cases hr

theorem keeps_advance : Keeps (FrameOf s h d) advance := by
  refine keeps_here_bind fun g u e hu => ?_
  have hloop := hu.here_loop e
  have hrest : Keeps (FrameOf s h d) (match g.eng.sect with
      | none => pure ()
      | some sc => match g.eng.loop with
        | none => modEng (·.goto (sc.widx + 1))
        | some l =>
          if sc.widx + 1 ≤ l.word + l.len then modEng (·.goto (sc.widx + 1))
          else if l.iter + 1 < l.total then do
            setLoop { l with iter := l.iter + 1, idx := loopIndices g.eng.cnt l.nd (l.iter + 1) }
            modEng (·.goto (l.word + 1))
          else do
            modEng fun en => { en with loop := none }
            modEng (·.goto (l.word + l.len + 1))) := by
    split
    · exact keeps_pure _
    split
    · exact keeps_goto _
    next l hl =>
      refine keeps_ite (keeps_goto _) (keeps_ite (keeps_bind (keeps_setLoop (fun r h0 h1 h2 => hloop r ?_) ?_) fun _ => keeps_goto _)
        (keeps_bind (keeps_modify fun t ht => ht.modHere fun en _ r hr => ?_) fun _ => keeps_goto _))
      · simp_all [loopWrites]
      · simp [loopIndices]
      · cases hr
  exact hrest _ (hu.modHere fun _ hen => hen)

/-! ## The words -/

theorem keeps_scalarWord (g : Guard) (a b c d : BitVec 6) (lat : Nat) (f : W64 → W64 → W64 → W64) :
    Keeps (FrameOf s h d.toNat) (scalarWord g d a b c lat f) :=
  keeps_bind (keeps_guardOn g) fun on => keeps_bind (keeps_source on a) fun _ => keeps_bind (keeps_source on b) fun _ =>
    keeps_bind (keeps_source on c) fun _ => by
      dsimp only
      split
      · exact keeps_bind (keeps_writeReg _ _) fun _ => keeps_advance
      · exact keeps_advance

theorem keeps_compareWord (g : Guard) (a b d : BitVec 6) (c sub lat : Nat) (rel : W64 → W64 → Bool) :
    Keeps (FrameOf s h d.toNat) (compareWord g d a b c sub lat rel) :=
  keeps_bind (keeps_guardOn g) fun on => keeps_bind (keeps_source on a) fun _ => keeps_bind (keeps_source on b) fun _ => by
    dsimp only
    split
    · exact keeps_bind (keeps_readReg _) fun _ => keeps_bind (keeps_writeReg _ _) fun _ => keeps_advance
    · exact keeps_advance

theorem keeps_divWord (g : Guard) (a b d : BitVec 6) (imm : Option W64) (f : W64 → W64 → W64) :
    Keeps (FrameOf s h d.toNat) (divWord g d a b imm f) := by
  have hrest (on : Bool) (x y : W64) : Keeps (FrameOf s h d.toNat) (do
      if on then do
        let h ← here
        let s ← get
        require (!h.eng.isBusy s.now 64)
        writeReg d.toNat (f x y) 18
        modEng fun en => { en with busy := (64, s.now + 18) :: en.busy }
      else pure ()
      advance) := by
    split
    · exact keeps_bind keeps_here fun g => keeps_get_bind fun s => keeps_bind (keeps_require _) fun _ =>
        keeps_bind (keeps_writeReg _ _) fun _ => keeps_bind (keeps_modify fun t ht => ht.modHere fun _ hen => hen) fun _ => keeps_advance
    · exact keeps_advance
  refine keeps_bind (keeps_guardOn g) fun on => keeps_bind (keeps_source on a) fun x => ?_
  cases imm with
  | none => exact keeps_bind (keeps_source on b) fun y => hrest on x y
  | some v => exact hrest on x v

theorem keeps_floatWord (x : RWord) (a b c : BitVec 6) (lat : Nat) (f : Rounding → W64 → W64 → W64 → W64) :
    Keeps (FrameOf s h x.d.toNat) (floatWord x a b c lat f) :=
  keeps_bind (keeps_guardOn _) fun on => keeps_bind (keeps_source on a) fun _ => keeps_bind (keeps_source on b) fun _ =>
    keeps_bind (keeps_source on c) fun _ => by
      dsimp only
      split
      · exact keeps_bind (keeps_roundingS x) fun _ => keeps_bind (keeps_writeReg _ _) fun _ => keeps_advance
      · exact keeps_advance

/-- A word whose meaning keeps the frame of register `d`. -/
def FramesWord (i : Instr) (d : Nat) : Prop := ∃ m : M Unit, (∀ s h, Keeps (FrameOf s h d) m) ∧ ∀ s, exec i s = run m s

theorem frames_scalar {i : Instr} {g : Guard} {a b c d : BitVec 6} {lat : Nat} {f : W64 → W64 → W64 → W64}
    (e : ∀ s, exec i s = run (scalarWord g d a b c lat f) s) : FramesWord i d.toNat := ⟨_, fun _ _ => keeps_scalarWord _ _ _ _ _ _ _, e⟩

theorem frames_compare {i : Instr} {g : Guard} {a b d : BitVec 6} {c sub lat : Nat} {rel : W64 → W64 → Bool}
    (e : ∀ s, exec i s = run (compareWord g d a b c sub lat rel) s) : FramesWord i d.toNat := ⟨_, fun _ _ => keeps_compareWord _ _ _ _ _ _ _ _, e⟩

theorem frames_div {i : Instr} {g : Guard} {a b d : BitVec 6} {imm : Option W64} {f : W64 → W64 → W64}
    (e : ∀ s, exec i s = run (divWord g d a b imm f) s) : FramesWord i d.toNat := ⟨_, fun _ _ => keeps_divWord _ _ _ _ _ _, e⟩

theorem frames_float {i : Instr} {x : RWord} {a b c : BitVec 6} {lat : Nat} {f : Rounding → W64 → W64 → W64 → W64}
    (e : ∀ s, exec i s = run (floatWord x a b c lat f) s) : FramesWord i x.d.toNat := ⟨_, fun _ _ => keeps_floatWord _ _ _ _ _ _, e⟩

theorem frames_bins (x : RWord) : FramesWord (Instr.bins x) x.d.toNat := by
  refine ⟨_, fun s h => ?_, fun s => by dsimp only [exec]; rfl⟩
  refine keeps_bind (keeps_guardOn _) fun on => keeps_bind (keeps_source on _) fun _ => ?_
  dsimp only
  split
  · exact keeps_bind (keeps_readReg _) fun _ => keeps_bind (keeps_writeReg _ _) fun _ => keeps_advance
  · exact keeps_advance

theorem frames_movhi (x : IWord) : FramesWord (Instr.movhi x) x.d.toNat := by
  refine ⟨_, fun s h => ?_, fun s => by dsimp only [exec]; rfl⟩
  refine keeps_bind (keeps_guardOn _) fun on => ?_
  dsimp only
  split
  · exact keeps_bind (keeps_readReg _) fun _ => keeps_bind (keeps_writeReg _ _) fun _ => keeps_advance
  · exact keeps_advance

theorem frames_flgrd (x : IWord) : FramesWord (Instr.flgrd x) x.d.toNat := by
  refine ⟨_, fun s h => ?_, fun s => by dsimp only [exec]; rfl⟩
  refine keeps_bind (keeps_guardOn _) fun on => ?_
  dsimp only
  split
  · exact keeps_bind keeps_here fun _ => keeps_bind (keeps_writeReg _ _) fun _ => keeps_advance
  · exact keeps_advance

theorem frames_srd (x : IWord) : FramesWord (Instr.srd x) x.d.toNat := by
  refine ⟨_, fun s h => ?_, fun s => by dsimp only [exec]; rfl⟩
  refine keeps_bind (keeps_guardOn _) fun on => ?_
  dsimp only
  split
  · exact keeps_bind keeps_here fun _ => keeps_bind keeps_launchHere fun _ => keeps_get_bind fun _ =>
      keeps_bind (keeps_writeReg _ _) fun _ => keeps_advance
  · exact keeps_advance

theorem frames_scalarForms : ∀ p ∈ scalarForms, ∀ x, FramesWord (p.ins x) x.d.toNat := by
  simp only [scalarForms, List.forall_mem_cons, List.not_mem_nil, false_imp_iff, implies_true, and_true]
  refine ⟨?_, ?_, ?_, ?_, ?_, ?_, ?_, ?_, ?_, ?_, ?_, ?_, ?_, ?_, ?_, ?_, ?_, ?_, ?_, ?_, ?_, ?_, ?_, ?_, ?_, ?_, ?_⟩ <;>
    (intro x; apply frames_scalar; intro s; dsimp only [exec]; rfl)

theorem frames_floatForms : ∀ p ∈ floatForms, ∀ x, FramesWord (p.ins x) x.d.toNat := by
  simp only [floatForms, List.forall_mem_cons, List.not_mem_nil, false_imp_iff, implies_true, and_true]
  refine ⟨?_, ?_, ?_, ?_, ?_, ?_, ?_, ?_, ?_⟩ <;> (intro x; apply frames_float; intro s; dsimp only [exec]; rfl)

theorem frames_compareForms : ∀ p ∈ compareForms, ∀ x, FramesWord (p.1 x) x.d.toNat := by
  simp only [compareForms, List.forall_mem_cons, List.not_mem_nil, false_imp_iff, implies_true, and_true]
  refine ⟨?_, ?_, ?_, ?_, ?_, ?_⟩ <;> (intro x; apply frames_compare; intro s; dsimp only [exec]; rfl)

theorem frames_divForms : ∀ p ∈ divForms, (∀ x, FramesWord (p.1 x) x.d.toNat) ∧ ∀ x, FramesWord (p.2.1 x) x.d.toNat := by
  simp only [divForms, List.forall_mem_cons, List.not_mem_nil, false_imp_iff, implies_true, and_true]
  refine ⟨⟨?_, ?_⟩, ⟨?_, ?_⟩, ⟨?_, ?_⟩, ?_, ?_⟩ <;> (intro x; apply frames_div; intro s; dsimp only [exec]; rfl)

theorem frames_immForms : ∀ p ∈ immForms, ∀ x, FramesWord (p.ins x) x.d.toNat := by
  simp only [immForms, List.forall_mem_cons, List.not_mem_nil, false_imp_iff, implies_true, and_true]
  refine ⟨?_, ?_, ?_, ?_, ?_, ?_, ?_, ?_, ?_, ?_, ?_, ?_⟩ <;> (intro x; apply frames_scalar; intro s; dsimp only [exec]; rfl)

theorem frames_regWordsR : ∀ p ∈ regWordsR, ∀ x : RWord, FramesWord (p x) x.d.toNat := by
  intro p hp x
  simp only [regWordsR, List.mem_append, List.mem_map, List.mem_cons, List.not_mem_nil, or_false] at hp
  obtain (((⟨q, hq, rfl⟩ | ⟨q, hq, rfl⟩) | ⟨q, hq, rfl⟩) | ⟨q, hq, rfl⟩) | rfl | rfl | rfl := hp
  · exact frames_scalarForms q hq x
  · exact frames_floatForms q hq x
  · exact frames_compareForms q hq x
  · exact (frames_divForms q hq).1 x
  · exact frames_bins x
  · exact frames_compare fun s => by dsimp only [exec]; rfl
  · exact frames_float fun s => by dsimp only [exec]; rfl

theorem frames_regWordsI : ∀ p ∈ regWordsI, ∀ x : IWord, FramesWord (p x) x.d.toNat := by
  intro p hp x
  simp only [regWordsI, List.mem_append, List.mem_map, List.mem_cons, List.not_mem_nil, or_false] at hp
  obtain (⟨q, hq, rfl⟩ | ⟨q, hq, rfl⟩) | rfl | rfl | rfl | rfl := hp
  · exact frames_immForms q hq x
  · exact (frames_divForms q hq).2 x
  · exact frames_scalar fun s => by dsimp only [exec]; rfl
  · exact frames_movhi x
  · exact frames_flgrd x
  · exact frames_srd x

/-- What a word with a frame leaves: it commits a state of the frame, stalls, or traps. -/
theorem frameOf_exec {i : Instr} {d : Nat} {s t : State} {h : Here} (hi : FramesWord i d) (hs : FrameOf s h d s)
    (e : exec i s = .next t) : FrameOf s h d t := by
  obtain ⟨m, hm, hrun⟩ := hi
  rw [hrun] at e
  obtain ⟨hok, herr⟩ := hm s h s hs
  cases hm : m s with
  | ok p =>
    have hu := hok p.1 p.2 hm
    rw [run_ok hm] at e
    cases e
    exact ⟨rfl, by rw [commit_mem, hu.wr]; rfl, hu.outside, hu.curCore, hu.curEng, hu.seat, hu.cores, hu.others, hu.ctx⟩
  | error x =>
    have hx := herr x hm
    cases x with
    | stall => rw [run_stall hm] at e; cases e; exact hs
    | trap q => rw [run_trap hm] at e; cases e; exact hs.raise q
    | fault f => rw [run, hm] at e; cases e
    | later | walk | fetch | posted => exact hx.elim

/-- Settles O58: a word that writes one register keeps its frame, part by part. -/
theorem scalarWordsFrame : Obligations.ScalarWordsFrame := by
  intro i d s t h hi hw e ha ht
  have hf : FramesWord i d := by
    obtain ⟨p, hp, x, rfl, rfl⟩ | ⟨p, hp, x, rfl, rfl⟩ := hi
    · exact frames_regWordsR p hp x
    · exact frames_regWordsI p hp x
  have hframe := frameOf_exec hf (.start hw e ha) ht
  obtain ⟨y, hy, hc⟩ := hframe.ctx
  obtain ⟨co, -, -, hx, hcore, heng, hen⟩ := here_some_iff.mp e
  have hloop : h.eng = h.ctx.eng h.e := by rw [hen, ha, heng]; rfl
  refine ⟨fun a => by rw [hframe.mem], hframe.outside, hframe.cores, hframe.others, fun f r hfr => ?_, y, hy, hc.same, hc.vregs, hc.cars,
    hc.opqs, hc.qpush, hc.engs⟩
  rw [hloop] at hfr
  rw [← hcore] at hx
  simpa only [State.sreg, hy, hx, Option.bind_some] using hc.regs f r hfr

end Sys2Proof.Machine
end

section
/-!
The words of the shared scalar ALU and the float words of S: what each writes to D, and what it does guarded off.
-/
namespace Sys2Proof.Machine

/-! ## The values -/

theorem aluMulh_eq (x : BitVec 4) (a b : W64) : aluMulh x.toNat a b = highProduct x a b := by
  have h1 : (x.toNat = 1) = (x = 1) := by simp [← BitVec.toNat_inj]
  have h0 : (x.toNat = 0) = (x = 0) := by simp [← BitVec.toNat_inj]
  simp only [aluMulh, highProduct, wrapTo, h1, h0]

theorem aluMin_eq (a b : W64) : aluMin a b = if b.slt a then b else a := by
  simp only [aluMin, BitVec.slt_eq_decide, decide_eq_true_eq]
  split <;> split <;> first | rfl | omega

theorem aluMax_eq (a b : W64) : aluMax a b = if a.slt b then b else a := by
  simp only [aluMax, BitVec.slt_eq_decide, decide_eq_true_eq]
  split <;> split
  · rfl
  · exact (BitVec.eq_of_toInt_eq (by omega)).symm
  · omega
  · rfl

theorem aluMinw_eq (a b : W64) : aluMinw a b = if b < a then b else a := by
  simp only [aluMinw, BitVec.lt_def]
  split <;> split <;> first | rfl | omega

theorem aluMaxw_eq (a b : W64) : aluMaxw a b = if a < b then b else a := by
  simp only [aluMaxw, BitVec.lt_def]
  split <;> split
  · rfl
  · exact (BitVec.eq_of_toNat_eq (by omega)).symm
  · omega
  · rfl

theorem aluSext_eq (c : BitVec 6) (a : W64) : aluSext c.toNat a = (a.setWidth (c.toNat + 1)).signExtend 64 := by
  have hc := c.isLt
  refine BitVec.eq_of_getLsbD_eq fun i hi => ?_
  simp only [aluSext, BitVec.getLsbD_sshiftRight, BitVec.getLsbD_shiftLeft, BitVec.getLsbD_signExtend, BitVec.getLsbD_setWidth,
    BitVec.msb_eq_getLsbD_last]
  by_cases h : i < c.toNat + 1
  · rw [if_pos (by omega), if_pos h, Nat.add_sub_cancel_left]
    simp [hi, h, show 63 - c.toNat + i < 64 by omega]
  · rw [if_neg (by omega), if_neg h, show 64 - 1 - (63 - c.toNat) = c.toNat by omega]
    simp [show ¬ 64 ≤ i by omega, show ¬ 63 < 63 - c.toNat by omega, hi]

theorem aluZext_eq (c : BitVec 6) (a : W64) : aluZext c.toNat a = (a.setWidth (c.toNat + 1)).setWidth 64 := by
  have hc := c.isLt
  refine BitVec.eq_of_getLsbD_eq fun i hi => ?_
  simp only [aluZext, BitVec.getLsbD_ushiftRight, BitVec.getLsbD_shiftLeft, BitVec.getLsbD_setWidth]
  rw [Nat.add_sub_cancel_left]
  by_cases h : i < c.toNat + 1
  · simp [hi, h, show 63 - c.toNat + i < 64 by omega]
  · simp [h, show ¬ 63 - c.toNat + i < 64 by omega]

theorem aluBext_eq (b c : BitVec 6) (a : W64) :
    aluBext (b.toNat + 1) c.toNat a = (a >>> c.toNat) &&& BitVec.ofNat 64 (2 ^ (b.toNat + 1) - 1) := by
  have hc := c.isLt
  refine BitVec.eq_of_getLsbD_eq fun i hi => ?_
  simp only [aluBext, BitVec.getLsbD_ofNat, BitVec.getLsbD_and, BitVec.getLsbD_ushiftRight, Nat.testBit_mod_two_pow, Nat.testBit_shiftRight,
    Nat.testBit_two_pow_sub_one, hi, decide_true, Bool.true_and, BitVec.testBit_toNat]
  by_cases h : c.toNat + i < 64
  · simp [show (i < min (c.toNat + (b.toNat + 1)) 64 - c.toNat) = (i < b.toNat + 1) by simp; omega, Bool.and_comm]
  · simp [BitVec.getLsbD_of_ge _ _ (Nat.le_of_not_lt h)]

theorem bitChoice_eq (x : RWord) (b : W64) : bitChoice x.sub.toNat x.c.toNat b = bitNumber x b := by
  have h0 : (x.sub.toNat = 0) = (x.sub = 0) := by simp [← BitVec.toNat_inj]
  simp only [bitChoice, bitNumber, h0]

theorem aluDiv_eq : aluDiv = quotient true := by
  funext a b
  simp only [aluDiv, quotient, wrapTo, if_true]
  split
  · rfl
  · refine BitVec.eq_of_toInt_eq ?_
    rw [BitVec.toInt_ofInt, BitVec.toInt_sdiv]

theorem aluDivw_eq : aluDivw = quotient false := by
  funext a b
  simp only [aluDivw, quotient]
  split
  · rfl
  · refine BitVec.eq_of_toNat_eq ?_
    simp [BitVec.toNat_udiv, Nat.mod_eq_of_lt (Nat.lt_of_le_of_lt (Nat.div_le_self _ _) a.isLt)]

theorem aluRem_eq : aluRem = remainder true := by
  funext a b
  simp only [aluRem, remainder, wrapTo, if_true]
  split
  · rfl
  · rw [← BitVec.toInt_srem, BitVec.ofInt_toInt]

theorem aluRemw_eq : aluRemw = remainder false := by
  funext a b
  simp only [aluRemw, remainder]
  split
  · rfl
  · refine BitVec.eq_of_toNat_eq ?_
    simp [BitVec.toNat_umod, Nat.mod_eq_of_lt (Nat.lt_of_le_of_lt (Nat.mod_le _ _) a.isLt)]

theorem compareBit_eq (old : W64) (c : Nat) (x : BitVec 4) (r : Bool) : compareBit old c x.toNat r = combined x old c r := by
  have h1 : (x.toNat = 1) = (x = 1) := by simp [← BitVec.toNat_inj]
  have h2 : (x.toNat = 2) = (x = 2) := by simp [← BitVec.toNat_inj]
  simp only [compareBit, combined, setBit, bitAt, h1, h2]

/-! ## Sources -/

theorem takeSources_cons {r : BitVec 6} {l : List (BitVec 6)} {s u : State} {vs : List W64} (h : takeSources (r :: l) s = .ok (vs, u)) :
    ∃ v w t, source true r s = .ok (v, t) ∧ takeSources l t = .ok (w, u) ∧ vs = v :: w := by
  obtain ⟨v, t, h1, h2⟩ := bind_ok_inv h
  obtain ⟨w, t', h3, h4⟩ := bind_ok_inv h2
  cases h4
  exact ⟨v, w, t, h1, h3, rfl⟩

theorem takeSources_one {a : BitVec 6} {s u : State} {x : W64} (h : takeSources [a] s = .ok ([x], u)) : source true a s = .ok (x, u) := by
  obtain ⟨v, w, t, h1, h2, h3⟩ := takeSources_cons h
  cases h2
  cases h3
  exact h1

theorem takeSources_two {a b : BitVec 6} {s u : State} {x y : W64} (h : takeSources [a, b] s = .ok ([x, y], u)) :
    ∃ t, source true a s = .ok (x, t) ∧ source true b t = .ok (y, u) := by
  obtain ⟨v, w, t, h1, h2, h3⟩ := takeSources_cons h
  cases h3
  exact ⟨t, h1, takeSources_one h2⟩

theorem takeSources_three {a b c : BitVec 6} {s u : State} {x y z : W64} (h : takeSources [a, b, c] s = .ok ([x, y, z], u)) :
    ∃ t t', source true a s = .ok (x, t) ∧ source true b t = .ok (y, t') ∧ source true c t' = .ok (z, u) := by
  obtain ⟨v, w, t, h1, h2, h3⟩ := takeSources_cons h
  cases h3
  obtain ⟨t', h4, h5⟩ := takeSources_two h2
  exact ⟨t, t', h1, h4, h5⟩

theorem takeSources_here {l : List (BitVec 6)} {s u : State} {vs : List W64} (h : takeSources l s = .ok (vs, u))
    (hs : s.here.isSome = true) : u.here.isSome = true := by
  induction l generalizing s vs with
  | nil => cases h; exact hs
  | cons r l ih =>
    obtain ⟨v, w, t, h1, h2, -⟩ := takeSources_cons h
    exact ih h2 (source_here h1 hs)

/-- A register that is no queue is no source of a word guarded off. -/
theorem source_off {r : BitVec 6} (s : State) (h : r.toNat < 48) : source false r s = .ok (0, s) := by
  simp [source, Nat.not_le.mpr h]

/-- A queue is popped whatever the guard. -/
theorem source_queue {r : BitVec 6} (h : 48 ≤ r.toNat) (b : Bool) : source b r = source true r := by
  simp [source, h]

/-! ## Words of three sources -/

theorem scalarWord_takes {g : Guard} {d a b c : BitVec 6} {lat : Nat} {f : W64 → W64 → W64 → W64} {s u : State} {x y z : W64}
    (hs : s.here.isSome = true) (hg : guardOn g s = .ok (true, s)) (ht : takeSources [a, b, c] s = .ok ([x, y, z], u))
    (hd : u.regFree d.toNat) : scalarWord g d a b c lat f s = .ok ((), (u.withReg d.toNat (f x y z) lat).advanced) := by
  obtain ⟨t, t', h1, h2, h3⟩ := takeSources_three ht
  exact scalarWord_ok hs hg h1 h2 h3 hd

/-- A row of the table says what its word is: its sources, its value and its latency. -/
def ScalarForm.Means (p : ScalarForm) : Prop :=
  ∀ x, ∃ b c, p.srcs x = [x.a, b, c] ∧ ∀ s, exec (p.ins x) s = run (scalarWord x.guard x.d x.a b c p.lat (p.val x)) s

theorem scalarForms_mean : ∀ p ∈ scalarForms, p.Means := by
  simp only [scalarForms, List.forall_mem_cons, List.not_mem_nil, false_imp_iff, implies_true, and_true]
  refine ⟨?_, ?_, ?_, ?_, ?_, ?_, ?_, ?_, ?_, ?_, ?_, ?_, ?_, ?_, ?_, ?_, ?_, ?_, ?_, ?_, ?_, ?_, ?_, ?_, ?_, ?_, ?_⟩ <;>
    (intro x; refine ⟨_, _, rfl, fun s => ?_⟩; dsimp only [exec]; show run (scalarWord _ _ _ _ _ _ _) s = _)
  -- the rows whose value the model writes otherwise
  all_goals try simp only [aluMulh_eq, aluMin_eq, aluMax_eq, aluMinw_eq, aluMaxw_eq, aluSext_eq, aluZext_eq, aluBext_eq, bitChoice_eq]
  all_goals rfl

/-- A row of the immediate forms says what its word is. -/
def ScalarImmForm.Means (p : ScalarImmForm) : Prop :=
  ∀ x s, exec (p.ins x) s = run (scalarWord x.guard x.d x.a 0 0 p.lat fun a _ _ => p.val a x) s

theorem immForms_mean : ∀ p ∈ immForms, p.Means := by
  simp only [immForms, List.forall_mem_cons, List.not_mem_nil, false_imp_iff, implies_true, and_true]
  refine ⟨?_, ?_, ?_, ?_, ?_, ?_, ?_, ?_, ?_, ?_, ?_, ?_⟩ <;>
    (intro x s; dsimp only [exec]; show run (scalarWord _ _ _ _ _ _ _) s = _)
  all_goals try simp only [aluMulh_eq]
  all_goals rfl

/-- Settles O1: each row is a word of three sources. -/
theorem scalarWordsWriteTheirResult : Obligations.ScalarWordsWriteTheirResult := by
  intro p hp x s u a b c hs hg ht hd
  obtain ⟨rb, rc, hsrc, he⟩ := scalarForms_mean p hp x
  rw [hsrc] at ht
  rw [he]
  exact run_ok (scalarWord_takes hs hg ht hd)

/-- Settles O2: the immediate forms, MOVI and LEA are words of three sources, some of them register 0. -/
theorem immediateWordsWriteTheirResult : Obligations.ImmediateWordsWriteTheirResult := by
  refine ⟨fun p hp x s u a hs hg ha hd => ?_, fun x s hs hg hd => ?_, fun x s u b i hs hg ht hd => ?_⟩
  · rw [immForms_mean p hp x]
    have hu := source_here ha hs
    exact run_ok (scalarWord_ok hs hg ha (source_zero hu) (source_zero hu) hd)
  · exact run_ok (scalarWord_ok hs hg (source_zero hs) (source_zero hs) (source_zero hs) hd)
  · obtain ⟨t, h1, h2⟩ := takeSources_two ht
    exact run_ok (scalarWord_ok hs hg (source_zero hs) h1 h2 hd)

/-! ## Divisions -/

theorem divWord_ok {g : Guard} {d a b : BitVec 6} {imm : Option W64} {f : W64 → W64 → W64} {s t u : State} {h : Here} {x y : W64}
    (hg : guardOn g s = .ok (true, s)) (ha : source true a s = .ok (x, t))
    (hb : (match imm with | some v => pure v | none => source true b : M W64) t = .ok (y, u)) (hu : u.here = some h)
    (hf : h.eng.isBusy u.now 64 = false) (hd : u.regFree d.toNat) :
    divWord g d a b imm f s = .ok ((), ((u.withReg d.toNat (f x y) 18).modHere fun en => { en with busy := (64, u.now + 18) :: en.busy }).advanced) := by
  unfold divWord
  rw [bind_ok hg, bind_ok ha]
  have hrest : ((u.withReg d.toNat (f x y) 18).modHere fun en => { en with busy := (64, u.now + 18) :: en.busy }).here.isSome = true := by
    rw [here_isSome_modHere, here_isSome_withReg, hu]; rfl
  cases imm <;>
    · simp only [if_true] at hb ⊢
      rw [bind_ok hb, here_bind hu, get_bind_run, hf, Bool.not_false, require_bind_true, bind_ok (writeReg_ok _ _ hd), modEng_bind_run]
      exact advance_eq hrest

/-- Settles O3: a division whose divider is free. -/
theorem divisionsWriteTheirResult : Obligations.DivisionsWriteTheirResult := by
  have hR (x : RWord) (f : W64 → W64 → W64) (s u : State) (g : Here) (a b : W64) (hg : guardOn x.guard s = .ok (true, s))
      (ht : takeSources [x.a, x.b] s = .ok ([a, b], u)) (hu : u.here = some g) (hf : g.eng.isBusy u.now 64 = false) (hd : u.regFree x.d.toNat) :
      run (divWord x.guard x.d x.a x.b none f) s = .next (s.commit ((u.withReg x.d.toNat (f a b) 18).modHere
        fun en => { en with busy := (64, u.now + 18) :: en.busy }).advanced) := by
    obtain ⟨t, h1, h2⟩ := takeSources_two ht
    exact run_ok (divWord_ok hg h1 h2 hu hf hd)
  have hI (x : IWord) (f : W64 → W64 → W64) (s u : State) (g : Here) (a : W64) (hg : guardOn x.guard s = .ok (true, s))
      (ha : source true x.a s = .ok (a, u)) (hu : u.here = some g) (hf : g.eng.isBusy u.now 64 = false) (hd : u.regFree x.d.toNat) :
      run (divWord x.guard x.d x.a 0 (some (immOf x.imm)) f) s = .next (s.commit ((u.withReg x.d.toNat (f a (immB x)) 18).modHere
        fun en => { en with busy := (64, u.now + 18) :: en.busy }).advanced) :=
    run_ok (divWord_ok hg ha (pure_ok _ _) hu hf hd)
  simp only [Obligations.DivisionsWriteTheirResult, divForms, List.forall_mem_cons, List.not_mem_nil, false_imp_iff, implies_true, and_true,
    ← aluDiv_eq, ← aluDivw_eq, ← aluRem_eq, ← aluRemw_eq]
  exact ⟨⟨fun x s u g a b _ => hR x aluDiv s u g a b, fun x s u g a _ => hI x aluDiv s u g a⟩,
    ⟨fun x s u g a b _ => hR x aluDivw s u g a b, fun x s u g a _ => hI x aluDivw s u g a⟩,
    ⟨fun x s u g a b _ => hR x aluRem s u g a b, fun x s u g a _ => hI x aluRem s u g a⟩,
    fun x s u g a b _ => hR x aluRemw s u g a b, fun x s u g a _ => hI x aluRemw s u g a⟩

/-! ## Compares and partial writes -/

/-- A register that can be read has no result on its way. -/
theorem regFree_of_readReg {r : Nat} {s t : State} {v : W64} (h : readReg r s = .ok (v, t)) : s.regFree r := by
  by_cases hr : r = 0
  · exact .inl hr
  obtain ⟨g, e⟩ := Option.isSome_iff_exists.mp (readReg_state h).2
  cases hb : g.eng.isBusy s.now r with
  | false => exact .inr ⟨g, e, hb⟩
  | true => rw [readReg_busy e hr hb] at h; cases h

theorem compareWord_ok {g : Guard} {d a b : BitVec 6} {c sub lat : Nat} {rel : W64 → W64 → Bool} {s u : State} {x y old : W64}
    (hg : guardOn g s = .ok (true, s)) (ht : takeSources [a, b] s = .ok ([x, y], u)) (hd : readReg d.toNat u = .ok (old, u)) :
    compareWord g d a b c sub lat rel s = .ok ((), (u.withReg d.toNat (compareBit old c sub (rel x y)) lat).advanced) := by
  obtain ⟨t, h1, h2⟩ := takeSources_two ht
  unfold compareWord
  rw [bind_ok hg, bind_ok h1, bind_ok h2]
  simp only [if_true]
  rw [bind_ok hd, bind_ok (writeReg_ok _ _ (regFree_of_readReg hd))]
  exact advance_eq (by rw [here_isSome_withReg]; exact (readReg_state hd).2)

theorem getLsbD_aluBins (d a : W64) (len p i : Nat) (hi : i < 64) :
    (aluBins len p d a).getLsbD i = if p ≤ i ∧ i < p + len then a.getLsbD (i - p) else d.getLsbD i := by
  simp only [aluBins, BitVec.getLsbD_or, BitVec.getLsbD_and, BitVec.getLsbD_not, BitVec.getLsbD_ofNat, BitVec.getLsbD_shiftLeft,
    Nat.testBit_shiftLeft, Nat.testBit_two_pow_sub_one, hi, decide_true, Bool.true_and, ge_iff_le]
  by_cases h1 : p ≤ i
  · by_cases h2 : i < p + len
    · simp [h1, h2, show i - p < len by omega, show ¬ i < p by omega]
    · simp [h1, h2, show ¬ i - p < len by omega]
  · simp [h1]

/-- Settles O4: a compare and BINS read D; MOVHI keeps its low half. -/
theorem comparesAndPartialWrites : Obligations.ComparesAndPartialWrites := by
  refine ⟨⟨?_, fun x s u a b old _ hg ht hd => ?_⟩, fun x s u a old hs hg ha hd => ?_, fun x s old hs hg hd => ?_⟩
  · have h (x : RWord) (rel : W64 → W64 → Bool) (s u : State) (a b old : W64) (hg : guardOn x.guard s = .ok (true, s))
        (ht : takeSources [x.a, x.b] s = .ok ([a, b], u)) (hd : readReg x.d.toNat u = .ok (old, u)) :
        run (compareWord x.guard x.d x.a x.b x.c.toNat x.sub.toNat 1 rel) s =
          .next (s.commit (u.withReg x.d.toNat (combined x.sub old x.c.toNat (rel a b)) 1).advanced) := by
      rw [← compareBit_eq]
      exact run_ok (compareWord_ok hg ht hd)
    simp only [compareForms, List.forall_mem_cons, List.not_mem_nil, false_imp_iff, implies_true, and_true]
    exact ⟨fun x s u a b old _ => h x _ s u a b old, fun x s u a b old _ => h x _ s u a b old, fun x s u a b old _ => h x _ s u a b old,
      fun x s u a b old _ => h x _ s u a b old, fun x s u a b old _ => h x _ s u a b old, fun x s u a b old _ => h x _ s u a b old⟩
  · rw [← compareBit_eq]
    exact run_ok (compareWord_ok hg ht hd)
  · refine ⟨aluBins (x.b.toNat + 1) x.c.toNat old a, run_ok ?_, fun i hi => getLsbD_aluBins old a _ _ i hi⟩
    rw [bind_ok hg, bind_ok ha]
    simp only [if_true]
    rw [bind_ok hd, bind_ok (writeReg_ok _ _ (regFree_of_readReg hd))]
    exact advance_eq (by rw [here_isSome_withReg]; exact source_here ha hs)
  · refine ⟨x.imm ++ old.setWidth 32, run_ok ?_, fun i hi => ?_⟩
    · rw [bind_ok hg]
      simp only [if_true]
      rw [bind_ok hd, bind_ok (writeReg_ok _ _ (regFree_of_readReg hd))]
      exact advance_eq (by rw [here_isSome_withReg]; exact hs)
    · rw [BitVec.getLsbD_append]
      by_cases h : i < 32
      · simp [h, Nat.not_le.mpr h]
      · simp [h, Nat.not_lt.mp h]

/-! ## Float words -/

theorem floatWord_ok {x : RWord} {a b c : BitVec 6} {lat : Nat} {f : Rounding → W64 → W64 → W64 → W64} {s u : State} {r : Rounding} {p q o : W64}
    (hs : s.here.isSome = true) (hg : guardOn x.guard s = .ok (true, s)) (ht : takeSources [a, b, c] s = .ok ([p, q, o], u))
    (hr : roundingS x u = .ok (r, u)) (hd : u.regFree x.d.toNat) :
    floatWord x a b c lat f s = .ok ((), (u.withReg x.d.toNat (f r p q o) lat).advanced) := by
  have hu := takeSources_here ht hs
  obtain ⟨t, t', h1, h2, h3⟩ := takeSources_three ht
  unfold floatWord
  rw [bind_ok hg, bind_ok h1, bind_ok h2, bind_ok h3]
  simp only [if_true]
  rw [bind_ok hr, bind_ok (writeReg_ok _ _ hd)]
  exact advance_eq (by rw [here_isSome_withReg]; exact hu)

/-- A row of the float words says what its word is. -/
def FloatForm.Means (p : FloatForm) : Prop :=
  ∀ x, ∃ a b c, p.srcs x = [a, b, c] ∧ ∀ s, exec (p.ins x) s = run (floatWord x a b c p.lat p.val) s

theorem floatForms_mean : ∀ p ∈ floatForms, p.Means := by
  simp only [floatForms, List.forall_mem_cons, List.not_mem_nil, false_imp_iff, implies_true, and_true]
  refine ⟨?_, ?_, ?_, ?_, ?_, ?_, ?_, ?_, ?_⟩ <;> exact fun x => ⟨_, _, _, rfl, fun s => rfl⟩

/-- Settles O6: each float word is a word of three sources and a rounding. -/
theorem scalarFloatWordsWriteTheirResult : Obligations.ScalarFloatWordsWriteTheirResult := by
  refine ⟨fun p hp x s u r a b c hs hg ht hr hd => ?_, fun x s u r a hs hg ht hr hd => run_ok (floatWord_ok hs hg ht hr hd)⟩
  obtain ⟨ra, rb, rc, hsrc, he⟩ := floatForms_mean p hp x
  rw [hsrc] at ht
  rw [he]
  exact run_ok (floatWord_ok hs hg ht hr hd)

/-! ## Guarded off -/

/-- Settles O7: guarded off, queues are popped and registers are not read. -/
theorem guardedOffScalarWordOnlyPops : Obligations.GuardedOffScalarWordOnlyPops := by
  refine ⟨fun p hp x s hs hg hr => ?_, fun p hp x s u v hs hg ha hv hr => ?_, fun p hp x s hs hg hr => ?_, ?_⟩
  · obtain ⟨b, c, hsrc, he⟩ := scalarForms_mean p hp x
    rw [hsrc] at hr
    rw [he]
    exact run_ok (scalarWord_off hs hg (source_off s (hr x.a (by simp))) (source_off s (hr b (by simp))) (source_off s (hr c (by simp))))
  · obtain ⟨b, c, hsrc, he⟩ := scalarForms_mean p hp x
    rw [hsrc] at hr
    rw [he]
    exact run_ok (scalarWord_off hs hg (by rw [source_queue ha]; exact hv) (source_off u (hr b (by simp))) (source_off u (hr c (by simp))))
  · rw [immForms_mean p hp x]
    exact run_ok (scalarWord_off hs hg (source_off s hr) (source_off s (by decide)) (source_off s (by decide)))
  · have h (x : RWord) (rel : W64 → W64 → Bool) (s : State) (hs : s.here.isSome = true) (hg : guardOn x.guard s = .ok (false, s))
        (ha : x.a.toNat < 48) (hb : x.b.toNat < 48) :
        run (compareWord x.guard x.d x.a x.b x.c.toNat x.sub.toNat 1 rel) s = .next (s.commit s.advanced) := by
      refine run_ok ?_
      unfold compareWord
      rw [bind_ok hg, bind_ok (source_off s ha), bind_ok (source_off s hb)]
      exact advance_eq hs
    simp only [compareForms, List.forall_mem_cons, List.not_mem_nil, false_imp_iff, implies_true, and_true]
    exact ⟨fun x s => h x _ s, fun x s => h x _ s, fun x s => h x _ s, fun x s => h x _ s, fun x s => h x _ s, fun x s => h x _ s⟩

end Sys2Proof.Machine
end

section
/-!
The control words of every engine, and the words of S on its flags and system registers.
-/
namespace Sys2Proof.Machine

theorem here_isSome {s : State} {h : Here} (e : s.here = some h) : s.here.isSome = true := by rw [e]; rfl

theorem countOf_here {on : Bool} {r : BitVec 6} {s u : State} {v : W64} (h : countOf on r s = .ok (v, u)) (hs : s.here.isSome = true) :
    u.here.isSome = true := by
  obtain ⟨g, t, h1, h2⟩ := bind_ok_inv h
  obtain ⟨-, rfl⟩ := here_ok_inv h1
  split at h2
  · cases h2; exact hs
  · exact source_here h2 hs

/-! ## Branches -/

theorem jumpTo_ok (t : BitVec 32) (s : State) : jumpTo t s = .ok ((), s.jumped t) := rfl

/-- The check of a target that is misaligned, beyond the text or another engine's header. -/
theorem checkTarget_bad {t : BitVec 32} {s : State} {h : Here} {len : Nat} (e : s.here = some h) (hl : textLen s = .ok (len, s))
    (hbad : t.toNat % 4 ≠ 0 ∨ len < t.toNat + 8 ∨ ∃ w, headerAt t.toNat s = .ok (w, s) ∧ bitsOf w 63 61 ≠ h.e.tag) :
    checkTarget t s = .error (.trap { cause := 3 }) := by
  unfold checkTarget
  rw [here_bind e, bind_ok hl]
  by_cases hp : t.toNat % 4 ≠ 0 ∨ len < t.toNat + 8
  · rw [if_pos hp]; rfl
  · obtain ⟨h4, h8⟩ := not_or.mp hp
    obtain ⟨w, hw, ht⟩ := (hbad.resolve_left h4).resolve_left h8
    rw [if_neg hp, bind_ok hw, if_neg (show ¬ (headerOf w).eng = h.e.tag from ht)]
    rfl

/-- Settles O8: a taken branch leaves for its checked target; a wrong target traps before anything else. -/
theorem branchesLeaveTheSection : Obligations.BranchesLeaveTheSection := by
  refine ⟨fun s h e => ⟨fun x hg hc => ⟨run_ok ?_, fun v hv ht => run_ok ?_, fun hn => run_ok ?_, fun hn => run_trap ?_⟩,
      fun x v hg hv ht => run_ok ?_, fun x hg => ⟨run_ok ?_, run_ok ?_, run_ok ?_⟩, fun x => ⟨fun hg t ht => run_ok ?_, fun hg ht => run_trap ?_,
      fun hg => run_ok ?_⟩⟩, fun s h len x e hl hg hbad => ⟨run_trap ?_, run_trap ?_, fun v hv ht => run_trap ?_⟩⟩
  case refine_1 => rw [bind_ok hg, here_bind e, if_pos rfl, bind_ok hc]; rfl
  case refine_2 => rw [bind_ok hg, here_bind e, if_pos rfl, bind_ok hv, if_pos ht, bind_ok hc]; rfl
  case refine_3 => rw [bind_ok hg, here_bind e, if_pos rfl, bind_ok hc, if_neg (Nat.not_le.mpr hn)]; rfl
  case refine_4 => rw [bind_ok hg, here_bind e, if_pos rfl, bind_ok hc, if_pos hn]; rfl
  case refine_5 => rw [bind_ok hg, here_bind e, if_pos rfl, bind_ok hv, if_neg (by simp [ht])]; exact advance_eq (here_isSome e)
  case refine_6 | refine_7 | refine_8 | refine_11 => rw [bind_ok hg, here_bind e]; exact advance_eq (here_isSome e)
  case refine_9 => rw [bind_ok hg, here_bind e, if_pos rfl, ht]; rfl
  case refine_10 => rw [bind_ok hg, here_bind e, if_pos rfl, ht]; rfl
  case refine_12 | refine_13 => rw [bind_ok hg, here_bind e, if_pos rfl, bind_error (checkTarget_bad e hl hbad)]
  case refine_14 => rw [bind_ok hg, here_bind e, if_pos rfl, bind_ok hv, if_pos ht, bind_error (checkTarget_bad e hl hbad)]

/-! ## Counts and loops -/

/-- Entering the iteration of a LOOP whose index registers have no result on their way. -/
theorem setLoop_free {l : LoopSt} {s : State} {g : Here} (e : s.here = some g) (hf : g.eng.indexFree s.now l = true) (hlag : l.lag = false) :
    setLoop l s = .ok ((), if l.d = 0 then s.modHere fun en => { en with loop := some l }
      else (s.modHere fun en => { en with loop := some l }).modRegs fun r => writeIndices r l.d l.idx) := by
  have hl : ({ l with lag := !true } : LoopSt) = l := by cases l; cases hlag; rfl
  unfold setLoop
  rw [here_bind e, get_bind_run]
  simp only [hf, modEng_bind_run, hl, Bool.true_and, bne_iff_ne, ne_eq, ite_not]
  split <;> rfl

/-- Settles O9: LSET sets its count; LOOP enters its first iteration or passes its body. -/
theorem countsAndLoops : Obligations.CountsAndLoops := by
  refine ⟨fun x s u b v hs hg hc => run_ok ?_, fun x s t h b ws e hlen hbody hg => ⟨fun g hb htot eg hfree => run_ok ?_, fun hpass v hv => run_ok ?_⟩⟩
  · have hu := countOf_here hc hs
    rw [bind_ok hg, bind_ok hc]
    cases b
    · exact advance_eq hu
    · exact advance_eq (by rw [← hu]; exact here_isSome_modHere _ _)
  · have hreq : (decide (x.d = 0) || (List.range (x.sub.toNat % 8 + 1)).all fun j => !h.eng.isBusy t.now (x.d.toNat + j)) = true := by
      obtain h0 | hall := hfree
      · simp [h0]
      · simpa using .inr fun j hj => (hall j (Nat.lt_succ_of_le hj)).1
    have hd : (x.d.toNat = 0) = (x.d = 0) := by simp [← BitVec.toNat_inj]
    have hidx (l : LoopSt) (hld : l.d = x.d.toNat) (hnd : l.nd = x.sub.toNat % 8 + 1) : g.eng.indexFree t.now l = true := by
      simp only [EngSt.indexFree, hld, hnd, hd]
      obtain h0 | hall := hfree
      · simp [h0]
      · simpa using .inr fun j hj => (hall j (Nat.lt_succ_of_le hj)).2
    rw [here_bind e]
    simp only [if_neg (Nat.not_le.mpr hlen)]
    rw [bind_ok hbody, bind_ok hg, get_bind_run, if_pos (by simp [hb, htot]), hreq, require_bind_true,
      bind_ok (setLoop_free eg (hidx _ rfl rfl) rfl), modEng_bind_run]
    simp only [hd]
    rfl
  · rw [here_bind e]
    simp only [if_neg (Nat.not_le.mpr hlen)]
    rw [bind_ok hbody, bind_ok hg, get_bind_run]
    rw [if_neg]
    · exact hv
    · obtain hb | ht := hpass
      · simp [hb]
      · simp [ht]

/-! ## Switch points and waits -/

/-- Settles O11: each word passes, and marks its engine. -/
theorem yieldHaltAndWaits : Obligations.YieldHaltAndWaits := by
  intro s h e
  have hs := here_isSome e
  refine ⟨fun x b hg => run_ok ?_, fun x hg => ⟨run_ok ?_, run_ok ?_⟩, fun x hg => ⟨run_ok ?_, run_ok ?_⟩,
    fun x u g v f hg hc eg hf => ⟨fun hgo => run_ok ?_, fun hd hlt => run_stall ?_⟩, fun x => run_ok ?_⟩
  · rw [bind_ok hg]
    exact advance_eq hs
  · rw [bind_ok hg, bind_ok (advance_eq hs)]
    rfl
  · rw [bind_ok hg]
    rfl
  · rw [bind_ok hg, bind_ok (advance_eq hs)]
    rfl
  · rw [bind_ok hg]
    exact advance_eq hs
  · have hr : ((g.ctx.eng f).dropped || reached (g.ctx.eng f).rc (g.secN + (v.setWidth 32 + x.imm) + 1)) = true := by
      simpa [reached] using hgo
    rw [bind_ok hg, bind_ok hc, here_bind eg, if_pos rfl, hf]
    simp only [hr, require_bind_true]
    exact advance_eq (countOf_here hc hs)
  · have hr : ((g.ctx.eng f).dropped || reached (g.ctx.eng f).rc (g.secN + (v.setWidth 32 + x.imm) + 1)) = false := by
      simp only [hd, reached, Bool.false_or, decide_eq_false_iff_not]
      omega
    rw [bind_ok hg, bind_ok hc, here_bind eg, if_pos rfl, hf]
    simp only [hr]
    exact bind_error (require_false _)
  · rw [bind_ok (advance_eq hs)]
    rfl

/-! ## Traps -/

theorem post_none {x : Ctx} (t : Trap) (h : x.trap = none) : x.post t = { x with trap := some t } := by simp [Ctx.post, h]

theorem eng_modEng_pc (x : Ctx) (e f : Engine) (g : EngSt → EngSt) (hg : ∀ en, (g en).pc = en.pc) : ((x.modEng e g).eng f).pc = (x.eng f).pc := by
  simp only [Ctx.eng, Ctx.modEng, List.getElem?_modify]
  cases x.engs[f.tag]? with
  | none => rfl
  | some en => by_cases h : e.tag = f.tag <;> simp [h, hg]

/-- A trap entered changes the trap record and the engine's request alone. -/
theorem raise_here {s : State} {h : Here} (r : TrapReq) (e : s.here = some h) (ha : h.asst = false) :
    s.raise r = s.modCtx h.c h.k fun x => (x.modEng h.e fun en => { en with req := .none }).post (r.toTrap h.c h.k h.e false s.now) := by
  obtain ⟨co, hseat, -, -, hc, he, -⟩ := here_some_iff.mp e
  rw [ha] at hseat
  simp only [State.raise, hseat, hc, he]
  rfl

theorem ctx?_here {s : State} {h : Here} (e : s.here = some h) : s.ctx? h.c h.k = some h.ctx := by
  obtain ⟨co, -, -, hx, hc, -, -⟩ := here_some_iff.mp e
  rw [hc]
  exact hx

/-- Settles O12: TRAP enters its record once its engine has moved on; BRK at the word; a context keeps one record. -/
theorem trapWordsEnterTheContext : Obligations.TrapWordsEnterTheContext := by
  refine ⟨⟨fun x s u g v hs hg hc eg ht => run_ok ?_, fun x s u v hs hg hc => run_ok ?_, fun x s h e => run_ok ?_, fun s h r e ha ht => ?_⟩,
    fun x t u => ⟨fun hn => by rw [post_none t hn], fun hu hne => ?_, fun hu heq hlt => ?_, fun hu heq hlt => ?_⟩⟩
  · rw [get_bind_run, bind_ok hg, bind_ok hc, here_bind eg]
    simp only [ht, Option.any_none, Bool.and_false, Bool.false_eq_true, if_false, if_true]
    rw [bind_ok (advance_eq (here_isSome eg))]
    rfl
  · obtain ⟨g, eg⟩ := Option.isSome_iff_exists.mp (countOf_here hc hs)
    rw [get_bind_run, bind_ok hg, bind_ok hc, here_bind eg]
    exact advance_eq (here_isSome eg)
  · rw [here_bind e]
    rfl
  · have hz : (h.ctx.modEng h.e fun en => { en with req := .none }).trap = none := ht
    refine ⟨(h.ctx.modEng h.e fun en => { en with req := .none }).post (r.toTrap h.c h.k h.e false s.now), ?_, by rw [post_none _ hz], ?_⟩
    · rw [raise_here r e ha, ctx?_modCtx, if_pos ⟨rfl, rfl⟩, ctx?_here e]
      rfl
    · rw [post_none _ hz, raise_here r e ha]
      exact ⟨rfl, rfl, rfl, eng_modEng_pc _ _ _ _ fun _ => rfl, fun _ => rfl, by simp [SameOutside]⟩
  · simp [Ctx.post, hu, hne]
  · have hne : u.eng ≠ t.eng := fun h => by rw [h] at hlt; omega
    simp [Ctx.post, hu, heq, hne, Nat.lt_asymm hlt]
  · have hne : u.eng ≠ t.eng := fun h => by rw [h] at hlt; omega
    simp [Ctx.post, hu, heq, hne, hlt]

/-! ## Parts of a context a word leaves alone -/

/-- A part of every context is the same. -/
def SameFor {α : Type} (p : Ctx → α) (s t : State) : Prop := ∀ c k, (t.ctx? c k).map p = (s.ctx? c k).map p

section
variable {P : State → Prop} (hH : ∀ t f, P t → P (t.modHere f)) (hR : ∀ t f, P t → P (t.modRegs f))
include hH

theorem keepsOf_modEng (g : EngSt → EngSt) : Keeps P (modEng g) := keeps_modify fun t ht => hH t g ht

include hR

theorem keepsOf_setLoop (l : LoopSt) : Keeps P (setLoop l) :=
  keeps_bind keeps_here fun _ => keeps_get_bind fun _ => keeps_bind (keepsOf_modEng hH _) fun _ =>
    keeps_ite (keeps_modify fun t ht => hR t _ ht) (keeps_pure _)

/-- What a change of the engine's place and registers keeps, the end of a word keeps. -/
theorem keepsOf_advance : Keeps P advance := by
  refine keeps_bind keeps_here fun g => keeps_bind (keepsOf_modEng hH _) fun _ => ?_
  split
  · exact keeps_pure _
  split
  · exact keepsOf_modEng hH _
  · exact keeps_ite (keepsOf_modEng hH _) (keeps_ite (keeps_bind (keepsOf_setLoop hH hR _) fun _ => keepsOf_modEng hH _)
      (keeps_bind (keepsOf_modEng hH _) fun _ => keepsOf_modEng hH _))

theorem keepsOf_writeReg (r : Nat) (v : W64) (lat : Nat) : Keeps P (writeReg r v lat) :=
  keeps_ite (keeps_pure _) (keeps_bind keeps_here fun _ => keeps_get_bind fun _ => keeps_bind (keeps_require _) fun _ =>
    keeps_bind (keeps_modify fun t ht => hR t _ ht) fun _ => keeps_ite (keeps_pure _) (keepsOf_modEng hH _))

end

/-- A part of a context that holds no engine's place and no scalar register. -/
def EngineBlind {α : Type} (p : Ctx → α) : Prop := (∀ x l, p { x with engs := l } = p x) ∧ ∀ x l, p { x with sregs := l } = p x

section
variable {α : Type} {p : Ctx → α}

theorem SameFor.refl (s : State) : SameFor p s s := fun _ _ => rfl
theorem SameFor.trans {s t u : State} (h : SameFor p s t) (k : SameFor p t u) : SameFor p s u := fun c j => (k c j).trans (h c j)

theorem sameFor_modCtx (s : State) (c k : Nat) {f : Ctx → Ctx} (hf : ∀ x, p (f x) = p x) : SameFor p s (s.modCtx c k f) := by
  intro c' k'
  rw [ctx?_modCtx]
  split
  · cases s.ctx? c' k' <;> simp [hf]
  · rfl

theorem sameFor_modCore (s : State) (c : Nat) {f : Core → Core} (hf : ∀ co, (f co).slots = co.slots) : SameFor p s (s.modCore c f) := by
  intro c' k'
  rw [ctx?_modCore]
  split
  · simp [hf, State.ctx?]
  · rfl

variable (hp : EngineBlind p)
include hp

theorem sameFor_modHere (s : State) (f : EngSt → EngSt) : SameFor p s (s.modHere f) := by
  unfold State.modHere
  split
  · exact sameFor_modCore _ _ fun _ => rfl
  · exact sameFor_modCtx _ _ _ fun x => hp.1 x _
  · exact .refl s

theorem sameFor_modRegs (s : State) (f : List W64 → List W64) : SameFor p s (s.modRegs f) := by
  unfold State.modRegs
  split
  · exact sameFor_modCore _ _ fun _ => rfl
  · exact sameFor_modCtx _ _ _ fun x => hp.2 x _
  · exact .refl s

variable {s : State}

theorem sameFor_advance : Keeps (SameFor p s) advance :=
  keepsOf_advance (fun t f ht => ht.trans (sameFor_modHere hp t f)) fun t f ht => ht.trans (sameFor_modRegs hp t f)

theorem sameFor_writeReg (r : Nat) (v : W64) (lat : Nat) : Keeps (SameFor p s) (writeReg r v lat) :=
  keepsOf_writeReg (fun t f ht => ht.trans (sameFor_modHere hp t f)) (fun t f ht => ht.trans (sameFor_modRegs hp t f)) r v lat

end

/-! ## Flags -/

/-- Every context's flags are the same. -/
abbrev SameFlags : State → State → Prop := SameFor (·.flags)

theorem flags_blind : EngineBlind (·.flags) := ⟨fun _ _ => rfl, fun _ _ => rfl⟩

theorem post_flags (x : Ctx) (t : Trap) : (x.post t).flags = x.flags := by
  unfold Ctx.post
  split
  · rfl
  · split <;> rfl

theorem undoAssist_flags (x : Ctx) (a : Assist) (n : Nat) : (x.undoAssist a n).flags = x.flags := rfl

theorem sameFlags_letGo (s : State) (c : Nat) (a : Assist) (st : CmdState) (keep : Bool) : SameFlags s (s.letGo c a st keep) := by
  unfold State.letGo
  have h1 : SameFlags s (if keep then s else s.modCtx c a.k (·.undoAssist a s.now)) := by
    split
    · exact .refl s
    · exact sameFor_modCtx _ _ _ fun x => undoAssist_flags x a s.now
  simp only
  split
  · exact h1.trans (sameFor_modCtx _ _ _ fun _ => rfl)
  · exact h1

theorem sameFlags_leaveAssist (s : State) (c : Nat) (st : CmdState) (keep : Bool) : SameFlags s (s.leaveAssist c st keep) := by
  unfold State.leaveAssist
  split
  · exact .refl s
  split
  · exact .refl s
  · refine SameFor.trans ?_ (sameFlags_letGo _ c _ st keep)
    have h := sameFor_modCore (p := fun x : Ctx => x.flags) s c (f := fun co => { co with assist := { co.assist with active := none } }) fun _ => rfl
    simp only
    split
    · exact h.trans (sameFor_modCtx _ _ _ fun _ => rfl)
    · exact h

theorem sameFlags_raise (s : State) (r : TrapReq) : SameFlags s (s.raise r) := by
  unfold State.raise
  cases s.seat with
  | none => exact .refl s
  | some p =>
    obtain ⟨k, asst⟩ := p
    cases asst
    · exact sameFor_modCtx _ _ _ fun _ => post_flags _ _
    · exact (sameFor_modCtx _ _ _ fun _ => post_flags _ _).trans (sameFlags_leaveAssist _ _ _ _)

/-- A word on a register of the engine that keeps the flags where it goes on, and else only stalls or traps, keeps them. -/
theorem sameFlags_run {m : M Unit} {s t : State} (hm : Keeps (SameFlags s) m) (h : run m s = .next t) : SameFlags s t := by
  obtain ⟨hok, herr⟩ := hm s (.refl s)
  cases hr : m s with
  | ok p =>
    rw [run_ok hr] at h
    cases h
    exact hok p.1 p.2 hr
  | error x =>
    have hx := herr x hr
    cases x with
    | stall => rw [run_stall hr] at h; cases h; exact .refl s
    | trap q => rw [run_trap hr] at h; cases h; exact sameFlags_raise s q
    | fault f => rw [run, hr] at h; cases h
    | later | walk | fetch | posted => exact hx.elim

/-- Settles O13: FLGRD reads the slot it names, and no operation it is made of changes a flag. -/
theorem flgrdReadsTheSlot : Obligations.FlgrdReadsTheSlot := by
  intro x s h e
  have hs := here_isSome e
  refine ⟨fun hg hd => run_ok ?_, fun hg => run_ok ?_, fun t c k ht => sameFlags_run (s := s) ?_ ht c k⟩
  · rw [bind_ok hg]
    simp only [if_true]
    rw [here_bind e, bind_ok (writeReg_ok _ _ hd)]
    exact advance_eq (by rw [here_isSome_withReg]; exact hs)
  · rw [bind_ok hg]
    exact advance_eq hs
  · refine keeps_bind (keeps_guardOn _) fun on => ?_
    dsimp only
    split
    · exact keeps_bind keeps_here fun _ => keeps_bind (sameFor_writeReg flags_blind _ _ _) fun _ => sameFor_advance flags_blind
    · exact sameFor_advance flags_blind

/-! ## System registers -/

/-- Settles O14: SRD, SWR, PBIND and SQPUSH. -/
theorem systemRegisterWords : Obligations.SystemRegisterWords := by
  refine ⟨fun x s h e hg => ⟨fun l hl hd => run_ok ?_, fun u v hv => ⟨fun h20 => run_ok ?_, fun h16 h19 => run_ok ?_⟩,
    fun y u g v hy hv eg => ⟨fun h8 hlt => run_ok ?_, fun hbad => run_trap ?_⟩⟩, fun x s u g v hv eg => ⟨fun hq => run_ok ?_, fun hq => ?_⟩⟩
  · rw [bind_ok hg]
    simp only [if_true]
    have hlh : launchHere s = .ok (some l, s) := by simp [launchHere, here_bind e, hl]
    rw [here_bind e, bind_ok hlh, get_bind_run]
    simp only [Option.map_some, Option.getD_some]
    rw [bind_ok (writeReg_ok _ _ hd)]
    exact advance_eq (by rw [here_isSome_withReg]; exact here_isSome e)
  · rw [bind_ok hg, bind_ok hv]
    simp only [if_true, h20]
    rw [modCtx_bind_run]
    exact advance_eq (by rw [here_isSome_modCtxHere]; exact source_here hv (here_isSome e))
  · rw [bind_ok hg, bind_ok hv]
    simp only [if_true, if_neg (show ¬ x.imm.toNat = 20 by omega)]
    rw [modCtx_bind_run]
    exact advance_eq (by rw [here_isSome_modCtxHere]; exact source_here hv (here_isSome e))
  · rw [bind_ok hy, bind_ok hv]
    simp only [if_true, if_neg (show ¬ (v.toNat % 8 ≠ 0 ∨ 4096 ≤ v.toNat) by omega)]
    rw [here_bind eg, modEng_bind_run]
    exact advance_eq (by rw [here_isSome_modHere]; exact here_isSome eg)
  · rw [bind_ok hy, bind_ok hv]
    simp only [if_true, if_pos hbad]
    rfl
  · rw [bind_ok hv, here_bind eg, get_bind_run]
    simp only [if_pos hq]
    rw [modCtx_bind_run]
    exact advance_eq (by rw [here_isSome_modCtxHere]; exact here_isSome eg)
  · have hm : ∀ (m : M Unit), m s = .error (.later x.sub.toNat) → run m s = .next (s.waitTurn x.sub.toNat) := fun m hm => by simp [run, hm]
    refine hm _ ?_
    rw [bind_ok hv, here_bind eg, get_bind_run]
    simp only [if_neg (Nat.not_lt.mpr hq)]
    rfl

end Sys2Proof.Machine
end

section
/-!
Operands, the place of the next word, the words written out, and what reset leaves.
-/
namespace Sys2Proof.Machine

/-! ## Operands -/

theorem popInbound_ok {r : Nat} {s : State} {h : Here} {v : W64} {rest : List W64} (e : s.here = some h)
    (hq : h.ctx.inqs[inqIndex h.e.tag (inboundSender r)]? = some (v :: rest)) :
    popInbound r s = .ok (v, s.modCtxHere fun x => { x with inqs := x.inqs.set (inqIndex h.e.tag (inboundSender r)) rest }) := by
  unfold popInbound
  rw [here_bind e]
  simp only [hq]
  rfl

theorem popInbound_empty {r : Nat} {s : State} {h : Here} (e : s.here = some h)
    (hq : h.ctx.inqs[inqIndex h.e.tag (inboundSender r)]? = some []) : popInbound r s = .error .stall := by
  unfold popInbound
  rw [here_bind e]
  simp only [hq]
  rfl

theorem modHere_here {s : State} {h : Here} (e : s.here = some h) (ha : h.asst = false) (f : EngSt → EngSt) :
    s.modHere f = s.modEng h.c h.k h.e f := by
  obtain ⟨co, hseat, -, -, hc, he, -⟩ := here_some_iff.mp e
  rw [ha] at hseat
  simp only [State.modHere, hseat, hc, he]

theorem modRegs_here {s : State} {h : Here} (e : s.here = some h) (ha : h.asst = false) (f : List W64 → List W64) :
    s.modRegs f = s.modCtx h.c h.k fun x => { x with sregs := x.sregs.modify (fileOf h.e) f } := by
  obtain ⟨co, hseat, -, -, hc, he, -⟩ := here_some_iff.mp e
  rw [ha] at hseat
  simp only [State.modRegs, hseat, hc, he]

/-- What the place of an engine takes does not reach a register. -/
theorem sreg_modHere (s : State) (g : EngSt → EngSt) (c k f r : Nat) : (s.modHere g).sreg c k f r = s.sreg c k f r := by
  unfold State.sreg State.modHere
  split
  · rw [ctx?_modCore]
    split <;> simp [State.ctx?, *]
  · simp only [State.modEng, ctx?_modCtx]
    split
    · cases s.ctx? c k <;> rfl
    · rfl
  · rfl

theorem sreg_modRegs {s : State} {h : Here} (e : s.here = some h) (ha : h.asst = false) (g : List W64 → List W64) (q : Nat) :
    (s.modRegs g).sreg h.c h.k (fileOf h.e) q = (h.ctx.sregs[fileOf h.e]?).bind fun l => (g l)[q]? := by
  rw [modRegs_here e ha, State.sreg, ctx?_modCtx, if_pos ⟨rfl, rfl⟩, ctx?_here e]
  simp only [Option.map_some, Option.bind_some, List.getElem?_modify, if_true]
  cases h.ctx.sregs[fileOf h.e]? <;> rfl

/-- A register that a word writes holds the value; the file's others keep theirs. -/
theorem sreg_withReg {s : State} {h : Here} (e : s.here = some h) (ha : h.asst = false) {r : Nat} (v : W64) (lat : Nat) (hr : r ≠ 0) (q : Nat) :
    (s.withReg r v lat).sreg h.c h.k (fileOf h.e) q = (h.ctx.sregs[fileOf h.e]?).bind fun l => (l.set r v)[q]? := by
  unfold State.withReg
  rw [if_neg hr]
  simp only
  split
  · exact sreg_modRegs e ha _ q
  · rw [sreg_modHere]
    exact sreg_modRegs e ha _ q

/-! ## The place of the next word -/

theorem goto_within {en : EngSt} {sc : Sect} {w : Nat} (hs : en.sect = some sc) (hw : w < sc.len) :
    (en.goto w).sect = some { sc with widx := w } := by
  simp [EngSt.goto, hs, hw]

/-- Past the last word the section is finished. -/
theorem goto_beyond {en : EngSt} {sc : Sect} {w : Nat} (hs : en.sect = some sc) (hw : sc.len ≤ w) :
    (en.goto w).sect = none ∧ (en.goto w).pc = BitVec.ofNat 32 (sc.hdr + 8 + 12 * sc.len) ∧
      ∀ o ∈ (en.goto w).secs, o.n = sc.n → o.finished = true := by
  have e : en.goto w = { ({ en with sect := some { sc with widx := w } } : EngSt).finish with ahead := 4 * sc.len } := by
    simp only [EngSt.goto, hs, if_neg (Nat.not_lt.mpr hw)]
  rw [e]
  refine ⟨rfl, rfl, fun o ho hn => ?_⟩
  obtain ⟨p, -, rfl⟩ := List.mem_map.mp ho
  by_cases hpn : p.n = sc.n
  · simp [hpn]
  · simp [hpn] at hn

theorem advanced_of_ok {s t : State} (h : advance 1 s = .ok ((), t)) : s.advanced = t := by
  simp [State.advanced, h]

/-- A change of an engine's place keeps the results that are due to its registers. -/
theorem modHere_here_busy {s : State} {h : Here} (e : s.here = some h) {f : EngSt → EngSt} (hf : ∀ en, (f en).busy = en.busy) :
    ∃ g, (s.modHere f).here = some g ∧ g.eng.busy = h.eng.busy := by
  refine ⟨_, here_modHere e f, ?_⟩
  simp only
  split
  · exact hf _
  · rfl

theorem indexFree_congr {x y : EngSt} {l m : LoopSt} (n : Nat) (hb : x.busy = y.busy) (hd : l.d = m.d) (hn : l.nd = m.nd) :
    x.indexFree n l = y.indexFree n m := by
  simp only [EngSt.indexFree, EngSt.isBusy, hb, hd, hn]

theorem setLoop_run {s : State} {g : Here} (l : LoopSt) (e : s.here = some g) :
    setLoop l s = .ok ((), if g.eng.indexFree s.now l = true ∧ l.d ≠ 0 then
      (s.modHere fun en => { en with loop := some { l with lag := !g.eng.indexFree s.now l } }).modRegs fun r => writeIndices r l.d l.idx
      else s.modHere fun en => { en with loop := some { l with lag := !g.eng.indexFree s.now l } }) := by
  unfold setLoop
  rw [here_bind e, get_bind_run]
  simp only [modEng_bind_run, Bool.and_eq_true, bne_iff_ne]
  split <;> rfl

/-- Settles O50: reading, popping and writing registers, and where the engine goes on. -/
theorem operandsAndPlace : Obligations.OperandsAndPlace := by
  intro s h e
  refine ⟨⟨readReg_zero e, fun v lat => by simp [State.withReg]⟩, fun r hr => ⟨fun hb hg => readReg_ok e hr hb hg, fun hb => readReg_busy e hr hb⟩,
    fun r on hr => ⟨fun v rest hq => ?_, fun hq => ?_⟩, fun r v lat f ha hr hlt hf hfl hlen => ?_, fun sc hsc => ?_⟩
  · rw [source, if_pos hr]
    exact popInbound_ok e hq
  · rw [source, if_pos hr]
    exact popInbound_empty e hq
  · subst hf
    obtain ⟨l, hl⟩ : ∃ l, h.ctx.sregs[fileOf h.e]? = some l := ⟨_, List.getElem?_eq_getElem hfl⟩
    have hl48 : l.length = 48 := by simpa [hl] using hlen
    refine ⟨?_, fun q hq => ?_⟩
    · rw [sreg_withReg e ha v lat hr, hl, Option.bind_some, List.getElem?_set_self (by omega)]
    · rw [sreg_withReg e ha v lat hr, State.sreg, ctx?_here e, hl, Option.bind_some, List.getElem?_set_ne (Ne.symm hq), Option.bind_some, hl,
        Option.bind_some]
  · refine ⟨fun hl => ?_, fun en hen => ⟨goto_within hen, goto_beyond hen⟩, fun l hl => ⟨fun hw => ?_, fun hw hit => ?_, fun hw hit => ?_⟩⟩
    · refine advanced_of_ok ?_
      unfold advance
      rw [here_bind e, modEng_bind_run, hsc, hl]
      rfl
    · refine advanced_of_ok ?_
      unfold advance
      rw [here_bind e, modEng_bind_run, hsc, hl]
      simp only [if_pos hw]
      rfl
    · refine advanced_of_ok ?_
      obtain ⟨g, eg, hbusy⟩ := modHere_here_busy e (f := fun en => { en with modifier := none, dv := false, child := none, chain := 0, chained := [] })
        fun _ => rfl
      have hfree : g.eng.indexFree s.now { l with iter := l.iter + 1, idx := loopIndices h.eng.cnt l.nd (l.iter + 1) } = h.eng.indexFree s.now l :=
        indexFree_congr s.now hbusy rfl rfl
      unfold advance
      rw [here_bind e, modEng_bind_run, hsc, hl]
      simp only [if_neg (Nat.not_le.mpr hw), if_pos hit]
      rw [bind_ok (setLoop_run _ eg), modHere_now, hfree]
      rfl
    · refine advanced_of_ok ?_
      unfold advance
      rw [here_bind e, modEng_bind_run, hsc, hl]
      simp only [if_neg (Nat.not_le.mpr hw), if_neg (Nat.not_lt.mpr hit)]
      rfl

/-! ## Words written out -/

/-- Settles O53: each word decodes by evaluation. -/
theorem writtenWordsDecode : Obligations.WrittenWordsDecode := by
  refine ⟨?_, ?_, ?_, ?_, ?_, ?_, ?_, ?_⟩ <;> rfl

/-! ## Reset -/

theorem reset_ctx? (c k : Nat) : State.reset.ctx? c k = none := by
  have hslot (co : Core) (h : State.reset.cores[c]? = some co) : co = Core.zero := by
    have h' : (List.replicate 1024 Core.zero)[c]? = some co := h
    rw [List.getElem?_replicate] at h'
    split at h'
    · exact (Option.some.inj h').symm
    · cases h'
  unfold State.ctx?
  cases h : State.reset.cores[c]? with
  | none => rfl
  | some co =>
    rw [Option.bind_some, hslot co h]
    match k with
    | 0 | 1 | 2 | 3 => rfl
    | k + 4 => rfl

/-- Settles O55: the reset state is read off, and a fresh context. -/
theorem resetLeaves : Obligations.ResetLeaves := by
  refine ⟨⟨rfl, rfl⟩, reset_ctx?, rfl, rfl, rfl, rfl, rfl, rfl, rfl, rfl, ?_, ?_, ?_, ?_, ?_, ?_, ?_, fun l x y => ⟨fun f hf => ?_, rfl, rfl, rfl, rfl, fun e => ?_, rfl, rfl, rfl, rfl⟩⟩
  · rfl
  · rfl
  · rfl
  · rfl
  · rfl
  · exact List.length_replicate
  · exact List.length_replicate
  · exact List.eq_of_mem_replicate hf
  · cases e <;> exact ⟨rfl, rfl, rfl⟩

end Sys2Proof.Machine
end

section
/-!
A step on a decoded word: the watchdog looks at the count an engine has after its turn, so its count before the turn does not say
whether it is due.
-/
namespace Sys2Proof.Machine

/-- A change of a core that keeps its slots keeps every context. -/
theorem ctx?_modCore_slots (s : State) {c c' k : Nat} {f : Core → Core} (hf : ∀ co, (f co).slots = co.slots) :
    (s.modCore c f).ctx? c' k = s.ctx? c' k := by
  rw [ctx?_modCore]
  split
  · simp [hf, State.ctx?]
  · rfl

/-- A launch whose watchdog is the longest of those a record of zeros gives. -/
def idleLaunch : Launch :=
  { lid := 0, record := 0, pblock := [], smap := [], phase := .placed 0 0 0, since := 0, eligible := 0, target := none, pre := none, preAt := 0,
    hold := false, ending := none, child := none, image := none, imageSize := 0, saved := false, toCreate := [], createAt := 0,
    flexStage := [], squeues := [], answers := [], ranges := [], preempts := 0, refused := 0, startCyc := 0, endCyc := 0, spillD := 0,
    entD := 0, lostC := false, tok6 := false, ltrap := 0, ringSlot := none, ringDue := 0, kept := [] }

/-- A context of it whose S has stalled for `n` cycles. -/
def stalledCtx (n : Nat) : Ctx := (freshCtx idleLaunch 0 0).modEng .S fun en => { en with wdc := BitVec.ofNat 49 n }

/-- A state with one core, on which S of such a context issues. -/
def stalledState (s : State) (n : Nat) : State :=
  { s with
    curCore := 0, curEng := .S,
    cores := [{ Core.zero with slots := [some (stalledCtx n)], cur := [some 0, none, none, none, none] }],
    place := { s.place with launches := [idleLaunch] } }

theorem idleLaunch_watchdog : idleLaunch.watchdog = 2 ^ 26 := by
  simp [Launch.watchdog, idleLaunch, bitsOf]

section
variable (s : State) (n : Nat)

theorem stalledState_launch? : (stalledState s n).launch? 0 = some idleLaunch := by
  simp [State.launch?, stalledState, idleLaunch]

theorem stalledState_seat : (stalledState s n).seat = some (0, false) := by
  simp [State.seat, stalledState, Core.zero, AssistSt.zero, Engine.tag]

theorem stalledState_ctx? : (stalledState s n).ctx? 0 0 = some (stalledCtx n) := by
  simp [State.ctx?, stalledState]

theorem stalledCtx_trap : (stalledCtx n).trap = none := by
  simp [stalledCtx, Ctx.modEng, freshCtx]

theorem stalledCtx_lid : (stalledCtx n).lid = 0 := by
  simp [stalledCtx, Ctx.modEng, freshCtx, idleLaunch]

theorem stalledCtx_eng : (stalledCtx n).eng .S = { EngSt.zero with wdc := BitVec.ofNat 49 n } := by
  simp [stalledCtx, Ctx.eng, Ctx.modEng, freshCtx, Engine.tag]

end

theorem watchdogDue_stalled (s : State) (m n : Nat) (hn : n < 2 ^ 49) :
    (stalledState s m).watchdogDue (stalledCtx m) ((stalledCtx n).eng .S) = decide (2 ^ 26 ≤ n) := by
  rw [State.watchdogDue, stalledCtx_lid, stalledState_launch?]
  simp only [idleLaunch_watchdog, stalledCtx_eng, BitVec.toNat_ofNat, Nat.mod_eq_of_lt hn]

/-- A turn that brings the count to the watchdog's bound traps. -/
theorem afterTurn_stalled (s : State) :
    afterTurn true 0 .S (stalledState s 0) (stalledState s (2 ^ 26)) = (stalledState s 0).raise { cause := 12 } := by
  have hdue := watchdogDue_stalled s 0 (2 ^ 26) (by decide)
  simp only [afterTurn, stalledState_seat, stalledState_ctx?, stalledCtx_trap, hdue]
  simp

theorem raise_stalled_trap (s : State) : (((stalledState s 0).raise { cause := 12 }).ctx? 0 0).map (·.trap.isSome) = some true := by
  simp only [State.raise, stalledState_seat]
  have hc : (stalledState s 0).curCore = 0 := rfl
  simp [hc, ctx?_modCtx, stalledState_ctx?, Ctx.post, Ctx.modEng, stalledCtx_trap]

/-- Refutes O54: the count is not due before the turn and is due after it, so the turn ends in the watchdog's trap and not in the
stall mark alone. -/
theorem not_aStepRunsTheDecodedWord : ¬ Obligations.AStepRunsTheDecodedWord := by
  intro h
  obtain ⟨-, -, -, -, -, hafter, -⟩ := h State.reset rfl
  have e := hafter 0 .S (stalledState .reset (2 ^ 26)) (stalledState .reset 0) 0 (stalledCtx 0) (stalledCtx (2 ^ 26)) (stalledState_seat _ _)
    (stalledState_ctx? _ _) (stalledState_ctx? _ _) (watchdogDue_stalled _ 0 0 (by decide)) (by rw [stalledCtx_eng]; rfl)
  rw [afterTurn_stalled] at e
  have htrap := raise_stalled_trap .reset
  rw [e] at htrap
  rw [ctx?_modCore_slots, stalledState_ctx?, Option.map_some, stalledCtx_trap] at htrap
  · cases htrap
  · exact fun _ => rfl

end Sys2Proof.Machine
end

section
/-!
The words that reach memory: what a request issues, loads, stores, atomics, parameter loads and fences.
-/
namespace Sys2Proof.Machine

/-- A request that can be issued at once is, and its word is done. -/
theorem memIssue_ok {u s0 : State} {h : Here} {r : MemReq} {fin : List W64 → M Unit} {ps : List (Nat × Nat × AccHome × Nat)}
    (hi : u.issues h r ps) (hw : r.wait = false) : memIssue h s0 r fin u = .ok ((), u.issued h r ps) := by
  obtain ⟨e, hasst, hreq, hrace, hfind, hbad, hwr, hrd⟩ := hi
  have hprec : (r.wait || h.asst || r.mods.race == 1 || (u.badLine (dieOf h.c) r.kind ps).isSome) = false := by
    simp [hw, hasst, hrace, hbad]
  have h1 : (!r.kind.reads || decide (u.outstanding (.engine h.c h.k h.e) < 16)) = true := by
    cases hk : r.kind.reads
    · rfl
    · simpa [Here.waiter] using (hrd hk).1
  have h2 : (!r.kind.writes || u.leadRoom (dieOf h.c) (u.writesAhead (dieOf h.c) + 1)) = true := by
    cases hk : r.kind.writes
    · rfl
    · simpa using hwr hk
  have h3 : (!r.kind.reads || r.dest == 0 || !h.eng.isBusy u.now r.dest) = true := by
    cases hk : r.kind.reads
    · rfl
    · simpa using (hrd hk).2
  unfold memIssue
  simp only [hreq]
  rw [get_bind_run, hfind]
  simp only [h1, h2, require_bind_true, hprec, Bool.false_eq_true, if_false, h3]
  rw [modify_bind_run]
  unfold State.issued
  simp only
  split
  · rw [modEng_bind_run]
    exact advance_eq (by rw [here_isSome_modHere]; exact here_isSome e)
  · exact advance_eq (here_isSome e)

/-- A loaded number extended as its word says. -/
theorem loadValue_signed (v : Nat) {n : Nat} (hn : n ≤ 8) : (loadValue v n true).toInt = (BitVec.ofNat (8 * n) v).toInt := by
  have h : loadValue v n true = (BitVec.ofNat (8 * n) v).signExtend 64 := rfl
  rw [h, BitVec.toInt_signExtend_of_le (by omega)]

theorem atomicWord_ok {op : Nat} {x : MWord} {s u : State} {h : Here} {b v e : W64} {m : Mods} (hg : guardOn x.guard s = .ok (true, s))
    (ht : takeSources [x.base, x.index] s = .ok ([b, v], u)) (he : readReg x.data.toNat u = .ok (e, u)) (hm : modsHere 2 u = .ok (m, u))
    (eh : u.here = some h) :
    atomicWord op x s = (if (b + immOf x.disp).toNat % mSize x ≠ 0 then raise { cause := 5, va := b + immOf x.disp }
      else memIssue h s (atomicReq h op x b v e m) (finishLoad x.data.toNat (mSize x) false)) u := by
  obtain ⟨t, h1, h2⟩ := takeSources_two ht
  unfold atomicWord
  rw [get_bind_run, bind_ok hg, bind_ok h1, bind_ok h2]
  simp only [if_true]
  rw [bind_ok he, here_bind eh, bind_ok hm]
  rfl

/-- Settles O15: LD, ST and the atomics reach their request, which is issued or has its answer. -/
theorem memoryWordsIssueAccesses : Obligations.MemoryWordsIssueAccesses := by
  refine ⟨⟨fun x s u h b i m ps hg ht hm hi => run_ok ?_, fun x s u h v b i m ps hg ht hm hi => run_ok ?_, ?_⟩,
    fun x s u t h b i m d hg ht hm eh hreq htu hd => run_ok ?_, fun v n hn _ => ⟨rfl, loadValue_signed v hn⟩⟩
  · obtain ⟨t, h1, h2⟩ := takeSources_two ht
    rw [get_bind_run, bind_ok hg, bind_ok h1, bind_ok h2]
    simp only [if_true]
    rw [here_bind hi.1, bind_ok hm]
    exact memIssue_ok hi rfl
  · obtain ⟨t, t', h1, h2, h3⟩ := takeSources_three ht
    rw [get_bind_run, bind_ok hg, bind_ok h1, bind_ok h2, bind_ok h3]
    simp only [if_true]
    rw [here_bind hi.1, bind_ok hm]
    exact memIssue_ok hi rfl
  · have key (op : Nat) (x : MWord) (s u : State) (h : Here) (b v e : W64) (m : Mods) (hg : guardOn x.guard s = .ok (true, s))
        (ht : takeSources [x.base, x.index] s = .ok ([b, v], u)) (he : readReg x.data.toNat u = .ok (e, u)) (hm : modsHere 2 u = .ok (m, u))
        (eh : u.here = some h) :
        ((b + immOf x.disp).toNat % mSize x ≠ 0 → run (atomicWord op x) s = .next (s.raise { cause := 5, va := b + immOf x.disp })) ∧
        ∀ ps, (b + immOf x.disp).toNat % mSize x = 0 → u.issues h (atomicReq h op x b v e m) ps →
          run (atomicWord op x) s = .next (s.commit (u.issued h (atomicReq h op x b v e m) ps)) := by
      have hw := atomicWord_ok (op := op) hg ht he hm eh
      refine ⟨fun hmis => run_trap ?_, fun ps hal hi => run_ok ?_⟩
      · rw [hw, if_pos hmis]
        rfl
      · rw [hw, if_neg (not_not.mpr hal)]
        exact memIssue_ok hi rfl
    simp only [atomicForms, List.forall_mem_cons, List.not_mem_nil, false_imp_iff, implies_true, and_true]
    exact ⟨key 0, key 1, key 2, key 3, key 4, key 5, key 6, key 7⟩
  · obtain ⟨t', h1, h2⟩ := takeSources_two ht
    subst htu
    rw [get_bind_run, bind_ok hg, bind_ok h1, bind_ok h2]
    simp only [if_true]
    rw [here_bind eh, bind_ok hm]
    simp only [memIssue, hreq]
    rw [modEng_bind_run]
    unfold finishLoad
    rw [bind_ok (writeReg_ok _ _ hd)]
    exact advance_eq (by rw [here_isSome_withReg, here_isSome_modHere]; exact here_isSome eh)

/-! ## Fences -/

theorem here_isSome_bumpInterval (s : State) (n : Nat) : (s.bumpInterval n).here.isSome = s.here.isSome := by
  unfold State.bumpInterval
  simp only
  split
  · rfl
  · exact here_isSome_modCtx _ _ _ _

theorem here_isSome_foldl_bumpInterval (l : List Nat) (s : State) : (l.foldl State.bumpInterval s).here.isSome = s.here.isSome := by
  induction l generalizing s with
  | nil => rfl
  | cons n l ih => exact (ih _).trans (here_isSome_bumpInterval s n)

/-- A FENCE that is not waiting for its turn, from the mark it stands at. -/
theorem execFence_from {x : IWord} {s : State} {h : Here} {m : Mods} {cyc mark : Nat} (e : s.here = some h)
    (hg : guardOn x.guard s = .ok (true, s)) (hm : modsHere 2 s = .ok (m, s))
    (hmark : h.eng.fence = some (cyc, mark) ∨ h.eng.fence = none ∧ s.fenceBehind h.c = none ∧ cyc = s.now ∧ mark = s.nextId) :
    exec (.fence x) s = run (if s.fenceDone h m cyc mark then do
        if releases m.order then modify fun s => (fenceAgents h).foldl State.bumpInterval s else pure ()
        modEng fun en => { en with fence := none }
        advance
      else modEng fun en => { en with fence := some (cyc, mark) }) s := by
  dsimp only [exec]
  unfold execFence run
  rw [bind_ok hg]
  simp only [if_true]
  rw [bind_ok hm, here_bind e, get_bind_run]
  obtain hf | ⟨hf, hb, rfl, rfl⟩ := hmark
  · simp only [hf, pure_bind]
  · simp only [hf, hb, pure_bind]

/-- Settles O16: PLD and PREF take their operands; a FENCE gives way, waits or is done. -/
theorem parameterLoadsPrefetchesAndFences : Obligations.ParameterLoadsPrefetchesAndFences := by
  refine ⟨⟨fun x s u h l b i hg ht eh hl => ?_, fun x s u b i hs hg ht => run_ok ?_⟩,
    fun x s h m e hg hm => ⟨fun tag hf hb => ?_, fun cyc mark hmark => ⟨fun hdone => ?_, fun htw hrel => ?_, fun htw hrel hp hc h4 => ?_⟩⟩⟩
  · obtain ⟨t, h1, h2⟩ := takeSources_two ht
    have hlh : launchHere u = .ok (some l, u) := by simp [launchHere, here_bind eh, hl]
    refine ⟨fun hal hd => run_ok ?_, fun hmis => run_trap ?_⟩
    · rw [bind_ok hg, bind_ok h1, bind_ok h2]
      simp only [if_true]
      rw [bind_ok hlh]
      simp only [if_neg (not_not.mpr (show (effAddr b i x).toNat % mSize x = 0 from hal))]
      rw [bind_ok (writeReg_ok _ _ hd)]
      exact advance_eq (by rw [here_isSome_withReg]; exact here_isSome eh)
    · rw [bind_ok hg, bind_ok h1, bind_ok h2]
      simp only [if_true]
      rw [bind_ok hlh]
      simp only [if_pos (show (effAddr b i x).toNat % mSize x ≠ 0 from hmis)]
      rfl
  · obtain ⟨t, h1, h2⟩ := takeSources_two ht
    rw [bind_ok hg, bind_ok h1, bind_ok h2]
    exact advance_eq (takeSources_here ht hs)
  · have hlater (n : M Unit) (hn : n s = .error (.later tag)) : run n s = .next (s.waitTurn tag) := by simp [run, hn]
    refine hlater _ ?_
    rw [bind_ok hg]
    simp only [if_true]
    rw [bind_ok hm, here_bind e, get_bind_run]
    simp only [hf, hb]
    rfl
  · rw [execFence_from e hg hm hmark, hdone]
    rfl
  · have hdone : s.fenceDone h m cyc mark = true := by simp [State.fenceDone, htw, hrel]
    rw [execFence_from e hg hm hmark, hdone, hrel]
    refine run_ok ?_
    simp only [if_true, Bool.false_eq_true, if_false]
    exact advance_eq (by rw [here_isSome_modHere]; exact here_isSome e)
  · have hdone : s.fenceDone h m cyc mark = true := by
      simp only [State.fenceDone, htw, hrel, hp, hc, Bool.true_and, Bool.not_true, Bool.false_or, Bool.or_eq_true, Bool.not_eq_true',
        Bool.and_eq_false_iff, decide_eq_false_iff_not]
      by_cases h5 : m.order = 4 ∧ 3 ≤ m.scope
      · exact .inr (h4 h5.1 h5.2)
      · exact .inl (by omega)
    rw [execFence_from e hg hm hmark, hdone, hrel]
    refine run_ok ?_
    simp only [if_true]
    rw [modify_bind_run, modEng_bind_run]
    refine advance_eq ?_
    rw [here_isSome_modHere, here_isSome_foldl_bumpInterval]
    exact here_isSome e

end Sys2Proof.Machine
end

section
/-!
The words on the tables of tiles and records.
-/
namespace Sys2Proof.Machine

theorem run_later {m : M Unit} {s : State} {tag : Nat} (h : m s = .error (.later tag)) : run m s = .next (s.waitTurn tag) := by simp [run, h]

theorem run_congr {m n : M Unit} {s : State} (h : m s = n s) : run m s = run n s := by simp [run, h]

/-- TDEF goes on to its object at a handle that is free. -/
theorem execTdef_read {x : TWord} {s : State} {h : Here} {va : W64} (e : s.here = some h) (hg : guardOn x.guard s = .ok (true, s))
    (hv : readReg x.preg.toNat s = .ok (va, s)) (ht : h.ctx.tiles.any (·.1 == x.td.toNat) = false) :
    exec (.tdef x) s = run (readObject h s va (defineTile h x.td.toNat (bitsOf x.cmd 5 0))) s := by
  refine run_congr ?_
  rw [get_bind_run, bind_ok hg]
  simp only [if_true]
  rw [bind_ok hv, here_bind e]
  simp only [ht, Bool.false_eq_true, if_false]

/-- CDEF goes on to its object at a slot that is free. -/
theorem execCdef_read {x : TWord} {s : State} {h : Here} {va : W64} (e : s.here = some h) (hg : guardOn x.guard s = .ok (true, s))
    (hv : readReg x.preg.toNat s = .ok (va, s)) (ht : h.ctx.recs.any (·.1 == bitsOf x.cmd 11 6) = false) :
    exec (.cdef x) s = run (readObject h s va (defineRecord h (bitsOf x.cmd 11 6) (bitsOf x.cmd 5 0))) s := by
  refine run_congr ?_
  rw [get_bind_run, bind_ok hg]
  simp only [if_true]
  rw [bind_ok hv, here_bind e]
  simp only [ht, Bool.false_eq_true, if_false]

section
variable {h : Here} {t : State} {o : Obj} {st : Nat}

theorem defineTile_invalid (n : Nat) (ho : tileValid o = false) : defineTile h n st o t = .error (.trap { cause := 5 }) := by
  simp [defineTile, ho]

theorem defineTile_full (n : Nat) (ht : t.here.isSome = true) (ho : tileValid o = true) (hf : t.regFree st)
    (hl : 256 ≤ (((t.cores[h.c]?).map Core.liveTiles).getD []).length) :
    defineTile h n st o t = .ok ((), (t.withReg st 1 1).advanced) := by
  unfold defineTile
  simp only [ho, Bool.not_true, Bool.false_eq_true, if_false]
  rw [get_bind_run, if_pos hl]
  exact tableStatus_ok hf ht

theorem defineTile_noRoom (n : Nat) (ht : t.here.isSome = true) (ho : tileValid o = true) (hf : t.regFree st)
    (hl : (((t.cores[h.c]?).map Core.liveTiles).getD []).length < 256) (hr : t.tileRoom h.c o = none) :
    defineTile h n st o t = .ok ((), (t.withReg st 2 1).advanced) := by
  unfold defineTile
  simp only [ho, Bool.not_true, Bool.false_eq_true, if_false]
  rw [get_bind_run, if_neg (Nat.not_le.mpr hl), hr]
  exact tableStatus_ok hf ht

theorem defineTile_placed {n first count : Nat} (ht : t.here.isSome = true) (ho : tileValid o = true)
    (hl : (((t.cores[h.c]?).map Core.liveTiles).getD []).length < 256) (hr : t.tileRoom h.c o = some (first, count))
    (hf : (t.placeTile h.c h.k n o first count (t.now + 1)).regFree st) :
    defineTile h n st o t = .ok ((), ((t.placeTile h.c h.k n o first count (t.now + 1)).withReg st 0 1).advanced) := by
  unfold defineTile
  simp only [ho, Bool.not_true, Bool.false_eq_true, if_false]
  rw [get_bind_run, if_neg (Nat.not_le.mpr hl), hr]
  exact tableStatus_ok hf (by rw [here_isSome_placeTile]; exact ht)

theorem defineRecord_invalid (n : Nat) (ho : recordValid o = false) : defineRecord h n st o t = .error (.trap { cause := 5 }) := by
  simp [defineRecord, ho]

theorem defineRecord_full (n : Nat) (ht : t.here.isSome = true) (ho : recordValid o = true) (hf : t.regFree st)
    (hl : 64 ≤ (((t.cores[h.c]?).map (·.slots)).getD []).foldl (fun n y => n + ((y.map (·.recs)).getD []).length) 0) :
    defineRecord h n st o t = .ok ((), (t.withReg st 1 1).advanced) := by
  unfold defineRecord
  simp only [ho, Bool.not_true, Bool.false_eq_true, if_false]
  rw [get_bind_run, if_pos hl]
  exact tableStatus_ok hf ht

theorem defineRecord_placed {n : Nat} (ht : t.here.isSome = true) (ho : recordValid o = true)
    (hl : (((t.cores[h.c]?).map (·.slots)).getD []).foldl (fun n y => n + ((y.map (·.recs)).getD []).length) 0 < 64)
    (hf : ((t.cleanTable (recordKey h.c h.k n)).modCtxHere fun y => { y with recs := y.recs ++ [(n, o, t.now + 1)] }).regFree st) :
    defineRecord h n st o t = .ok ((), (((t.cleanTable (recordKey h.c h.k n)).modCtxHere
      fun y => { y with recs := y.recs ++ [(n, o, t.now + 1)] }).withReg st 0 1).advanced) := by
  unfold defineRecord
  simp only [ho, Bool.not_true, Bool.false_eq_true, if_false]
  rw [get_bind_run, if_neg (Nat.not_le.mpr hl), modify_bind_run, modCtx_bind_run]
  exact tableStatus_ok hf (by rw [here_isSome_modCtxHere]; exact ht)

end

theorem bitsOf_zero {n : Nat} (hi lo : Nat) : bitsOf (0 : BitVec n) hi lo = 0 := by simp [bitsOf]

/-- Settles O17: each table word reaches its table, behind the core's other engines where it frees. -/
theorem tableWordsComplete : Obligations.TableWordsComplete := by
  intro x s h e
  have hs := here_isSome e
  refine ⟨fun hg => ?_, fun hg => ⟨fun va hv => ⟨fun hl => run_trap ?_, fun hl => run_trap ?_, fun hl => ?_, fun hl => ?_⟩,
    fun hn => run_trap ?_, fun q hq => ⟨fun hlt => run_trap ?_, fun hle => ⟨fun tag hlt hc => run_later ?_, fun hlt => ⟨fun hu => run_ok ?_, fun hu => run_ok ?_⟩⟩⟩,
    fun hd hb => ⟨fun q hq => run_ok ?_, fun hq => run_ok ?_⟩, fun hn => run_trap ?_, fun hq => ⟨fun tag hlt hc => run_later ?_, fun hlt => run_ok ?_⟩⟩⟩
  · simp only [List.forall_mem_cons, List.not_mem_nil, false_imp_iff, implies_true, and_true]
    refine ⟨run_ok ?_, run_ok ?_, run_ok ?_, run_ok ?_, run_ok ?_⟩
    · rw [get_bind_run, bind_ok hg]; exact advance_eq hs
    · rw [bind_ok hg, here_bind e, get_bind_run]; exact advance_eq hs
    · rw [bind_ok hg, here_bind e, get_bind_run]; exact advance_eq hs
    · rw [get_bind_run, bind_ok hg]; exact advance_eq hs
    · rw [bind_ok hg, here_bind e]; exact advance_eq hs
  · rw [get_bind_run, bind_ok hg]
    simp only [if_true]
    rw [bind_ok hv, here_bind e, if_pos hl, raise_error]
  · rw [get_bind_run, bind_ok hg]
    simp only [if_true]
    rw [bind_ok hv, here_bind e, if_pos hl, raise_error]
  · rw [execTdef_read e hg hv hl]
    refine ⟨fun h32 => run_trap (readObject_mis h32), fun n h32 hr => run_stall (readObject_wait e n h32 hr),
      fun m ps h32 hr hm hp => run_ok (readObject_issue h32 hr hm hp), fun d t h32 hr ht => ?_⟩
    have hts : t.here.isSome = true := by rw [ht, here_isSome_modHere]; exact hs
    have hread := readObject_answer (fin := defineTile h x.td.toNat (bitsOf x.cmd 5 0)) e h32 hr
    rw [← ht] at hread
    refine ⟨fun ho => run_trap ?_, fun ho hf => ⟨fun hl => run_ok ?_, fun hl hr => run_ok ?_, fun first count u hl hr hu hf => run_ok ?_⟩⟩
    · exact hread.trans (defineTile_invalid _ ho)
    · exact hread.trans (defineTile_full _ hts ho hf hl)
    · exact hread.trans (defineTile_noRoom _ hts ho hf hl hr)
    · subst hu
      exact hread.trans (defineTile_placed hts ho hl hr hf)
  · rw [execCdef_read e hg hv hl]
    refine ⟨fun h32 => run_trap (readObject_mis h32), fun n h32 hr => run_stall (readObject_wait e n h32 hr),
      fun m ps h32 hr hm hp => run_ok (readObject_issue h32 hr hm hp), fun d t h32 hr ht => ?_⟩
    have hts : t.here.isSome = true := by rw [ht, here_isSome_modHere]; exact hs
    have hread := readObject_answer (fin := defineRecord h (bitsOf x.cmd 11 6) (bitsOf x.cmd 5 0)) e h32 hr
    rw [← ht] at hread
    refine ⟨fun ho => run_trap ?_, fun ho hf => ⟨fun hl => run_ok ?_, fun u hl hu hf => run_ok ?_⟩⟩
    · exact hread.trans (defineRecord_invalid _ ho)
    · exact hread.trans (defineRecord_full _ hts ho hf hl)
    · subst hu
      exact hread.trans (defineRecord_placed hts ho hl hf)
  · rw [bind_ok hg, here_bind e, get_bind_run]
    simp only [if_true, hn]
    rfl
  · rw [bind_ok hg, here_bind e, get_bind_run]
    simp only [if_true, hq, if_pos hlt]
    rfl
  · rw [bind_ok hg, here_bind e, get_bind_run]
    simp only [if_true, hq, if_neg (Nat.not_lt.mpr hle)]
    exact bind_error (afterOthers_later e hlt hc)
  · rw [bind_ok hg, here_bind e, get_bind_run]
    simp only [if_true, hq, if_neg (Nat.not_lt.mpr hle)]
    rw [bind_ok (afterOthers_ok e hlt)]
    simp only [hu, Bool.false_eq_true, if_false]
    rw [modCtx_bind_run]
    exact advance_eq (by rw [here_isSome_modCtxHere]; exact hs)
  · rw [bind_ok hg, here_bind e, get_bind_run]
    simp only [if_true, hq, if_neg (Nat.not_lt.mpr hle)]
    rw [bind_ok (afterOthers_ok e hlt)]
    simp only [hu, if_true]
    rfl
  · rw [bind_ok hg, here_bind e, get_bind_run]
    simp only [if_true]
    rw [bind_ok (tableOk_ok hb)]
    generalize hy : h.ctx.tiles.find? _ = y
    obtain rfl : y = some q := hy.symm.trans hq
    rw [bind_ok (writeReg_ok _ _ hd)]
    exact advance_eq (by rw [here_isSome_withReg]; exact hs)
  · rw [bind_ok hg, here_bind e, get_bind_run]
    simp only [if_true]
    rw [bind_ok (tableOk_ok hb)]
    generalize hy : h.ctx.tiles.find? _ = y
    obtain rfl : y = none := hy.symm.trans hq
    simp only [bitsOf_zero]
    rw [bind_ok (writeReg_ok _ _ hd)]
    exact advance_eq (by rw [here_isSome_withReg]; exact hs)
  · rw [bind_ok hg, here_bind e]
    simp only [if_true, hn]
    rfl
  · rw [bind_ok hg, here_bind e]
    simp only [if_true, hq]
    exact bind_error (afterOthers_later e hlt hc)
  · rw [bind_ok hg, here_bind e]
    simp only [if_true, hq]
    rw [bind_ok (afterOthers_ok e hlt), modCtx_bind_run]
    exact advance_eq (by rw [here_isSome_modCtxHere]; exact hs)

end Sys2Proof.Machine
end

section
/-!
S's words on launches, stage queues, ranges and the subnormal assist.
-/
namespace Sys2Proof.Machine

/-- A register takes a value, and the word is done. -/
theorem writeAdvance_ok {s : State} {r lat : Nat} (v : W64) (hs : s.here.isSome = true) (hd : s.regFree r) :
    (writeReg r v lat >>= fun _ => advance) s = .ok ((), (s.withReg r v lat).advanced) := by
  rw [bind_ok (writeReg_ok _ _ hd)]
  exact advance_eq (by rw [here_isSome_withReg]; exact hs)

theorem launchHere_ok {s : State} {h : Here} (e : s.here = some h) : launchHere s = .ok (s.launch? h.ctx.lid, s) := by
  simp [launchHere, here_bind e]

/-! ## Launches -/

theorem releasePackage_ok {u : State} {h : Here} (hp : u.allPerformed h.agent u.nextId = true)
    (hc : u.causedApplied (dieOf h.c) (List.range 8) = true) : releasePackage h u = .ok ((), u) := by
  unfold releasePackage
  rw [get_bind_run]
  have hp' : u.allPerformed { code := agentCode h.e.tag h.k 0 h.c, lid := h.ctx.lid } u.nextId = true := hp
  simp only [hp', hc, require_bind_true, require_true]

section
variable {x : RWord} {s u : State} {h : Here} {v : W64}

theorem lwaitWord_malformed (test : Bool) (hg : guardOn x.guard s = .ok (true, s)) (hv : source true x.a s = .ok (v, u)) (e : u.here = some h)
    (hd : u.regFree x.d.toNat) (h16 : v.toNat % 16 ≠ 0) : lwaitWord x test s = .ok ((), (u.withReg x.d.toNat 3 1).advanced) := by
  unfold lwaitWord
  rw [get_bind_run, bind_ok hg, bind_ok hv]
  simp only [if_true]
  rw [here_bind e, get_bind_run, if_pos h16]
  exact writeAdvance_ok _ (here_isSome e) hd

theorem lwaitWord_foreign (test : Bool) (hg : guardOn x.guard s = .ok (true, s)) (hv : source true x.a s = .ok (v, u)) (e : u.here = some h)
    (h16 : v.toNat % 16 = 0) (ha : v.toNat / 2 ^ 52 ≠ asidOf h.ctx.lid) : lwaitWord x test s = .error (.trap { cause := 10 }) := by
  unfold lwaitWord
  rw [get_bind_run, bind_ok hg, bind_ok hv]
  simp only [if_true]
  rw [here_bind e, get_bind_run, if_neg (not_not.mpr h16), if_pos ha]
  rfl

theorem lwaitWord_state {test : Bool} {st : Nat} (hg : guardOn x.guard s = .ok (true, s)) (hv : source true x.a s = .ok (v, u)) (e : u.here = some h)
    (hd : u.regFree x.d.toNat) (h16 : v.toNat % 16 = 0) (ha : v.toNat / 2 ^ 52 = asidOf h.ctx.lid)
    (hst : u.launchState (asidOf h.ctx.lid) (v.toNat / 2 ^ 28 % 2 ^ 24) = st) (ht : test = true ∨ st = 2) :
    lwaitWord x test s = .ok ((), (u.withReg x.d.toNat (BitVec.ofNat 64 st) 1).advanced) := by
  unfold lwaitWord
  rw [get_bind_run, bind_ok hg, bind_ok hv]
  simp only [if_true]
  rw [here_bind e, get_bind_run, if_neg (not_not.mpr h16), if_neg (not_not.mpr ha)]
  simp only [hst, if_pos ht]
  exact writeAdvance_ok _ (here_isSome e) hd

end

/-- Settles O18: LAUNCH ends with what the checks make of its record, LWAIT with what the ticket's launch is at. -/
theorem launchWordsComplete : Obligations.LaunchWordsComplete := by
  intro x s u h v hg hv e
  refine ⟨fun l hl hch hp hc => ?_, fun hd h16 => ⟨run_ok (lwaitWord_malformed _ hg hv e hd h16), run_ok (lwaitWord_malformed _ hg hv e hd h16)⟩,
    fun h16 ha => ⟨run_trap (lwaitWord_foreign _ hg hv e h16 ha), run_trap (lwaitWord_foreign _ hg hv e h16 ha)⟩,
    fun hd h16 ha => ⟨run_ok (lwaitWord_state hg hv e hd h16 ha rfl (.inl rfl)), fun h2 => run_ok (lwaitWord_state hg hv e hd h16 ha h2 (.inr rfl))⟩⟩
  refine ⟨fun t st asid hck ht hd => run_ok ?_, fun t r pb sm hck hlv t' lid hacc ht hd => run_ok ?_⟩
  · rw [get_bind_run, bind_ok hg, bind_ok hv]
    simp only [if_true]
    rw [here_bind e, bind_ok (launchHere_ok e), hl]
    refine (bind_ok (t := u) (a := ()) ?_).trans ?_
    · cases hq : l.child with
      | none => rfl
      | some q =>
        have hne : (q.idx != h.ctx.relx + h.ctx.rely * l.spanW) = true := by simpa using hch q hq
        simp only [hne, require_true]
    rw [bind_ok (releasePackage_ok hp hc), get_bind_run, hck]
    exact writeAdvance_ok _ ht hd
  · rw [get_bind_run, bind_ok hg, bind_ok hv]
    simp only [if_true]
    rw [here_bind e, bind_ok (launchHere_ok e), hl]
    refine (bind_ok (t := u) (a := ()) ?_).trans ?_
    · cases hq : l.child with
      | none => rfl
      | some q =>
        have hne : (q.idx != h.ctx.relx + h.ctx.rely * l.spanW) = true := by simpa using hch q hq
        simp only [hne, require_true]
    rw [bind_ok (releasePackage_ok hp hc), get_bind_run, hck]
    simp only [if_neg (Nat.not_le.mpr hlv), hacc]
    exact writeAdvance_ok _ ht hd

/-! ## Stage queues -/

theorem writeReg_here {r lat : Nat} {v : W64} {s t : State} (hs : s.here.isSome = true) (h : writeReg r v lat s = .ok ((), t)) :
    t.here.isSome = true := by
  obtain ⟨g, e⟩ := Option.isSome_iff_exists.mp hs
  by_cases hr : r = 0
  · subst hr
    cases h
    exact hs
  cases hb : g.eng.isBusy s.now r with
  | true => rw [writeReg_busy v lat e hr hb] at h; cases h
  | false =>
    rw [writeReg_ok v lat (.inr ⟨g, e, hb⟩)] at h
    cases h
    rw [here_isSome_withReg]
    exact hs

theorem writeBlock_here {r : Nat} {d : List W64} {s t : State} (hs : s.here.isSome = true) (h : writeBlock r d s = .ok ((), t)) :
    t.here.isSome = true := by
  unfold writeBlock at h
  generalize d.zipIdx = l at h
  induction l generalizing s with
  | nil => cases h; exact hs
  | cons p rest ih =>
    obtain ⟨_, u, h1, h2⟩ := bind_ok_inv (show (writeReg (r + p.2) p.1 1 >>= fun _ => rest.forM _) s = .ok ((), t) from h)
    exact ih (writeReg_here hs h1) h2

theorem queueStatus_ok {x : RWord} {ok : Bool} {s : State} (hs : s.here.isSome = true) (hc : x.type = 1 → s.regFree x.c.toNat) :
    queueStatus x ok s = .ok ((), s.statusPut x ok) := by
  unfold queueStatus State.statusPut
  by_cases ht : x.type = 1
  · simp only [if_pos ht]
    rw [bind_ok (writeReg_ok _ _ (hc ht)), modEng_bind_run]
    exact advance_eq (by rw [here_isSome_modHere, here_isSome_withReg]; exact hs)
  · simp only [if_neg ht]
    exact advance_eq (by rw [here_isSome_modHere]; exact hs)

section
variable {x : RWord} {s : State} {h : Here} {l : Launch} (e : s.here = some h) (hg : guardOn x.guard s = .ok (true, s))
  (hl : s.launch? h.ctx.lid = some l)
include e hg

theorem pushWord_answer {ok : Bool} {d : List W64} (hr : h.eng.req = .answer ok d) (hc : x.type = 1 → s.regFree x.c.toNat) :
    pushWord x s = .ok ((), s.statusPut x ok) := by
  unfold pushWord
  rw [bind_ok hg]
  simp only [if_true]
  rw [here_bind e, bind_ok (launchHere_ok e), hr]
  exact queueStatus_ok (here_isSome e) hc

theorem popWord_failed {d : List W64} (hr : h.eng.req = .answer false d) (hc : x.type = 1 → s.regFree x.c.toNat) :
    popWord x s = .ok ((), s.statusPut x false) := by
  unfold popWord
  rw [bind_ok hg]
  simp only [if_true]
  rw [here_bind e, bind_ok (launchHere_ok e), hr]
  exact queueStatus_ok (here_isSome e) hc

theorem popWord_taken {d : List W64} {t : State} (hr : h.eng.req = .answer true d) (hw : writeBlock x.d.toNat d s = .ok ((), t))
    (hc : x.type = 1 → t.regFree x.c.toNat) : popWord x s = .ok ((), t.statusPut x true) := by
  unfold popWord
  rw [bind_ok hg]
  simp only [if_true]
  rw [here_bind e, bind_ok (launchHere_ok e), hr]
  simp only [if_true]
  rw [bind_ok hw]
  exact queueStatus_ok (writeBlock_here (here_isSome e) hw) hc

include hl

theorem pushWord_absent (hr : h.eng.req = .none) (hq : l.queueEnt? x.sub.toNat = none) : pushWord x s = .error (.trap { cause := 5 }) := by
  unfold pushWord
  rw [bind_ok hg]
  simp only [if_true]
  rw [here_bind e, bind_ok (launchHere_ok e), hr, hl]
  simp only [hq]
  rfl

theorem popWord_absent (hr : h.eng.req = .none) (hq : l.queueEnt? x.sub.toNat = none) : popWord x s = .error (.trap { cause := 5 }) := by
  unfold popWord
  rw [bind_ok hg]
  simp only [if_true]
  rw [here_bind e, bind_ok (launchHere_ok e), hr, hl]
  simp only [hq]
  rfl

variable {q : QueueEnt} (hr : h.eng.req = .none) (hq : l.queueEnt? x.sub.toNat = some q)
include hr hq

theorem pushWord_asks {d : List W64} (hp : h.ctx.stage = q.prod) (hrel : releaseSpan h s = .ok ((), s)) (hb : readBlock x.a.toNat s = .ok (d, s)) :
    pushWord x s = .ok ((), s.asked h l x.sub.toNat 1 (x.type == 1) d) := by
  unfold pushWord
  rw [bind_ok hg]
  simp only [if_true]
  rw [here_bind e, bind_ok (launchHere_ok e), hr, hl]
  simp only [hq, if_neg (not_not.mpr hp)]
  rw [bind_ok hrel, bind_ok hb]
  rfl

theorem pushWord_foreign (hp : h.ctx.stage ≠ q.prod) : pushWord x s = .error (.trap { cause := 5 }) := by
  unfold pushWord
  rw [bind_ok hg]
  simp only [if_true]
  rw [here_bind e, bind_ok (launchHere_ok e), hr, hl]
  simp only [hq, if_pos hp]
  rfl

theorem popWord_asks (hp : h.ctx.stage = q.cons) : popWord x s = .ok ((), s.asked h l x.sub.toNat 0 (x.type == 1) []) := by
  unfold popWord
  rw [bind_ok hg]
  simp only [if_true]
  rw [here_bind e, bind_ok (launchHere_ok e), hr, hl]
  simp only [hq, if_neg (not_not.mpr hp)]
  rfl

theorem popWord_foreign (hp : h.ctx.stage ≠ q.cons) : popWord x s = .error (.trap { cause := 5 }) := by
  unfold popWord
  rw [bind_ok hg]
  simp only [if_true]
  rw [here_bind e, bind_ok (launchHere_ok e), hr, hl]
  simp only [hq, if_pos hp]
  rfl

end

/-- Settles O19: each stage-queue word takes its answer, asks, or traps. -/
theorem stageQueueWordsComplete : Obligations.StageQueueWordsComplete := by
  intro x s h l e hg hl
  refine ⟨fun ok d hr hc => ⟨run_ok (pushWord_answer e hg hr hc), run_ok (pushWord_answer e hg hr hc), fun hok => ?_, fun hok t hw hc => ?_,
      fun hd => run_ok ?_⟩,
    fun hr q hq => ⟨fun d hp hrel hb => ⟨run_ok (pushWord_asks e hg hl hr hq hp hrel hb), run_ok (pushWord_asks e hg hl hr hq hp hrel hb)⟩,
      fun hp => ⟨run_ok (popWord_asks e hg hl hr hq hp), run_ok (popWord_asks e hg hl hr hq hp)⟩, run_ok ?_,
      fun hp => run_trap (pushWord_foreign e hg hl hr hq hp), fun hp => run_trap (popWord_foreign e hg hl hr hq hp)⟩,
    fun hr hq => ⟨run_trap (pushWord_absent e hg hl hr hq), run_trap (popWord_absent e hg hl hr hq), run_trap ?_⟩⟩
  · subst hok
    exact ⟨run_ok (popWord_failed e hg hr hc), run_ok (popWord_failed e hg hr hc)⟩
  · subst hok
    exact ⟨run_ok (popWord_taken e hg hr hw hc), run_ok (popWord_taken e hg hr hw hc)⟩
  · rw [bind_ok hg]
    simp only [if_true]
    rw [here_bind e, bind_ok (launchHere_ok e), hr]
    simp only
    rw [bind_ok (writeReg_ok _ _ hd), modEng_bind_run]
    exact advance_eq (by rw [here_isSome_modHere, here_isSome_withReg]; exact here_isSome e)
  · rw [bind_ok hg]
    simp only [if_true]
    rw [here_bind e, bind_ok (launchHere_ok e), hr, hl]
    simp only [hq]
    rfl
  · rw [bind_ok hg]
    simp only [if_true]
    rw [here_bind e, bind_ok (launchHere_ok e), hr, hl]
    simp only [hq]
    rfl

/-! ## Ranges -/

/-- Settles O20: RINIT and RNEXT ask their range unit, and take its answer. -/
theorem rangeWordsComplete : Obligations.RangeWordsComplete := by
  intro x s h e
  refine ⟨fun hr hg => ⟨fun u a b c ht => run_ok ?_, run_ok ?_⟩, fun ok d hr => run_ok ?_, fun moved d hr hg hd hd' => run_ok ?_⟩
  · obtain ⟨t, t', h1, h2, h3⟩ := takeSources_three ht
    rw [here_bind e, hr]
    simp only
    rw [bind_ok hg, bind_ok h1, bind_ok h2, bind_ok h3]
    rfl
  · rw [bind_ok hg]
    simp only [if_true]
    rw [here_bind e, hr]
    rfl
  · rw [here_bind e, hr]
    exact advance_eq (by rw [here_isSome_modHere]; exact here_isSome e)
  · have ht : ((s.withReg x.d.toNat ((d[0]?).getD 0) 1).withReg (x.d.toNat + 1) ((d[1]?).getD 0) 1).here.isSome = true := by
      rw [here_isSome_withReg, here_isSome_withReg]
      exact here_isSome e
    rw [bind_ok hg]
    simp only [if_true]
    rw [here_bind e, hr]
    simp only
    rw [bind_ok (writeReg_ok _ _ hd), bind_ok (writeReg_ok _ _ hd')]
    by_cases hS : h.e = .S
    · simp only [if_pos hS]
      rw [modCtx_bind_run, modEng_bind_run]
      exact advance_eq (by rw [here_isSome_modHere, here_isSome_modCtxHere]; exact ht)
    · simp only [if_neg hS]
      exact advance_eq (by rw [here_isSome_modHere]; exact ht)

/-! ## Subnormal assist -/

/-- A change of a core's assist that keeps its context leaves the issuing engine where it stands. -/
theorem here_isSome_modAssist (s : State) (c : Nat) {f : Assist → Assist} (hf : ∀ a, (f a).k = a.k) :
    (s.modCore c fun co => { co with assist := { co.assist with active := co.assist.active.map f } }).here.isSome = s.here.isSome := by
  have hx : ∀ k, (s.modCore c fun co => { co with assist := { co.assist with active := co.assist.active.map f } }).ctx? s.curCore k =
      s.ctx? s.curCore k := by
    intro k
    rw [ctx?_modCore]
    split
    · rfl
    · rfl
  have hseat : (s.modCore c fun co => { co with assist := { co.assist with active := co.assist.active.map f } }).seat = s.seat := by
    simp only [State.seat, modCore_cores, modCore_curCore, modCore_curEng, List.getElem?_modify]
    cases s.cores[s.curCore]? with
    | none => rfl
    | some co =>
      by_cases h : c = s.curCore
      · simp only [h, if_true]
        cases hact : co.assist.active <;> cases s.curEng <;> simp [hf, hact]
      · simp [h]
  simp only [here_isSome_iff, hseat, modCore_curCore, hx]

theorem assistHere_inv {s t : State} {h : Here} {a : Assist} (e : assistHere s = .ok ((h, a), t)) : s.here = some h ∧ t = s := by
  obtain ⟨g, u, h1, h2⟩ := bind_ok_inv e
  obtain ⟨eg, rfl⟩ := here_ok_inv h1
  unfold assistHere at e
  rw [here_bind eg, get_bind_run] at e
  cases ha : g.asst with
  | false => rw [ha] at e; cases e
  | true =>
    cases hc : (u.cores[g.c]?).bind (·.assist.active) with
    | none => rw [ha, hc] at e; cases e
    | some b =>
      rw [ha, hc] at e
      cases e
      exact ⟨eg, rfl⟩

theorem assistHere_off {s : State} {h : Here} (e : s.here = some h) (ha : h.asst = false) : assistHere s = .error (.trap { cause := 1 }) := by
  unfold assistHere
  rw [here_bind e, get_bind_run, ha]
  rfl

/-- Settles O22: the four words act on the assist that is active, and are illegal where none is. -/
theorem assistWordsComplete : Obligations.AssistWordsComplete := by
  intro x s u h a
  refine ⟨fun ha hg => ?_, fun g eg hoff => ⟨run_trap (bind_error (assistHere_off eg hoff)), run_trap (bind_error (assistHere_off eg hoff)),
    run_trap (bind_error (assistHere_off eg hoff)), run_trap (bind_error (assistHere_off eg hoff))⟩⟩
  have hs := here_isSome (assistHere_inv ha).1
  refine ⟨fun i hi hd => ⟨fun h5 => run_ok ?_, fun h5 => run_ok ?_⟩, fun i v hiv => ⟨fun h1 => run_ok ?_, fun h1 hlo hhi => run_ok ?_,
    fun h1 hout => run_trap ?_⟩, run_ok ?_, fun v hv => ⟨fun h0 => run_ok ?_, fun h0 h7 h16 => run_ok ?_, fun h16 => run_ok ?_⟩⟩
  · rw [bind_ok ha]
    refine (bind_ok hg).trans ?_
    rw [bind_ok hi]
    simp only [if_true, if_neg h5]
    exact writeAdvance_ok _ (source_here hi hs) hd
  · rw [bind_ok ha]
    refine (bind_ok hg).trans ?_
    rw [bind_ok hi]
    simp only [if_true, if_pos h5]
    exact writeAdvance_ok _ (source_here hi hs) hd
  · obtain ⟨t, h2, h3⟩ := takeSources_two hiv
    rw [bind_ok ha]
    refine (bind_ok hg).trans ?_
    rw [bind_ok h2, bind_ok h3]
    simp only [if_true, if_pos h1]
    unfold modAssist
    rw [modify_bind_run]
    refine advance_eq ?_
    rw [here_isSome_modAssist u h.c (f := fun a => { a with sum := some (v &&& 0xFFFFFFFF) }) fun _ => rfl]
    exact source_here h3 (source_here h2 hs)
  · obtain ⟨t, h2, h3⟩ := takeSources_two hiv
    rw [bind_ok ha]
    refine (bind_ok hg).trans ?_
    rw [bind_ok h2, bind_ok h3]
    simp only [if_true, if_neg h1, if_neg (show ¬ (i.toNat < a.first ∨ a.first + a.count ≤ i.toNat) by omega)]
    unfold modAssist
    rw [modify_bind_run]
    refine advance_eq ?_
    rw [here_isSome_modAssist u h.c (f := fun a => { a with written := (i.toNat, v) :: a.written }) fun _ => rfl]
    exact source_here h3 (source_here h2 hs)
  · obtain ⟨t, h2, h3⟩ := takeSources_two hiv
    rw [bind_ok ha]
    refine (bind_ok hg).trans ?_
    rw [bind_ok h2, bind_ok h3]
    simp only [if_true, if_neg h1, if_pos hout]
    rfl
  · rw [bind_ok ha]
    refine (bind_ok hg).trans ?_
    rfl
  · rw [bind_ok ha]
    refine (bind_ok hg).trans ?_
    rw [bind_ok hv]
    simp only [if_true, if_pos h0]
    rfl
  · rw [bind_ok ha]
    refine (bind_ok hg).trans ?_
    rw [bind_ok hv]
    simp only [if_true, if_neg (not_or.mpr ⟨h0, h7⟩), if_pos h16]
    rfl
  · rw [bind_ok ha]
    refine (bind_ok hg).trans ?_
    rw [bind_ok hv]
    simp only [if_true, if_neg (show ¬ (v.toNat % 32 = 0 ∨ v.toNat % 32 = 7) by omega), if_neg (Nat.not_le.mpr h16)]
    rfl

end Sys2Proof.Machine
end

section
/-!
The words on barriers.
-/
namespace Sys2Proof.Machine

theorem liveBar_ok {s : State} {b : Nat} (hb : s.barLive b) : liveBar b s = .ok ((), s) := by
  obtain ⟨h, e, hx, hg⟩ := hb
  unfold liveBar
  rw [here_bind e, bind_ok (tableOk_ok hg), if_pos hx]
  rfl

theorem sendArrive_ok (h : Here) (x : TWord) (n : W64) (targets : List Nat) (s : State) : sendArrive h x n targets s =
    .ok ((), (s.withCmd { h.command s (.barrive x) 5 0 x.bar.toNat [n] ⟨2, 0, 0, 0⟩ with
      ranges := targets.map (·, 0), next := s.nextId }).bumpInterval h.agent.code) := rfl

theorem here_isSome_arrival (s : State) (c : Cmd) (n : Nat) : ((s.withCmd c).bumpInterval n).here.isSome = s.here.isSome :=
  here_isSome_bumpInterval _ _

theorem writeLow_scalar {s : State} {h : Here} {r : Nat} (v : W64) (e : s.here = some h) (hV : h.e ≠ .V) (hd : s.regFree r) :
    writeLow r v s = .ok ((), s.withReg r v 1) := by
  unfold writeLow
  rw [here_bind e, get_bind_run, if_neg hV]
  exact writeReg_ok _ _ hd

theorem writeLow_vector {s : State} {h : Here} {r : Nat} (v : W64) (e : s.here = some h) (hV : h.e = .V) (hb : h.eng.isBusy s.now r = false) :
    writeLow r v s = .ok ((), s.modCtxHere fun y => { y with vregs := y.vregs.set r (v.setWidth 4096) }) := by
  unfold writeLow
  rw [here_bind e, get_bind_run, if_pos hV]
  simp only [hb, Bool.not_false, require_bind_true]
  rfl

section
variable {x : TWord} {s u : State} {h : Here} {v : W64} (hg : guardOn x.guard s = .ok (true, s)) (hc : countOf true x.preg s = .ok (v, u))
  (e : u.here = some h)
include hg hc e

theorem execBarinit_made (h0 : 0 < v.toNat + bitsOf x.cmd 31 0) (h1 : v.toNat + bitsOf x.cmd 31 0 < 2 ^ 32)
    (hroom : h.ctx.bars.any (·.1 == x.bar.toNat) = true ∨ ∃ co, u.cores[h.c]? = some co ∧ co.liveBars < 1024) :
    exec (.barinit x) s = .next (s.commit ((u.cleanTable (barKey h.c h.k x.bar.toNat)).modCtxHere fun y =>
      { y with inits := y.inits ++ [(x.bar.toNat, h.e.tag, BitVec.ofNat 32 (v.toNat + bitsOf x.cmd 31 0))] }).advanced) := by
  have hfull : (!(h.ctx.bars.any (·.1 == x.bar.toNat)) && !(h.ctx.inits.any fun (q, _, f) => q == x.bar.toNat && f != 0) &&
      decide (1024 ≤ ((u.cores[h.c]?).map Core.liveBars).getD 0)) = false := by
    obtain hb | ⟨co, hco, hl⟩ := hroom
    · simp [hb]
    · simp [hco, hl]
  refine run_ok ?_
  rw [bind_ok hg]
  simp only [if_true]
  rw [bind_ok hc, here_bind e, get_bind_run, if_neg (show ¬ (v.toNat + bitsOf x.cmd 31 0 = 0 ∨ 2 ^ 32 ≤ v.toNat + bitsOf x.cmd 31 0) by omega)]
  rw [if_neg (by rw [hfull]; decide), modify_bind_run, modCtx_bind_run]
  exact advance_eq (by rw [here_isSome_modCtxHere]; exact here_isSome e)

theorem execBarrive_sent (hn : v.toNat + bitsOf x.cmd 15 0 < 2 ^ 32) (hb : u.barLive x.bar.toNat) :
    exec (.barrive x) s = .next (s.commit
      ((u.withCmd { h.command u (.barrive x) 5 0 x.bar.toNat [BitVec.ofNat 64 (v.toNat + bitsOf x.cmd 15 0)] ⟨2, 0, 0, 0⟩ with
                    ranges := [(h.c, 0)], next := u.nextId }).bumpInterval h.agent.code).advanced) := by
  refine run_ok ?_
  rw [bind_ok hg]
  simp only [if_true]
  rw [bind_ok hc, here_bind e, if_neg (Nat.not_le.mpr hn), bind_ok (liveBar_ok hb), bind_ok (sendArrive_ok _ _ _ _ _)]
  exact advance_eq (by rw [here_isSome_arrival]; exact here_isSome e)

variable {l : Launch} {ox oy : Nat} (hl : u.launch? h.ctx.lid = some l)
include hl

theorem execBarriveR_sent (ho : l.origin? = some (ox, oy)) (hn : v.toNat + bitsOf x.cmd 15 0 < 2 ^ 32)
    (hr : rectOk (bitsOf x.cmd 32 17) l.spanW l.spanH = true) :
    exec (.barriveR x) s = .next (s.commit
      ((u.withCmd { h.command u (.barrive x) 5 0 x.bar.toNat [BitVec.ofNat 64 (v.toNat + bitsOf x.cmd 15 0)] ⟨2, 0, 0, 0⟩ with
                    ranges := (rectOf (bitsOf x.cmd 32 17)).cores.map fun p => (ox + p.1 + 32 * (oy + p.2), 0),
                    next := u.nextId }).bumpInterval h.agent.code).advanced) := by
  refine run_ok ?_
  rw [bind_ok hg]
  simp only [if_true]
  rw [bind_ok hc, here_bind e, bind_ok (launchHere_ok e), hl]
  simp only [hr, Bool.not_true, Bool.false_eq_true, or_false, if_neg (Nat.not_le.mpr hn), ho, Option.getD_some]
  rw [bind_ok (sendArrive_ok _ _ _ _ _)]
  simp only [List.map_map]
  exact advance_eq (by rw [here_isSome_arrival]; exact here_isSome e)

theorem execBarriveR_wrong (hw : 2 ^ 32 ≤ v.toNat + bitsOf x.cmd 15 0 ∨ rectOk (bitsOf x.cmd 32 17) l.spanW l.spanH = false) :
    exec (.barriveR x) s = .next (s.raise { cause := 5 }) := by
  refine run_trap ?_
  rw [bind_ok hg]
  simp only [if_true]
  rw [bind_ok hc, here_bind e, bind_ok (launchHere_ok e), hl]
  simp only
  rw [if_pos (by simpa using hw)]
  rfl

end

/-- BWAIT from the phase it waits for: it goes on where its barrier has left that phase. -/
def phaseWait (x : TWord) (h : Here) (p : Bool) : M Unit := do
  tableOk (barKey h.c h.k x.bar.toNat)
  match h.ctx.bar? x.bar.toNat with
  | none => formatTrap
  | some b => require (b.phase != p || b.ref || b.lost)
  advance

/-- BWAIT reads the phase it waits for, a literal or a bit of a register, and waits. -/
theorem execBwait_phase {x : TWord} {s t : State} {h : Here} {p : Bool} (hg : guardOn x.guard s = .ok (true, s)) (e : s.here = some h)
    (hp : if x.cmd.getLsbD 1 then ∃ w, countOf true x.preg s = .ok (w, t) ∧ p = w.getLsbD 0 else t = s ∧ p = x.cmd.getLsbD 0) :
    exec (.bwait x) s = run (fun _ => phaseWait x h p t) s := by
  refine run_congr ?_
  rw [bind_ok hg]
  simp only [if_true]
  rw [here_bind e]
  by_cases hb : x.cmd.getLsbD 1 = true
  · rw [if_pos hb] at hp
    obtain ⟨w, hw, rfl⟩ := hp
    simp only [if_pos hb]
    rw [bind_ok hw]
    rfl
  · rw [if_neg hb] at hp
    obtain ⟨rfl, rfl⟩ := hp
    simp only [if_neg hb]
    rfl

section
variable {x : TWord} {h : Here} {t : State} {p : Bool} {b : Barrier} (hgood : t.tableGood (barKey h.c h.k x.bar.toNat))
include hgood

theorem phaseWait_passes (hb : h.ctx.bar? x.bar.toNat = some b) (hgo : b.phase ≠ p ∨ b.ref = true ∨ b.lost = true) (ht : t.here.isSome = true) :
    phaseWait x h p t = .ok ((), t.advanced) := by
  have hq : (b.phase != p || b.ref || b.lost) = true := by simpa [or_assoc] using hgo
  unfold phaseWait
  rw [bind_ok (tableOk_ok hgood), hb]
  simp only [hq, require_bind_true]
  exact advance_eq ht

theorem phaseWait_stalls (hb : h.ctx.bar? x.bar.toNat = some b) (h1 : b.phase = p) (h2 : b.ref = false) (h3 : b.lost = false) :
    phaseWait x h p t = .error .stall := by
  have hq : (b.phase != p || b.ref || b.lost) = false := by simp [h1, h2, h3]
  unfold phaseWait
  rw [bind_ok (tableOk_ok hgood), hb]
  simp only [hq]
  exact bind_error (require_false _)

theorem phaseWait_absent (hb : h.ctx.bar? x.bar.toNat = none) : phaseWait x h p t = .error (.trap { cause := 5 }) := by
  unfold phaseWait
  rw [bind_ok (tableOk_ok hgood), hb]
  rfl

end

/-- Settles O23: each barrier word reaches its barrier. -/
theorem barrierWordsComplete : Obligations.BarrierWordsComplete := by
  intro x s u h v hg
  refine ⟨fun hc e => ⟨fun hbad => run_trap ?_, fun h0 h1 hr => execBarinit_made hg hc e h0 h1 hr, fun hn hb => execBarrive_sent hg hc e hn hb,
      fun hn => run_trap ?_, fun l ox oy hl ho => ⟨fun hn hr => execBarriveR_sent hg hc e hl ho hn hr, fun hw => execBarriveR_wrong hg hc e hl hw⟩⟩,
    fun e => ⟨fun hb => run_ok ?_, fun hb hu => run_ok ?_, fun p t hp ht hgood => ?_, fun hV hgood hd => ⟨fun b hb => run_ok ?_, fun hb => run_ok ?_⟩, fun hV hgood hbusy => run_ok ?_⟩⟩
  · rw [bind_ok hg]
    simp only [if_true]
    rw [bind_ok hc, here_bind e, get_bind_run, if_pos hbad]
    rfl
  · rw [bind_ok hg]
    simp only [if_true]
    rw [bind_ok hc, here_bind e, if_pos hn]
    rfl
  · rw [bind_ok hg]
    simp only [if_true]
    rw [here_bind e, get_bind_run, if_neg (by rw [hb]; decide)]
    exact advance_eq (here_isSome e)
  · rw [bind_ok hg]
    simp only [if_true]
    rw [here_bind e, get_bind_run, if_pos hb]
    simp only [hu, Bool.not_false, require_bind_true]
    rw [modCtx_bind_run]
    exact advance_eq (by rw [here_isSome_modCtxHere]; exact here_isSome e)
  · rw [execBwait_phase hg e hp]
    exact ⟨fun b hb => ⟨fun hgo => run_ok (phaseWait_passes hgood hb hgo ht), fun h1 h2 h3 => run_stall (phaseWait_stalls hgood hb h1 h2 h3)⟩,
      fun hb => run_trap (phaseWait_absent hgood hb)⟩
  · have ht : (s.withReg (bitsOf x.cmd 5 0) b.word 1).here.isSome = true := by rw [here_isSome_withReg]; exact here_isSome e
    rw [bind_ok hg]
    simp only [if_true]
    rw [here_bind e, bind_ok (tableOk_ok hgood), hb, bind_ok (writeLow_scalar _ e hV hd)]
    simp only [Option.map_some, Option.getD_some, Option.isSome_some, Bool.and_true]
    by_cases hc : x.cmd.getLsbD 6 = true
    · simp only [if_pos hc]
      rw [modCtx_bind_run]
      exact advance_eq (by rw [here_isSome_modCtxHere]; exact ht)
    · simp only [if_neg hc]
      exact advance_eq ht
  · rw [bind_ok hg]
    simp only [if_true]
    rw [here_bind e, bind_ok (tableOk_ok hgood), hb, bind_ok (writeLow_scalar _ e hV hd)]
    simp only [Option.isSome_none, Bool.and_false, Bool.false_eq_true, if_false]
    exact advance_eq (by rw [here_isSome_withReg]; exact here_isSome e)
  · have ht (w : VReg) : (s.modCtxHere fun y => { y with vregs := y.vregs.set (bitsOf x.cmd 5 0) w }).here.isSome = true := by
      rw [here_isSome_modCtxHere]; exact here_isSome e
    rw [bind_ok hg]
    simp only [if_true]
    rw [here_bind e, bind_ok (tableOk_ok hgood), bind_ok (writeLow_vector _ e hV hbusy)]
    by_cases hc : (x.cmd.getLsbD 6 && (h.ctx.bar? x.bar.toNat).isSome) = true
    · simp only [if_pos hc]
      rw [modCtx_bind_run]
      exact advance_eq (by rw [here_isSome_modCtxHere]; exact ht _)
    · simp only [if_neg hc]
      exact advance_eq (ht _)

end Sys2Proof.Machine
end

section
/-!
V's operands and results: what reading sources keeps, and which bits and elements a packed register has.
-/
namespace Sys2Proof.Machine

/-! ## Operands -/

theorem vReg_state {r : Nat} {s u : State} {v : VReg} (h : vReg r s = .ok (v, u)) : u = s ∧ s.here.isSome = true := by
  obtain ⟨g, t, h1, h2⟩ := bind_ok_inv h
  obtain ⟨e, rfl⟩ := here_ok_inv h1
  rw [get_bind_run] at h2
  obtain ⟨_, t', h3, h4⟩ := bind_ok_inv h2
  obtain ⟨_, t2, h5, h6⟩ := bind_ok_inv h4
  cases h6
  have h7 := tableOk_state h5
  unfold require at h3
  split at h3 <;> cases h3
  exact ⟨h7, here_isSome e⟩

theorem popQueue_here {q : Nat} {s u : State} {e : QEntry} (h : popQueue q s = .ok (e, u)) : s.here.isSome = true ∧ u.here.isSome = true := by
  obtain ⟨g, t, h1, h2⟩ := bind_ok_inv h
  obtain ⟨eg, rfl⟩ := here_ok_inv h1
  have hs := here_isSome eg
  unfold popQueue at h
  rw [here_bind eg] at h
  cases hq : g.ctx.opqs[q]? with
  | none => rw [hq] at h; cases h
  | some l =>
    cases l with
    | nil => rw [hq] at h; cases h
    | cons v rest =>
      rw [hq] at h
      cases h
      exact ⟨hs, (here_isSome_modCtxHere _ fun x => { x with opqs := x.opqs.set q rest }).trans hs⟩

/-- A source of V is read where an engine stands, and leaves it there. -/
theorem vSource_here {r : BitVec 6} {s u : State} {a : VIn} (h : vSource r s = .ok (a, u)) : s.here.isSome = true ∧ u.here.isSome = true := by
  obtain ⟨g, t, h1, h2⟩ := bind_ok_inv h
  obtain ⟨e, rfl⟩ := here_ok_inv h1
  have hs := here_isSome e
  split at h2
  · obtain ⟨v, t', h3, h4⟩ := bind_ok_inv h2
    cases h4
    rw [(vReg_state h3).1]
    exact ⟨hs, hs⟩
  · split at h2
    · obtain ⟨v, t', h3, h4⟩ := bind_ok_inv h2
      cases h4
      exact popQueue_here h3
    · cases h2
      exact ⟨hs, hs⟩

theorem vSourceIf_here {b : Bool} {r : BitVec 6} {s u : State} {a : VIn} (h : vSourceIf b r s = .ok (a, u)) (hs : s.here.isSome = true) :
    u.here.isSome = true := by
  cases b with
  | true => exact (vSource_here h).2
  | false => cases h; exact hs

theorem vSources_cons {p : Bool × BitVec 6} {l : List (Bool × BitVec 6)} {s u : State} {vs : List VIn} (h : vSources (p :: l) s = .ok (vs, u)) :
    ∃ v w t, vSourceIf p.1 p.2 s = .ok (v, t) ∧ vSources l t = .ok (w, u) ∧ vs = v :: w := by
  obtain ⟨v, t, h1, h2⟩ := bind_ok_inv h
  obtain ⟨w, t', h3, h4⟩ := bind_ok_inv h2
  cases h4
  exact ⟨v, w, t, h1, h3, rfl⟩

theorem vSources_two {p q : Bool × BitVec 6} {s u : State} {x y : VIn} (h : vSources [p, q] s = .ok ([x, y], u)) :
    ∃ t, vSourceIf p.1 p.2 s = .ok (x, t) ∧ vSourceIf q.1 q.2 t = .ok (y, u) := by
  obtain ⟨v, w, t, h1, h2, h3⟩ := vSources_cons h
  obtain ⟨v', w', t', h4, h5, h6⟩ := vSources_cons h2
  cases h3
  cases h6
  cases h5
  exact ⟨t, h1, h4⟩

theorem vSources_three {p q r : Bool × BitVec 6} {s u : State} {x y z : VIn} (h : vSources [p, q, r] s = .ok ([x, y, z], u)) :
    ∃ t t', vSourceIf p.1 p.2 s = .ok (x, t) ∧ vSourceIf q.1 q.2 t = .ok (y, t') ∧ vSourceIf r.1 r.2 t' = .ok (z, u) := by
  obtain ⟨v, w, t, h1, h2, h3⟩ := vSources_cons h
  cases h3
  obtain ⟨t', h4, h5⟩ := vSources_two h2
  exact ⟨t, t', h1, h4, h5⟩

theorem vFree_here {s : State} {d : Nat} (h : s.vFree d) : s.here.isSome = true := by
  obtain ⟨g, e, -⟩ := h
  exact here_isSome e

/-! ## Results -/

theorem vPutGroup_one (s : State) (d w : Nat) (l : List Nat) (lat : Nat) : s.vPutGroup d 1 w l lat = s.vPut d (packElems w l) none lat := rfl

theorem vFreeGroup_one {s : State} {d : Nat} : s.vFreeGroup d 1 ↔ s.vFree d := Iff.rfl

@[simp] theorem flushF_bitRes (t z : Nat) : flushF t (bitRes z) = z := rfl

/-- A result put in its destination ends its word. -/
theorem vOut_end {s : State} {d lat : Nat} {v : VReg} {car : Option Car} (n : Nat) (h : s.vFree d) :
    (vOut d v car lat >>= fun _ => vEnd n) s = .ok ((), (s.vPut d v car lat).vDone n) := by
  rw [bind_ok (vOut_ok _ _ _ h)]
  exact vEnd_ok n (by rw [here_isSome_vPut]; exact vFree_here h)

/-- The number a register of elements stands for, element `i` at bit `w * i`. -/
def packNat (w : Nat) (l : List Nat) : Nat := l.foldr (fun e acc => e % 2 ^ w + 2 ^ w * acc) 0

theorem packElems_eq (w : Nat) (l : List Nat) : packElems w l = BitVec.ofNat 4096 (packNat w l) := rfl

/-- Element `i` of packed elements. -/
theorem packNat_elem (w : Nat) (l : List Nat) (i : Nat) : packNat w l >>> (w * i) % 2 ^ w = (l[i]?).getD 0 % 2 ^ w := by
  induction l generalizing i with
  | nil => simp [packNat]
  | cons e l ih =>
    have hp : packNat w (e :: l) = e % 2 ^ w + 2 ^ w * packNat w l := rfl
    cases i with
    | zero => simp [hp, Nat.add_mul_mod_self_left]
    | succ i =>
      have hw : w * (i + 1) = w + w * i := by ring
      rw [hw, Nat.shiftRight_add, hp]
      have h0 : (e % 2 ^ w + 2 ^ w * packNat w l) >>> w = packNat w l := by
        rw [Nat.shiftRight_eq_div_pow, Nat.add_mul_div_left _ _ (Nat.two_pow_pos w), Nat.div_eq_of_lt (Nat.mod_lt _ (Nat.two_pow_pos w)), Nat.zero_add]
      rw [h0, ih]
      simp

/-- Element `i` of a packed register, where it lies within the register. -/
theorem vElem_packElems {w i : Nat} (l : List Nat) (h : w * i + w ≤ 4096) : vElem (packElems w l) w i = (l[i]?).getD 0 % 2 ^ w := by
  rw [← packNat_elem, vElem, packElems_eq, BitVec.toNat_ofNat]
  apply Nat.eq_of_testBit_eq
  intro j
  simp only [Nat.testBit_mod_two_pow, Nat.testBit_shiftRight]
  by_cases hj : j < w
  · have : w * i + j < 4096 := by omega
    simp [hj, this]
  · simp [hj]

/-- Element `i` lies within a register of `4096 / w` elements. -/
theorem elem_within {w i : Nat} (h : i < 4096 / w) : w * i + w ≤ 4096 := calc
  w * i + w = w * (i + 1) := by ring
  _ ≤ w * (4096 / w) := Nat.mul_le_mul_left _ h
  _ ≤ 4096 := Nat.mul_div_le _ _

/-- Bit `i` of a mask register. -/
theorem getLsbD_maskReg {n i : Nat} (f : Nat → Bool) (hi : i < 4096) : (maskReg n f).getLsbD i = (decide (i < n) && f i) := by
  have h := vElem_packElems (w := 1) (i := i) ((List.range n).map fun i => if f i then 1 else 0) (by omega)
  have hb : (maskReg n f).getLsbD i = decide (vElem (maskReg n f) 1 i = 1) := by
    simp [BitVec.getLsbD, vElem, Nat.testBit, bne]
  rw [hb]
  unfold maskReg
  rw [h]
  by_cases hn : i < n
  · cases hf : f i <;> simp [hn, hf]
  · simp [hn]

end Sys2Proof.Machine
end

section
/-!
V's element-wise words, compares, reductions, scans and tests.
-/
namespace Sys2Proof.Machine

/-! ## Element-wise words -/

/-- An element-wise word that executes commits its elements' results. -/
theorem elemWord_commits {ins : Instr} {x : RWord} {n lat : Nat} {f : Rounding → Nat → Nat → Nat → FRes} {s u : State} {a b c : VIn}
    {en : Nat → Bool} {rb : Nat → Nat} (hg : guardOn x.guard s = .ok (true, s))
    (ht : vSources [(true, x.a), (decide (2 ≤ n), x.b), (decide (3 ≤ n), x.c)] s = .ok ([a, b, c], u)) (hm : vMask x u = .ok (en, u))
    (hr : vRand x u = .ok (rb, u)) :
    elemWord ins x n lat f s = vCommit s { ins := ins, x := x, dt := x.type.toNat, st := x.type.toNat, g := 1, lat := lat, cyc := 1 }
      (elemResults x f a b c en rb) (vItems (elemsOf x.type.toNat) (a.elem (typeWidth x.type.toNat)) (b.elem (typeWidth x.type.toNat))
        (c.elem (typeWidth x.type.toNat)) en rb) u := by
  obtain ⟨t, t', h1, h2, h3⟩ := vSources_three ht
  unfold elemWord
  rw [get_bind_run, bind_ok (vGuard_on hg (vSource_here h1).1)]
  refine (bind_ok h1).trans ?_
  rw [bind_ok h2, bind_ok h3]
  simp only [if_true]
  rw [bind_ok hm, bind_ok hr]
  rfl

theorem elemWord_on {ins : Instr} {x : RWord} {n lat : Nat} {f : Rounding → Nat → Nat → Nat → FRes} {s u : State} {a b c : VIn}
    {en : Nat → Bool} {rb : Nat → Nat} (hg : guardOn x.guard s = .ok (true, s))
    (ht : vSources [(true, x.a), (decide (2 ≤ n), x.b), (decide (3 ≤ n), x.c)] s = .ok ([a, b, c], u)) (hm : vMask x u = .ok (en, u))
    (hr : vRand x u = .ok (rb, u)) (hc : u.commits (elemResults x f a b c en rb)) (hf : u.vFree x.d.toNat) :
    elemWord ins x n lat f s = .ok ((), (u.vPut x.d.toNat (packElems (typeWidth x.type.toNat)
      ((elemResults x f a b c en rb).map (flushF x.type.toNat))) none lat).vDone 1) := by
  obtain ⟨h, e, hq, hs⟩ := hc
  rw [elemWord_commits hg ht hm hr]
  exact vCommit_ok (v := { ins := ins, x := x, dt := x.type.toNat, st := x.type.toNat, g := 1, lat := lat, cyc := 1 }) e hq hs hf

theorem elemWord_off {ins : Instr} {x : RWord} {n lat : Nat} {f : Rounding → Nat → Nat → Nat → FRes} {s u : State} {a b c : VIn}
    (hs : s.unanswered) (hg : guardOn x.guard s = .ok (false, s))
    (ht : vSources [(true, x.a), (decide (2 ≤ n), x.b), (decide (3 ≤ n), x.c)] s = .ok ([a, b, c], u)) (hd : x.d.toNat < 32 ∨ u.vFree x.d.toNat) :
    elemWord ins x n lat f s = .ok ((), u.vOffDone x.d.toNat a (typeWidth x.type.toNat)) := by
  obtain ⟨t, t', h1, h2, h3⟩ := vSources_three ht
  unfold elemWord
  rw [get_bind_run, bind_ok (vGuard_off hg hs)]
  refine (bind_ok h1).trans ?_
  rw [bind_ok h2, bind_ok h3]
  exact vOff_ok (vSourceIf_here h3 (vSourceIf_here h2 (vSource_here h1).2)) hd

/-- What a row of the element-wise words says of its instruction. -/
def ElemForm.Means (p : ElemForm) : Prop := ∀ (x : RWord) (s : State), exec (p.ins x) s = run (elemWord (p.ins x) x p.n (p.lat x) (p.op x)) s

/-- A shift right that keeps the sign divides by a power of two. -/
theorem sshiftRight_toNat (w a n : Nat) : ((BitVec.ofNat w a).sshiftRight n).toNat = wrapN w ((BitVec.ofNat w a).toInt / (2 ^ n : Nat)) := by
  rw [BitVec.sshiftRight, BitVec.toNat_ofInt, Int.shiftRight_eq_div_pow]
  rfl

/-- Each row of the element-wise words is its instruction's. -/
theorem elemForms_mean : ∀ p ∈ elemForms, p.Means := by
  simp only [elemForms, List.forall_mem_cons, List.not_mem_nil, false_imp_iff, implies_true, and_true]
  refine ⟨fun _ _ => rfl, fun _ _ => rfl, fun _ _ => rfl, fun _ _ => rfl, fun _ _ => rfl, fun _ _ => rfl, fun _ _ => rfl, fun _ _ => rfl,
    fun _ _ => rfl, fun _ _ => rfl, fun _ _ => rfl, fun _ _ => rfl, fun _ _ => rfl, fun _ _ => rfl, fun _ _ => rfl, fun _ _ => rfl,
    fun x s => ?_, fun _ _ => rfl, fun _ _ => rfl⟩
  simp only [sshiftRight_toNat]
  rfl

/-- Settles O30: each row is an element-wise word, which commits its results or passes its first source on. -/
theorem elementWordsWriteTheirResults : Obligations.ElementWordsWriteTheirResults := by
  intro p hp x s u a b c
  rw [elemForms_mean p hp x s]
  exact ⟨fun hg ht en rb hm hr hc hf => run_ok (elemWord_on hg ht hm hr hc hf), fun hs hg ht hd => run_ok (elemWord_off hs hg ht hd)⟩

/-! ## Compares and select -/

theorem vCompare_on {x : RWord} {rel : Option Int → Bool} {s u : State} {a b : VIn} {en : Nat → Bool} (hg : guardOn x.guard s = .ok (true, s))
    (ht : vSources [(true, x.a), (true, x.b)] s = .ok ([a, b], u)) (hm : vMask x u = .ok (en, u)) (hd : x.d.toNat < 32) (hf : u.vFree x.d.toNat) :
    vCompare x rel s = .ok ((), (u.vPut x.d.toNat (maskReg (elemsOf x.type.toNat) fun i =>
      en i && rel (elemOrder x.type.toNat (a.elem (typeWidth x.type.toNat) i) (b.elem (typeWidth x.type.toNat) i))) none 2).vDone 1) := by
  obtain ⟨t, h1, h2⟩ := vSources_two ht
  unfold vCompare
  rw [bind_ok hg]
  refine (bind_ok h1).trans ((bind_ok h2).trans ?_)
  simp only [if_true]
  rw [bind_ok hm, bind_ok (vWrite_ok _ _ _ hd hf)]
  exact vEnd_ok 1 (by rw [here_isSome_vPut]; exact vFree_here hf)

/-- Settles O32: a compare's mask has a bit for each element, and VSEL commits the element it chooses. -/
theorem vectorComparesAndSelect : Obligations.VectorComparesAndSelect := by
  refine ⟨?_, fun x s u a b c en hg ht hc hm hf hq => run_ok ?_⟩
  · have key (ins : RWord → Instr) (rel : Option Int → Bool) (hx : ∀ x s, exec (ins x) s = run (vCompare x rel) s) (x : RWord) (s u : State)
        (a b : VIn) (en : Nat → Bool) (hg : guardOn x.guard s = .ok (true, s)) (ht : vSources [(true, x.a), (true, x.b)] s = .ok ([a, b], u))
        (hm : vMask x u = .ok (en, u)) (hd : x.d.toNat < 32) (hf : u.vFree x.d.toNat) :
        ∃ v, exec (ins x) s = .next (s.commit ((u.vPut x.d.toNat v none 2).vDone 1)) ∧
          ∀ i < 4096, v.getLsbD i = (decide (i < elemsOf x.type.toNat) && en i &&
            rel (elemOrder x.type.toNat (a.elem (typeWidth x.type.toNat) i) (b.elem (typeWidth x.type.toNat) i))) :=
      ⟨_, by rw [hx]; exact run_ok (vCompare_on hg ht hm hd hf), fun i hi => by rw [getLsbD_maskReg _ hi, Bool.and_assoc]⟩
    simp only [List.forall_mem_cons, List.not_mem_nil, false_imp_iff, implies_true, and_true]
    exact ⟨key .vcmpeq (· == some 0) fun _ _ => rfl, key .vcmpne (· != some 0) fun _ _ => rfl, key .vcmplt (· == some (-1)) fun _ _ => rfl,
      key .vcmple (fun o => o == some (-1) || o == some 0) fun _ _ => rfl⟩
  · obtain ⟨t, h1, h2⟩ := vSources_two ht
    obtain ⟨h, e, hne⟩ := hq
    rw [get_bind_run, bind_ok hg]
    refine (bind_ok h1).trans ((bind_ok h2).trans ?_)
    simp only [if_true]
    rw [bind_ok hc, bind_ok hm, vCommit_ok (v := { ins := .vsel x, x := x, dt := x.type.toNat, st := x.type.toNat, g := 1, lat := 2, cyc := 1 })
      e hne (.inr (by simp [bitRes])) hf]
    simp only [vPutGroup_one, List.map_map]
    rfl

/-! ## Reductions and scan -/

theorem assistAnswer_none {u : State} {h : Here} (e : u.here = some h) (hr : ∀ b d, h.eng.req ≠ .answer b d) : assistAnswer u = .ok (none, u) := by
  unfold assistAnswer
  rw [here_bind e]
  cases hq : h.eng.req with
  | answer b d => exact absurd hq (hr b d)
  | none => rfl
  | wait n => rfl

/-- A reduction's result that needs no assist is put into its destination. -/
theorem redCommit_ok {s0 u : State} {ins : Instr} {x : RWord} {lat : Nat} {res : FRes} {items : List (List W64)} (hc : u.commits [res] ∨ res.sub = false ∧ u.commits [])
    (hf : u.vFree x.d.toNat) :
    redCommit s0 ins x lat res items u = .ok ((), (u.vPut x.d.toNat (BitVec.ofNat 4096 (flushF x.type.toNat res)) none lat).vDone 1) := by
  obtain ⟨h, e, hr, hsub⟩ : ∃ h, u.here = some h ∧ (∀ b d, h.eng.req ≠ .answer b d) ∧ (res.sub && !u.ftz h.ctx.lid) = false := by
    obtain ⟨h, e, hr, hs⟩ | ⟨hs, h, e, hr, -⟩ := hc
    · refine ⟨h, e, hr, ?_⟩
      obtain hs | hs := hs
      · simp [hs]
      · simp [hs res (by simp)]
    · exact ⟨h, e, hr, by simp [hs]⟩
  unfold redCommit
  rw [bind_ok (assistAnswer_none e hr)]
  simp only
  rw [here_bind e, get_bind_run, hsub]
  exact vOut_end 1 hf

theorem redWord_on {ins : Instr} {x : RWord} {f : Bool → (Nat → Rounding) → List (Nat × Bool) → FRes} {s u : State} {h : Here} {a : VIn}
    {en : Nat → Bool} {rb : Nat → Nat} {res : FRes} (hg : guardOn x.guard s = .ok (true, s)) (ha : vSource x.a s = .ok (a, u)) (hm : vMask x u = .ok (en, u))
    (hr : vRand x u = .ok (rb, u)) (e : u.here = some h) (hf : u.vFree x.d.toNat)
    (hres : f (u.ftz h.ctx.lid) (fun i => vRounding x (rb i)) ((List.range (elemsOf x.type.toNat)).map fun i =>
      (a.elem (typeWidth x.type.toNat) i, en i)) = res) (hc : u.commits [res] ∨ res.sub = false ∧ u.commits []) :
    redWord ins x f s = .ok ((), (u.vPut x.d.toNat (BitVec.ofNat 4096 (flushF x.type.toNat res)) none
      (if isFloatT x.type.toNat then 4 * log2N x.type.toNat else 6)).vDone 1) := by
  unfold redWord
  rw [get_bind_run, bind_ok hg, bind_ok ha]
  simp only [if_true]
  rw [bind_ok hm, bind_ok hr, here_bind e, get_bind_run, hres]
  exact redCommit_ok hc hf

/-- Settles O33: the reductions put the result of their inputs, VSCAN each running sum. -/
theorem reductionsAndScan : Obligations.ReductionsAndScan := by
  intro x s u h a en rb hg ha hm hr e hf
  refine ⟨fun hfl hc => run_ok ?_, fun hfl hc => run_ok ?_, fun hi hc => ?_, fun hc => run_ok ?_⟩
  · simp only [hfl, Bool.false_eq_true, if_false]
    have hw := redWord_on (ins := .vredsum x) (f := fun _ _ l => ⟨wrapN 64 (l.foldl (fun z (v, e) => if e then z + intVal x.type.toNat v else z) 0), false⟩)
      hg ha hm hr e hf rfl (.inr ⟨rfl, hc⟩)
    simp only [hfl, Bool.false_eq_true, if_false] at hw
    exact hw
  · simp only [hfl, if_true]
    have hw := redWord_on (ins := .vredsum x) (f := fun ftz r l =>
      treeSum x.type.toNat r ftz (log2N x.type.toNat) 0 (l.map fun (v, e) => ⟨if e then v else signBit x.type.toNat, false⟩))
      hg ha hm hr e hf rfl (.inl hc)
    simp only [hfl, if_true] at hw
    exact hw
  · cases hi
    · exact run_ok (redWord_on hg ha hm hr e hf rfl (.inl hc))
    · exact run_ok (redWord_on hg ha hm hr e hf rfl (.inl hc))
  · obtain ⟨g, eg, hq, hs⟩ := hc
    rw [get_bind_run, bind_ok (vGuard_on hg (vSource_here ha).1), bind_ok ha]
    simp only [if_true]
    rw [bind_ok hm, bind_ok hr, here_bind e, get_bind_run]
    exact vCommit_ok (v := { ins := .vscan x, x := x, dt := x.type.toNat, st := x.type.toNat, g := 1, lat := _, cyc := _ }) eg hq hs hf

/-! ## VTEST -/

theorem typeWidth_ge (t : Nat) : 4 ≤ typeWidth t := by
  unfold typeWidth
  split <;> decide

theorem elemsOf_le (t : Nat) : elemsOf t ≤ 1024 := Nat.div_le_div_left (typeWidth_ge t) (by decide)

/-- A flag slot says whether any, all or none of the elements met the test, and how many. -/
theorem flagSlot_fields {n m : Nat} (hm : m ≤ 1024) (hn : n ≤ m) :
    (flagSlot n m).getLsbD 0 = decide (0 < n) ∧ (flagSlot n m).getLsbD 1 = decide (n = m) ∧ (flagSlot n m).getLsbD 2 = decide (n = 0) ∧
      (flagSlot n m).getLsbD 3 = true ∧ bitsOf (flagSlot n m) 26 16 = n := by
  obtain ⟨l, hl, hlt, h0, h1, h2, h3⟩ : ∃ l, flagSlot n m = BitVec.ofNat 64 (n * 65536 + l) ∧ l < 16 ∧ l.testBit 0 = decide (0 < n) ∧
      l.testBit 1 = decide (n = m) ∧ l.testBit 2 = decide (n = 0) ∧ l.testBit 3 = true := by
    have hmod : n % 2048 = n := Nat.mod_eq_of_lt (by omega)
    by_cases h0 : n = 0
    · by_cases hnm : n = m
      · exact ⟨14, by simp [flagSlot, h0, ← hnm], by decide, by simp [h0, Nat.testBit], by simp [hnm, Nat.testBit], by simp [h0, Nat.testBit],
          by decide⟩
      · exact ⟨12, by subst h0; simp [flagSlot, hnm], by decide, by simp [h0, Nat.testBit], by simp [hnm, Nat.testBit],
          by simp [h0, Nat.testBit], by decide⟩
    · have hpos : 0 < n := Nat.pos_of_ne_zero h0
      by_cases hnm : n = m
      · exact ⟨11, by rw [flagSlot, hmod, if_neg h0, if_pos hnm, if_neg h0], by decide, by simp [hpos, Nat.testBit], by simp [hnm, Nat.testBit],
          by simp [h0, Nat.testBit], by decide⟩
      · exact ⟨9, by rw [flagSlot, hmod, if_neg h0, if_neg hnm, if_neg h0], by decide, by simp [hpos, Nat.testBit], by simp [hnm, Nat.testBit],
          by simp [h0, Nat.testBit], by decide⟩
  have hbit (i : Nat) (hi : i < 4) : (BitVec.ofNat 64 (n * 65536 + l)).getLsbD i = l.testBit i := by
    have : n * 65536 + l = 2 ^ 16 * n + l := by omega
    rw [BitVec.getLsbD_ofNat, this, Nat.testBit_two_pow_mul_add _ (by omega)]
    simp [show i < 16 by omega, show i < 64 by omega]
  rw [hl, hbit 0 (by decide), hbit 1 (by decide), hbit 2 (by decide), hbit 3 (by decide)]
  refine ⟨h0, h1, h2, h3, ?_⟩
  simp only [bitsOf, BitVec.toNat_ofNat, Nat.shiftRight_eq_div_pow]
  omega

theorem writeFlag_ok {s : State} {h : Here} (slot : Nat) (v : W64) (e : s.here = some h) : writeFlag slot v s =
    .ok ((), s.modCtxHere fun y => { y with flagw := y.flagw ++ [{ eng := h.e, slot := slot, val := v, due := s.now + 3, secN := h.secN }] }) := by
  unfold writeFlag
  rw [here_bind e]
  rfl

/-- Settles O35: VTEST counts the enabled elements that meet its test into its flag slot. -/
theorem vtestWritesAFlagSlot : Obligations.VtestWritesAFlagSlot := by
  intro x s u h a en hg ha hm e
  have hlen : ((List.range (elemsOf x.type.toNat)).filter en).length ≤ 1024 :=
    (List.length_filter_le _ _).trans (by rw [List.length_range]; exact elemsOf_le _)
  refine ⟨run_ok ?_, flagSlot_fields hlen List.countP_le_length⟩
  rw [bind_ok hg, bind_ok ha]
  simp only [if_true]
  rw [bind_ok hm, bind_ok (writeFlag_ok _ _ e)]
  exact vEnd_ok 1 (by rw [here_isSome_modCtxHere]; exact here_isSome e)

end Sys2Proof.Machine
end

section
/-!
V's conversions and width changes, codes and blocks, and movement.
-/
namespace Sys2Proof.Machine

/-! ## Groups -/

theorem mapM_ok_inv {α : Type} {f : Nat → M α} {l : List Nat} {s u : State} {vs : List α} (hf : ∀ j v t t', f j t = .ok (v, t') → t' = t)
    (h : l.mapM f s = .ok (vs, u)) : u = s := by
  induction l generalizing s vs with
  | nil => cases h; rfl
  | cons j l ih =>
    rw [List.mapM_cons] at h
    obtain ⟨v, t, h1, h2⟩ := bind_ok_inv h
    obtain ⟨w, t', h3, h4⟩ := bind_ok_inv h2
    cases h4
    exact (ih h3).trans (hf _ _ _ _ h1)

theorem vGroup_state {r : BitVec 6} {g : Nat} {s u : State} {l : List VReg} (h : vGroup r g s = .ok (l, u)) : u = s :=
  mapM_ok_inv (fun _ _ _ _ h => (vReg_state h).1) h

theorem vFirst_here {r : BitVec 6} {g : Nat} {s u : State} {a : VIn} (h : vFirst r g s = .ok (a, u)) : u.here.isSome = true := by
  unfold vFirst at h
  split at h
  · exact (vSource_here h).2
  · obtain ⟨v, t, h1, h2⟩ := bind_ok_inv h
    obtain ⟨g, t', h3, h4⟩ := bind_ok_inv h2
    obtain ⟨e, rfl⟩ := here_ok_inv h3
    cases h4
    exact here_isSome e

theorem vWide_here {r : BitVec 6} {g w : Nat} {s u : State} {a : Nat → Nat} (h : vWide r g w s = .ok (a, u)) (hu : u.here.isSome = true) :
    s.here.isSome = true := by
  unfold vWide at h
  split at h
  · obtain ⟨v, t, h1, -⟩ := bind_ok_inv h
    exact (vSource_here h1).1
  · obtain ⟨v, t, h1, h2⟩ := bind_ok_inv h
    cases h2
    rw [← vGroup_state h1]
    exact hu

theorem vGroupCars_here {r : BitVec 6} {g : Nat} {s u : State} {l : List (VReg × Car)} (h : vGroupCars r g s = .ok (l, u)) :
    s.here.isSome = true := by
  unfold vGroupCars at h
  split at h
  · obtain ⟨v, t, h1, -⟩ := bind_ok_inv h
    exact (vSource_here h1).1
  · obtain ⟨v, t, h1, h2⟩ := bind_ok_inv h
    rw [← vGroup_state h1]
    obtain ⟨g, t', h3, h4⟩ := bind_ok_inv h2
    exact here_isSome (here_ok_inv h3).1

theorem commits_here {u : State} {res : List FRes} (h : u.commits res) : u.here.isSome = true := by
  obtain ⟨g, e, -⟩ := h
  exact here_isSome e

/-- What V commits reaches its destination group. -/
theorem vCommit_commits {s0 u : State} {v : VShape} {res : List FRes} {items : List (List W64)} (hc : u.commits res) (hf : u.vFreeGroup v.x.d.toNat v.g) :
    vCommit s0 v res items u =
      .ok ((), (u.vPutGroup v.x.d.toNat v.g (typeWidth v.dt) (res.map (flushF v.dt)) v.lat).vDone v.cyc) := by
  obtain ⟨h, e, hr, hs⟩ := hc
  exact vCommit_ok e hr hs hf

/-! ## Conversions -/

section
variable {x : RWord} {s u : State}

theorem execVcvt_on {a : Nat → Nat} {en : Nat → Bool} {rb : Nat → Nat} {res : List FRes} (hg : guardOn x.guard s = .ok (true, s)) (hsub : x.sub.toNat < 11)
    (ha : vWide x.a (max 1 (cvtGroups x).2) (typeWidth x.sub.toNat) s = .ok (a, u)) (hm : vMask x u = .ok (en, u)) (hr : vRand x u = .ok (rb, u))
    (hres : ((List.range (4096 / min (typeWidth x.type.toNat) (typeWidth x.sub.toNat))).map fun i =>
      if en i then convert x.type.toNat x.sub.toNat (vRounding x (rb i)) (a i)
      else if typeWidth x.type.toNat = typeWidth x.sub.toNat then bitRes (a i) else offElem x.type.toNat x.sub.toNat (a i)) = res)
    (hc : u.commits res) (hf : u.vFreeGroup x.d.toNat (max 1 (cvtGroups x).1)) :
    exec (.vcvt x) s = .next (s.commit ((u.vPutGroup x.d.toNat (max 1 (cvtGroups x).1) (typeWidth x.type.toNat) (res.map (flushF x.type.toNat)) 4).vDone
      (max (max 1 (cvtGroups x).2) (max 1 (cvtGroups x).1)))) := by
  refine run_ok ?_
  rw [get_bind_run, bind_ok (vGuard_on hg (vWide_here ha (commits_here hc)))]
  simp only [if_neg (Nat.not_le.mpr hsub), if_true]
  rw [bind_ok ha, bind_ok hm, bind_ok hr, hres]
  exact vCommit_commits (v := { ins := .vcvt x, x := x, dt := x.type.toNat, st := x.sub.toNat, g := max 1 (cvtGroups x).1, lat := 4, cyc := _ }) hc hf

theorem execVcvt_off {a : VIn} (hs : s.unanswered) (hg : guardOn x.guard s = .ok (false, s))
    (ha : vFirst x.a (max 1 (cvtGroups x).2) s = .ok (a, u)) (hd : x.d.toNat < 32 ∨ u.vFree x.d.toNat) :
    exec (.vcvt x) s = .next (s.commit (u.vOffDone x.d.toNat a (typeWidth x.type.toNat))) := by
  refine run_ok ?_
  rw [get_bind_run, bind_ok (vGuard_off hg hs)]
  by_cases hsub : 11 ≤ x.sub.toNat
  · simp only [if_pos hsub]
    unfold cvtFromBx
    simp only [Bool.false_eq_true, if_false]
    rw [bind_ok ha]
    exact vOff_ok (vFirst_here ha) hd
  · simp only [if_neg hsub, Bool.false_eq_true, if_false]
    rw [bind_ok ha]
    exact vOff_ok (vFirst_here ha) hd

section
variable {l : List (VReg × Car)} {en : Nat → Bool} {rb : Nat → Nat} (hg : guardOn x.guard s = .ok (true, s)) (hsub : 11 ≤ x.sub.toNat)
  (hl : vGroupCars x.a (max 1 (cvtGroups x).2) s = .ok (l, u)) (hm : vMask x u = .ok (en, u)) (hr : vRand x u = .ok (rb, u))
include hg hsub hl hm hr

theorem execVcvt_bx_trap {h : Here} (hbad : (l.any fun p => badCar x.sub.toNat p.2) = true) (e : u.here = some h) (hq : h.eng.req = .none) :
    exec (.vcvt x) s = .next (s.raise { cause := 5 }) := by
  refine run_trap ?_
  rw [get_bind_run, bind_ok (vGuard_on hg (vGroupCars_here hl))]
  simp only [if_pos hsub]
  unfold cvtFromBx
  simp only [if_true]
  rw [bind_ok hl, bind_ok hm, bind_ok hr, here_bind e, if_pos]
  · rfl
  · simp only [hq, Bool.and_eq_true]
    exact ⟨rfl, hbad⟩

theorem execVcvt_bx {res : List FRes} (hgood : (l.any fun p => badCar x.sub.toNat p.2) = false)
    (hres : ((List.range (4096 / min (typeWidth x.type.toNat) (typeWidth x.sub.toNat))).map fun i =>
      if en i then fromValue x.type.toNat (vRounding x (rb i)) (vBx x.sub.toNat (groupElem (l.map (·.1)) (typeWidth x.sub.toNat) i)
        (((l[i % max 1 (cvtGroups x).2]?).map (·.2)).getD 0) (i / max 1 (cvtGroups x).2 / 32))
      else if typeWidth x.type.toNat = typeWidth x.sub.toNat then bitRes (groupElem (l.map (·.1)) (typeWidth x.sub.toNat) i)
      else ⟨(fromValue x.type.toNat rtz (vBx x.sub.toNat (groupElem (l.map (·.1)) (typeWidth x.sub.toNat) i)
        (((l[i % max 1 (cvtGroups x).2]?).map (·.2)).getD 0) (i / max 1 (cvtGroups x).2 / 32))).bits, false⟩) = res)
    (hc : u.commits res) (hf : u.vFreeGroup x.d.toNat (max 1 (cvtGroups x).1)) :
    exec (.vcvt x) s = .next (s.commit ((u.vPutGroup x.d.toNat (max 1 (cvtGroups x).1) (typeWidth x.type.toNat) (res.map (flushF x.type.toNat)) 4).vDone
      (max (max 1 (cvtGroups x).2) (max 1 (cvtGroups x).1)))) := by
  obtain ⟨h, e⟩ := Option.isSome_iff_exists.mp (commits_here hc)
  refine run_ok ?_
  rw [get_bind_run, bind_ok (vGuard_on hg (vGroupCars_here hl))]
  simp only [if_pos hsub]
  unfold cvtFromBx
  simp only [if_true]
  rw [bind_ok hl, bind_ok hm, bind_ok hr, here_bind e, if_neg]
  · rw [hres]
    exact vCommit_commits (v := { ins := .vcvt x, x := x, dt := x.type.toNat, st := x.sub.toNat, g := max 1 (cvtGroups x).1, lat := 4, cyc := _ }) hc hf
  · rw [Bool.and_eq_true, not_and]
    exact fun _ hbad => Bool.false_ne_true (hgood.symm.trans hbad)

end

/-! ## Width changes -/

/-- A widening word that executes commits an element for each of its narrow type's. -/
theorem widenWord_on {ins : Instr} {mad : Bool} {fi : Int → Int → Int → Int} {ff : FVal → FVal → FVal → Exact} {u1 u2 : State} {a : Nat → Nat}
    {b c : VIn} {en : Nat → Bool} {rb : Nat → Nat} {res : List FRes} (hg : guardOn x.guard s = .ok (true, s))
    (ha : vWide x.a (if mad then widenGroup x else 1) (if mad then typeWidth (wideType x) else typeWidth x.type.toNat) s = .ok (a, u1))
    (hb : vSource x.b u1 = .ok (b, u2)) (hcc : vSourceIf mad x.c u2 = .ok (c, u)) (hm : vMask x u = .ok (en, u)) (hr : vRand x u = .ok (rb, u))
    (hres : ((List.range (elemsOf x.type.toNat)).map fun i =>
      if en i then
        if 8 ≤ x.type.toNat then roundF (wideType x) (vRounding x (rb i)) (ff (unpackF (if mad then wideType x else x.type.toNat) (a i))
          (unpackF x.type.toNat (b.elem (typeWidth x.type.toNat) i)) (unpackF x.type.toNat (c.elem (typeWidth x.type.toNat) i)))
        else intRes (wideType x) false (fi (intVal (if mad then wideType x else x.type.toNat) (a i))
          (intVal x.type.toNat (b.elem (typeWidth x.type.toNat) i)) (intVal x.type.toNat (c.elem (typeWidth x.type.toNat) i)))
      else if mad then bitRes (a i) else offElem (wideType x) x.type.toNat (a i)) = res)
    (hc : u.commits res) (hf : u.vFreeGroup x.d.toNat (widenGroup x)) :
    widenWord ins x mad fi ff s = .ok ((), (u.vPutGroup x.d.toNat (widenGroup x) (typeWidth (wideType x)) (res.map (flushF (wideType x))) 4).vDone
      (widenGroup x)) := by
  unfold widenWord
  rw [get_bind_run, bind_ok (vGuard_on hg (vWide_here ha (vSource_here hb).1))]
  simp only [if_true]
  rw [bind_ok ha, bind_ok hb, bind_ok hcc, bind_ok hm, bind_ok hr]
  rw [hres]
  exact vCommit_commits (v := { ins := ins, x := x, dt := wideType x, st := x.type.toNat, g := widenGroup x, lat := 4, cyc := widenGroup x }) hc hf

/-- Guarded off it only takes what its sources are. -/
theorem widenWord_off {ins : Instr} {mad : Bool} {fi : Int → Int → Int → Int} {ff : FVal → FVal → FVal → Exact} {l : List VIn}
    (hs : s.unanswered) (hg : guardOn x.guard s = .ok (false, s)) (hl : vSources [(!mad, x.a), (true, x.b), (mad, x.c)] s = .ok (l, u)) :
    widenWord ins x mad fi ff s = .ok ((), u.advanced) := by
  obtain ⟨a, l1, t1, h1, hl1, rfl⟩ := vSources_cons hl
  obtain ⟨b, l2, t2, h2, hl2, rfl⟩ := vSources_cons hl1
  obtain ⟨c, l3, t3, h3, hl3, rfl⟩ := vSources_cons hl2
  cases hl3
  unfold widenWord
  rw [get_bind_run, bind_ok (vGuard_off hg hs)]
  simp only [Bool.false_eq_true, if_false]
  refine (bind_ok h1).trans ((bind_ok h2).trans ((bind_ok h3).trans ?_))
  exact vEnd_ok 1 (vSourceIf_here h3 (vSource_here h2).2)

theorem execVnrw_on {b : VIn} {l : List VReg} {en : Nat → Bool} {rb : Nat → Nat} {res : List FRes} (hg : guardOn x.guard s = .ok (true, s))
    (hb : vSource x.b s = .ok (b, u)) (hl : vGroup x.a (narrowGroup x) u = .ok (l, u)) (hm : vMask x u = .ok (en, u)) (hr : vRand x u = .ok (rb, u))
    (hf : u.vFree x.d.toNat)
    (hres : ((List.range (elemsOf (narrowType x))).map fun i =>
      let z := intVal x.type.toNat (groupElem l (typeWidth x.type.toNat) i)
      if en i then bitRes (satInt (narrowType x) (roundInt (vRounding x (rb i)) (decide (z < 0)) z.natAbs (2 ^ (b.low.toNat % typeWidth x.type.toNat)) 0))
      else offElem (narrowType x) x.type.toNat (groupElem l (typeWidth x.type.toNat) i)) = res) (hc : u.commits res) :
    exec (.vnrw x) s = .next (s.commit ((u.vPut x.d.toNat (packElems (typeWidth (narrowType x)) (res.map (flushF (narrowType x)))) none 4).vDone
      (narrowGroup x))) := by
  refine run_ok ?_
  rw [get_bind_run, bind_ok hg]
  simp only [if_true]
  rw [bind_ok hb, bind_ok hl, bind_ok hm, bind_ok hr]
  simp only at hres ⊢
  rw [hres]
  exact vCommit_commits (v := { ins := .vnrw x, x := x, dt := narrowType x, st := x.type.toNat, g := 1, lat := 4, cyc := narrowGroup x }) hc hf

end

/-- Settles O36: conversions and width changes commit their results, or pass on what a guard keeps from them. -/
theorem widthChangesWriteTheirResults : Obligations.WidthChangesWriteTheirResults := by
  refine ⟨fun x s u a en rb hg hsub ha hm hr hc hf => execVcvt_on hg hsub ha hm hr rfl hc hf, ?_,
    fun x s u1 u2 u a b c en rb hg ha hb hcc hm hr hc hf => run_ok (widenWord_on (mad := true) hg ha hb hcc hm hr rfl hc hf),
    fun x s u b l en rb hg hb hl hm hr _ hf hc => execVnrw_on hg hb hl hm hr hf rfl hc,
    fun x s u l en rb hg hsub hl hm hr => ⟨fun hbad ⟨h, e, hq⟩ => execVcvt_bx_trap hg hsub hl hm hr hbad e hq,
      fun hgood hc hf => execVcvt_bx hg hsub hl hm hr hgood rfl hc hf⟩,
    fun x s u a hs hg ha hd => execVcvt_off hs hg ha hd,
    fun x s u l hs hg => ⟨fun hl => ⟨run_ok (widenWord_off (mad := false) hs hg hl), run_ok (widenWord_off (mad := false) hs hg hl)⟩,
      fun hl => run_ok (widenWord_off (mad := true) hs hg hl)⟩, fun x s u h b v hg hb hv e hd => run_ok ?_⟩
  · simp only [List.forall_mem_cons, List.not_mem_nil, false_imp_iff, implies_true, and_true]
    exact ⟨fun x s u1 u a b en rb hg ha hb hm hr hc hf => run_ok (widenWord_on (mad := false) (c := ⟨0, 0, none⟩) hg ha hb rfl hm hr rfl hc hf),
      fun x s u1 u a b en rb hg ha hb hm hr hc hf => run_ok (widenWord_on (mad := false) (c := ⟨0, 0, none⟩) hg ha hb rfl hm hr rfl hc hf)⟩
  · rw [get_bind_run, bind_ok hg]
    simp only [Bool.false_eq_true, if_false]
    rw [bind_ok hb, bind_ok hv, here_bind e]
    exact vOff_ok (here_isSome e) hd

/-! ## Codes and blocks -/

/-- Settles O37: VUNPK, VPACK, VLUT and VBXN. -/
theorem codesAndBlocks : Obligations.CodesAndBlocks := by
  refine fun x s hg => ⟨fun lo hi p u hlo hp hhi hf => run_ok ?_, fun a u ha hf => run_ok ?_, fun a b u en ht hm hf _ hc => run_ok ?_,
    fun l rb hl hr => ⟨fun ⟨v, hv, hsp⟩ => run_trap ?_, fun hsp hf => run_ok ?_⟩⟩
  · obtain ⟨h, e⟩ := Option.isSome_iff_exists.mp (vSource_here hp).2
    rw [bind_ok hg, bind_ok hlo, bind_ok hp, here_bind e]
    simp only [if_true]
    rw [bind_ok hhi]
    exact vOut_end 2 hf
  · rw [bind_ok hg, bind_ok ha]
    exact vOut_end 1 hf
  · obtain ⟨t, h1, h2⟩ := vSources_two ht
    rw [get_bind_run, bind_ok hg]
    refine (bind_ok h1).trans ((bind_ok h2).trans ?_)
    simp only [if_true]
    rw [bind_ok hm]
    exact vCommit_commits (v := { ins := .vlut x, x := x, dt := 9, st := 3, g := 2, lat := 3, cyc := 2 }) hc hf
  · rw [bind_ok hg]
    simp only [if_true]
    rw [bind_ok hl, bind_ok hr, if_pos]
    · rfl
    · exact List.any_eq_true.mpr ⟨v, hv, hsp⟩
  · rw [bind_ok hg]
    simp only [if_true]
    rw [bind_ok hl, bind_ok hr, if_neg]
    · exact vOut_end _ hf
    · rw [Bool.not_eq_true, List.any_eq_false]
      exact fun v hv => by simp [hsp v hv]

/-! ## Movement -/

theorem moveWord_ok {x : RWord} {lat cyc : Nat} {a : VIn} {f : Nat → Nat} {u : State} {en : Nat → Bool} (hm : vMask x u = .ok (en, u))
    (hf : u.vFree x.d.toNat) : moveWord x lat cyc a f u = .ok ((), (u.vPut x.d.toNat (movedReg x a en f) none lat).vDone cyc) := by
  unfold moveWord
  rw [bind_ok hm]
  exact vOut_end _ hf

/-- Settles O38: the movement words put the elements they pick, VMOVI its immediate in every element. -/
theorem movementWords : Obligations.MovementWords := by
  refine ⟨fun x s u a b c en hg hm hf => ⟨fun ha => ⟨fun ix hix => run_ok ?_, fun ht => run_ok ?_, fun ht => run_ok ?_⟩,
    fun ht => ⟨fun ix hix => run_ok ?_, run_ok ?_⟩, fun ht => run_ok ?_⟩,
    fun x s on hg hsub => ⟨fun hput hf =>
      ⟨packElems (typeWidth x.sub.toNat) (List.replicate (elemsOf x.sub.toNat) (x.imm.toNat % 2 ^ typeWidth x.sub.toNat)), run_ok ?_, fun i hi => ?_⟩, fun hoff hd hs => run_ok ?_⟩⟩
  · rw [bind_ok hg, bind_ok ha]
    simp only [if_true]
    rw [bind_ok hix]
    exact moveWord_ok hm hf
  · rw [bind_ok hg, bind_ok ha]
    simp only [if_true, if_neg (show ¬ 11 ≤ x.type.toNat by omega)]
    exact moveWord_ok hm hf
  · rw [bind_ok hg, bind_ok ha]
    simp only [if_true, if_pos ht]
    exact vOut_end 1 hf
  · obtain ⟨t, h1, h2⟩ := vSources_two ht
    rw [bind_ok hg]
    refine (bind_ok h1).trans ((bind_ok h2).trans ?_)
    simp only [if_true]
    rw [bind_ok hix]
    exact moveWord_ok hm hf
  · obtain ⟨t, h1, h2⟩ := vSources_two ht
    rw [bind_ok hg]
    exact (bind_ok h1).trans ((bind_ok h2).trans (moveWord_ok hm hf))
  · obtain ⟨t, t', h1, h2, h3⟩ := vSources_three ht
    rw [bind_ok hg]
    exact (bind_ok h1).trans ((bind_ok h2).trans ((bind_ok h3).trans (moveWord_ok hm hf)))
  · rw [bind_ok hg]
    simp only [show (on || decide (32 ≤ x.d.toNat)) = true by simpa using hput, if_true]
    exact vOut_end 1 hf
  · rw [vElem_packElems _ (elem_within hi), List.getElem?_replicate, if_pos hi]
    simp
  · rw [bind_ok hg]
    simp only [hoff, Bool.false_or, decide_eq_true_eq, if_neg (Nat.not_le.mpr hd)]
    exact vEnd_ok 1 hs

end Sys2Proof.Machine
end

section
/-!
V's words over tiles and operand queues, and VCHAIN.
-/
namespace Sys2Proof.Machine

theorem imageOk_ok {view : State} {c : Nat} {v : Shape} {l : List (Nat × Nat)} (s : State) (h : view.badImage c v l = none) :
    imageOk view c v l s = .ok ((), s) := by
  simp [imageOk, h]

theorem vTileWrite_ok (h : Here) (t : Nat) (v : Shape) (bytes : List (Nat × Byte × Byte)) (s : State) : vTileWrite h t v bytes s =
    .ok ((), s.modCtxHere fun y => { y with twrites := y.twrites ++
      [{ t := t, bytes := bytes, due := s.now + tileLat v - 1, issued := s.now, secN := h.secN }] }) := rfl

/-- Settles O39: VTLD and VTST move a block, VQPUSH and VQPOP an entry. -/
theorem tilesAndOperandQueues : Obligations.TilesAndOperandQueues := by
  refine ⟨fun x s h v e hg => ⟨fun hv => ⟨fun hm => run_trap ?_, fun hm hi hf => run_ok ?_⟩, fun d u g hd eg hv => ⟨fun hbad => run_trap ?_, fun hm hw => run_ok ?_⟩⟩,
    fun x s u on a hg ha => ⟨fun hd hf => run_ok ?_, fun hd hf hon => run_ok ?_, fun hoff hs => run_ok ?_⟩⟩
  · rw [bind_ok hg]
    simp only [if_true]
    rw [here_bind e, bind_ok hv]
    simp only [hm, Bool.not_false, if_true]
    rfl
  · rw [bind_ok hg]
    simp only [if_true]
    rw [here_bind e, bind_ok hv]
    simp only [hm, Bool.not_true, Bool.false_eq_true, if_false]
    rw [get_bind_run, bind_ok (imageOk_ok s hi)]
    exact vOut_end _ hf
  · rw [bind_ok hg]
    simp only [if_true]
    rw [bind_ok hd, here_bind eg, bind_ok hv, if_pos (by simpa using hbad)]
    rfl
  · rw [bind_ok hg]
    simp only [if_true]
    rw [bind_ok hd, here_bind eg, bind_ok hv, if_neg (by simp [hm, hw]), bind_ok (vTileWrite_ok _ _ _ _ _)]
    exact vEnd_ok _ (by rw [here_isSome_modCtxHere]; exact here_isSome eg)
  · rw [bind_ok hg, bind_ok ha, bind_ok (pushEntry_ok hd hf)]
    exact vEnd_ok 1 (by rw [here_isSome_vPut]; exact vFree_here hf)
  · rw [bind_ok hg, bind_ok ha]
    simp only [hon, if_true]
    rw [bind_ok (vWrite_ok _ _ _ hd hf)]
    exact vEnd_ok 1 (by rw [here_isSome_vPut]; exact vFree_here hf)
  · rw [bind_ok hg, bind_ok ha]
    simp only [hoff, Bool.false_eq_true, if_false]
    exact vEnd_ok 1 hs

/-! ## Chains -/

/-- VCHAIN with the tiles it names, up to the check of its descriptor. -/
theorem execVchain_tiles {x : TWord} {s : State} {h : Here} {a d : Shape} {b : Option Shape} {F : Shape → Option Shape → Shape → M Unit}
    (ha : chainTile h x.ta.toNat s = .ok (a, s))
    (hb : if x.cmd.getLsbD 0 then ∃ v, chainTile h x.tb.toNat s = .ok (v, s) ∧ b = some v else b = none)
    (hd : chainTile h x.td.toNat s = .ok (d, s)) :
    (do
      let a ← chainTile h x.ta.toNat
      let b ← if x.cmd.getLsbD 0 then do
          let v ← chainTile h x.tb.toNat
          pure (some v)
        else pure none
      let d ← chainTile h x.td.toNat
      F a b d) s = F a b d s := by
  rw [bind_ok ha]
  by_cases hc : x.cmd.getLsbD 0 = true
  · rw [if_pos hc] at hb
    obtain ⟨v, hv, rfl⟩ := hb
    simp only [if_pos hc]
    rw [bind_ok hv]
    exact bind_ok hd
  · rw [if_neg hc] at hb
    subst hb
    simp only [if_neg hc]
    exact bind_ok hd

/-- The images of the tiles a group reads. -/
theorem imagesOk {view : State} {c : Nat} {b : Option Shape} {l : Shape → List (Nat × Nat)} {F : M Unit} {s : State}
    (hb : ∀ v, b = some v → view.badImage c v (l v) = none) :
    (match (generalizing := false) b with
      | some v => do
        imageOk view c v (l v)
        F
      | none => do
        pure ()
        F : M Unit) s = F s := by
  cases b with
  | none => rfl
  | some v => exact bind_ok (imageOk_ok s (hb v rfl))

/-- The end of a turn of VCHAIN: its group is written, and the word ends or goes on to the next. -/
def chainWrite (h : Here) (x : TWord) (ch : Chain) (d : Shape) (res : List FRes) : M Unit := do
  vTileWrite h x.td.toNat d (groupPut d (h.eng.chain * elemsOf ch.type) (res.map (·.bits)))
  let s ← get
  if d.numel ≤ h.eng.chain * elemsOf ch.type + elemsOf ch.type then vEnd ch.ops.length
  else modEng fun en => { en with chain := en.chain + 1, ready := s.now + ch.ops.length, chained := wordTiles (.vchain x) }

section
variable {x : TWord} {s : State} {h : Here} {a d : Shape} {b : Option Shape} (e : s.here = some h) (hg : guardOn x.guard s = .ok (true, s))
  (ha : chainTile h x.ta.toNat s = .ok (a, s))
  (hb : if x.cmd.getLsbD 0 then ∃ v, chainTile h x.tb.toNat s = .ok (v, s) ∧ b = some v else b = none)
  (hd : chainTile h x.td.toNat s = .ok (d, s))
include e hg ha hb hd

theorem execVchain_wrong (hbad : chainOk (chainBits h (x.preg.toNat - 48)) (x.cmd.getLsbD 0) = false ∨
    chainTiles (chainOf (chainBits h (x.preg.toNat - 48))).type a b d = false) : exec (.vchain x) s = .next (s.raise { cause := 5 }) := by
  refine run_trap ?_
  rw [get_bind_run, bind_ok hg]
  simp only [if_true]
  rw [here_bind e]
  refine (execVchain_tiles ha hb hd).trans ((congrFun (if_pos ?_) s).trans rfl)
  obtain hbad | hbad := hbad
  · rw [hbad]; rfl
  · rw [hbad]; exact Bool.or_true _

/-- A turn whose group has no subnormal result. -/
theorem execVchain_group {ch : Chain} {l : List Nat} {res : List FRes} (hq : ∀ ok l, h.eng.req ≠ .answer ok l)
    (hch : ch = chainOf (chainBits h (x.preg.toNat - 48)))
    (hl : l = (List.range (min (elemsOf ch.type) (d.numel - h.eng.chain * elemsOf ch.type))).map (h.eng.chain * elemsOf ch.type + ·))
    (hres : res = (s.vView h.c h.k).chainGroup h x ch a b d (h.eng.chain * elemsOf ch.type) (min (elemsOf ch.type) (d.numel - h.eng.chain * elemsOf ch.type)))
    (hok : chainOk (chainBits h (x.preg.toNat - 48)) (x.cmd.getLsbD 0) = true) (htiles : chainTiles ch.type a b d = true)
    (hra : (s.vView h.c h.k).badImage h.c a (a.linearReads l) = none) (hrb : ∀ v, b = some v → (s.vView h.c h.k).badImage h.c v (v.linearReads l) = none)
    (hsub : ∀ r ∈ res, r.sub = false) : exec (.vchain x) s = run (chainWrite h x ch d res) s := by
  subst hch hl hres
  refine run_congr ?_
  rw [get_bind_run, bind_ok hg]
  simp only [if_true]
  rw [here_bind e]
  refine (execVchain_tiles ha hb hd).trans ?_
  simp only [hok, htiles, Bool.not_true, Bool.or_self, Bool.false_eq_true, if_false]
  rw [bind_ok (assistAnswer_none e hq), get_bind_run, bind_ok (imageOk_ok s hra)]
  refine (imagesOk hrb).trans ?_
  simp only [Option.isSome_none, Bool.false_eq_true, if_false, List.findIdx?_eq_none_iff.mpr hsub]
  rfl

end

theorem chainWrite_last {h : Here} {x : TWord} {ch : Chain} {d : Shape} {s : State} (res : List FRes) (hs : s.here.isSome = true)
    (hl : d.numel ≤ h.eng.chain * elemsOf ch.type + elemsOf ch.type) :
    chainWrite h x ch d res s = .ok ((), (s.modCtxHere fun y => { y with twrites := y.twrites ++
      [{ t := x.td.toNat, bytes := groupPut d (h.eng.chain * elemsOf ch.type) (res.map (·.bits)), due := s.now + tileLat d - 1, issued := s.now,
         secN := h.secN }] }).vDone ch.ops.length) := by
  unfold chainWrite
  rw [bind_ok (vTileWrite_ok _ _ _ _ _), get_bind_run, if_pos hl]
  exact vEnd_ok _ (by rw [here_isSome_modCtxHere]; exact hs)

theorem chainWrite_more {h : Here} {x : TWord} {ch : Chain} {d : Shape} {s : State} (res : List FRes)
    (hl : h.eng.chain * elemsOf ch.type + elemsOf ch.type < d.numel) :
    chainWrite h x ch d res s = .ok ((), (s.modCtxHere fun y => { y with twrites := y.twrites ++
      [{ t := x.td.toNat, bytes := groupPut d (h.eng.chain * elemsOf ch.type) (res.map (·.bits)), due := s.now + tileLat d - 1, issued := s.now,
         secN := h.secN }] }).modHere fun en => { en with chain := en.chain + 1, ready := s.now + ch.ops.length, chained := wordTiles (.vchain x) }) := by
  unfold chainWrite
  rw [bind_ok (vTileWrite_ok _ _ _ _ _), get_bind_run, if_neg (Nat.not_le.mpr hl), modEng_ok]
  simp only [modCtxHere_now]

/-- Settles O40: a turn of VCHAIN with no subnormal result writes its group, and ends the word after the last. -/
theorem chainsWriteGroups : Obligations.ChainsWriteGroups := by
  intro x s h a d b e hg hq ha hb hd
  refine ⟨fun hbad => execVchain_wrong e hg ha hb hd hbad, fun hok htiles hra hrb hsub => ?_⟩
  rw [execVchain_group e hg ha hb hd hq rfl rfl rfl hok htiles hra hrb hsub]
  exact ⟨fun hlast => run_ok (chainWrite_last _ (here_isSome e) hlast), fun hmore => run_ok (chainWrite_more _ hmore)⟩

end Sys2Proof.Machine
end

section
/-!
The table words and width changes from conditions on the state alone: what a request's end leaves of the tables, and when V's operands can be read.
-/
namespace Sys2Proof.Machine

/-! ## What the issuing engine's place leaves of the tables -/

theorem sameFor_withReg {α : Type} {p : Ctx → α} (hp : EngineBlind p) (s : State) (r : Nat) (v : W64) (lat : Nat) : SameFor p s (s.withReg r v lat) := by
  unfold State.withReg
  split
  · exact .refl s
  · simp only
    split
    · exact sameFor_modRegs hp _ _
    · exact (sameFor_modRegs hp _ _).trans (sameFor_modHere hp _ _)

theorem sameFor_advanced {α : Type} {p : Ctx → α} (hp : EngineBlind p) {s : State} (hs : s.here.isSome = true) : SameFor p s s.advanced :=
  (sameFor_advance (s := s) hp s (.refl s)).1 () _ (advance_eq hs)

theorem tiles_blind : EngineBlind (·.tiles) := ⟨fun _ _ => rfl, fun _ _ => rfl⟩
theorem recs_blind : EngineBlind (·.recs) := ⟨fun _ _ => rfl, fun _ _ => rfl⟩

/-- The tiles of each slot of a core. -/
def Core.slotTiles (co : Core) : List (List (Nat × Tile)) := co.slots.map fun x => (x.map (·.tiles)).getD []

theorem liveTiles_eq (co : Core) : co.liveTiles = co.slotTiles.zipIdx.flatMap fun (l, k) => l.map fun (t, d) => (k, t, d) := by
  simp [Core.liveTiles, Core.slotTiles, List.zipIdx_map, List.flatMap_map]

/-- A change of the contexts' places keeps a core's live tiles. -/
theorem liveTiles_modCtx (co : Core) (k : Nat) {f : Ctx → Ctx} (hf : ∀ x, (f x).tiles = x.tiles) :
    ({ co with slots := co.slots.modify k (Option.map f) } : Core).liveTiles = co.liveTiles := by
  have h : ({ co with slots := co.slots.modify k (Option.map f) } : Core).slotTiles = co.slotTiles := by
    apply List.ext_getElem?
    intro i
    simp only [Core.slotTiles, List.getElem?_map, List.getElem?_modify]
    cases co.slots[i]? with
    | none => rfl
    | some x =>
      by_cases hk : k = i
      · cases x <;> simp [hk, hf]
      · simp [hk]
  rw [liveTiles_eq, liveTiles_eq, h]

/-- Cores with the same tiles have the same room for another. -/
theorem tileRoom_congr {s t : State} {c : Nat} (o : Obj) (hc : t.cores.map Core.liveTiles = s.cores.map Core.liveTiles) (hd : t.dies = s.dies) :
    t.tileRoom c o = s.tileRoom c o := by
  have hget (i : Nat) : (t.cores[i]?).map Core.liveTiles = (s.cores[i]?).map Core.liveTiles := by
    rw [← List.getElem?_map, ← List.getElem?_map, hc]
  have hgran (d : Nat) : t.usedGranules d = s.usedGranules d := by
    have key (u : State) : u.usedGranules d = (u.cores.map Core.liveTiles).zipIdx.flatMap fun (l, c) => if dieOf c = d then
        l.filterMap fun (_, _, t) => let v := shapeOf t.obj; if v.level = 1 then some (v.first, v.count) else none else [] := by
      simp [State.usedGranules, List.zipIdx_map, List.flatMap_map]
    rw [key, key, hc]
  have h := hget c
  unfold State.tileRoom
  cases ht : t.cores[c]? with
  | none =>
    cases hs : s.cores[c]? with
    | none => rfl
    | some co => simp [ht, hs] at h
  | some co =>
    cases hs : s.cores[c]? with
    | none => simp [ht, hs] at h
    | some co' =>
      simp only [ht, hs, Option.map_some, Option.some.injEq] at h
      simp only [Core.usedStripes, h, hgran, hd]

/-- A change of a context's place keeps every core's live tiles. -/
theorem cores_liveTiles_modCtx (s : State) (c k : Nat) {f : Ctx → Ctx} (hf : ∀ x, (f x).tiles = x.tiles) :
    (s.modCtx c k f).cores.map Core.liveTiles = s.cores.map Core.liveTiles := by
  apply List.ext_getElem?
  intro i
  simp only [State.modCtx, modCore_cores, List.getElem?_map, List.getElem?_modify]
  cases s.cores[i]? with
  | none => rfl
  | some co =>
    by_cases h : c = i
    · simp [h, liveTiles_modCtx co k hf]
    · simp [h]

/-- The records a core's contexts hold. -/
theorem heldRecords_modCtx (l : List (Option Ctx)) (k : Nat) {f : Ctx → Ctx} (hf : ∀ x, (f x).recs = x.recs) :
    (l.modify k (Option.map f)).foldl (fun n y => n + ((y.map (·.recs)).getD []).length) 0 =
      l.foldl (fun n y => n + ((y.map (·.recs)).getD []).length) 0 := by
  have h : (l.modify k (Option.map f)).map (fun y => ((y.map (·.recs)).getD []).length) = l.map fun y => ((y.map (·.recs)).getD []).length := by
    apply List.ext_getElem?
    intro i
    simp only [List.getElem?_map, List.getElem?_modify]
    cases l[i]? with
    | none => rfl
    | some x =>
      by_cases hk : k = i
      · cases x <;> simp [hk, hf]
      · simp [hk]
  rw [← List.foldl_map (f := fun y : Option Ctx => ((y.map (·.recs)).getD []).length) (g := (· + ·)), h, List.foldl_map]

/-- A change of any context that leaves its engines alone leaves the issuing engine's place. -/
theorem here_modCtx_engs {s : State} {h : Here} (e : s.here = some h) (c k : Nat) {f : Ctx → Ctx} (hf : ∀ x, (f x).engs = x.engs) :
    ∃ x, (s.modCtx c k f).here = some { h with ctx := x } := by
  by_cases hk : c = h.c ∧ k = h.k
  · obtain ⟨rfl, rfl⟩ := hk
    obtain ⟨co, hseat, -, -, hc, -, -⟩ := here_some_iff.mp e
    have hm : s.modCtx h.c h.k f = s.modCtxHere f := by simp only [State.modCtxHere, hseat, hc]
    rw [hm]
    exact ⟨_, here_modCtxHere_engs e f hf⟩
  · obtain ⟨co, hseat, hco, hx, hc, he, heng⟩ := here_some_iff.mp e
    refine ⟨h.ctx, here_some_iff.mpr ⟨if c = s.curCore then { co with slots := co.slots.modify k (Option.map f) } else co, ?_, ?_, ?_, hc, he, ?_⟩⟩
    · rw [seat_modCtx]; exact hseat
    · simp only [State.modCtx, modCore_cores, modCore_curCore, List.getElem?_modify, hco]
      split <;> rfl
    · have hne : ¬ (c = (s.modCtx c k f).curCore ∧ k = h.k) := fun hh => hk ⟨hh.1.trans hc.symm, hh.2⟩
      rw [ctx?_modCtx, if_neg hne]
      exact hx
    · rw [heng]
      cases h.asst with
      | false => rfl
      | true =>
        simp only [if_true]
        split <;> rfl

theorem here_modCore {s : State} {h : Here} (e : s.here = some h) {c : Nat} {f : Core → Core} (hs : ∀ co, (f co).slots = co.slots)
    (hc : ∀ co, (f co).cur = co.cur) (ha : ∀ co, (f co).assist = co.assist) : (s.modCore c f).here = some h := by
  obtain ⟨co, hseat, hco, hx, h1, h2, h3⟩ := here_some_iff.mp e
  refine here_some_iff.mpr ⟨if c = s.curCore then f co else co, ?_, ?_, ?_, h1, h2, ?_⟩
  · rw [seat_modCore hc fun co => by rw [ha]]; exact hseat
  · simp only [modCore_cores, modCore_curCore, List.getElem?_modify, hco]
    split <;> rfl
  · rw [modCore_curCore, ctx?_modCore]
    split
    · simpa [hs, State.ctx?] using hx
    · exact hx
  · rw [h3]
    by_cases hcc : c = s.curCore <;> simp [hcc, ha]

/-- The state a table word that has its answer goes on from: a register free before is free in it. -/
theorem regFree_answered {s : State} {h : Here} (e : s.here = some h) {r : Nat} (hb : r = 0 ∨ h.eng.isBusy s.now r = false) :
    (s.modHere fun en => { en with req := .none }).regFree r := by
  obtain rfl | hb := hb
  · exact .inl rfl
  · obtain ⟨g, eg, hbusy⟩ := modHere_here_busy e (f := fun en => { en with req := .none }) fun _ => rfl
    refine .inr ⟨g, eg, ?_⟩
    rw [modHere_now, EngSt.isBusy, hbusy]
    exact hb

theorem regFree_modCtx {s : State} {r c k : Nat} {f : Ctx → Ctx} (hf : ∀ x, (f x).engs = x.engs) (h : s.regFree r) : (s.modCtx c k f).regFree r := by
  obtain rfl | ⟨g, e, hb⟩ := h
  · exact .inl rfl
  · obtain ⟨x, hx⟩ := here_modCtx_engs e c k hf
    exact .inr ⟨_, hx, hb⟩

theorem regFree_placeTile {s : State} {r c k t : Nat} {o : Obj} {first count live : Nat} (h : s.regFree r) :
    (s.placeTile c k t o first count live).regFree r := by
  obtain rfl | ⟨g, e, hb⟩ := h
  · exact .inl rfl
  · unfold State.placeTile
    refine regFree_modCtx (fun _ => rfl) ?_
    split
    · exact .inr ⟨g, here_modCore (s := ({ s with bad := _ } : State).cleanTable (tileKey c k t)) e (fun _ => rfl) (fun _ => rfl) (fun _ => rfl), hb⟩
    · exact .inr ⟨g, e, hb⟩

theorem ctx?_placeTile (s : State) (c k t : Nat) (o : Obj) (first count live : Nat) : (s.placeTile c k t o first count live).ctx? c k =
    (s.ctx? c k).map fun x => { x with tiles := x.tiles ++ [(t, { obj := sealObj o first count, dirty := [], live := live })] } := by
  unfold State.placeTile
  rw [ctx?_modCtx, if_pos ⟨rfl, rfl⟩]
  congr 1
  split
  · refine (ctx?_modCore _ _ _ _ _).trans ?_
    rw [if_pos rfl]
    rfl
  · rfl

theorem SameFor.some {α : Type} {p : Ctx → α} {s t : State} (h : SameFor p s t) {c k : Nat} {x : Ctx} (hx : s.ctx? c k = some x) :
    ∃ y, t.ctx? c k = some y ∧ p y = p x := by
  have hk := h c k
  rw [hx, Option.map_some] at hk
  exact Option.map_eq_some_iff.mp hk

/-- What a word that ends with a register written leaves of a part of its context. -/
theorem ctx?_written {α : Type} {p : Ctx → α} (hp : EngineBlind p) {u : State} {r lat : Nat} {v : W64} (s : State) (hu : u.here.isSome = true) {c k : Nat}
    {x : Ctx} (hx : u.ctx? c k = some x) : ∃ y, (s.commit (u.withReg r v lat).advanced).ctx? c k = some y ∧ p y = p x :=
  SameFor.some (t := s.commit (u.withReg r v lat).advanced)
    ((sameFor_withReg hp u r v lat).trans (sameFor_advanced hp (by rw [here_isSome_withReg]; exact hu))) hx

theorem ctx?_ended {α : Type} {p : Ctx → α} (hp : EngineBlind p) {u : State} (s : State) (hu : u.here.isSome = true) {c k : Nat}
    {x : Ctx} (hx : u.ctx? c k = some x) : ∃ y, (s.commit u.advanced).ctx? c k = some y ∧ p y = p x :=
  SameFor.some (t := s.commit u.advanced) (sameFor_advanced hp hu) hx

/-- A context of the issuing engine after its change. -/
theorem ctx?_modCtxHere {s : State} {h : Here} (e : s.here = some h) (f : Ctx → Ctx) : (s.modCtxHere f).ctx? h.c h.k = some (f h.ctx) := by
  have h2 := here_modCtxHere e f
  exact ctx?_here h2

/-- Outside a LOOP the end of a word writes no register. -/
theorem sreg_advanced {s : State} {h : Here} (e : s.here = some h) (hl : h.eng.loop = none) (c k f r : Nat) : s.advanced.sreg c k f r = s.sreg c k f r := by
  have ha : s.advanced = (s.modHere fun en => { en with modifier := none, dv := false, child := none, chain := 0, chained := [] }) ∨ ∃ g,
      s.advanced = (s.modHere fun en => { en with modifier := none, dv := false, child := none, chain := 0, chained := [] }).modHere g := by
    cases hs : h.eng.sect with
    | none =>
      refine .inl (advanced_of_ok ?_)
      unfold advance
      rw [here_bind e, modEng_bind_run, hs]
      rfl
    | some sc =>
      refine .inr ⟨(·.goto (sc.widx + 1)), advanced_of_ok ?_⟩
      unfold advance
      rw [here_bind e, modEng_bind_run, hs, hl]
      rfl
  obtain ha | ⟨g, ha⟩ := ha <;> simp only [ha, sreg_modHere]

theorem here_modRegs {s : State} {h : Here} (e : s.here = some h) (f : List W64 → List W64) : ∃ x, (s.modRegs f).here = some { h with ctx := x } := by
  by_cases ha : h.asst = false
  · rw [modRegs_here e ha]
    exact here_modCtx_engs e _ _ fun _ => rfl
  · rw [Bool.not_eq_false] at ha
    obtain ⟨co, hseat, hco, hx, hc, he, heng⟩ := here_some_iff.mp e
    rw [ha] at hseat heng
    have hm : s.modRegs f = s.modCore s.curCore fun co => { co with assist := { co.assist with regs := f co.assist.regs } } := by
      simp only [State.modRegs, hseat]
    rw [hm]
    refine ⟨h.ctx, here_some_iff.mpr ⟨{ co with assist := { co.assist with regs := f co.assist.regs } }, ?_, ?_, ?_, hc, he, ?_⟩⟩
    · rw [ha]
      exact (seat_modCore (f := fun co => { co with assist := { co.assist with regs := f co.assist.regs } }) (fun _ => rfl) fun _ => rfl).trans hseat
    · simp [State.modCore, hco]
    · rw [modCore_curCore, ctx?_modCore]
      simpa [State.ctx?, hco] using hx
    · simp only [ha, if_true]
      exact heng

theorem here_withReg_one {s : State} {h : Here} (e : s.here = some h) (r : Nat) (v : W64) : ∃ x, (s.withReg r v 1).here = some { h with ctx := x } := by
  unfold State.withReg
  split
  · exact ⟨h.ctx, e⟩
  · simp only [le_refl, if_true]
    exact here_modRegs e _

theorem withReg_one_now (s : State) (r : Nat) (v : W64) : (s.withReg r v 1).now = s.now := by
  unfold State.withReg
  split
  · rfl
  · simp only [le_refl, if_true]
    exact modRegs_now _ _

/-! ## The table words -/

section
variable {x : TWord} {s : State} {h : Here} (e : s.here = some h) (ha : h.asst = false) (hg : guardOn x.guard s = .ok (true, s))
include e ha hg

theorem tdef_places {va : W64} {d : List W64} {first count : Nat} (hv : readReg x.preg.toNat s = .ok (va, s)) (h32 : va.toNat % 32 = 0)
    (hr : h.eng.req = .answer true d) (hany : h.ctx.tiles.any (·.1 == x.td.toNat) = false) (hvalid : tileValid (objOf d) = true)
    (hlive : (((s.cores[h.c]?).map Core.liveTiles).getD []).length < 256) (hroom : s.tileRoom h.c (objOf d) = some (first, count))
    (hb : bitsOf x.cmd 5 0 = 0 ∨ h.eng.isBusy s.now (bitsOf x.cmd 5 0) = false) :
    ∃ (t : State) (y : Ctx) (q : Nat × Tile), exec (.tdef x) s = .next t ∧ t.ctx? h.c h.k = some y ∧ y.tiles.find? (·.1 == x.td.toNat) = some q ∧
      q.2.obj = sealObj (objOf d) first count ∧ q.2.live = s.now + 1 := by
  obtain ⟨u, hu⟩ : ∃ u, u = s.modHere fun en => { en with req := .none } := ⟨_, rfl⟩
  have hmod : u = s.modEng h.c h.k h.e fun en => { en with req := .none } := hu.trans (modHere_here e ha _)
  have hcores : u.cores.map Core.liveTiles = s.cores.map Core.liveTiles := by rw [hmod]; exact cores_liveTiles_modCtx _ _ _ fun _ => rfl
  have hlive' : (((u.cores[h.c]?).map Core.liveTiles).getD []).length < 256 := by
    rw [← List.getElem?_map, hcores, List.getElem?_map]; exact hlive
  have hroom' : u.tileRoom h.c (objOf d) = some (first, count) := by
    rw [tileRoom_congr _ hcores (by rw [hmod]; rfl)]; exact hroom
  have hfree : u.regFree (bitsOf x.cmd 5 0) := by rw [hu]; exact regFree_answered e hb
  have hus : u.here.isSome = true := by rw [hu, here_isSome_modHere]; exact here_isSome e
  obtain ⟨z, hz, hzt⟩ : ∃ z, u.ctx? h.c h.k = some z ∧ z.tiles = h.ctx.tiles :=
    SameFor.some (p := (·.tiles)) (by rw [hu]; exact sameFor_modHere tiles_blind s _) (ctx?_here e)
  have hplace := ctx?_placeTile u h.c h.k x.td.toNat (objOf d) first count (u.now + 1)
  rw [hz, Option.map_some] at hplace
  obtain ⟨y, hy, hyt⟩ := ctx?_written (r := bitsOf x.cmd 5 0) (v := 0) (lat := 1) tiles_blind s (by rw [here_isSome_placeTile]; exact hus) hplace
  refine ⟨_, y, (x.td.toNat, { obj := sealObj (objOf d) first count, dirty := [], live := u.now + 1 }), ?_, hy, ?_, rfl, ?_⟩
  · rw [execTdef_read e hg hv hany]
    refine run_ok ((readObject_answer e h32 hr).trans ?_)
    rw [← hu]
    exact defineTile_placed hus hvalid hlive' hroom' (regFree_placeTile hfree)
  · rw [hyt]
    simp only [hzt, List.find?_append]
    rw [List.find?_eq_none.mpr fun q hq => by simpa using List.any_eq_false.mp hany q hq]
    simp
  · rw [hu, modHere_now]

theorem cdef_places {va : W64} {d : List W64} (hv : readReg x.preg.toNat s = .ok (va, s)) (h32 : va.toNat % 32 = 0)
    (hr : h.eng.req = .answer true d) (hany : h.ctx.recs.any (·.1 == bitsOf x.cmd 11 6) = false) (hvalid : recordValid (objOf d) = true)
    (hheld : (((s.cores[h.c]?).map (·.slots)).getD []).foldl (fun n y => n + ((y.map (·.recs)).getD []).length) 0 < 64)
    (hb : bitsOf x.cmd 5 0 = 0 ∨ h.eng.isBusy s.now (bitsOf x.cmd 5 0) = false) :
    ∃ t y, exec (.cdef x) s = .next t ∧ t.ctx? h.c h.k = some y ∧ y.recs = h.ctx.recs ++ [(bitsOf x.cmd 11 6, objOf d, s.now + 1)] := by
  obtain ⟨u, hu⟩ : ∃ u, u = s.modHere fun en => { en with req := .none } := ⟨_, rfl⟩
  have hmod : u = s.modEng h.c h.k h.e fun en => { en with req := .none } := hu.trans (modHere_here e ha _)
  have hheld' : (((u.cores[h.c]?).map (·.slots)).getD []).foldl (fun n y => n + ((y.map (·.recs)).getD []).length) 0 < 64 := by
    obtain ⟨co, -, hco, -, hc, -, -⟩ := here_some_iff.mp e
    rw [← hc] at hco
    rw [hco] at hheld
    have : u.cores[h.c]? = some { co with slots := co.slots.modify h.k (Option.map fun x => x.modEng h.e fun en => { en with req := .none }) } := by
      simp [hmod, State.modEng, State.modCtx, hco]
    rw [this]
    simp only [Option.map_some, Option.getD_some]
    rw [heldRecords_modCtx co.slots h.k (f := fun x => x.modEng h.e fun en => { en with req := .none }) fun _ => rfl]
    exact hheld
  obtain ⟨g, eg, hgc, hgk, hgr⟩ : ∃ g, u.here = some g ∧ g.c = h.c ∧ g.k = h.k ∧ g.ctx.recs = h.ctx.recs := by
    rw [hu]
    refine ⟨_, here_modHere e _, rfl, rfl, ?_⟩
    simp [ha, Ctx.modEng]
  have hfree : u.regFree (bitsOf x.cmd 5 0) := by rw [hu]; exact regFree_answered e hb
  have eclean : (u.cleanTable (recordKey h.c h.k (bitsOf x.cmd 11 6))).here = some g := eg
  have hrec := ctx?_modCtxHere eclean fun y => { y with recs := y.recs ++ [(bitsOf x.cmd 11 6, objOf d, u.now + 1)] }
  rw [hgc, hgk] at hrec
  obtain ⟨y, hy, hyr⟩ := ctx?_written (r := bitsOf x.cmd 5 0) (v := 0) (lat := 1) recs_blind s (by rw [here_isSome_modCtxHere]; exact here_isSome eclean) hrec
  refine ⟨_, y, ?_, hy, ?_⟩
  · rw [execCdef_read e hg hv hany]
    refine run_ok ((readObject_answer e h32 hr).trans ?_)
    rw [← hu]
    refine defineRecord_placed (here_isSome eg) hvalid hheld' ?_
    unfold State.modCtxHere
    split
    · exact regFree_modCtx (fun _ => rfl) hfree
    · exact hfree
  · rw [hyr]
    simp only [hgr, hu, modHere_now]

omit ha

theorem tfree_frees {q : Nat × Tile} (hq : h.ctx.tiles.find? (·.1 == x.td.toNat) = some q) (hlive : q.2.live ≤ s.now) (hlater : s.laterTurn h.c = none)
    (hu : s.tileInUse h.c h.k x.td.toNat (q.2.freeing.getD s.now) = false) :
    ∃ t y, exec (.tfree x) s = .next t ∧ t.ctx? h.c h.k = some y ∧ y.tiles = h.ctx.tiles.filter (·.1 != x.td.toNat) := by
  obtain ⟨-, hon⟩ := tableWordsComplete x s h e
  obtain ⟨-, -, hfree, -⟩ := hon hg
  obtain ⟨y, hy, hyt⟩ := ctx?_ended tiles_blind s (by rw [here_isSome_modCtxHere]; exact here_isSome e)
    (ctx?_modCtxHere e fun y => { y with tiles := y.tiles.filter (·.1 != x.td.toNat) })
  exact ⟨_, y, (((hfree q hq).2 hlive).2 hlater).1 hu, hy, hyt⟩

theorem cfree_frees (hany : h.ctx.recs.any (·.1 == bitsOf x.cmd 11 6) = true) (hlater : s.laterTurn h.c = none) :
    ∃ t y, exec (.cfree x) s = .next t ∧ t.ctx? h.c h.k = some y ∧ y.recs = h.ctx.recs.filter (·.1 != bitsOf x.cmd 11 6) := by
  obtain ⟨-, hon⟩ := tableWordsComplete x s h e
  obtain ⟨-, -, -, -, -, hfree⟩ := hon hg
  obtain ⟨y, hy, hyr⟩ := ctx?_ended recs_blind s (by rw [here_isSome_modCtxHere]; exact here_isSome e)
    (ctx?_modCtxHere e fun y => { y with recs := y.recs.filter (·.1 != bitsOf x.cmd 11 6) })
  exact ⟨_, y, (hfree hany).2 hlater, hy, hyr⟩

include ha
omit hg

/-- A register of S outside a LOOP holds what was put into it when the word has ended. -/
theorem sreg_written {r : Nat} {v w : W64} (hS : h.e = .S) (hl : h.eng.loop = none) (hr : r ≠ 0) (hold : s.sreg h.c h.k 0 r = some w) :
    (s.commit (s.withReg r v 1).advanced).sreg h.c h.k 0 r = some v := by
  obtain ⟨y, hy⟩ := here_withReg_one e r v
  have h1 : (s.commit (s.withReg r v 1).advanced).sreg h.c h.k 0 r = (s.withReg r v 1).advanced.sreg h.c h.k 0 r := rfl
  have hf : fileOf h.e = 0 := by rw [hS]; rfl
  rw [h1, sreg_advanced hy hl, ← hf, sreg_withReg e ha v 1 hr]
  rw [State.sreg, ctx?_here e, Option.bind_some] at hold
  rw [hf]
  cases hs : h.ctx.sregs[0]? with
  | none => rw [hs] at hold; cases hold
  | some l =>
    rw [hs, Option.bind_some] at hold
    obtain ⟨hlt, -⟩ := List.getElem?_eq_some_iff.mp hold
    rw [Option.bind_some, List.getElem?_set_self hlt]

end

/-! ## V's operands -/

@[simp] theorem modCtxHere_bad (s : State) (f : Ctx → Ctx) : (s.modCtxHere f).bad = s.bad := by unfold State.modCtxHere; split <;> rfl
@[simp] theorem modCtxHere_place (s : State) (f : Ctx → Ctx) : (s.modCtxHere f).place = s.place := by unfold State.modCtxHere; split <;> rfl

/-- A state that differs from one where V issues by the entries it has taken from its operand queues, at most `n` from each. -/
def Popped (s : State) (h : Here) (n : Nat) (u : State) : Prop :=
  (∃ q : List (List QEntry), u.here = some { h with ctx := { h.ctx with opqs := q } } ∧
    ∀ i : Nat, ((q[i]?).getD []).length ≤ ((h.ctx.opqs[i]?).getD []).length ∧ ((h.ctx.opqs[i]?).getD []).length ≤ ((q[i]?).getD []).length + n) ∧
  u.now = s.now ∧ u.bad = s.bad ∧ u.place = s.place

section
variable {s u : State} {h : Here} {n : Nat}

theorem Popped.refl (e : s.here = some h) : Popped s h 0 s := ⟨⟨h.ctx.opqs, e, fun _ => ⟨le_rfl, le_rfl⟩⟩, rfl, rfl, rfl⟩

theorem Popped.here (hp : Popped s h n u) : u.here.isSome = true := by
  obtain ⟨⟨q, e, -⟩, -⟩ := hp
  exact here_isSome e

theorem Popped.vReg (hp : Popped s h n u) (hf : s.tableGood (fileKey h.c h.k h.e.tag)) {r : Nat} (hb : h.eng.isBusy s.now r = false) :
    ∃ v, vReg r u = .ok (v, u) := by
  obtain ⟨⟨q, e, -⟩, hnow, hbad, -⟩ := hp
  unfold Machine.vReg
  rw [here_bind e, get_bind_run, hnow]
  simp only [hb, Bool.not_false, require_bind_true]
  rw [bind_ok (tableOk_ok (by rw [hbad]; exact hf))]
  exact ⟨_, rfl⟩

/-- A source can be read while its queue has an entry left. -/
theorem Popped.vSource (hp : Popped s h n u) (hf : s.tableGood (fileKey h.c h.k h.e.tag)) {r : BitVec 6} (hr : s.vReady h r 1) (hn : n ≤ 2) :
    ∃ a t, vSource r u = .ok (a, t) ∧ Popped s h (n + 1) t := by
  have hp' := hp
  obtain ⟨⟨q, e, hq⟩, hnow, hbad, hplace⟩ := hp'
  obtain ⟨hlow, hqueue⟩ := hr
  have hmore : Popped s h (n + 1) u := ⟨⟨q, e, fun i => ⟨(hq i).1, (hq i).2.trans (Nat.le_succ _)⟩⟩, hnow, hbad, hplace⟩
  unfold Machine.vSource
  simp only [here_bind e]
  by_cases h32 : r.toNat < 32
  · obtain ⟨v, hv⟩ := hp.vReg hf (hlow h32)
    rw [if_pos h32, bind_ok hv]
    exact ⟨_, u, rfl, hmore⟩
  rw [if_neg h32]
  by_cases h48 : r.toNat < 48
  · rw [if_pos h48]
    have hlen := hqueue (Nat.not_lt.mp h32) h48
    obtain ⟨hle, hge⟩ := hq (r.toNat - 32)
    obtain ⟨v, rest, hv⟩ : ∃ v rest, q[r.toNat - 32]? = some (v :: rest) := by
      cases hv : q[r.toNat - 32]? with
      | none => simp [hv] at hge; omega
      | some l =>
        cases l with
        | nil => simp [hv] at hge; omega
        | cons v rest => exact ⟨v, rest, rfl⟩
    have hpop : popQueue (r.toNat - 32) u = .ok (v, u.modCtxHere fun x => { x with opqs := x.opqs.set (r.toNat - 32) rest }) := by
      unfold popQueue
      rw [here_bind e]
      simp only [hv]
      rfl
    rw [bind_ok hpop]
    refine ⟨_, _, rfl, ⟨q.set (r.toNat - 32) rest, here_modCtxHere_engs e _ fun _ => rfl, fun i => ?_⟩, ?_, ?_, ?_⟩
    · have hlt : r.toNat - 32 < q.length := (List.getElem?_eq_some_iff.mp hv).1
      obtain ⟨h1, h2⟩ := hq i
      by_cases hi : r.toNat - 32 = i
      · subst hi
        rw [List.getElem?_set_self hlt]
        simp only [hv, Option.getD_some, List.length_cons] at h1 h2 ⊢
        omega
      · rw [List.getElem?_set_ne hi]
        exact ⟨h1, h2.trans (Nat.le_succ _)⟩
    · rw [modCtxHere_now, hnow]
    · rw [modCtxHere_bad, hbad]
    · rw [modCtxHere_place, hplace]
  · rw [if_neg h48]
    exact ⟨_, u, rfl, hmore⟩

theorem mapM_ok {α : Type} {f : Nat → M α} {l : List Nat} (hf : ∀ j ∈ l, ∃ v, f j u = .ok (v, u)) : ∃ vs, l.mapM f u = .ok (vs, u) := by
  induction l with
  | nil => exact ⟨[], rfl⟩
  | cons j l ih =>
    obtain ⟨v, hv⟩ := hf j (by simp)
    obtain ⟨vs, hvs⟩ := ih fun i hi => hf i (by simp [hi])
    exact ⟨v :: vs, by rw [List.mapM_cons, bind_ok hv, bind_ok hvs]; rfl⟩

theorem Popped.vGroup (hp : Popped s h n u) (hf : s.tableGood (fileKey h.c h.k h.e.tag)) {r : BitVec 6} {g : Nat} (hg : 1 < g) (hr : s.vReady h r g) :
    ∃ l, vGroup r g u = .ok (l, u) := by
  unfold State.vReady at hr
  rw [if_neg (Nat.not_le.mpr hg)] at hr
  exact mapM_ok fun j hj => hp.vReg hf (hr j (List.mem_range.mp hj))

/-- A group, or one operand, can be read as elements. -/
theorem Popped.vWide (hp : Popped s h n u) (hf : s.tableGood (fileKey h.c h.k h.e.tag)) {r : BitVec 6} {g : Nat} (hr : s.vReady h r g) (hg : 0 < g)
    (w : Nat) (hn : n ≤ 2) : ∃ a t, vWide r g w u = .ok (a, t) ∧ Popped s h (n + 1) t := by
  unfold Machine.vWide
  by_cases h1 : g ≤ 1
  · obtain rfl : g = 1 := by omega
    obtain ⟨a, t, ha, ht⟩ := hp.vSource hf hr hn
    rw [if_pos h1, bind_ok ha]
    exact ⟨_, t, rfl, ht⟩
  · obtain ⟨l, hl⟩ := hp.vGroup hf (Nat.not_le.mp h1) hr
    rw [if_neg h1, bind_ok hl]
    obtain ⟨⟨q, e, hq⟩, hrest⟩ := hp
    exact ⟨_, u, rfl, ⟨q, e, fun i => ⟨(hq i).1, (hq i).2.trans (Nat.le_succ _)⟩⟩, hrest⟩

theorem Popped.vMask (hp : Popped s h n u) (hf : s.tableGood (fileKey h.c h.k h.e.tag)) {x : RWord} (hm : s.maskReady h x) : ∃ en, vMask x u = .ok (en, u) := by
  unfold Machine.vMask
  by_cases h63 : x.mask = 63
  · rw [if_pos h63]
    exact ⟨_, rfl⟩
  · obtain ⟨v, hv⟩ := hp.vReg hf (hm.1.resolve_left h63)
    rw [if_neg h63, bind_ok hv]
    exact ⟨_, rfl⟩

theorem Popped.vRand (hp : Popped s h n u) (hf : s.tableGood (fileKey h.c h.k h.e.tag)) {x : RWord} (hm : s.maskReady h x) : ∃ rb, vRand x u = .ok (rb, u) := by
  unfold Machine.vRand
  by_cases h2 : x.rnd = 2
  · obtain ⟨v, hv⟩ := hp.vReg hf (hm.2 h2)
    rw [if_pos h2, bind_ok hv]
    exact ⟨_, rfl⟩
  · rw [if_neg h2]
    exact ⟨_, rfl⟩

/-- A destination stays free: a pop only makes room. -/
theorem Popped.vFree (hp : Popped s h n u) (e : s.here = some h) {d : Nat} (hf : s.vFree d) : u.vFree d := by
  obtain ⟨⟨q, eu, hq⟩, hnow, -⟩ := hp
  obtain ⟨g, eg, hg⟩ := hf
  cases e.symm.trans eg
  refine ⟨_, eu, ?_⟩
  by_cases hd : 32 ≤ d
  · rw [if_pos hd] at hg ⊢
    simp only [Ctx.queueRoom, decide_eq_true_eq] at hg ⊢
    have := (hq (d - 32)).1
    omega
  · rw [if_neg hd] at hg ⊢
    rw [hnow]
    exact hg

theorem Popped.vFreeGroup (hp : Popped s h n u) (e : s.here = some h) {d g : Nat} (hf : s.vFreeGroup d g) : u.vFreeGroup d g := by
  unfold State.vFreeGroup at hf ⊢
  split
  · rw [if_pos ‹_›] at hf
    exact hp.vFree e hf
  · rw [if_neg ‹_›] at hf
    exact ⟨hf.1, fun j hj => hp.vFree e (hf.2 j hj)⟩

/-- With FTZ, and no assist answer waiting, V commits whatever the results are. -/
theorem Popped.commits (hp : Popped s h n u) (hq : ∀ b d, h.eng.req ≠ .answer b d) (hftz : s.ftz h.ctx.lid = true) (res : List FRes) : u.commits res := by
  obtain ⟨⟨q, eu, -⟩, -, -, hplace⟩ := hp
  refine ⟨_, eu, hq, .inl ?_⟩
  have : u.ftz h.ctx.lid = s.ftz h.ctx.lid := by simp only [State.ftz, State.launch?, hplace]
  rw [← hftz, ← this]

variable {x : RWord} (e : s.here = some h) (hq : ∀ b d, h.eng.req ≠ .answer b d) (hg : guardOn x.guard s = .ok (true, s))
  (hf : s.tableGood (fileKey h.c h.k h.e.tag)) (hftz : s.ftz h.ctx.lid = true) (hm : s.maskReady h x)
include e hq hg hf hftz hm

theorem vcvt_completes (hsub : x.sub.toNat < 11) (ha : s.vReady h x.a (max 1 (cvtGroups x).2)) (hd : s.vFreeGroup x.d.toNat (max 1 (cvtGroups x).1)) :
    ∃ (u : State) (l : List Nat), l.length = 4096 / min (typeWidth x.type.toNat) (typeWidth x.sub.toNat) ∧ exec (.vcvt x) s = .next (s.commit
      ((u.vPutGroup x.d.toNat (max 1 (cvtGroups x).1) (typeWidth x.type.toNat) l 4).vDone (max (max 1 (cvtGroups x).2) (max 1 (cvtGroups x).1)))) := by
  obtain ⟨a, u, hu, hp⟩ := (Popped.refl e).vWide hf ha (by omega) (typeWidth x.sub.toNat) (by omega)
  obtain ⟨en, hen⟩ := hp.vMask hf hm
  obtain ⟨rb, hrb⟩ := hp.vRand hf hm
  exact ⟨u, _, by simp, execVcvt_on hg hsub hu hen hrb rfl (hp.commits hq hftz _) (hp.vFreeGroup e hd)⟩

/-- A widening word of two or three sources. -/
theorem widenWord_completes {ins : Instr} {fi : Int → Int → Int → Int} {ff : FVal → FVal → FVal → Exact} (mad : Bool)
    (ha : s.vReady h x.a (if mad then widenGroup x else 1)) (hb : s.vReady h x.b 1) (hc : mad = true → s.vReady h x.c 1)
    (hd : s.vFreeGroup x.d.toNat (widenGroup x)) :
    ∃ (u : State) (l : List Nat), l.length = elemsOf x.type.toNat ∧ widenWord ins x mad fi ff s =
      .ok ((), (u.vPutGroup x.d.toNat (widenGroup x) (typeWidth (wideType x)) l 4).vDone (widenGroup x)) := by
  have hpos : 0 < widenGroup x := by unfold widenGroup; split <;> decide
  obtain ⟨a, u1, hu1, hp1⟩ := (Popped.refl e).vWide hf ha (by split <;> omega) (if mad then typeWidth (wideType x) else typeWidth x.type.toNat) (by omega)
  obtain ⟨b, u2, hu2, hp2⟩ := hp1.vSource hf hb (by omega)
  obtain ⟨c, u, n, hu, hp⟩ : ∃ c u n, vSourceIf mad x.c u2 = .ok (c, u) ∧ Popped s h n u := by
    cases mad with
    | false => exact ⟨_, u2, 2, rfl, hp2⟩
    | true =>
      obtain ⟨c, u, hu, hp⟩ := hp2.vSource hf (hc rfl) (by omega)
      exact ⟨c, u, 3, hu, hp⟩
  obtain ⟨en, hen⟩ := hp.vMask hf hm
  obtain ⟨rb, hrb⟩ := hp.vRand hf hm
  exact ⟨u, _, by simp, widenWord_on hg hu1 hu2 hu hen hrb rfl (hp.commits hq hftz _) (hp.vFreeGroup e hd)⟩

theorem vnrw_completes (ha : s.vReady h x.a (narrowGroup x)) (hb : s.vReady h x.b 1) (hd : s.vFree x.d.toNat) :
    ∃ (u : State) (l : List Nat), l.length = elemsOf (narrowType x) ∧ exec (.vnrw x) s = .next (s.commit
      ((u.vPut x.d.toNat (packElems (typeWidth (narrowType x)) l) none 4).vDone (narrowGroup x))) := by
  have hgroup : 1 < narrowGroup x := by unfold narrowGroup; split <;> decide
  obtain ⟨b, u, hu, hp⟩ := (Popped.refl e).vSource hf hb (by omega)
  obtain ⟨l, hl⟩ := hp.vGroup hf hgroup ha
  obtain ⟨en, hen⟩ := hp.vMask hf hm
  obtain ⟨rb, hrb⟩ := hp.vRand hf hm
  exact ⟨u, _, by simp, execVnrw_on hg hu hl hen hrb (hp.vFree e hd) rfl (hp.commits hq hftz _)⟩

end

/-- Settles O60: the table words leave their object or take it away; the width changes have an element for each of the narrower type's. -/
theorem tableWordsAndWidthChangesComplete : Obligations.TableWordsAndWidthChangesComplete := by
  refine ⟨fun x s h e ha hg => ⟨fun va d hv h32 hr => ⟨fun first count hany hvalid hlive hroom hb => tdef_places e ha hg hv h32 hr hany hvalid hlive hroom hb,
      fun hany hvalid hheld hb => cdef_places e ha hg hv h32 hr hany hvalid hheld hb⟩, fun q hq hlive hlater hu => tfree_frees e hg hq hlive hlater hu,
      fun hany hlater => cfree_frees e hg hany hlater, fun v hS hl hr hold hb hgood => ?_⟩,
    fun x s h e hq hg hf hftz hm => ⟨fun hsub ha hd => vcvt_completes e hq hg hf hftz hm hsub ha hd, fun i hi ha hb hd => ?_, fun ha hb hc hd => ?_,
      fun ha hb hd => vnrw_completes e hq hg hf hftz hm ha hb hd⟩⟩
  · have hpreg : x.preg.toNat ≠ 0 := fun h0 => hr (BitVec.eq_of_toNat_eq h0)
    obtain ⟨-, hon⟩ := tableWordsComplete x s h e
    obtain ⟨-, -, -, htinfo, -⟩ := hon hg
    obtain ⟨hsome, hnone⟩ := htinfo (.inr ⟨h, e, hb⟩) hgood
    refine ⟨s.commit (s.withReg x.preg.toNat _ 1).advanced, ?_, sreg_written e ha hS hl hpreg hold⟩
    cases hfind : h.ctx.tiles.find? fun q => q.1 == x.ta.toNat && decide (q.2.live ≤ s.now) && q.2.freeing.isNone with
    | some q => exact hsome q hfind
    | none =>
      simp only [bitsOf_zero]
      exact hnone hfind
  · obtain rfl | rfl := hi
    · obtain ⟨u, l, hlen, hrun⟩ := widenWord_completes e hq hg hf hftz hm (ins := .vwadd x) (fi := fun a b _ => a + b) (ff := fun a b _ => addF a b) false
        ha hb (fun h => nomatch h) hd
      exact ⟨u, l, hlen, run_ok hrun⟩
    · obtain ⟨u, l, hlen, hrun⟩ := widenWord_completes e hq hg hf hftz hm (ins := .vwmul x) (fi := fun a b _ => a * b) (ff := fun a b _ => mulF a b) false
        ha hb (fun h => nomatch h) hd
      exact ⟨u, l, hlen, run_ok hrun⟩
  · obtain ⟨u, l, hlen, hrun⟩ := widenWord_completes e hq hg hf hftz hm (ins := .vwmad x) (fi := fun a b c => a + b * c) (ff := fun a b c => fmaF b c a)
      true ha hb (fun _ => hc) hd
    exact ⟨u, l, hlen, run_ok hrun⟩

end Sys2Proof.Machine
end

section
/-!
The words that start asynchronous commands: of the row engine, the walk units, the contraction unit, the copy queues and the text engines.
-/
namespace Sys2Proof.Machine

/-! ## What they share -/

theorem addCmd_ok (x : Cmd) (s : State) : addCmd x s = .ok ((), s.withCmd x) := rfl

theorem here_isSome_withCmd (s : State) (x : Cmd) : (s.withCmd x).here.isSome = s.here.isSome := rfl

theorem tileHere_inv {t : Nat} {s u : State} {v : Shape} (h : tileHere t s = .ok (v, u)) : u = s ∧ s.here.isSome = true := by
  obtain ⟨g, u1, h1, h2⟩ := bind_ok_inv h
  obtain ⟨e, rfl⟩ := here_ok_inv h1
  obtain ⟨_, u2, h3, h4⟩ := bind_ok_inv h2
  have hu := tableOk_state h3
  subst hu
  rw [get_bind_run] at h4
  cases ht : u2.tile? g.c g.k t with
  | none => rw [ht] at h4; cases h4
  | some w => rw [ht] at h4; cases h4; exact ⟨rfl, here_isSome e⟩

/-- What is read only in some forms of a word, and is given in the others. -/
theorem readIf_ok {α : Type} {c : Prop} [Decidable c] {m : M α} {s : State} {w z : α} {F : α → M Unit} (hw : if c then m s = .ok (w, s) else w = z) :
    (if c then do
        let q ← m
        F q
      else do
        let q ← pure z
        F q : M Unit) s = F w s := by
  split
  · rw [if_pos ‹_›] at hw
    exact bind_ok hw
  · rw [if_neg ‹_›] at hw
    rw [hw]
    rfl

/-! ## The row engine -/

/-- What a row of the row engine's words says of its instruction. -/
def RowMeans (p : (TWord → Instr) × (TWord → Bool) × Bool × Bool) : Prop :=
  ∀ (x : TWord) (s : State), exec (p.1 x) s = run (rowIssue (p.1 x) x (p.2.1 x) p.2.2.1) s ∧
    (match p.1 x with | .nexps _ => true | .nrow _ => true | _ => false) = p.2.2.2

theorem rowForms_mean : ∀ p ∈ rowForms, RowMeans p := by
  simp only [rowForms, List.forall_mem_cons, List.not_mem_nil, false_imp_iff, implies_true, and_true]
  exact ⟨fun _ _ => ⟨rfl, rfl⟩, fun _ _ => ⟨rfl, rfl⟩, fun _ _ => ⟨rfl, rfl⟩, fun _ _ => ⟨rfl, rfl⟩, fun _ _ => ⟨rfl, rfl⟩⟩

/-- A command's rows start at the one its register names. -/
theorem rowSpan_first {v : W64} {a : Shape} {p : Nat × Nat} (h : rowSpan v a = some p) : p.1 = bitsOf v 31 0 := by
  unfold rowSpan at h
  simp only at h
  split at h
  · split at h
    · cases h; rfl
    · cases h
  · cases h; rfl

theorem rowOk_span {i : Instr} {v w : W64} {a d : Shape} {b t : Option Shape} (h : rowOk i [v, w] a d b t = true) : ∃ p, rowSpan v a = some p := by
  cases hs : rowSpan v a with
  | some p => exact ⟨p, rfl⟩
  | none => simp [rowOk, hs] at h

section
variable {i : Instr} {x : TWord} {second eps : Bool} {s : State} {h : Here} {co : Core} {v w : W64} {a d : Shape} {b t : Option Shape}
  (e : s.here = some h) (hg : guardOn x.guard s = .ok (true, s)) (hco : s.cores[h.c]? = some co)
include e hg hco

theorem rowIssue_full (hlen : 4 ≤ co.rowQ.length) : rowIssue i x second eps s = .error .stall := by
  unfold rowIssue
  rw [bind_ok hg]
  simp only [if_true]
  rw [here_bind e, get_bind_run]
  simp only [hco, Option.map_some, Option.getD_some, decide_eq_false (Nat.not_lt.mpr hlen)]
  exact bind_error (require_false _)

variable (hlen : co.rowQ.length < 4) (hv : readReg x.preg.toNat s = .ok (v, s)) (hw : if eps then readReg (x.preg.toNat + 1) s = .ok (w, s) else w = 0)
  (ha : tileHere x.ta.toNat s = .ok (a, s)) (hd : tileHere x.td.toNat s = .ok (d, s)) (hb : tileIf second x.tb.toNat s = .ok (b, s))
  (ht : tileIf ((match i with | .nexps _ => true | .nrow _ => true | _ => false) && x.cmd.getLsbD 8) (bitsOf x.cmd 7 0) s = .ok (t, s))
include hlen hv hw ha hd hb ht

theorem rowIssue_joins (hok : rowOk i [v, w] a d b t = true) (hbar : s.barLive x.bar.toNat) : rowIssue i x second eps s =
    .ok ((), ((s.withCmd { h.command s i 3 0 x.bar.toNat [v, w] noMods with next := bitsOf v 31 0 }).modCore h.c
      fun co => { co with rowQ := co.rowQ ++ [s.nextId] }).advanced) := by
  obtain ⟨p, hp⟩ := rowOk_span hok
  have hadv : ∀ c : Cmd, ((s.withCmd c).modCore h.c fun co => { co with rowQ := co.rowQ ++ [s.nextId] }).here.isSome = true := fun c =>
    (here_isSome_modCore (f := fun co => { co with rowQ := co.rowQ ++ [s.nextId] }) (fun _ => rfl) (fun _ => rfl) fun _ => rfl).trans (here_isSome e)
  unfold rowIssue
  rw [bind_ok hg]
  simp only [if_true]
  rw [here_bind e, get_bind_run]
  simp only [hco, Option.map_some, Option.getD_some, decide_eq_true hlen, require_bind_true]
  rw [bind_ok hv]
  refine (readIf_ok hw).trans ?_
  rw [bind_ok ha, bind_ok hd, bind_ok hb]
  refine (bind_ok ht).trans ?_
  simp only [hok, Bool.not_true, Bool.false_eq_true, if_false]
  rw [bind_ok (liveBar_ok hbar), get_bind_run, bind_ok (addCmd_ok _ _), modify_bind_run]
  simp only [hp, Option.getD_some, rowSpan_first hp]
  exact advance_eq (hadv _)

theorem rowIssue_wrong (hok : rowOk i [v, w] a d b t = false) : rowIssue i x second eps s = .error (.trap { cause := 5 }) := by
  unfold rowIssue
  rw [bind_ok hg]
  simp only [if_true]
  rw [here_bind e, get_bind_run]
  simp only [hco, Option.map_some, Option.getD_some, decide_eq_true hlen, require_bind_true]
  rw [bind_ok hv]
  refine (readIf_ok hw).trans ?_
  rw [bind_ok ha, bind_ok hd, bind_ok hb]
  refine (bind_ok ht).trans ?_
  simp only [hok, Bool.not_false, if_true]
  rfl

end

/-- Settles O25: a row-engine word joins its engine's queue, traps on what it may not use, or waits for room. -/
theorem rowCommandsIssue : Obligations.RowCommandsIssue := by
  intro p hp x s h co v w a d b t e hg hco
  obtain ⟨hrun, hsums⟩ := rowForms_mean p hp x s
  rw [hrun]
  refine ⟨fun hlen hv hw ha hd hb ht => ?_, fun hlen => run_stall (rowIssue_full e hg hco hlen)⟩
  rw [← hsums] at ht
  exact ⟨fun hok hbar => run_ok (rowIssue_joins e hg hco hlen hv hw ha hd hb ht hok hbar),
    fun hok => run_trap (rowIssue_wrong e hg hco hlen hv hw ha hd hb ht hok)⟩

/-! ## The walk units -/

section
variable {x : TWord} {s : State} {h : Here} (e : s.here = some h)
include e

theorem walkRoom_ok (hlen : (s.queueOf h.c h.k 0 0).length < 4) : walkRoom s = .ok ((), s) := by
  unfold walkRoom
  rw [here_bind e, get_bind_run, decide_eq_true hlen]
  rfl

theorem addWalkCmd_ok (i : Instr) (regs : List W64) (mods : Mods) (hbar : s.barLive x.bar.toNat) : addWalkCmd i x regs mods s =
    .ok ((), s.withCmd { h.command s i 0 0 x.bar.toNat regs mods with state := .running }) := by
  unfold addWalkCmd
  rw [bind_ok (liveBar_ok hbar), here_bind e, get_bind_run]
  rfl

variable (hg : guardOn x.guard s = .ok (true, s)) (hlen : (s.queueOf h.c h.k 0 0).length < 4) (hbar : s.barLive x.bar.toNat) {r0 r1 r2 : W64}
  (h0 : readReg x.preg.toNat s = .ok (r0, s)) {m : Mods} {col : Nat} (hm : modsHere col s = .ok (m, s)) {i : Instr} {a d : Option Shape}
  (ha : tileIf (walkSource i == 0) x.ta.toNat s = .ok (a, s)) (hd : tileIf (walkDest i == 0) x.td.toNat s = .ok (d, s))
include hg hlen hbar h0 hm ha hd

theorem walkIssue_joins {l : Launch} (hl : s.launch? h.ctx.lid = some l)
    (h1 : if col = 1 then readReg (x.preg.toNat + 1) s = .ok (r1, s) else r1 = 0)
    (hok : walkOk i (bitsOf x.cmd 11 0) (l.descBits (bitsOf x.cmd 11 0)) r0 a d
      (match l.queueEnt? (bitsOf x.cmd 25 22) with | some e => h.ctx.stage == (if col = 1 then e.prod else e.cons) | none => false) = true) :
    walkIssue i x col s = .ok ((), (s.withCmd { h.command s i 0 0 x.bar.toNat [r0, r1] m with state := .running }).advanced) := by
  unfold walkIssue
  rw [bind_ok hg]
  simp only [if_true]
  rw [bind_ok (walkRoom_ok e hlen), bind_ok h0]
  refine (readIf_ok h1).trans ?_
  rw [bind_ok hm, here_bind e, bind_ok (launchHere_ok e), bind_ok ha, bind_ok hd, hl]
  refine (congrFun (if_pos hok) s).trans ?_
  rw [bind_ok (addWalkCmd_ok e _ _ _ hbar)]
  exact advance_eq (here_isSome e)

theorem indexIssue_joins {b : Shape} (h1 : readReg (x.preg.toNat + 1) s = .ok (r1, s)) (h2 : readReg (x.preg.toNat + 2) s = .ok (r2, s))
    (hb : tileHere x.tb.toNat s = .ok (b, s)) (htype : b.type = 6 ∨ b.type = 7) (hfa : ∀ v, a = some v → v.type = bitsOf x.cmd 3 0)
    (hfd : ∀ v, d = some v → v.type = bitsOf x.cmd 3 0 ∧ v.windowed = false) :
    indexIssue i x col s = .ok ((), (s.withCmd { h.command s i 0 0 x.bar.toNat [r0, r1, r2] m with state := .running }).advanced) := by
  unfold indexIssue
  rw [bind_ok hg]
  simp only [if_true]
  rw [bind_ok (walkRoom_ok e hlen), bind_ok h0, bind_ok h1, bind_ok h2, bind_ok hm, bind_ok ha, bind_ok hb, bind_ok hd]
  refine (congrFun (if_pos ?_) s).trans ?_
  · have hb67 : (b.type == 6 || b.type == 7) = true := by simpa using htype
    cases a with
    | none =>
      cases d with
      | none => simp [hb67]
      | some w => simp [hb67, hfd w rfl]
    | some v =>
      cases d with
      | none => simp [hb67, hfa v rfl]
      | some w => simp [hb67, hfa v rfl, hfd w rfl]
  · rw [bind_ok (addWalkCmd_ok e _ _ _ hbar)]
    exact advance_eq (here_isSome e)

end

/-- Settles O26: a walk word whose checks hold joins its context's walk unit. -/
theorem walkCommandsIssue : Obligations.WalkCommandsIssue := by
  intro x s h m l r0 r1 r2 a d b e hg hlen hl hbar h0
  refine ⟨fun hm ha hd hok => run_ok (walkIssue_joins e hg hlen hbar h0 hm ha hd hl rfl hok),
    fun hm h1 ha hd hok => run_ok (walkIssue_joins e hg hlen hbar h0 hm ha hd hl h1 hok),
    fun h1 h2 hb htype hfa hfd => ⟨fun hm ha hd => run_ok (indexIssue_joins e hg hlen hbar h0 hm ha hd h1 h2 hb htype hfa hfd),
      fun hm ha hd => run_ok (indexIssue_joins e hg hlen hbar h0 hm ha hd h1 h2 hb htype hfa hfd)⟩,
    fun u v w z hu hv hw hz => ⟨fun hok => run_ok ?_, fun hok => run_trap ?_⟩⟩
  · rw [bind_ok hg]
    simp only [if_true]
    rw [bind_ok (walkRoom_ok e hlen), bind_ok hu, bind_ok hv, bind_ok hw, bind_ok hz, if_pos hok, bind_ok (addWalkCmd_ok e _ _ _ hbar)]
    exact advance_eq (here_isSome e)
  · rw [bind_ok hg]
    simp only [if_true]
    rw [bind_ok (walkRoom_ok e hlen), bind_ok hu, bind_ok hv, bind_ok hw, bind_ok hz, if_neg (by rw [hok]; decide)]
    rfl

/-! ## The contraction unit -/

theorem tablesOk {l : List Nat} {f : Nat → Nat} {s : State} (hl : ∀ t ∈ l, s.tableGood (f t)) : (l.forM fun t => tableOk (f t)) s = .ok ((), s) := by
  induction l with
  | nil => rfl
  | cons t l ih =>
    show (tableOk (f t) >>= fun _ => l.forM _) s = _
    rw [bind_ok (tableOk_ok (hl t (by simp)))]
    exact ih fun q hq => hl q (by simp [hq])

theorem here_isSome_inUnit (s : State) (h : Here) (c : Cmd) : (s.inUnit h c).here.isSome = s.here.isSome :=
  (here_isSome_modCore (s := s.withCmd c) (f := fun co => { co with unitQ := co.unitQ ++ [c.id] }) (fun _ => rfl) (fun _ => rfl) fun _ => rfl)

theorem unitRoom_ok {s : State} {h : Here} (hu : s.unitFree h) : unitRoom h s = .ok ((), s) := by
  obtain ⟨hlen, hdue⟩ := hu
  unfold unitRoom
  rw [get_bind_run, decide_eq_true hlen, hdue]
  rfl

theorem enterUnit_ok (h : Here) (c : Cmd) (s : State) : enterUnit h c s = .ok ((), s.inUnit h c) := rfl

theorem enterUnit_advances {s : State} (h : Here) (c : Cmd) (hs : s.here.isSome = true) :
    (do
      enterUnit h c
      advance : M Unit) s = .ok ((), (s.inUnit h c).advanced) :=
  (bind_ok (enterUnit_ok h c s)).trans (advance_eq ((here_isSome_inUnit s h c).trans hs))

/-- A B word that has passed its checks is in the unit, and its engine goes on. -/
theorem enterUnit_ends {s : State} {h : Here} {b : Nat} (c : Cmd) (hbar : s.barLive b) :
    (do
      liveBar b
      enterUnit h c
      advance : M Unit) s = .ok ((), (s.inUnit h c).advanced) := by
  obtain ⟨g, e, -⟩ := id hbar
  rw [bind_ok (liveBar_ok hbar)]
  exact enterUnit_advances h c (here_isSome e)

section
variable {i : Instr} {x : TWord} {s : State} {h : Here} (e : s.here = some h) (hg : guardOn x.guard s = .ok (true, s)) (hu : s.unitFree h)
include e hg hu

section
variable {regs : Bool} {rs : List W64} {ok : Bool} {o : Obj} (hrs : if regs then readThree x.preg.toNat s = .ok (rs, s) else rs = [])
  (ht : s.tilesGood h i) (hi : (∃ y, i = .bmv y) ∨ (∃ y, i = .bdot y) ∨ ∃ y, i = .join y ∧ s.tableGood (recordKey h.c h.k (bitsOf x.cmd 5 0)))
  (hok : s.contractOk h.c h.k h.ctx.ga i rs (fun t => s.tile? h.c h.k t) = (ok, o))
include hrs ht hi hok

/-- A contraction word, up to its entry check. -/
theorem contractIssue_checked : contractIssue i x regs s = (if ok then do
      liveBar x.bar.toNat
      enterUnit h { h.command s i 2 0 x.bar.toNat rs noMods with sealed := o }
      advance
    else do
      formatTrap
      advance : M Unit) s := by
  unfold contractIssue
  rw [bind_ok hg, here_bind e]
  simp only [if_true]
  rw [bind_ok (unitRoom_ok hu)]
  refine (readIf_ok hrs).trans ?_
  rw [bind_ok (tablesOk ht)]
  obtain ⟨y, rfl⟩ | ⟨y, rfl⟩ | ⟨y, rfl, hrec⟩ := hi
  · refine (get_bind_run _ _).trans ?_
    rw [hok]
  · refine (get_bind_run _ _).trans ?_
    rw [hok]
  · refine (bind_ok (tableOk_ok hrec)).trans ((get_bind_run _ _).trans ?_)
    rw [hok]

theorem contractIssue_enters (hbar : s.barLive x.bar.toNat) (htrue : ok = true) : contractIssue i x regs s =
    .ok ((), (s.inUnit h { h.command s i 2 0 x.bar.toNat rs noMods with sealed := o }).advanced) := by
  rw [contractIssue_checked e hg hu hrs ht hi hok, if_pos htrue]
  exact enterUnit_ends _ hbar

theorem contractIssue_wrong (hfalse : ok = false) : contractIssue i x regs s = .error (.trap { cause := 5 }) := by
  rw [contractIssue_checked e hg hu hrs ht hi hok, if_neg (by simp [hfalse])]
  rfl

end

/-- A drain whose tiles are right enters the unit. -/
theorem drainIssue_enters {list : Bool} {v : W64} (hv : if !list then readReg x.preg.toNat s = .ok (v, s) else v = 0) (ht : s.tilesGood h i)
    (hok : drainOk x list (s.tile? h.c h.k x.td.toNat) (s.tile? h.c h.k x.tb.toNat) = true) (hbar : s.barLive x.bar.toNat) :
    drainIssue i x list s = .ok ((), (s.inUnit h (h.command s i 2 0 x.bar.toNat [v] noMods)).advanced) := by
  unfold drainIssue
  rw [bind_ok hg, here_bind e]
  simp only [if_true]
  rw [bind_ok (unitRoom_ok hu)]
  cases list with
  | true =>
    obtain rfl : v = 0 := hv
    simp only [if_true]
    rw [pure_bind_run, bind_ok (tablesOk ht), get_bind_run, if_pos hok]
    exact enterUnit_ends _ hbar
  | false =>
    simp only [Bool.false_eq_true, if_false]
    rw [bind_ok hv, bind_ok (tablesOk ht), get_bind_run, if_pos hok]
    exact enterUnit_ends _ hbar

end

/-- Settles O27: the words of B enter the unit where their checks hold; the grid anchor and the Catalogue's counts are read. -/
theorem contractionWordsEnter : Obligations.ContractionWordsEnter := by
  refine ⟨fun x s h e hg hu hbar => ⟨fun rs ok o hrs hm hd => ⟨fun hok => ⟨fun ht => ?_, fun hf => ?_⟩, fun hok => ⟨fun ht => ?_, fun hf => ?_⟩⟩,
      fun ok o ht hrec hok => ⟨fun htrue => ?_, fun hf => ?_⟩, run_ok ?_, fun v hv => ⟨fun ht hok => run_ok (drainIssue_enters (list := false) e hg hu hv ht hok hbar),
        fun t ht => ⟨fun h7 hw => run_ok ?_, fun hbad => run_trap ?_⟩⟩, fun ht hok => run_ok (drainIssue_enters (list := true) e hg hu rfl ht hok hbar)⟩,
    fun x s h e hg => ⟨fun v hv => run_ok ?_, fun u v hv => ⟨fun hlt => run_ok ?_, fun hge => run_trap ?_⟩, fun co l hco hl hc hd => run_ok ?_⟩⟩
  · exact run_ok (contractIssue_enters e hg hu hrs hm (.inl ⟨x, rfl⟩) hok hbar ht)
  · exact run_trap (contractIssue_wrong e hg hu hrs hm (.inl ⟨x, rfl⟩) hok hf)
  · exact run_ok (contractIssue_enters e hg hu hrs hd (.inr (.inl ⟨x, rfl⟩)) hok hbar ht)
  · exact run_trap (contractIssue_wrong e hg hu hrs hd (.inr (.inl ⟨x, rfl⟩)) hok hf)
  · exact run_ok (contractIssue_enters (regs := false) e hg hu rfl ht (.inr (.inr ⟨x, rfl, hrec⟩)) hok hbar htrue)
  · exact run_trap (contractIssue_wrong (regs := false) e hg hu rfl ht (.inr (.inr ⟨x, rfl, hrec⟩)) hok hf)
  · rw [bind_ok hg, here_bind e]
    simp only [if_true]
    rw [bind_ok (unitRoom_ok hu), bind_ok (liveBar_ok hbar), get_bind_run]
    exact enterUnit_advances h _ (here_isSome e)
  · rw [bind_ok hg, here_bind e]
    simp only [if_true]
    rw [bind_ok (unitRoom_ok hu), bind_ok hv, bind_ok ht, if_neg (by simp [h7, hw]), bind_ok (liveBar_ok hbar), get_bind_run]
    exact enterUnit_advances h _ (here_isSome e)
  · rw [bind_ok hg, here_bind e]
    simp only [if_true]
    rw [bind_ok (unitRoom_ok hu), bind_ok hv, bind_ok ht, if_pos hbad]
    rfl
  · rw [bind_ok hg]
    simp only [if_true]
    rw [bind_ok hv, modCtx_bind_run]
    exact advance_eq (by rw [here_isSome_modCtxHere]; exact here_isSome e)
  · rw [bind_ok hg, bind_ok hv]
    simp only [if_true, Nat.div_eq_of_lt hlt, ne_eq, not_true_eq_false, if_false]
    rw [modCtx_bind_run]
    exact advance_eq (by rw [here_isSome_modCtxHere]; exact source_here hv (here_isSome e))
  · rw [bind_ok hg, bind_ok hv]
    simp only [if_true, if_pos (show v.toNat / 2 ^ 17 ≠ 0 by omega)]
    rfl
  · obtain ⟨y, hy⟩ := here_withReg_one e x.preg.toNat (BitVec.ofNat 64 (catStatus co h.k h.ctx.cat l.spillRoom (bitsOf x.cmd 6 4)).1)
    rw [bind_ok hg]
    simp only [if_true]
    rw [here_bind e, get_bind_run, hc]
    simp only [Bool.not_false, require_bind_true, hco, hl]
    rw [bind_ok (writeReg_ok _ _ hd), bind_ok (writeFlag_ok _ _ hy), withReg_one_now]
    exact advance_eq (by rw [here_isSome_modCtxHere]; exact here_isSome hy)

end Sys2Proof.Machine
end

section
/-!
The words that join a copy queue, and those that ask for one (R277 to R281, R287 to R292).
-/
namespace Sys2Proof.Machine

section
variable {x : TWord} {s u : State} {h : Here} (hq : s.queueNamed u (bitsOf x.cmd 33 31)) (hg : guardOn x.guard u = .ok (true, u)) (e : u.here = some h)

include e in
theorem queueRoomFor_ok {q : Nat} (hlen : (u.queueOf h.c h.k 1 q).length < 16) : queueRoomFor q u = .ok ((), u) := by
  unfold queueRoomFor
  rw [here_bind e, get_bind_run, decide_eq_true hlen]
  rfl

include e in
theorem queueRoomFor_full {q : Nat} (hlen : 16 ≤ (u.queueOf h.c h.k 1 q).length) : queueRoomFor q u = .error .stall := by
  unfold queueRoomFor
  rw [here_bind e, get_bind_run, decide_eq_false (Nat.not_lt.mpr hlen)]
  exact require_false _

include hq hg e

/-- A copy whose tiles, rows and barrier are right joins its queue; the engine goes on past its words. -/
theorem copyIssue_joins {i : Instr} {zero : Bool} {col n : Nat} {carried : M (List W64)} {rs more : List W64} {m : Mods} (hbar : u.barLive x.bar.toNat)
    (hr : readCopy x.preg.toNat u = .ok (rs, u)) (hc : carried u = .ok (more, u)) (hm : modsHere col u = .ok (m, u)) (ht : u.copies h x zero rs) :
    copyIssue i x zero col n carried s = advance n (u.withCmd { h.command u i 1 (bitsOf x.cmd 33 31) x.bar.toNat (rs ++ more) m with
      ranges := allRows x zero rs }) := by
  obtain ⟨sv, dv, hs, hd, hok, hlen⟩ := ht
  unfold copyIssue
  refine (bind_ok hq).trans ?_
  rw [bind_ok hg]
  simp only [if_true]
  rw [bind_ok (queueRoomFor_ok e hlen), bind_ok hr, bind_ok hc, bind_ok hm, bind_ok hs, bind_ok hd, hok]
  simp only [Bool.not_true, Bool.false_eq_true, if_false]
  rw [bind_ok (liveBar_ok hbar), here_bind e, get_bind_run, bind_ok (addCmd_ok _ _)]
  rfl

theorem copyIssue_advances {i : Instr} {zero : Bool} {col : Nat} {rs : List W64} {m : Mods} (hbar : u.barLive x.bar.toNat)
    (hr : readCopy x.preg.toNat u = .ok (rs, u)) (hm : modsHere col u = .ok (m, u)) (ht : u.copies h x zero rs) :
    copyIssue i x zero col 1 (pure []) s = .ok ((), (u.withCmd { h.command u i 1 (bitsOf x.cmd 33 31) x.bar.toNat rs m with
      ranges := allRows x zero rs }).advanced) := by
  rw [copyIssue_joins hq hg e hbar hr (more := []) rfl hm ht, List.append_nil]
  exact advance_eq (here_isSome e)

section
variable {a d : Shape} (hlen : (u.queueOf h.c h.k 1 (bitsOf x.cmd 33 31)).length < 16) (ha : tileHere x.ta.toNat u = .ok (a, u))
  (hd : tileHere x.td.toNat u = .ok (d, u))
include hlen ha hd

theorem execSort_joins {r : W64} (hbar : u.barLive x.bar.toNat) (hr : readReg x.preg.toNat u = .ok (r, u)) (hok : sortOk r a d = true) :
    exec (.sort x) s = .next (s.commit (u.withCmd { h.command u (.sort x) 1 (bitsOf x.cmd 33 31) x.bar.toNat [r] noMods with
      next := (sortRows r a d).1, ranges := [((sortRows r a d).1, (sortRows r a d).1 + (sortRows r a d).2 - 1)] }).advanced) := by
  refine run_ok ((bind_ok hq).trans ?_)
  rw [bind_ok hg]
  simp only [if_true]
  rw [bind_ok (queueRoomFor_ok e hlen), bind_ok hr, bind_ok ha, bind_ok hd, hok]
  simp only [Bool.not_true, Bool.false_eq_true, if_false]
  rw [bind_ok (liveBar_ok hbar), here_bind e, get_bind_run, bind_ok (addCmd_ok _ _)]
  exact advance_eq (here_isSome e)

theorem execSortk_joins (hbar : u.barLive x.bar.toNat) (hok : sortkOk a d = true) :
    exec (.sortk x) s = .next (s.commit (u.withCmd (h.command u (.sortk x) 1 (bitsOf x.cmd 33 31) x.bar.toNat [] noMods)).advanced) := by
  refine run_ok ((bind_ok hq).trans ?_)
  rw [bind_ok hg]
  simp only [if_true]
  rw [bind_ok (queueRoomFor_ok e hlen), bind_ok ha, bind_ok hd, hok]
  simp only [Bool.not_true, Bool.false_eq_true, if_false]
  rw [bind_ok (liveBar_ok hbar), here_bind e, get_bind_run, bind_ok (addCmd_ok _ _)]
  exact advance_eq (here_isSome e)

theorem execSortk_wrong (hok : sortkOk a d = false) : exec (.sortk x) s = .next (s.raise { cause := 5 }) := by
  refine run_trap ((bind_ok hq).trans ?_)
  rw [bind_ok hg]
  simp only [if_true]
  rw [bind_ok (queueRoomFor_ok e hlen), bind_ok ha, bind_ok hd, hok]
  rfl

end

theorem execQjoin_joins (hlen : (u.queueOf h.c h.k 1 (bitsOf x.cmd 33 31)).length < 16) : exec (.qjoin x) s = .next (s.commit
    (u.withCmd { h.command u (.qjoin x) 1 (bitsOf x.cmd 33 31) 1024 [] noMods with
      after := (u.maskedCmds h.c h.k (bitsOf x.cmd 7 0)).map (·.id) }).advanced) := by
  refine run_ok ((bind_ok hq).trans ?_)
  rw [bind_ok hg]
  simp only [if_true]
  rw [bind_ok (queueRoomFor_ok e hlen), here_bind e, get_bind_run, bind_ok (addCmd_ok _ _)]
  exact advance_eq (here_isSome e)

theorem execQjoin_full (hlen : 16 ≤ (u.queueOf h.c h.k 1 (bitsOf x.cmd 33 31)).length) : exec (.qjoin x) s = .next s := by
  refine run_stall ((bind_ok hq).trans ?_)
  rw [bind_ok hg]
  simp only [if_true]
  exact bind_error (queueRoomFor_full e hlen)

theorem execSortk_full (hlen : 16 ≤ (u.queueOf h.c h.k 1 (bitsOf x.cmd 33 31)).length) : exec (.sortk x) s = .next s := by
  refine run_stall ((bind_ok hq).trans ?_)
  rw [bind_ok hg]
  simp only [if_true]
  exact bind_error (queueRoomFor_full e hlen)

end

/-- Settles O28: a copy-queue word joins its queue, waits for room or traps on wrong tiles; a queue's status is read, and waited for. -/
theorem copyWordsIssue : Obligations.CopyWordsIssue := by
  refine ⟨fun x s u h hq hg e => ⟨fun hbar => ⟨fun rs m hr => ⟨fun hm ht => ⟨run_ok (copyIssue_advances hq hg e hbar hr hm ht), fun w more v hw hv => ?_⟩,
      fun hm ht => run_ok (copyIssue_advances hq hg e hbar hr hm ht)⟩,
    fun hlen a d ha hd => ⟨fun r hr hok => execSort_joins hq hg e hlen ha hd hbar hr hok, fun hok => execSortk_joins hq hg e hlen ha hd hbar hok,
      fun hok => execSortk_wrong hq hg e hlen ha hd hok⟩⟩,
    fun hlen => execQjoin_joins hq hg e hlen, fun hlen => ⟨execQjoin_full hq hg e hlen, execSortk_full hq hg e hlen⟩⟩,
    fun x s h e hg => ⟨fun hd => run_ok ?_, fun hnil => ?_, fun hnil => run_ok ?_, fun hne => run_stall ?_⟩⟩
  · exact run_ok ((copyIssue_joins (i := .cpyf ⟨x, w⟩) (n := 2) hq hg e hbar hr hw hm ht).trans hv)
  · rw [bind_ok hg]
    simp only [if_true]
    rw [here_bind e, get_bind_run, bind_ok (writeReg_ok _ _ hd)]
    exact advance_eq (by rw [here_isSome_withReg]; exact here_isSome e)
  · simp only [State.queueStatus, hnil]
  · rw [bind_ok hg]
    simp only [if_true]
    rw [here_bind e, get_bind_run, hnil]
    exact advance_eq (here_isSome e)
  · rw [bind_ok hg]
    simp only [if_true]
    rw [here_bind e, get_bind_run, beq_eq_false_iff_ne.mpr hne]
    exact bind_error (require_false _)

end Sys2Proof.Machine
end

section
/-!
The text engines' words (R348, R356, R358, R360).
-/
namespace Sys2Proof.Machine

/-! ## What a TOKPOP leaves in the tokeniser -/

theorem text_writeReg {r lat : Nat} {v : W64} {s t : State} {z : Unit} (h : writeReg r v lat s = .ok (z, t)) : t.text = s.text :=
  (keepsOf_writeReg (P := fun u => u.text = s.text) (fun _ _ hu => (modHere_text _ _).trans hu) (fun _ _ hu => (modRegs_text _ _).trans hu) r v lat s rfl).1 z t h

theorem text_advance {s t : State} {z : Unit} (h : advance 1 s = .ok (z, t)) : t.text = s.text :=
  (keepsOf_advance (P := fun u => u.text = s.text) (fun _ _ hu => (modHere_text _ _).trans hu) (fun _ _ hu => (modRegs_text _ _).trans hu) s rfl).1 z t h

/-- The tag a TOKPOP gives its handle: a free value among those not in use on the slot (log 7). -/
def popTag (s : State) (q : RqRecord) (r : TextReq) : Nat :=
  freshFrom s.freeCtr 4096 ((((((s.text.toks[q.tk]?).map (·.opens)).getD []).filter (·.slot == r.slot)).map (·.tag)) ++
    (((((s.text.toks[q.tk]?).map (·.tags)).getD []).filter (·.1 == r.slot)).map (·.2)))

/-- A TOKPOP that takes a record takes it off its queue, opens its handle and starts the copy of its tokens. -/
theorem popRecord_text {x : TWord} {v : Shape} {q : RqRecord} {r : TextReq} {n : Nat} {s t : State} (h : popRecord x v q r n s = .ok ((), t))
    (hk : q.tk < s.text.toks.length) :
    ∃ h tag, s.here = some h ∧ t.text.rq = s.text.rq.modify n (·.drop 1) ∧
      (∃ y, t.text.toks[q.tk]? = some y ∧ y.opens.any (fun o => o.slot == r.slot && o.tag == tag && o.reqid == r.reqid) = true) ∧
      ∃ y, t.text.copies = s.text.copies ++ [y] ∧ y.tile = x.td.toNat ∧ y.bar = x.bar.toNat ∧
        y.tokens = (r.tokens.getD []).take (min (r.tokens.getD []).length v.numel) := by
  obtain ⟨g, u, h0, hp⟩ := bind_ok_inv h
  obtain ⟨e, rfl⟩ := here_ok_inv h0
  rw [get_bind_run] at hp
  obtain ⟨_, s1, h1, hp⟩ := bind_ok_inv hp
  obtain ⟨_, s2, h2, hp⟩ := bind_ok_inv hp
  obtain ⟨_, s3, h3, hp⟩ := bind_ok_inv hp
  obtain ⟨_, s4, h4, hp⟩ := bind_ok_inv hp
  have htext : s4.text = u.text := (text_writeReg h4).trans ((text_writeReg h3).trans ((text_writeReg h2).trans (text_writeReg h1)))
  rw [modify_bind_run, modify_bind_run, modify_bind_run] at hp
  have ht := text_advance hp
  simp only [State.modTok, State.modText, htext] at ht
  refine ⟨g, popTag u q r, e, by rw [ht], ⟨_, by rw [ht, List.getElem?_modify_eq, List.getElem?_eq_getElem hk]; rfl, ?_⟩,
    ⟨_, by rw [ht], rfl, rfl, rfl⟩⟩
  rw [List.any_append, Bool.or_eq_true]
  exact .inr (by simp only [List.any_cons, List.any_nil, popTag, List.getElem?_eq_getElem hk, beq_self_eq_true, Bool.and_self, Bool.or_false])

/-! ## The words -/

/-- What a word sends to the detokeniser of its handle. -/
theorem sendText_ends {x : TWord} {s : State} {h : Here} (e : s.here = some h) (i : Instr) (hd : W64) (tokens : Option (List Nat)) (count : Nat) :
    (do
      sendText h i x hd tokens count
      advance : M Unit) s = .ok ((), ((s.withCmd { h.command s i 4 0 x.bar.toNat [hd] noMods with state := .sent }).modTok (bitsOf hd 8 6) fun y =>
        { y with cmds := y.cmds ++ [{ id := s.nextId, handle := hd, tokens := tokens, count := count }] }).advanced) :=
  advance_eq (here_isSome e)

section
variable {x : TWord} {s : State} {h : Here} (e : s.here = some h) (hg : guardOn x.guard s = .ok (true, s)) (hbar : s.barLive x.bar.toNat)
include e hg hbar

section
variable {v : Shape} (hv : tileHere x.td.toNat s = .ok (v, s)) (hok : popOk v ((s.text.rqbind[bitsOf x.cmd 3 0]?).getD 0) h.ctx.lid h.ctx.stage = true)
include hv hok

theorem popText_none {try_ : Bool} (hnil : (s.text.rq[bitsOf x.cmd 3 0]?).getD [] = []) : popText x try_ s = popEmpty x try_ s := by
  unfold popText
  rw [bind_ok hg]
  simp only [if_true]
  rw [here_bind e, bind_ok hv, get_bind_run, hok]
  simp only [Bool.not_true, Bool.false_eq_true, if_false]
  rw [bind_ok (liveBar_ok hbar), hnil]

theorem popText_some {try_ : Bool} {q : RqRecord} {rest : List RqRecord} {r : TextReq} (hcons : (s.text.rq[bitsOf x.cmd 3 0]?).getD [] = q :: rest)
    (hr : ((s.text.toks[q.tk]?).map (·.reqs)).bind (·.find? (·.slot == q.slot)) = some r) :
    popText x try_ s = popRecord x v q r (bitsOf x.cmd 3 0) s := by
  unfold popText
  rw [bind_ok hg]
  simp only [if_true]
  rw [here_bind e, bind_ok hv, get_bind_run, hok]
  simp only [Bool.not_true, Bool.false_eq_true, if_false]
  rw [bind_ok (liveBar_ok hbar), hcons]
  simp only [hr]

end

section
variable {hd ec : W64} {v : Shape} (h0 : readReg x.preg.toNat s = .ok (hd, s)) (h1 : readReg (x.preg.toNat + 1) s = .ok (ec, s))
  (hv : tileHere x.ta.toNat s = .ok (v, s))
include h0 h1 hv

theorem execTokpush_none (htype : v.type = 7) (hle : bitsOf ec 31 0 + bitsOf ec 63 32 ≤ v.numel) (hz : bitsOf ec 63 32 = 0) :
    exec (.tokpush x) s = .next (s.commit s.advanced) := by
  refine run_ok ((bind_ok hg).trans ?_)
  simp only [if_true]
  rw [bind_ok h0, bind_ok h1, here_bind e, bind_ok hv, if_neg (by omega), bind_ok (liveBar_ok hbar), get_bind_run, if_pos hz]
  exact advance_eq (here_isSome e)

theorem execTokpush_sends (htype : v.type = 7) (hle : bitsOf ec 31 0 + bitsOf ec 63 32 ≤ v.numel) (hz : bitsOf ec 63 32 ≠ 0)
    (hi : s.badImage h.c v (v.linearReads ((List.range (bitsOf ec 63 32)).map (bitsOf ec 31 0 + ·))) = none) :
    exec (.tokpush x) s = .next (s.commit
      ((s.withCmd { h.command s (.tokpush x) 4 0 x.bar.toNat [hd] noMods with state := .sent }).modTok (bitsOf hd 8 6) fun y =>
        { y with cmds := y.cmds ++ [{ id := s.nextId, handle := hd, tokens := some ((List.range (bitsOf ec 63 32)).map fun i => s.linearElem h.c v (bitsOf ec 31 0 + i)), count := bitsOf ec 63 32 }] }).advanced) := by
  refine run_ok ((bind_ok hg).trans ?_)
  simp only [if_true]
  rw [bind_ok h0, bind_ok h1, here_bind e, bind_ok hv, if_neg (by omega), bind_ok (liveBar_ok hbar), get_bind_run, if_neg hz]
  refine (bind_ok (imageOk_ok s hi)).trans ?_
  exact sendText_ends e _ _ _ _

omit hbar in
theorem execTokpush_wrong (hbad : v.type ≠ 7 ∨ v.numel < bitsOf ec 31 0 + bitsOf ec 63 32) :
    exec (.tokpush x) s = .next (s.raise { cause := 5 }) := by
  refine run_trap ((bind_ok hg).trans ?_)
  simp only [if_true]
  rw [bind_ok h0, bind_ok h1, here_bind e, bind_ok hv, if_pos hbad]
  rfl

end

theorem execTokend_sends {hd : W64} (h0 : readReg x.preg.toNat s = .ok (hd, s)) : exec (.tokend x) s = .next (s.commit
    ((s.withCmd { h.command s (.tokend x) 4 0 x.bar.toNat [hd] noMods with state := .sent }).modTok (bitsOf hd 8 6) fun y =>
      { y with cmds := y.cmds ++ [{ id := s.nextId, handle := hd, tokens := none, count := 0 }] }).advanced) := by
  refine run_ok ((bind_ok hg).trans ?_)
  simp only [if_true]
  rw [bind_ok h0, here_bind e, bind_ok (liveBar_ok hbar)]
  exact sendText_ends e _ _ _ _

end

/-- Settles O29: TOKPOP takes a record or finds none, TOKPUSH and TOKEND send to the detokeniser. -/
theorem textWordsComplete : Obligations.TextWordsComplete := by
  refine ⟨fun x s h e hg hbar => ⟨fun v hv hok => ⟨fun hnil => ⟨run_stall ?_, fun hd => run_ok ?_⟩, fun q rest r t hcons hr ht =>
      ⟨run_ok ((popText_some e hg hbar hv hok hcons hr).trans ht), run_ok ((popText_some e hg hbar hv hok hcons hr).trans ht)⟩⟩,
    fun hd ec v h0 h1 hv => ⟨fun htype hle => ⟨execTokpush_none e hg hbar h0 h1 hv htype hle, execTokpush_sends e hg hbar h0 h1 hv htype hle⟩,
      execTokpush_wrong e hg h0 h1 hv⟩,
    fun hd h0 => execTokend_sends e hg hbar h0⟩, fun x v q r n s t h hk => popRecord_text h hk⟩
  · exact (popText_none e hg hbar hv hok hnil).trans rfl
  · refine (popText_none e hg hbar hv hok hnil).trans ((bind_ok (writeReg_ok _ _ hd)).trans ?_)
    exact advance_eq (by rw [here_isSome_withReg]; exact here_isSome e)

end Sys2Proof.Machine
end

section
/-!
An element-wise word with a subnormal result: it waits for the assist routine (R28, R425, R426).
-/
namespace Sys2Proof.Machine

/-! ## Where the word's engine stands -/

theorem popQueue_modCtxHere {q : Nat} {s u : State} {v : QEntry} (h : popQueue q s = .ok (v, u)) : ∃ f, u = s.modCtxHere f := by
  obtain ⟨g, t, h1, -⟩ := bind_ok_inv h
  obtain ⟨e, rfl⟩ := here_ok_inv h1
  unfold popQueue at h
  rw [here_bind e] at h
  cases hq : g.ctx.opqs[q]? with
  | none => rw [hq] at h; cases h
  | some l =>
    cases l with
    | nil => rw [hq] at h; cases h
    | cons w rest =>
      rw [hq] at h
      cases h
      exact ⟨fun x => { x with opqs := x.opqs.set q rest }, rfl⟩

theorem vSource_seat {r : BitVec 6} {s u : State} {a : VIn} (h : vSource r s = .ok (a, u)) : u.seat = s.seat := by
  obtain ⟨g, t, h1, h2⟩ := bind_ok_inv h
  obtain ⟨e, rfl⟩ := here_ok_inv h1
  split at h2
  · obtain ⟨v, t', h3, h4⟩ := bind_ok_inv h2
    cases h4
    rw [(vReg_state h3).1]
  · split at h2
    · obtain ⟨v, t', h3, h4⟩ := bind_ok_inv h2
      cases h4
      obtain ⟨f, rfl⟩ := popQueue_modCtxHere h3
      exact seat_modCtxHere _ f
    · cases h2
      rfl

theorem vSourceIf_seat {b : Bool} {r : BitVec 6} {s u : State} {a : VIn} (h : vSourceIf b r s = .ok (a, u)) : u.seat = s.seat := by
  cases b with
  | true => exact vSource_seat h
  | false => cases h; rfl

theorem asst_of_seat {s u : State} {g h : Here} (eg : s.here = some g) (eh : u.here = some h) (hs : u.seat = s.seat) : g.asst = h.asst := by
  obtain ⟨_, h1, -⟩ := here_some_iff.mp eg
  obtain ⟨_, h2, -⟩ := here_some_iff.mp eh
  have h3 := h2.symm.trans (hs.trans h1)
  simp only [Option.some.injEq, Prod.mk.injEq] at h3
  exact h3.2.symm

/-! ## An assist raised -/

theorem seat_raiseAssist (s : State) (c : Nat) (a : Assist) : (s.raiseAssist c a).seat = s.seat :=
  (seat_modEng _ _ _ _ _).trans (seat_modCore (fun _ => rfl) fun _ => rfl)

theorem ctx?_raiseAssist (s : State) (c : Nat) (a : Assist) :
    (s.raiseAssist c a).ctx? c a.k = (s.ctx? c a.k).map (·.modEng a.eng fun en => { en with yielded := true }) := by
  unfold State.raiseAssist State.modEng
  rw [ctx?_modCtx, if_pos ⟨rfl, rfl⟩]
  congr 1
  refine (ctx?_modCore _ _ _ _ _).trans ?_
  rw [if_pos rfl]
  rfl

/-- The assists that wait on a core. -/
def State.assists (s : State) (c : Nat) : Option (List Assist) := (s.cores[c]?).map (·.assist.waiting)

theorem assists_modCtx (s : State) (c d k : Nat) (f : Ctx → Ctx) : (s.modCtx d k f).assists c = s.assists c := by
  simp only [State.assists, State.modCtx, modCore_cores, List.getElem?_modify]
  cases s.cores[c]? with
  | none => rfl
  | some co => by_cases h : d = c <;> simp [h]

theorem assists_raiseAssist (s : State) (c : Nat) (a : Assist) :
    (s.raiseAssist c a).assists c = (s.assists c).map (· ++ [{ a with raised := s.now }]) := by
  refine (assists_modCtx _ _ _ _ _).trans ?_
  simp only [State.assists, modCore_cores, List.getElem?_modify]
  cases s.cores[c]? with
  | none => rfl
  | some co => simp

/-- The state a word held for the assist routine leaves: the assist waits, the issuing engine holds. -/
def State.heldFor (s : State) (c : Nat) (a : Assist) : State := (s.raiseAssist c a).modHere fun en => { en with held := true }

section
variable {s : State} {g : Here} (e : s.here = some g) (ha : g.asst = false) {a : Assist} 
include e ha

theorem heldFor_eq : s.heldFor g.c a = (s.raiseAssist g.c a).modCtx g.c g.k (·.modEng g.e fun en => { en with held := true }) := by
  obtain ⟨co, hseat, -, -, hc, he, -⟩ := here_some_iff.mp e
  rw [ha] at hseat
  have hr : (s.raiseAssist g.c a).seat = some (g.k, false) := (seat_raiseAssist _ _ _).trans hseat
  have hcc : (s.raiseAssist g.c a).curCore = g.c := hc.symm
  have hce : (s.raiseAssist g.c a).curEng = g.e := he.symm
  simp only [State.heldFor, State.modHere, hr, State.modEng, hcc, hce]

theorem heldFor_modCtxHere (f : Ctx → Ctx) : (s.heldFor g.c a).modCtxHere f = (s.heldFor g.c a).modCtx g.c g.k f := by
  obtain ⟨co, hseat, -, -, hc, he, -⟩ := here_some_iff.mp e
  rw [ha] at hseat
  have hr : (s.heldFor g.c a).seat = some (g.k, false) := (seat_modHere _ _).trans ((seat_raiseAssist _ _ _).trans hseat)
  have hcc : (s.heldFor g.c a).curCore = g.c := by rw [heldFor_eq e ha]; exact hc.symm
  simp only [State.modCtxHere, hr, hcc]

theorem ctx?_heldFor (hk : a.k = g.k) : (s.heldFor g.c a).ctx? g.c g.k =
    some ((g.ctx.modEng a.eng fun en => { en with yielded := true }).modEng g.e fun en => { en with held := true }) := by
  rw [heldFor_eq e ha, ctx?_modCtx, if_pos ⟨rfl, rfl⟩, ← hk, ctx?_raiseAssist, hk, ctx?_here e]
  rfl

theorem assists_heldFor : (s.heldFor g.c a).assists g.c = (s.assists g.c).map (· ++ [{ a with raised := s.now }]) := by
  rw [heldFor_eq e ha, assists_modCtx, assists_raiseAssist]

end

/-- An engine's state after it is held by an assist of V. -/
theorem eng_held (x : Ctx) (g v : Engine) (hg : g.tag < x.engs.length) :
    (((x.modEng v fun en => { en with yielded := true }).modEng g fun en => { en with held := true }).eng g).held = true ∧
      (((x.modEng v fun en => { en with yielded := true }).modEng g fun en => { en with held := true }).eng g).pc = (x.eng g).pc := by
  simp only [Ctx.modEng, Ctx.eng, List.getElem?_modify, List.getElem?_eq_getElem hg]
  by_cases h : v.tag = g.tag <;> simp [h]

/-- The word is held: the assist it raises names the word, its unit and its elements. -/
theorem vAssist_ok {s0 : State} {g : Here} (e : s0.here = some g) (s : State) (ins : Instr) (unit op dt st rnd srn at_ first count : Nat)
    (desc : List W64) (items : List (List W64)) (base : List W64) (undo : List (Nat × VReg)) :
    ∃ a : Assist, vAssist s0 ins unit op dt st rnd srn at_ first count desc items base undo none s = .ok ((), s0.heldFor g.c a) ∧
      a.k = g.k ∧ a.unit = unit ∧ a.ins = ins ∧ a.first = first ∧ a.count = count := by
  refine ⟨{ k := g.k, unit := unit, ins := ins, cmd := 0, eng := .V,
            record := [assistHead unit op dt st rnd srn, BitVec.ofNat 64 (first + count * 2 ^ 32)] ++ wordDwords ins ++ desc,
            items := items, at_ := at_, first := first, count := count, base := base, written := [], sum := none,
            undo := undo, undoTile := none }, ?_, rfl, rfl, rfl, rfl, rfl⟩
  unfold vAssist
  refine Eq.trans (set_bind_run _ _ _) ?_
  rw [here_bind e]
  rfl

/-- A word that commits with a subnormal result and without FTZ is held from that result on; a register it names has those before it. -/
theorem vCommit_held {s0 u : State} {g h : Here} {v : VShape} {res : List FRes} {items : List (List W64)} {j : Nat} (e0 : s0.here = some g)
    (e : u.here = some h) (hreq : h.eng.req = .none) (hftz : u.ftz h.ctx.lid = false) (hf : u.vFree v.x.d.toNat) (hg1 : v.g = 1)
    (hj : res.findIdx? (·.sub) = some j) (ha : g.asst = false) :
    ∃ (a : Assist) (f : Ctx → Ctx), vCommit s0 v res items u = .ok ((), (({ s0 with freeCtr := s0.freeCtr + res.length } : State).heldFor g.c a).modCtx g.c g.k f) ∧
      (a.k = g.k ∧ a.unit = 0 ∧ a.ins = v.ins ∧ a.first = j ∧ a.count = res.length - j) ∧ (∀ x, (f x).engs = x.engs ∧ (f x).opqs = x.opqs) ∧
      (v.x.d.toNat < 32 → ∀ x, (f x).vregs = x.vregs.set v.x.d.toNat (packElems (typeWidth v.dt)
        (groupPart 1 0 ((assistBase h.ctx u.freeCtr v.x.d.toNat 1 (typeWidth v.dt) j res).map (·.toNat))))) := by
  have e1 : ({ s0 with freeCtr := s0.freeCtr + res.length } : State).here = some g := e0
  obtain ⟨h', e', hroom⟩ := hf
  obtain rfl : h' = h := Option.some.inj (e'.symm.trans e)
  obtain ⟨a, hrun, hk, hrest⟩ := vAssist_ok e1 u v.ins 0 (opOf ((encode v.ins).getD 0)).toNat v.dt v.st v.x.rnd.toNat v.x.srn.toNat 0 j (res.length - j)
    [0, 0, 0, 0] items (assistBase h'.ctx u.freeCtr v.x.d.toNat v.g (typeWidth v.dt) j res)
    (if 32 ≤ v.x.d.toNat then [] else (List.range (max 1 v.g)).map fun q => (v.x.d.toNat + q, (h'.ctx.vregs[v.x.d.toNat + q]?).getD 0))
  unfold vCommit
  by_cases hd : v.x.d.toNat < 32
  · have hnot : ¬ 32 ≤ v.x.d.toNat := by omega
    rw [if_neg hnot] at hrun hroom
    refine ⟨a, fun x => { x with vregs := x.vregs.set v.x.d.toNat (packElems (typeWidth v.dt)
        (groupPart 1 0 ((assistBase h'.ctx u.freeCtr v.x.d.toNat 1 (typeWidth v.dt) j res).map (·.toNat)))) }, ?_, ⟨hk, hrest⟩, fun x => ⟨rfl, rfl⟩, fun _ x => rfl⟩
    refine (bind_ok (assistAnswer_none e (by simp [hreq]))).trans ((here_bind e _).trans ((get_bind_run _ _).trans ?_))
    simp only [hftz, Bool.false_eq_true, if_false, hj, if_pos hd, if_neg hnot]
    have hall : ((codeRegs v.x.d v.g).all fun r => !h'.eng.isBusy u.now r) = true := by simp [codeRegs, hd, hg1, hroom]
    rw [hall, require_bind_true, bind_ok hrun, hg1]
    exact congrArg (fun z => Except.ok ((), z)) (heldFor_modCtxHere e1 ha _)
  · have hge : 32 ≤ v.x.d.toNat := by omega
    rw [if_pos hge] at hrun hroom
    refine ⟨a, (·.reserveSlot (v.x.d.toNat - 32)), ?_, ⟨hk, hrest⟩, fun x => ⟨rfl, rfl⟩, fun h => absurd h hd⟩
    refine (bind_ok (assistAnswer_none e (by simp [hreq]))).trans ((here_bind e _).trans ((get_bind_run _ _).trans ?_))
    simp only [hftz, Bool.false_eq_true, if_false, hj, if_neg hd, if_pos hge, if_pos hroom]
    rw [bind_ok hrun]
    exact congrArg (fun z => Except.ok ((), z)) (heldFor_modCtxHere e1 ha _)

/-- Settles O31: an element-wise word with a subnormal result is held, and the assist it raises starts at that result. -/
theorem subnormalsWaitForTheAssist : Obligations.SubnormalsWaitForTheAssist := by
  intro p hp x s u h g co a b c en rb j eg hg ht hm hr e ha hreq hlen hftz hf hj hco
  obtain ⟨t1, t2, h1, h2, h3⟩ := vSources_three ht
  have hseat : u.seat = s.seat := (vSourceIf_seat h3).trans ((vSourceIf_seat h2).trans (vSourceIf_seat h1))
  have hga : g.asst = false := (asst_of_seat eg e hseat).trans ha
  obtain ⟨q, f, hrun, ⟨hk, hunit, hins, hfirst, hcount⟩, hkeep, hregs⟩ := vCommit_held (s0 := s) (g := g)
    (v := { ins := p.ins x, x := x, dt := x.type.toNat, st := x.type.toNat, g := 1, lat := p.lat x, cyc := 1 })
    (items := vItems (elemsOf x.type.toNat) (a.elem (typeWidth x.type.toNat)) (b.elem (typeWidth x.type.toNat)) (c.elem (typeWidth x.type.toNat)) en rb)
    eg e hreq hftz hf rfl hj hga
  have e1 : ({ s with freeCtr := s.freeCtr + (elemResults x (p.op x) a b c en rb).length } : State).here = some g := eg
  have hctx := ctx?_heldFor e1 hga hk
  refine ⟨_, { q with raised := s.now }, _, (elemForms_mean p hp x s).trans (run_ok ((elemWord_commits hg ht hm hr).trans hrun)), ?_, hk, hunit, hins, hfirst,
    hcount.trans (by simp [elemResults]), (ctx?_modCtx _ _ _ _ _ _).trans ((if_pos ⟨rfl, rfl⟩).trans (congrArg _ hctx)), ?_⟩
  · have hw := assists_heldFor e1 hga (a := q)
    have hco' : State.assists { s with freeCtr := s.freeCtr + (elemResults x (p.op x) a b c en rb).length } g.c = some co.assist.waiting :=
      congrArg (Option.map fun y : Core => y.assist.waiting) hco
    rw [hco'] at hw
    exact (assists_modCtx _ _ _ _ _).trans hw
  · obtain ⟨hheld, hpc⟩ := eng_held g.ctx g.e q.eng hlen
    have heng (y : Ctx) : (f y).eng g.e = y.eng g.e := by rw [Ctx.eng, (hkeep y).1]; rfl
    exact ⟨by rw [heng]; exact hheld, by rw [heng]; exact hpc, (hkeep _).2, fun hd => hregs hd _⟩

end Sys2Proof.Machine
end

section
/-!
The steps of the placement unit and of launches (R121 to R144, R410, R421, R449, R450).
-/
namespace Sys2Proof.Machine

/-- A step of one state function leaves what the function does. -/
theorem run_modify_to {f : State → State} {s t : State} (h : f s = t) : run (modify f) s = .next (s.commit t) := by rw [run_modify, h]

/-! ## A launch found and changed -/

theorem launch?_mem {s : State} {lid : Nat} {l : Launch} (h : s.launch? lid = some l) : l ∈ s.place.launches ∧ l.lid = lid := by
  obtain ⟨hp, -⟩ := List.find?_eq_some_iff_append.mp h
  exact ⟨List.mem_of_find?_eq_some h, by simpa using hp⟩

theorem launch?_modLaunch {s : State} {lid : Nat} {l : Launch} {f : Launch → Launch} (h : s.launch? lid = some l) (hf : ∀ m, (f m).lid = m.lid) :
    (s.modLaunch lid f).launch? lid = some (f l) := by
  have hp : ((fun m : Launch => m.lid == lid) ∘ fun m => if m.lid = lid then f m else m) = fun m => m.lid == lid := by
    funext m
    by_cases hm : m.lid = lid <;> simp [hm, hf]
  simp only [State.launch?, State.modLaunch, List.find?_map, hp]
  rw [State.launch?] at h
  rw [h, Option.map_some, if_pos (launch?_mem h).2]

theorem launch?_congr {s t : State} (h : t.place = s.place) (lid : Nat) : t.launch? lid = s.launch? lid := by
  rw [State.launch?, h]; rfl

theorem launch?_forgetLaunch (s : State) (lid : Nat) : (s.forgetLaunch lid).launch? lid = none := by
  simp [State.launch?, State.forgetLaunch, List.find?_eq_none]

/-! ## Submissions -/

theorem submit_refused {s t : State} {src : Source} {st asid : Nat} (h : s.checkLaunch src none = (t, .refused st asid)) :
    s.submit src = (t, ticketOf asid 0 st, none) := by
  simp only [State.submit, h]

theorem submit_full {s t : State} {src : Source} {r : BitVec 1024} {pb sm : List Byte} (h : s.checkLaunch src none = (t, .ok r pb sm))
    (hfull : 64 ≤ t.levelCount (bitsOf r 383 381)) : s.submit src = (t, ticketOf (bitsOf r 331 320) 0 3, none) := by
  simp only [State.submit, h, if_pos hfull]

theorem bitsOf_asid_lt (r : BitVec 1024) : bitsOf r 331 320 < 4096 := by
  simp only [bitsOf]
  exact Nat.mod_lt _ (by decide)

theorem asidOf_number (g : Nat) (r : BitVec 1024) : asidOf (g * 4096 + bitsOf r 331 320) = bitsOf r 331 320 := by
  rw [asidOf, Nat.mul_add_mod', Nat.mod_eq_of_lt (bitsOf_asid_lt r)]

theorem submit_accepted {s t : State} {src : Source} {r : BitVec 1024} {pb sm : List Byte} (h : s.checkLaunch src none = (t, .ok r pb sm))
    (hroom : t.levelCount (bitsOf r 383 381) < 64) : ∃ u lid, s.submit src = (u, ticketOf (asidOf lid) (genOf lid) 0, some lid) ∧
      u.place.launches = t.place.launches ++ [newLaunch lid r pb sm t.now t.wall] ∧ asidOf lid = bitsOf r 331 320 := by
  refine ⟨(t.acceptLaunch r pb sm).1, (t.acceptLaunch r pb sm).2, ?_, rfl, asidOf_number _ r⟩
  simp only [State.submit, h, if_neg (Nat.not_le.mpr hroom)]

/-! ## Placement -/

/-- A launch of the order is in the part. -/
theorem placeOrder_mem {s : State} {l : Launch} (h : l ∈ s.placeOrder) : l ∈ s.place.launches := by
  obtain ⟨i, -, hi⟩ := List.mem_flatMap.mp h
  obtain hr | hq := List.mem_append.mp hi
  · obtain ⟨lid, -, hl⟩ := List.mem_filterMap.mp hr
    cases hf : s.launch? lid with
    | none => rw [hf] at hl; cases hl
    | some m =>
      rw [hf] at hl
      simp only [Option.ite_none_right_eq_some, Option.some.injEq] at hl
      rw [← hl.2]
      exact (launch?_mem hf).1
  · exact (List.mem_filter.mp hq).1

theorem mem_rotateLevel {l m : Launch} {ls : List Launch} (h : m ∈ ls) : ∃ n ∈ rotateLevel l ls, n.lid = m.lid := by
  unfold rotateLevel
  simp only
  by_cases hb : ((ls.takeWhile fun m => m.lid != l.lid).filter fun m => m.phase == .queued && m.image.isNone && m.prio == l.prio).any (·.lid == m.lid) = true
  · obtain ⟨n, hn, heq⟩ := List.any_eq_true.mp hb
    exact ⟨n, List.mem_append_right _ hn, by simpa using heq⟩
  · exact ⟨m, List.mem_append_left _ (List.mem_filter.mpr ⟨h, by simpa using hb⟩), rfl⟩

theorem placeAt_placed {s : State} {l : Launch} (h : l ∈ s.place.launches) (o : Nat × Nat) :
    ∃ m ∈ (s.placeAt l o).place.launches, m.lid = l.lid ∧ m.phase = .placed o.1 o.2 s.now ∧ m.createAt = s.now + 32 := by
  obtain ⟨n, hn, heq⟩ : ∃ n ∈ (if l.image.isNone then rotateLevel l s.place.launches else s.place.launches), n.lid = l.lid := by
    split
    · exact mem_rotateLevel h
    · exact ⟨l, h, rfl⟩
  exact ⟨_, List.mem_map.mpr ⟨n, hn, if_pos heq⟩, heq, rfl, rfl⟩

theorem placement_places {s : State} {l : Launch} {o : Nat × Nat}
    (h : ((s.freeParents.placeOrder.filter (s.freeParents.mayPlace ·)).findSome? fun l => (s.freeParents.choosePlace l).map (l, ·)) = some (l, o)) :
    s.placement = s.freeParents.placeAt l o ∧ l ∈ s.freeParents.place.launches := by
  refine ⟨by simp only [State.placement, h], ?_⟩
  obtain ⟨m, hm, hf⟩ := List.exists_of_findSome?_eq_some h
  obtain ⟨q, -, hq⟩ := Option.map_eq_some_iff.mp hf
  cases hq
  exact placeOrder_mem (List.mem_filter.mp hm).1

/-! ## Contexts -/

theorem createContext_made {s : State} {c lid k ox oy p : Nat} {l : Launch} (hl : s.launch? lid = some l)
    (hk : ((s.cores[c]?).bind fun co => co.slots.findIdx? (·.isNone)) = some k) (hp : l.phase = .placed ox oy p) (hi : l.image = none)
    (hat : l.createAt ≤ s.now) (hc : l.toCreate.contains c = true) :
    (s.createContext c lid).ctx? c k = some (freshCtx l (xOf c - ox) (yOf c - oy)) := by
  obtain ⟨co, hco, hfind⟩ := Option.bind_eq_some_iff.mp hk
  obtain ⟨hlt, -⟩ := List.findIdx?_eq_some_iff_getElem.mp hfind
  have hmade : s.createContext c lid = (s.modCore c fun co => { co with slots := co.slots.set k (some (freshCtx l (xOf c - ox) (yOf c - oy))) }).modLaunch lid
      fun l => { l with toCreate := l.toCreate.filter (· != c), startCyc := s.now } := by
    simp only [State.createContext, hl, hk, hp, hi, hc, decide_eq_false (Nat.not_lt.mpr hat)]
    rfl
  rw [hmade]
  refine (ctx?_modCore _ _ _ _ _).trans ?_
  rw [if_pos rfl, hco]
  simp [hlt]

/-! ## Retirement and ending -/

theorem replyFrame_place (s : State) (a b : Nat) (c : W64) (d e : Nat) (f : Bool) (l : List Byte) : (s.replyFrame a b c d e f l).place = s.place := rfl

/-- What each step of a fold keeps, the fold keeps. -/
theorem foldl_keeps {α β : Type} (P : State → β) {f : State → α → State} (hf : ∀ s a, P (f s a) = P s) (l : List α) (s : State) : P (l.foldl f s) = P s :=
  List.foldlRecOn (motive := fun t => P t = P s) l f rfl fun t ht a _ => (hf t a).trans ht

theorem bindQueue_place (s : State) (q : Nat) (v : W64) : (s.bindQueue q v).place = s.place := by
  unfold State.bindQueue
  rw [modText_place]
  split
  · unfold State.unbindQueue
    exact foldl_keeps (·.place) (fun _ _ => replyFrame_place _ _ _ _ _ _ _ _) _ _
  · rfl

theorem unbindLaunch_place (s : State) (lid : Nat) : (s.unbindLaunch lid).place = s.place := by
  refine foldl_keeps (·.place) (fun t q => ?_) _ _
  simp only
  split
  · exact bindQueue_place _ _ _
  · rfl

theorem clearPreq_place (s : State) (lid : Nat) : (s.clearPreq lid).place = s.place := by
  unfold State.clearPreq
  split <;> rfl

/-- What goes with a launch that is over, but for its queue places, leaves the launches. -/
theorem launches_dropAll (s : State) (lid : Nat) : ((((s.dropFaults lid).unbindLaunch lid).freeImage lid).clearPreq lid).place.launches = s.place.launches := by
  rw [clearPreq_place, State.freeImage, unbindLaunch_place]
  rfl

/-- A launch's faults, bindings, image, request and queue places gone (R449). -/
def State.overLaunch (s : State) (lid : Nat) : State :=
  let u := (((s.dropFaults lid).unbindLaunch lid).freeImage lid).clearPreq lid
  { u with place := { u.place with resv := u.place.resv.filter (·.1 != lid), restoreQ := u.place.restoreQ.filter (· != lid),
                                   yieldQ := u.place.yieldQ.filter (· != lid) } }

section
variable {s : State} {lid : Nat} {l : Launch} (h : s.launch? lid = some l) (cause : Nat)
include h

/-- A launch without a ring is gone, another's record is to be written. -/
theorem finishLaunch_eq : ∃ t : State, t.place.launches = s.place.launches ∧ s.finishLaunch lid cause =
    if bitsOf l.record 319 256 = 0 then t.forgetLaunch lid
    else t.modLaunch lid fun l => { l with phase := .recording cause, ending := none, image := none, toCreate := [], kept := [] } := by
  have hl : (s.overLaunch lid).launch? lid = some l := by
    rw [← h]
    exact congrArg (List.find? _) (launches_dropAll s lid)
  refine ⟨s.overLaunch lid, launches_dropAll s lid, ?_⟩
  show (match (s.overLaunch lid).launch? lid with | none => s.overLaunch lid | some l => _) = _
  rw [hl]
  rfl

theorem finishLaunch_gone (hr : bitsOf l.record 319 256 = 0) : (s.finishLaunch lid cause).launch? lid = none := by
  obtain ⟨t, -, ht⟩ := finishLaunch_eq h cause
  rw [ht, if_pos hr]
  exact launch?_forgetLaunch t lid

theorem finishLaunch_recording (hr : bitsOf l.record 319 256 ≠ 0) : ∃ m, (s.finishLaunch lid cause).launch? lid = some m ∧ m.phase = .recording cause := by
  obtain ⟨t, hs, ht⟩ := finishLaunch_eq h cause
  rw [ht, if_neg hr]
  have hl : t.launch? lid = some l := by rw [← h, State.launch?, hs]; rfl
  exact ⟨_, launch?_modLaunch hl fun _ => rfl, rfl⟩

end

/-- Issue stopped and held agents released in a launch's contexts (R421). -/
def State.stopContexts (s : State) (lid : Nat) : State :=
  (s.contextsOf lid).foldl (fun s (c, k, _) => ((s.modCtx c k fun x => { x with stopping := true }).releaseHeld c k).dropQueueWait c k) s

/-- A placed launch that ends waits for its accesses and what they follow, then its contexts go (R421). -/
theorem endLaunch_placed {s : State} {lid a b p cause : Nat} {l : Launch} (hl : s.launch? lid = some l) (he : l.ending = some cause)
    (hp : l.phase = .placed a b p) (hsv : l.saved = false) : s.endLaunch lid =
    if (s.stopContexts lid).accessesDone lid && (s.stopContexts lid).launchReleased lid then
      let v := (s.contextsOf lid).foldl (fun s (c, k, _) => (s.endContext c k).evict c k) (s.stopContexts lid)
      (v.modLaunch lid fun l => { l with endCyc := if s.contextsOf lid = [] then l.endCyc else v.now }).finishLaunch lid cause
    else s.stopContexts lid := by
  unfold State.endLaunch
  simp only [hl, he, hp, hsv, Bool.false_eq_true, if_false]
  rfl

/-! ## Stop traps -/

/-- What stands in the cycle of a stop trap leaves the placement unit and the clock. -/
def SameClock (s t : State) : Prop := t.place = s.place ∧ t.now = s.now

theorem letGo_clock (s : State) (c : Nat) (a : Assist) (st : CmdState) (keep : Bool) : SameClock s (s.letGo c a st keep) := by
  unfold State.letGo
  cases keep <;> simp only [Bool.false_eq_true, if_false, if_true] <;> split <;> exact ⟨rfl, rfl⟩

theorem releaseWaiter_clock (s : State) (w : Waiter) : SameClock s (s.releaseWaiter w) := by
  cases w <;> exact ⟨rfl, rfl⟩

theorem clock_foldl {α : Type} {f : State → α → State} (hf : ∀ s a, SameClock s (f s a)) (l : List α) (s : State) : SameClock s (l.foldl f s) :=
  ⟨foldl_keeps (·.place) (fun t a => (hf t a).1) l s, foldl_keeps (·.now) (fun t a => (hf t a).2) l s⟩

theorem dropAssists_clock (s : State) (c k : Nat) : SameClock s (s.dropAssists c k) := by
  unfold State.dropAssists
  split
  · exact ⟨rfl, rfl⟩
  · exact clock_foldl (fun _ _ => letGo_clock _ _ _ _ _) _ (s.modCore c _)

theorem dropPosted_clock (s : State) (c k : Nat) : SameClock s (s.dropPosted c k) := by
  unfold State.dropPosted
  exact clock_foldl releaseWaiter_clock _ _

theorem stopLaunch_stops {s : State} {lid : Nat} {l : Launch} (hl : s.launch? lid = some l) (he : l.ending = none) (hi : l.image = none)
    (hp : l.pre = none ∨ (l.pre = some 3 ∧ l.preAt = s.now)) (ht : ((s.contextsOf lid).any fun q => q.2.2.trap.isSome) = true) :
    ∃ m, (s.stopLaunch lid).launch? lid = some m ∧ m.pre = some 2 := by
  have hne : ((s.contextsOf lid).filter fun (_, _, x) => x.trap.isSome).isEmpty = false := by
    obtain ⟨q, hq, hs⟩ := List.any_eq_true.mp ht
    rw [List.isEmpty_eq_false_iff_exists_mem]
    exact ⟨q, List.mem_filter.mpr ⟨hq, hs⟩⟩
  unfold State.stopLaunch
  simp only [hne, Bool.false_eq_true, if_false]
  generalize hT : (List.foldl (fun s (x : Nat × Nat × Ctx) => (s.dropAssists x.1 x.2.1).dropPosted x.1 x.2.1) s _) = T
  obtain ⟨hplace, hnow⟩ : SameClock s T := by
    rw [← hT]
    exact clock_foldl (fun t a => ⟨(dropPosted_clock _ _ _).1.trans (dropAssists_clock _ _ _).1, (dropPosted_clock _ _ _).2.trans (dropAssists_clock _ _ _).2⟩) _ s
  refine ⟨_, launch?_modLaunch ((launch?_congr hplace lid).trans hl) fun m => ?_, ?_⟩
  · split
    · split <;> rfl
    · rfl
  · have hif : (l.pre.isNone = true ∨ (l.pre = some 3 ∧ l.preAt = T.now)) := by
      rw [hnow]
      exact hp.imp_left fun h => by rw [h]; rfl
    simp only [he, hi, if_pos hif]

/-! ## A child after its parent has yielded -/

/-- The first launch that waits for its child to be accepted at a level (R134). -/
def State.firstYield (s : State) (lvl : Nat) : Option (Launch × ChildReq) :=
  s.place.yieldQ.findSome? fun lid => match s.launch? lid with
    | some l => match l.phase, l.child, l.ending with
      | .yielding, some q, none => if q.prio = lvl then some (l, q) else none
      | _, _, _ => none
    | none => none

section
variable {s t : State} {lvl : Nat} {l : Launch} {q : ChildReq} (hy : s.firstYield lvl = some (l, q)) (hroom : s.levelCount lvl < 64)
include hy hroom

theorem childAccept_refused {st asid : Nat} (h : s.checkLaunch (.work (asidOf l.lid) q.va) (some l) = (t, .refused st asid)) :
    s.childAccept lvl = (t.writeTicket l q (ticketOf asid 0 st)).endYield l.lid none := by
  unfold State.childAccept
  change (match s.firstYield lvl with | none => s | some (l, q) => _) = _
  rw [hy]
  simp only [if_neg (Nat.not_le.mpr hroom), h]

theorem childAccept_accepted {r : BitVec 1024} {pb sm : List Byte} {u : State} {lid : Nat}
    (h : s.checkLaunch (.work (asidOf l.lid) q.va) (some l) = (t, .ok r pb sm)) (hlev : t.levelCount (bitsOf r 383 381) < 64)
    (hacc : t.acceptLaunch r pb sm = (u, lid)) :
    s.childAccept lvl = (u.writeTicket l q (ticketOf (asidOf lid) (genOf lid) 0)).endYield l.lid (some lid) := by
  unfold State.childAccept
  change (match s.firstYield lvl with | none => s | some (l, q) => _) = _
  rw [hy]
  simp only [if_neg (Nat.not_le.mpr hroom), h, if_neg (Nat.not_le.mpr hlev), hacc]

end

/-! ## Patience -/

section
variable {s : State} {lid : Nat} {l : Launch} (hl : s.launch? lid = some l) (hp : l.phase = .queued) (htg : l.target = none)
  (hpat : s.wall ≥ l.since + l.patience) (he : l.ending = none) (hresv : s.place.resv.any (·.1 == lid) = false)
include hl hp htg hpat he hresv

/-- A queued launch whose patience has ended: the candidate whose victims have the lowest priority, or a reservation (R143, R144). -/
theorem patienceEnd_ended : s.patienceEnd lid =
    match leastBy (fun o => (s.victims l o).foldl (fun m v => max m (v.prio + 1)) 0 * 4096 + morton o)
      (l.candidates.filter fun o => (s.victims l o).all fun v => decide (v.prio < l.prio)) with
    | some o => ((s.victims l o).foldl (fun s v => s.askPreempt v.lid 0) s).modLaunch lid fun l => { l with target := some o }
    | none => (s.modLaunch lid fun l => { l with target := none }).reserve l := by
  unfold State.patienceEnd
  rw [hl]
  refine (if_neg ?_).trans ?_
  · rintro (h | h | h | h)
    · exact h hp
    · omega
    · simp [he] at h
    · rw [hresv] at h; cases h
  · rw [htg]
    rfl

end

/-! ## Completion records -/

/-- The launch whose record waits for room in its ring, due to read TAIL again (R450). -/
def State.dueTail (s : State) : Option (Launch × Nat × Nat) :=
  s.place.launches.findSome? fun l => match l.phase, l.ringSlot with
    | .recording cause, some h => if l.ringDue ≤ s.wall then some (l, cause, h) else none
    | _, _ => none

theorem tailRecheck_due {s : State} {l : Launch} {cause h : Nat} (hd : s.dueTail = some (l, cause, h)) : s.tailRecheck = s.tryRecord l cause h := by
  unfold State.tailRecheck
  change (match s.dueTail with | some (l, cause, h) => _ | none => _) = _
  rw [hd]

section
variable {s u : State} {l : Launch} {ps : List (Nat × Nat × AccHome × Nat)}

theorem recordWrite_numbered {cause : Nat} (hn : s.nextRecord = some (l, cause))
    (hr : s.rangeNow 1 (asidOf l.lid) (BitVec.ofNat 64 (bitsOf l.record 319 256)) 8 2 = (u, .ok ps)) (hbad : u.ringBad ps = false) :
    s.recordWrite = ((u.writeParts ps (leBytes (leNum (u.readParts ps) + 1) 8)).modLaunch l.lid
      fun l => { l with ringSlot := some (leNum (u.readParts ps)) }).tryRecord l cause (leNum (u.readParts ps)) := by
  simp only [State.recordWrite, hn, hr, hbad, Bool.false_eq_true, if_false]

variable (cause h : Nat) (hr : s.rangeNow 1 (asidOf l.lid) (BitVec.ofNat 64 (bitsOf l.record 319 256) + 8) 8 0 = (u, .ok ps))
include hr

theorem tryRecord_bad (hbad : u.ringBad ps = true) : s.tryRecord l cause h = u.dropRecord l.lid := by
  simp only [State.tryRecord, hr, hbad, if_true]

variable (hbad : u.ringBad ps = false)
include hbad

theorem tryRecord_full (hfull : leNum (u.readParts ps) + 2 ^ bitsOf l.record 380 376 ≤ h) :
    s.tryRecord l cause h = u.modLaunch l.lid fun l => { l with ringDue := u.wall + microsecond } := by
  simp only [State.tryRecord, hr, hbad, Bool.false_eq_true, if_false, if_pos hfull]

theorem tryRecord_written {v : State} {qs : List (Nat × Nat × AccHome × Nat)} (hroom : h < leNum (u.readParts ps) + 2 ^ bitsOf l.record 380 376)
    (hw : u.rangeNow 1 (asidOf l.lid) (BitVec.ofNat 64 (bitsOf l.record 319 256) + BitVec.ofNat 64 (64 + 64 * (h % 2 ^ bitsOf l.record 380 376))) 64 1 =
      (v, .ok qs)) :
    s.tryRecord l cause h = (v.writeParts qs (completionRecord l cause h)).forgetLaunch l.lid := by
  simp only [State.tryRecord, hr, hbad, Bool.false_eq_true, if_false, if_neg (Nat.not_le.mpr hroom), hw]

end

/-- Settles O41: each step of the placement unit and of a launch has its rule's effect. -/
theorem launchStepsTakeEffect : Obligations.LaunchStepsTakeEffect := by
  intro s
  refine ⟨fun m v b hh hb hbusy => ⟨_, (run_modify _ _ : execMailboxSubmit m v s = _), ?_⟩,
    fun m b t tk o hb hbusy hsub => ⟨_, (run_modify _ _ : execLaunchAcceptance m s = _), ?_⟩,
    fun src t => ⟨fun st asid h => submit_refused h, fun r pb sm h => ⟨submit_full h, submit_accepted h⟩⟩,
    fun lvl l q hy hroom t => ⟨fun st asid h => (run_modify_to (childAccept_refused hy hroom h) : execChildAcceptAfterYield lvl s = _),
      fun r pb sm u lid h hlev hacc => (run_modify_to (childAccept_accepted hy hroom h hlev hacc) : execChildAcceptAfterYield lvl s = _)⟩,
    fun l o h => ⟨_, (run_modify _ _ : execPlacement s = _), ?_⟩,
    fun c lid l k ox oy p hl hk hp hi hat hc =>
      ⟨_, (run_modify _ _ : execContextCreation c lid s = _), createContext_made hl hk hp hi hat hc⟩,
    fun lid l hl hp htg hpat he hresv => ⟨fun o ho => (run_modify_to ?_ : execPatienceExpiry lid s = _),
      fun hgood => (run_modify_to ?_ : execPatienceExpiry lid s = _)⟩,
    fun lid l a b p hl hp he hi hcr hctx hacc => ⟨fun hrel => (run_modify_to ?_ : execLaunchRetire lid s = _),
      fun hrel => (run_modify_to ?_ : execLaunchRetire lid s = _)⟩,
    fun lid l a b p cause hl he hp hsv => ⟨fun hopen => (run_modify_to ?_ : execLaunchEnd lid s = _),
      fun hacc hrel => (run_modify_to ?_ : execLaunchEnd lid s = _)⟩,
    fun lid cause l hl => ⟨finishLaunch_gone hl cause, finishLaunch_recording hl cause⟩,
    fun lid l hl he hi hp ht => ?_,
    fun l cause u ps hn hr hbad => (run_modify_to (recordWrite_numbered hn hr hbad) : execCompletionRecordWrite s = _),
    fun l cause h hf => (run_modify_to (tailRecheck_due hf) : execRingTailRecheck s = _),
    fun l cause h u ps hr => ⟨tryRecord_bad cause h hr, tryRecord_full cause h hr, fun v qs hbad hroom hw => tryRecord_written cause h hr hbad hroom hw⟩⟩
  · simp [hh, State.mailboxWrite, hb, hbusy]
  · simp [hb, hbusy, hsub]
  · obtain ⟨hpl, hm⟩ := placement_places h
    rw [hpl]
    exact placeAt_placed hm o
  · rw [patienceEnd_ended hl hp htg hpat he hresv, ho]
  · rw [patienceEnd_ended hl hp htg hpat he hresv, hgood]
    rfl
  · simp [State.retire, hl, hp, he, hi, hcr, hctx, hacc, hrel]
  · simp [State.retire, hl, hp, he, hi, hcr, hctx, hacc, hrel]
  · refine (endLaunch_placed hl he hp hsv).trans (if_neg ?_)
    rw [Bool.and_eq_true]
    rintro ⟨h1, h2⟩
    obtain h | h := hopen
    · exact Bool.false_ne_true (h.symm.trans h1)
    · exact Bool.false_ne_true (h.symm.trans h2)
  · exact (endLaunch_placed hl he hp hsv).trans (if_pos (Bool.and_eq_true _ _ ▸ ⟨hacc, hrel⟩))
  · obtain ⟨m, hm, hpre⟩ := stopLaunch_stops hl he hi hp ht
    exact ⟨_, m, (run_modify _ _ : execLaunchStop lid s = _), hm, hpre⟩

end Sys2Proof.Machine
end

section
/-!
The steps that stop, save and restore launches, and those of the fault queue, assist mode and the watchdog (R409, R412, R416, R420, R425, R429 to R442).
-/
namespace Sys2Proof.Machine

/-! ## Stop and pre-emption -/

section
variable {s : State} {lid a b p : Nat} {l : Launch} (hl : s.launch? lid = some l) (hp : l.phase = .placed a b p) (he : l.ending = none)
include hl hp he

section
variable {cause : Nat} (hpre : l.pre = some cause) (hi : l.image = none) (hc : l.toCreate = [])
include hpre hi hc

theorem saveReserve_room {pa : Nat} (hpool : s.poolSpace (if l.imageSize = 0 then s.imageUnits l else l.imageSize / 4096) = some pa) :
    s.saveReserve lid = s.takeRegion lid pa (if l.imageSize = 0 then s.imageUnits l else l.imageSize / 4096) := by
  simp only [State.saveReserve, hl, hp, hpre, hi, he, hc, ne_eq, not_true_eq_false, if_false, hpool]

theorem saveReserve_full (hpool : s.poolSpace (if l.imageSize = 0 then s.imageUnits l else l.imageSize / 4096) = none) :
    s.saveReserve lid = s.modLaunch lid fun m => if cause = 2 then { m with ending := some 2 }
      else { m with imageSize := 4096 * (if l.imageSize = 0 then s.imageUnits l else l.imageSize / 4096) } := by
  simp only [State.saveReserve, hl, hp, hpre, hi, he, hc, ne_eq, not_true_eq_false, if_false, hpool]

end

variable {pa : Nat} (hi : l.image = some pa)
include hi

theorem preempt_stops (hs : l.saved = false) : s.preempt lid = (s.contextsOf lid).foldl (fun s (c, k, _) => s.stopContext c k) s := by
  simp only [State.preempt, hl, hp, hi, hs, he]

theorem preemptDone_saves (hs : l.saved = false) (hne : s.contextsOf lid ≠ [])
    (hq : (s.contextsOf lid).all (fun (c, k, x) => s.contextQuiet c k x) = true) (ha : s.accessesDone lid = true) {bytes : List Byte} {offs : List Nat}
    (him : s.image l (l.pre.getD 0) = (bytes, offs)) (hlen : bytes.length ≤ l.imageSize) : s.preemptDone lid = s.saveLaunch l pa bytes offs := by
  have hrest : ((s.contextsOf lid == []) || !((s.contextsOf lid).all fun (c, k, x) => s.contextQuiet c k x) || !s.accessesDone lid) = false := by
    rw [hq, ha, beq_eq_false_iff_ne.mpr hne]
    rfl
  unfold State.preemptDone
  simp only [hl, hp, hi, hs, he]
  refine (if_neg (Bool.eq_false_iff.mp hrest)).trans ?_
  simp only [him, if_pos hlen]

variable (hs : l.saved = true)
include hs

theorem restoreStep_refused (hn : s.loadImage l pa = none) : s.restoreStep lid = s.modLaunch lid fun l => { l with ending := some 3 } := by
  simp only [State.restoreStep, hl, hp, hi, he, hs, hn, Bool.not_true, Bool.false_eq_true, if_false]

section
variable {m : Launch} {xs : List Saved} (hm : s.loadImage l pa = some (m, xs))
include hm

theorem restoreStep_loaded {t : State} (ht : s.restoreContexts { m with kept := l.kept } a b xs = some t) : s.restoreStep lid =
    (t.modLaunch lid fun _ => { m with image := none, imageSize := 0, saved := false, toCreate := [], kept := [] }).freeImage lid := by
  simp only [State.restoreStep, hl, hp, hi, he, hs, hm, Bool.not_true, Bool.false_eq_true, if_false, ht]

theorem restoreStep_waits (ht : s.restoreContexts { m with kept := l.kept } a b xs = none) : s.restoreStep lid = s := by
  simp only [State.restoreStep, hl, hp, hi, he, hs, hm, Bool.not_true, Bool.false_eq_true, if_false, ht]

end

end

/-! ## PREQ -/

/-- PREQ as a write leaves it: GO, HOLD and the launch's number (R442). -/
def preqOf (v : W64) : W64 := BitVec.ofNat 64 (bitsOf v 63 62 * 2 ^ 62 + bitsOf v 35 0)

theorem preqOf_go {v : W64} (h : v.getLsbD 63 = true) : (preqOf v).getLsbD 63 = true := by
  have hv : 2 ^ 63 ≤ v.toNat := by
    rw [BitVec.getLsbD, Nat.testBit_eq_decide_div_mod_eq, decide_eq_true_eq] at h
    omega
  have hlt := v.isLt
  have hhi : bitsOf v 63 62 = v.toNat / 2 ^ 62 % 4 := by rw [bitsOf, Nat.shiftRight_eq_div_pow]; rfl
  have hlo : bitsOf v 35 0 = v.toNat % 2 ^ 36 := by rw [bitsOf, Nat.shiftRight_eq_div_pow, Nat.pow_zero, Nat.div_one]
  rw [preqOf, BitVec.getLsbD, BitVec.toNat_ofNat, Nat.testBit_eq_decide_div_mod_eq, decide_eq_true_eq, hhi, hlo]
  omega

/-- A pre-emption asked of a launch that none was asked of. -/
theorem askPreempt_asked {s : State} {lid cause : Nat} {l : Launch} (hl : s.launch? lid = some l) (hpre : l.pre = none) (he : l.ending = none) :
    (s.askPreempt lid cause).launch? lid = some { l with pre := some cause, preAt := s.now } := by
  refine (launch?_modLaunch hl fun m => ?_).trans ?_
  · split
    · rfl
    · split <;> rfl
    · rfl
  · simp only [hpre, he]

/-- A write to PREQ while GO is 0: the register, the launch asked for, GO and HOLD as they are given. -/
def State.preqTo (s : State) (reg : W64) (lid : Nat) (go hold : Bool) : State :=
  let s := { s with ctl := { s.ctl with preq := reg } }
  if !go then s
  else match s.launch? lid with
    | some l =>
      match l.phase with
      | .placed _ _ _ =>
        let new := l.pre.isNone && l.ending.isNone
        (s.askPreempt lid 3).modLaunch lid fun l => if new then { l with hold := hold } else l
      | _ => s.clearPreq lid
    | none => s.clearPreq lid

theorem writePreq_eq (s : State) (v : W64) : s.writePreq v = if s.ctl.preq.getLsbD 63 then s
    else s.preqTo (preqOf v) (bitsOf v 35 12 * 4096 + bitsOf v 11 0) (v.getLsbD 63) (v.getLsbD 62) := rfl

theorem preqTo_asks {s : State} {reg : W64} {lid : Nat} {hold : Bool} {l : Launch} {a b p : Nat} (hl : s.launch? lid = some l)
    (hp : l.phase = .placed a b p) (hpre : l.pre = none) (he : l.ending = none) :
    ∃ m, (s.preqTo reg lid true hold).launch? lid = some m ∧ m.pre = some 3 ∧ m.hold = hold ∧ (s.preqTo reg lid true hold).ctl.preq = reg := by
  have hl' : State.launch? { s with ctl := { s.ctl with preq := reg } } lid = some l := (launch?_congr rfl _).trans hl
  have hs : s.preqTo reg lid true hold = (State.askPreempt { s with ctl := { s.ctl with preq := reg } } lid 3).modLaunch lid
      fun l => { l with hold := hold } := by
    simp only [State.preqTo, hl', hp, hpre, he, Bool.false_eq_true, if_false, Bool.not_true, Option.isNone_none, Bool.and_self, if_true]
  rw [hs]
  exact ⟨_, launch?_modLaunch (askPreempt_asked hl' hpre he) fun m => rfl, rfl, rfl, rfl⟩

theorem writePreq_asks {s : State} {v : W64} {l : Launch} {a b p : Nat} (hgo : s.ctl.preq.getLsbD 63 = false) (hv : v.getLsbD 63 = true)
    (hl : s.launch? (bitsOf v 35 12 * 4096 + bitsOf v 11 0) = some l) (hp : l.phase = .placed a b p) (hpre : l.pre = none) (he : l.ending = none) :
    ∃ m, (s.writePreq v).launch? l.lid = some m ∧ m.pre = some 3 ∧ m.hold = v.getLsbD 62 ∧ (s.writePreq v).ctl.preq.getLsbD 63 = true := by
  obtain ⟨m, hm, hpre3, hhold, hreg⟩ := preqTo_asks (reg := preqOf v) (hold := v.getLsbD 62) hl hp hpre he
  rw [writePreq_eq, if_neg (by rw [hgo]; decide), hv, (launch?_mem hl).2]
  exact ⟨m, hm, hpre3, hhold, by rw [hreg]; exact preqOf_go hv⟩

/-! ## The fault queue -/

theorem admitFault_raised (s : State) (f : FaultEntry) : (s.admitFault f).faults.raised = s.faults.raised := by
  unfold State.admitFault
  split
  · rfl
  · split <;> rfl

theorem faultsEnter_raised (s : State) : s.faultsEnter.faults.raised = [] :=
  foldl_keeps (·.faults.raised) admitFault_raised _ _

theorem faultsEnter_none {s : State} (hr : s.faults.raised = []) (hw : s.faults.waiting = []) : s.faultsEnter.faults.entries = s.faults.entries := by
  simp only [State.faultsEnter, hr, hw]
  rfl

theorem faultsEnter_one {s : State} {f : FaultEntry} (hr : s.faults.raised = [f]) (hw : s.faults.waiting = []) (he : s.faults.entries = []) :
    s.faultsEnter.faults.entries = [{ f with bits := f.bits + BitVec.ofNat 256 (s.faults.nextTag.toNat * 2 ^ 64) }] ∧
      s.faultsEnter.faults.nextTag = s.faults.nextTag + 1 ∧ s.faultsEnter.faults.irq = (s.faults.irq || s.faults.irqEn) := by
  have hs : s.faultsEnter = State.enterFault { s with faults := { s.faults with waiting := [], raised := [] } } f := by
    simp only [State.faultsEnter, hr, hw]
    show State.admitFault _ f = _
    simp [State.admitFault, he]
  rw [hs]
  simp only [State.enterFault, he, List.nil_append, and_self]

theorem writeFqack_settles {s : State} {v : W64} {f : FaultEntry} {l : Launch} (hv : bitsOf v 33 32 < 2)
    (hf : (s.faults.entries.find? fun f => f.inService && bitsOf f.bits 95 64 == bitsOf v 31 0) = some f) (hl : s.launch? f.lid = some l)
    (hp : ∀ q, l.phase ≠ .recording q) : s.writeFqack v = State.settle { s with faults := { s.faults with
      fqack := BitVec.ofNat 64 (bitsOf v 33 0),
      entries := s.faults.entries.filter fun g => !(g.inService && bitsOf g.bits 95 64 == bitsOf v 31 0) } } f (bitsOf v 33 32) := by
  unfold State.writeFqack
  simp only [if_neg (Nat.not_le.mpr hv), hf]
  have hl' (q : FaultSt) : State.launch? { s with faults := q } f.lid = some l := (launch?_congr rfl _).trans hl
  rw [hl']
  cases hq : l.phase with
  | recording q => exact absurd hq (hp q)
  | _ => simp only [hq]

section
variable (u : State) (f : FaultEntry)

theorem settle_posted (hs : f.stop = false) : u.settle f 0 = f.waiters.foldl State.releaseWaiter u := by
  unfold State.settle
  rw [if_neg (by decide), if_neg (by rw [hs]; decide)]

theorem settle_stop (hs : f.stop = true) : u.settle f 0 = u.resumeLaunch f.lid := by
  unfold State.settle
  rw [if_neg (by decide), if_pos hs]

variable {u f} in
theorem settle_ends {l : Launch} (hl : u.launch? f.lid = some l) (he : l.ending = none) :
    ∃ m, (u.settle f 1).launch? f.lid = some m ∧ m.ending = some 1 := by
  refine ⟨_, (launch?_modLaunch hl fun m => ?_), ?_⟩
  · split <;> rfl
  · rw [he]
    rfl

end

/-! ## Assist mode and the watchdog -/

theorem core_modCore {s : State} {c : Nat} {co : Core} (h : s.cores[c]? = some co) (f : Core → Core) : (s.modCore c f).cores[c]? = some (f co) := by
  rw [modCore_cores, List.getElem?_modify_eq, h]
  rfl

theorem assistEntry_enters {s : State} {c : Nat} {co : Core} {q : Assist} {rest : List Assist} (hco : s.cores[c]? = some co)
    (ha : co.assist.active = none) (hw : co.assist.waiting = q :: rest) (hr : q.raised < s.now) (hcur : (co.cur[0]?).join = none) :
    s.assistEntry c = s.modCore c fun co =>
      { co with assist := { active := some q, waiting := rest, regs := List.replicate 48 0, eng := EngSt.zero, saveSlot := none } } := by
  have hb : s.atBoundary c .S = true := by
    have h0 : (s.cores[c]?).bind (fun co => (co.cur[Engine.S.tag]?).join) = none := by rw [hco]; exact hcur
    simp only [State.atBoundary, h0, Option.bind_none]
  have h0 : (s.cores[c]?).bind (fun co => (co.cur[0]?).join) = none := by rw [hco]; exact hcur
  have hm : (s.cores[c]?).map (·.assist) = some co.assist := by rw [hco]; rfl
  simp only [State.assistEntry, hm, ha, hw, if_neg (Nat.not_le.mpr hr), h0, hb, if_true]

theorem svcRelease_ok {s : State} (h : s.causedApplied 8 (List.range 8) = true) : svcRelease s = .ok ((), s) := by
  unfold svcRelease
  rw [get_bind_run, h]
  rfl

/-- Settles O42: each step that stops, saves, restores or faults has its rule's effect. -/
theorem stopsFaultsAndRestores : Obligations.StopsFaultsAndRestores := by
  intro s
  refine ⟨fun lid l a b p cause hl hp hpre hi he hc => ⟨fun pa hpool => ⟨(run_modify_to (saveReserve_room hl hp he hpre hi hc hpool) :
        execSavePoolReserve lid s = _), rfl⟩,
      fun hpool => ⟨fun h2 => (run_modify_to ?_ : execSavePoolReserve lid s = _), fun h2 => (run_modify_to ?_ : execSavePoolReserve lid s = _)⟩⟩,
    fun lid l a b p pa hl hp hi hs he => ⟨(run_modify_to (preempt_stops hl hp he hi hs) : execPreemption lid s = _),
      fun hne hq ha bytes offs him hlen => (run_modify_to (preemptDone_saves hl hp he hi hs hne hq ha him hlen) : execPreemptionComplete lid s = _)⟩,
    fun lid l a b p pa hl hp hi hs he => ⟨fun hn => (run_modify_to (restoreStep_refused hl hp he hi hs hn) : execRestore lid s = _),
      fun m xs hm => ⟨fun t ht => (run_modify_to (restoreStep_loaded hl hp he hi hs hm ht) : execRestore lid s = _),
        fun ht => (run_modify_to (restoreStep_waits hl hp he hi hs hm ht) : execRestore lid s = _)⟩⟩,
    fun v => ⟨fun hgo => (run_modify_to (by rw [writePreq_eq, if_pos hgo]) : execPreqWrite v s = _), fun l a b p hgo hv hl hp hpre he => ?_⟩,
    ⟨_, (run_modify _ _ : execFaultQueueEnter s = _), faultsEnter_raised s, faultsEnter_none, fun f => faultsEnter_one⟩,
    fun v f l hv hf hl hp hrel => ⟨?_, fun h0 hs => ?_, fun h0 hs => ?_, fun h1 he => ?_⟩,
    fun c co q rest hco ha hw hr hcur => ?_,
    fun c e h hh ha hd => ?_⟩
  · rw [saveReserve_full hl hp he hpre hi hc hpool]
    simp only [h2, if_true]
  · rw [saveReserve_full hl hp he hpre hi hc hpool]
    simp only [h2, if_false]
  · obtain ⟨m, hm⟩ := writePreq_asks hgo hv hl hp hpre he
    exact ⟨_, m, (run_modify _ _ : execPreqWrite v s = _), hm⟩
  · refine (run_ok ?_ : execFqackWrite v s = _)
    rw [bind_ok (svcRelease_ok hrel)]
    exact congrArg (fun t => Except.ok ((), t)) (writeFqack_settles hv hf hl hp)
  · rw [h0]
    exact settle_posted _ f hs
  · rw [h0]
    exact settle_stop _ f hs
  · rw [h1]
    exact settle_ends ((launch?_congr rfl _).trans hl) he
  · refine ⟨_, _, (run_modify_to (assistEntry_enters hco ha hw hr hcur) : execSubnormalAssistEntry c s = _), core_modCore hco _, rfl, rfl, rfl, rfl⟩
  · refine (run_trap ?_ : execWatchdogExpiry c e s = _)
    rw [here_bind hh, get_bind_run, ha, hd]
    rfl

end Sys2Proof.Machine
end

section
/-!
The steps of the engines' fetch units: sections entered and retired, engines that drop out, contexts switched (R83, R161 to R169).
-/
namespace Sys2Proof.Machine

/-! ## Sections entered -/

/-- What an engine's state is as it enters a section of `n` (R162). -/
def EngSt.entered (en : EngSt) (off : Nat) (hd : Header) (n : BitVec 32) : EngSt :=
  { en with pos := en.pos + 1, pc := BitVec.ofNat 32 (off + 8),
            sect := some { hdr := off, len := hd.len, done := hd.retire == 1, n := n, widx := 0, copyQ := none },
            secs := en.secs ++ [{ n := n, done := hd.retire == 1, finished := false, bind := none }] }

/-- The state as the issuing engine enters a section: V latches its parameters; a section of length 0 is finished (R162). -/
def State.entered (s : State) (g : Here) (l : Launch) (off : Nat) (hd : Header) : State :=
  let t1 := s.modHere fun en => en.entered off hd g.eng.pos
  let t2 := if g.e = .V then t1.modCtxHere fun y => { y with params := l.params y.bind } else t1
  if hd.len = 0 then t2.modHere EngSt.finish else t2

theorem enterSection_ok {s : State} {g : Here} {l : Launch} (e : s.here = some g) (ha : g.asst = false) (hl : s.launch? g.ctx.lid = some l) (off : Nat)
    (hd : Header) : enterSection g off hd s = .ok ((), s.entered g l off hd) := by
  unfold enterSection
  rw [bind_ok (launchHere_ok e), hl, ha]
  simp only [Bool.false_eq_true, if_false, modEng_bind_run]
  unfold State.entered
  by_cases hz : hd.len = 0
  · simp only [if_pos hz]
    cases g.e <;> rfl
  · simp only [if_neg hz]
    cases g.e <;> rfl

theorem headerCycle_enters {s : State} {g : Here} {l : Launch} {len : Nat} {w : W64} (n : Nat) (e : s.here = some g) (ha : g.asst = false)
    (ht : textLen s = .ok (len, s)) (hne : g.eng.pc.toNat ≠ len) (hle : g.eng.pc.toNat + 8 ≤ len) (hw : headerAt g.eng.pc.toNat s = .ok (w, s))
    (hm : (headerOf w).malformed g.eng.pc.toNat len = false) (he : (headerOf w).eng = g.e.tag) (hl : s.launch? g.ctx.lid = some l)
    (hok : g.ctx.entryOk g.e (headerOf w) l.slipw = true) : headerCycle (n + 1) s =
    .ok ((), (s.entered g l g.eng.pc.toNat (headerOf w)).modHere fun en => { en with ready := s.now + 1 }) := by
  unfold headerCycle
  rw [here_bind e, bind_ok ht, if_neg hne, if_neg (Nat.not_lt.mpr hle), get_bind_run, hw]
  simp only [hm, he, Bool.false_eq_true, if_false, ne_eq, not_true_eq_false]
  rw [bind_ok (launchHere_ok e), hl]
  simp only [Option.map_some, Option.getD_some, hok, Bool.or_true, if_true]
  rw [bind_ok (enterSection_ok e ha hl _ _)]
  rfl

/-! ## Sections retired -/

theorem retireSections_ctx {s : State} {c k : Nat} {e : Engine} {x : Ctx} (hx : s.ctx? c k = some x) (hlen : e.tag < x.engs.length) :
    ∃ y, (s.retireSections c k e).ctx? c k = some y ∧
      (y.eng e).rc = (x.eng e).rc + BitVec.ofNat 32 (retireCount (s.pendingOf c k e) (x.eng e).secs) ∧
      (y.eng e).secs = (x.eng e).secs.drop (retireCount (s.pendingOf c k e) (x.eng e).secs) ∧ (y.eng e).pos = (x.eng e).pos ∧ (e ≠ .S → y.bind = x.bind) := by
  have heng (f : EngSt → EngSt) (b : Nat) : ({ x.modEng e f with bind := b } : Ctx).eng e = f (x.eng e) := by
    have h := eng_modEng x e f
    rw [if_pos hlen] at h
    exact h
  simp only [State.retireSections, hx]
  refine ⟨_, (ctx?_modCtx _ _ _ _ _ _).trans (by rw [if_pos ⟨rfl, rfl⟩, hx, Option.map_some]), ?_, ?_, ?_, fun he => if_neg he⟩
  all_goals rw [heng]

/-! ## Engines that drop out -/

theorem endContext_gone (s : State) (c k : Nat) : (s.endContext c k).ctx? c k = none := by
  unfold State.endContext
  cases hx : s.ctx? c k with
  | none => exact hx
  | some x =>
    refine (ctx?_modCore _ _ _ _ _).trans ?_
    rw [if_pos rfl, Option.bind_eq_none_iff]
    intro co _
    show ((co.slots.set k none)[k]?).join = none
    rw [List.getElem?_set_self']
    cases co.slots[k]? <;> rfl

section
variable {s : State} {c k : Nat} {e : Engine} {x : Ctx} (hx : s.ctx? c k = some x) (hh : (x.eng e).halted = true)
  (hsecs : (x.eng e).secs = []) (hp : s.cmdPending c k e none = false)
include hx hh hsecs hp

theorem dropOut_eq : s.dropOut c k e = if (x.modEng e fun en => { en with dropped := true }).engs.all (·.dropped) && x.trap.isNone
    then (s.modEng c k e fun en => { en with dropped := true }).endContext c k else s.modEng c k e fun en => { en with dropped := true } := by
  have hy : (s.modEng c k e fun en => { en with dropped := true }).ctx? c k = some (x.modEng e fun en => { en with dropped := true }) := by
    rw [State.modEng, ctx?_modCtx, if_pos ⟨rfl, rfl⟩, hx]
    rfl
  unfold State.dropOut
  rw [hx]
  simp only [hh, hsecs, hp, List.isEmpty_nil, Bool.not_false, Bool.and_self, if_true, hy]
  rfl

theorem dropOut_last (hall : (x.modEng e fun en => { en with dropped := true }).engs.all (·.dropped) = true) (ht : x.trap = none) :
    (s.dropOut c k e).ctx? c k = none := by
  rw [dropOut_eq hx hh hsecs hp, if_pos (by rw [hall, ht]; rfl)]
  exact endContext_gone _ _ _

theorem dropOut_more (h : (x.modEng e fun en => { en with dropped := true }).engs.all (·.dropped) = false ∨ x.trap.isSome = true) :
    (s.dropOut c k e).ctx? c k = some (x.modEng e fun en => { en with dropped := true }) := by
  rw [dropOut_eq hx hh hsecs hp, if_neg ?_, State.modEng, ctx?_modCtx, if_pos ⟨rfl, rfl⟩, hx]
  · rfl
  · rw [Bool.and_eq_true, Option.isNone_iff_eq_none]
    rintro ⟨hall, ht⟩
    obtain h | h := h
    · exact Bool.false_ne_true (h.symm.trans hall)
    · rw [ht] at h
      cases h

end

/-! ## Contexts switched -/

/-- The fetch unit that has found an engine's header finds it again from there (R161). -/
theorem nextHeader_again {co : Core} {l : Launch} {e : Engine} {p : Nat} {hd : Header} : ∀ {n off : Nat}, co.nextHeader l e n off = some (p, hd) →
    p < 2 ^ 32 ∧ ∀ m, co.nextHeader l e (m + 1) p = some (p, hd)
  | 0, _, h => by cases h
  | n + 1, off, h => by
    rw [Core.nextHeader] at h
    cases hc : co.cachedHeader l off with
    | none => rw [hc] at h; cases h
    | some q =>
      rw [hc] at h
      by_cases hbad : l.textLen < off + 8 ∨ q.malformed off l.textLen
      · simp only [if_pos hbad] at h
        cases h
      by_cases he : q.eng ≠ e.tag
      · simp only [if_neg hbad, if_pos he] at h
        exact nextHeader_again h
      · simp only [if_neg hbad, if_neg he, Option.some.injEq, Prod.mk.injEq] at h
        obtain ⟨rfl, rfl⟩ := h
        refine ⟨?_, fun m => ?_⟩
        · have hlt : l.textLen < 2 ^ 32 := Nat.mod_lt _ (by decide)
          omega
        · rw [Core.nextHeader, hc]
          simp only [if_neg hbad, if_neg he]

/-- The fetch unit reads of a core only its instruction cache. -/
theorem nextHeader_congr {co q : Core} (h : q.icache = co.icache) (l : Launch) (e : Engine) : ∀ n off, q.nextHeader l e n off = co.nextHeader l e n off
  | 0, _ => rfl
  | n + 1, off => by
    have hc : q.cachedHeader l off = co.cachedHeader l off := by simp only [Core.cachedHeader, Core.line?, h]
    rw [Core.nextHeader, Core.nextHeader, hc]
    simp only [nextHeader_congr h l e n]

theorem awaitedEntry_slots (co : Core) (sl : List (Option Ctx)) (l : Launch) (x : Ctx) (e : Engine) (n off : Nat) :
    Core.awaitedEntry { co with slots := sl } l x e n off = co.awaitedEntry l x e n off := by
  rw [Core.awaitedEntry, nextHeader_congr (co := co) (q := { co with slots := sl }) rfl]
  rfl

section
variable (x : Ctx) (e : Engine) (v : BitVec 32)

/-- A context with an engine's program counter changed. -/
def Ctx.atPc : Ctx := x.modEng e fun en => { en with pc := v }

theorem eng_atPc (f : Engine) : ∃ w, (x.atPc e v).eng f = { x.eng f with pc := w } := by
  simp only [Ctx.atPc, Ctx.eng, Ctx.modEng, List.getElem?_modify]
  cases x.engs[f.tag]? with
  | none => exact ⟨EngSt.zero.pc, rfl⟩
  | some en =>
    by_cases h : e.tag = f.tag
    · exact ⟨v, by simp [h]⟩
    · exact ⟨en.pc, by simp [h]⟩

theorem engs_all_atPc {q : EngSt → Bool} (hq : ∀ en : EngSt, q { en with pc := v } = q en) : (x.atPc e v).engs.all q = x.engs.all q := by
  have h : (x.atPc e v).engs.map q = x.engs.map q := by
    apply List.ext_getElem?
    intro i
    simp only [Ctx.atPc, Ctx.modEng, List.getElem?_map, List.getElem?_modify]
    cases x.engs[i]? with
    | none => rfl
    | some en => by_cases h : e.tag = i <;> simp [h, hq]
  have key (l : List EngSt) : l.all q = (l.map q).all id := by simp [List.all_map]
  rw [key, h, ← key]

/-- The entry check reads no program counter (R162). -/
theorem entryOk_atPc (hd : Header) (w : Nat) : (x.atPc e v).entryOk e hd w = x.entryOk e hd w := by
  obtain ⟨p, hp⟩ := eng_atPc x e v e
  have hwait (n : BitVec 32) (f : Engine) (d : BitVec 10) : (x.atPc e v).waitMet n f d = x.waitMet n f d := by
    obtain ⟨p, hp⟩ := eng_atPc x e v f
    simp only [Ctx.waitMet, hp]
  have hslip (n : BitVec 32) : (x.atPc e v).slipOk n w = x.slipOk n w := engs_all_atPc x e v fun en => rfl
  simp only [Ctx.entryOk, hp, hwait, hslip]

end

theorem core_modCtx (s : State) (c k d : Nat) (f : Ctx → Ctx) :
    (s.modCtx c k f).cores[d]? = (s.cores[d]?).map fun co => if c = d then { co with slots := co.slots.modify k (Option.map f) } else co := by
  simp only [State.modCtx, modCore_cores, List.getElem?_modify]
  rfl

/-- Whether a context may issue does not change as its engine comes to stand at the header its fetch unit has found (R161, R167). -/
theorem eligible_atHeader {s : State} {c k : Nat} {e : Engine} {co : Core} {x : Ctx} {l : Launch} {off : Nat} {hd : Header} (hco : s.cores[c]? = some co)
    (hx : s.ctx? c k = some x) (hl : s.launch? x.lid = some l) (hs : (x.eng e).sect = none)
    (hn : co.nextHeader l e ((x.eng e).ahead + 4) (x.eng e).pc.toNat = some (off, hd)) (hlen : e.tag < x.engs.length) :
    (s.modCtx c k (·.atPc e (BitVec.ofNat 32 off))).eligible c k e = s.eligible c k e := by
  obtain ⟨hoff, hagain⟩ := nextHeader_again hn
  have heng : (x.atPc e (BitVec.ofNat 32 off)).eng e = { x.eng e with pc := BitVec.ofNat 32 off } := by
    rw [Ctx.atPc, eng_modEng, if_pos hlen]
  have hany : (x.atPc e (BitVec.ofNat 32 off)).engs.any (·.step) = x.engs.any (·.step) := by
    rw [List.any_eq_not_all_not, List.any_eq_not_all_not, engs_all_atPc x e _ fun en => rfl]
  have hy : (s.modCtx c k (·.atPc e (BitVec.ofNat 32 off))).ctx? c k = some (x.atPc e (BitVec.ofNat 32 off)) := by
    rw [ctx?_modCtx, if_pos ⟨rfl, rfl⟩, hx]
    rfl
  have hc : (s.modCtx c k (·.atPc e (BitVec.ofNat 32 off))).cores[c]? =
      some { co with slots := co.slots.modify k (Option.map (·.atPc e (BitVec.ofNat 32 off))) } := by
    rw [core_modCtx, hco, Option.map_some, if_pos rfl]
  have hplace (m : Nat) : (s.modCtx c k (·.atPc e (BitVec.ofNat 32 off))).launch? m = s.launch? m := launch?_congr rfl m
  have hstate (m n : Nat) : (s.modCtx c k (·.atPc e (BitVec.ofNat 32 off))).launchState m n = s.launchState m n := by
    simp only [State.launchState, hplace]
  have hentry : Core.awaitedEntry { co with slots := co.slots.modify k (Option.map (·.atPc e (BitVec.ofNat 32 off))) } l (x.atPc e (BitVec.ofNat 32 off)) e
      ((x.eng e).ahead + 4) off = co.awaitedEntry l x e ((x.eng e).ahead + 4) (x.eng e).pc.toNat := by
    rw [awaitedEntry_slots]
    simp only [Core.awaitedEntry, hn, hagain, entryOk_atPc]
  have hlid : (x.atPc e (BitVec.ofNat 32 off)).lid = x.lid := rfl
  have hmod : (BitVec.ofNat 32 off).toNat = off := by rw [BitVec.toNat_ofNat, Nat.mod_eq_of_lt hoff]
  simp only [State.eligible, hy, hx, hc, hco, heng, hany, hplace, hstate, hs, hlid, hl, hmod, hentry]
  rfl

/-- A context that a change leaves as it was is eligible as before. -/
theorem eligible_modCtx {s : State} {c k j : Nat} {e : Engine} {f : Ctx → Ctx} (hx : (s.modCtx c k f).ctx? c j = s.ctx? c j) :
    (s.modCtx c k f).eligible c j e = s.eligible c j e := by
  have hplace (m : Nat) : (s.modCtx c k f).launch? m = s.launch? m := launch?_congr rfl m
  have hstate (m n : Nat) : (s.modCtx c k f).launchState m n = s.launchState m n := by simp only [State.launchState, hplace]
  have hc := core_modCtx s c k c f
  simp only [State.eligible, hx, hc, hplace, hstate]
  cases s.ctx? c j with
  | none => rfl
  | some x =>
    cases s.cores[c]? with
    | none => rfl
    | some co =>
      simp only [Option.map_some, if_true]
      cases (x.eng e).sect with
      | some sc => rfl
      | none =>
        cases s.launch? x.lid with
        | none => rfl
        | some l =>
          simp only [awaitedEntry_slots]
          rfl

/-- An engine that comes to stand at a header: every context is eligible as before, and the current ones stay. -/
theorem eligible_standAtHeader (s : State) (c k j : Nat) (e : Engine) : (s.standAtHeader c e k).eligible c j e = s.eligible c j e := by
  unfold State.standAtHeader
  split
  case h_2 => rfl
  case h_1 co x hco hx =>
    simp only
    split
    case h_2 => rfl
    case h_1 off hd hfound =>
      obtain ⟨l, hl, hn⟩ := Option.bind_eq_some_iff.mp hfound
      rw [Option.ite_none_right_eq_some] at hl
      obtain ⟨hfree, hl⟩ := hl
      have hs : (x.eng e).sect = none := by
        simp only [Bool.and_eq_true, Option.isNone_iff_eq_none] at hfree
        exact hfree.1.1.1
      by_cases hk : k = j
      · subst hk
        by_cases hlen : e.tag < x.engs.length
        · exact eligible_atHeader hco hx hl hs hn hlen
        · refine eligible_modCtx ?_
          rw [ctx?_modCtx, if_pos ⟨rfl, rfl⟩, hx, Option.map_some, Ctx.modEng, List.modify_eq_self (Nat.not_lt.mp hlen)]
      · exact eligible_modCtx (by rw [ctx?_modCtx, if_neg fun hh => hk hh.2])

theorem cur_modCtx (s : State) (c k d : Nat) (f : Ctx → Ctx) : ((s.modCtx c k f).cores[d]?).map (·.cur) = (s.cores[d]?).map (·.cur) := by
  rw [core_modCtx]
  cases s.cores[d]? with
  | none => rfl
  | some co => by_cases h : c = d <;> simp [h]

theorem cur_standAtHeader (s : State) (c k : Nat) (e : Engine) : ((s.standAtHeader c e k).cores[c]?).map (·.cur) = (s.cores[c]?).map (·.cur) := by
  unfold State.standAtHeader
  split
  · simp only
    split
    · exact cur_modCtx _ _ _ _ _
    · rfl
  · rfl

/-- An engine takes up its next eligible context, or has none (R166, R167). -/
def State.takeContext (s : State) (c : Nat) (e : Engine) (co : Core) (old : Option Nat) (last : Nat) : State :=
  match (slotOrder last).find? fun k => s.eligible c k e with
  | none => s.modCore c fun co => { co with cur := co.cur.set e.tag none, last := co.last.set e.tag last }
  | some k =>
    let idle := old.isNone && !((co.left[e.tag]?).join.any fun n => n + 1 == s.now)
    (s.modCore c fun co => { co with cur := co.cur.set e.tag (some k), last := co.last.set e.tag k, left := co.left.set e.tag none }).modEng c k e fun en =>
      { en with yielded := false, wdc := 0, ready := s.now + (if old = some k ∨ idle then 0 else 1),
                loop := if k = last then en.loop else en.loop.map fun l => { l with body := [] } }

/-- The slot an engine last had a context in. -/
def Core.lastSlot (co : Core) (e : Engine) : Nat := match (co.cur[e.tag]?).join with | some k => k | none => (co.last[e.tag]?).getD 3

/-- The engine's current context gives up its turn. -/
def State.yieldTurn (s : State) (c : Nat) (e : Engine) (old : Option Nat) : State :=
  match old with | some k => s.modEng c k e fun en => { en with yielded := false, wdc := 0 } | none => s

theorem switchContext_eq {s : State} {c : Nat} {co : Core} (e : Engine) (hco : s.cores[c]? = some co) : s.switchContext c e =
    ((List.range 4).foldl (fun s k => s.standAtHeader c e k) (s.yieldTurn c e (co.cur[e.tag]?).join)).takeContext c e co (co.cur[e.tag]?).join (co.lastSlot e) := by
  unfold State.switchContext
  rw [hco]
  rfl

theorem takeContext_cur {s : State} {c : Nat} {e : Engine} {cur : List (Option Nat)} (hcur : (s.cores[c]?).map (·.cur) = some cur) (hlen : e.tag < cur.length)
    (co : Core) (old : Option Nat) (last : Nat) :
    ((s.takeContext c e co old last).cores[c]?).map (fun q => (q.cur[e.tag]?).join) = some ((slotOrder last).find? fun k => s.eligible c k e) := by
  obtain ⟨q, hq, rfl⟩ := Option.map_eq_some_iff.mp hcur
  unfold State.takeContext
  cases (slotOrder last).find? fun k => s.eligible c k e with
  | none =>
    show ((s.modCore c _).cores[c]?).map _ = _
    rw [core_modCore hq]
    simp [hlen]
  | some k =>
    show ((State.modCtx _ c k _).cores[c]?).map _ = _
    rw [core_modCtx, core_modCore hq]
    simp [hlen]

theorem switchContext_cur {s : State} {c : Nat} {e : Engine} {co : Core} (hco : s.cores[c]? = some co) (hlen : e.tag < co.cur.length) :
    ((s.switchContext c e).cores[c]?).map (fun q => (q.cur[e.tag]?).join) =
      some ((slotOrder (co.lastSlot e)).find? fun k => (s.yieldTurn c e (co.cur[e.tag]?).join).eligible c k e) := by
  have hyield : ((s.yieldTurn c e (co.cur[e.tag]?).join).cores[c]?).map (·.cur) = some co.cur := by
    have hs : (s.cores[c]?).map (·.cur) = some co.cur := by rw [hco]; rfl
    unfold State.yieldTurn
    split
    · exact (cur_modCtx _ _ _ _ _).trans hs
    · exact hs
  have hcur := (foldl_keeps (fun t => (t.cores[c]?).map (·.cur)) (fun t j => cur_standAtHeader t c j e) (List.range 4)
    (s.yieldTurn c e (co.cur[e.tag]?).join)).trans hyield
  have hel (k : Nat) := foldl_keeps (fun t => t.eligible c k e) (fun t j => eligible_standAtHeader t c j k e) (List.range 4)
    (s.yieldTurn c e (co.cur[e.tag]?).join)
  rw [switchContext_eq e hco, takeContext_cur hcur hlen]
  simp only [hel]

end Sys2Proof.Machine
end

section
/-!
What comes due at a context: results, flags, inbound values, range units' draws, stage queues' answers and barriers' arrivals (R154, R157 to R159,
R183, R184, R188, R213, R216, R365 to R367).
-/
namespace Sys2Proof.Machine

theorem ctx?_changed {s : State} {c k : Nat} {x : Ctx} (hx : s.ctx? c k = some x) (f : Ctx → Ctx) : (s.modCtx c k f).ctx? c k = some (f x) := by
  rw [ctx?_modCtx, if_pos ⟨rfl, rfl⟩, hx]
  rfl

/-! ## Operand queues -/

theorem foldl_pushQueue (l : List QPush) (x : Ctx) : (l.foldl (fun x p => x.pushQueue p.q p.entry) x).qpush = x.qpush ∧
    ∀ q v, x.opqs[q]? = some v → (l.foldl (fun x p => x.pushQueue p.q p.entry) x).opqs[q]? = some (v ++ (l.filter (·.q == q)).map (·.entry)) := by
  induction l generalizing x with
  | nil => exact ⟨rfl, fun q v h => by simpa using h⟩
  | cons p l ih =>
    obtain ⟨h1, h2⟩ := ih (x.pushQueue p.q p.entry)
    refine ⟨h1, fun q v h => ?_⟩
    by_cases hq : p.q = q
    · have hp : (x.pushQueue p.q p.entry).opqs[q]? = some (v ++ [p.entry]) := by
        simp only [Ctx.pushQueue, hq, List.getElem?_modify_eq, h]
        rfl
      rw [List.foldl_cons, h2 q _ hp]
      simp [hq]
    · have hp : (x.pushQueue p.q p.entry).opqs[q]? = some v := by
        simp only [Ctx.pushQueue]
        rw [List.getElem?_modify_ne _ _ hq, h]
      rw [List.foldl_cons, h2 q _ hp]
      simp [hq]

/-! ## Flags -/

theorem foldl_setFlag_other {l : List FlagWrite} {i : Nat} (h : ∀ f ∈ l, f.slot ≠ i) (v : List W64) :
    (l.foldl (fun fs f => fs.set f.slot f.val) v)[i]? = v[i]? := by
  induction l generalizing v with
  | nil => rfl
  | cons f l ih =>
    rw [List.foldl_cons, ih fun g hg => h g (by simp [hg]), List.getElem?_set_ne (h f (by simp))]

section
variable {x : Ctx} {now : Nat}

theorem writeFlags_untouched {i : Nat} {v : W64} (hv : x.flags[i]? = some v) (hf : ∀ f ∈ x.flagw, f.due ≤ now → f.slot ≠ i) :
    (x.writeFlags now).flags[i]? = some (if x.flagclr.getLsbD i then 0 else v) := by
  unfold Ctx.writeFlags
  simp only
  rw [foldl_setFlag_other]
  · simp [hv]
  · intro f hmem
    simp only [List.mem_append, List.mem_filter, decide_eq_true_eq] at hmem
    obtain ⟨⟨h1, h2⟩, -⟩ | ⟨⟨h1, h2⟩, -⟩ := hmem <;> exact hf f h1 h2

theorem writeFlags_one {f : FlagWrite} (hs : f.slot < x.flags.length) (hd : x.flagw.filter (fun f => decide (f.due ≤ now)) = [f]) :
    (x.writeFlags now).flags[f.slot]? = some f.val := by
  unfold Ctx.writeFlags
  simp only [hd]
  cases h : f.eng == .V <;> simp [h, bne, hs]

/-- Of two writes to a slot in a cycle B's comes after V's (R188). -/
theorem writeFlags_two {f g : FlagWrite} (hs : f.slot < x.flags.length) (hfg : f.slot = g.slot) (hf : f.eng = .V) (hg : g.eng = .B)
    (hd : x.flagw.filter (fun f => decide (f.due ≤ now)) = [f, g] ∨ x.flagw.filter (fun f => decide (f.due ≤ now)) = [g, f]) :
    (x.writeFlags now).flags[f.slot]? = some g.val := by
  have hlt : g.slot < x.flags.length := hfg ▸ hs
  unfold Ctx.writeFlags
  obtain hd | hd := hd <;> simp [hd, hf, hg, hfg, hlt]

end

/-! ## Inbound queues -/

theorem foldl_inbound (l : List InPush) (x : Ctx) :
    (l.foldl (fun x p => { x with inqs := x.inqs.modify (inqIndex p.dst p.src) (· ++ [p.val]) }) x).inpush = x.inpush ∧
      ∀ q v, x.inqs[q]? = some v → (l.foldl (fun x p => { x with inqs := x.inqs.modify (inqIndex p.dst p.src) (· ++ [p.val]) }) x).inqs[q]? =
        some (v ++ (l.filter fun p => inqIndex p.dst p.src == q).map (·.val)) := by
  induction l generalizing x with
  | nil => exact ⟨rfl, fun q v h => by simpa using h⟩
  | cons p l ih =>
    obtain ⟨h1, h2⟩ := ih { x with inqs := x.inqs.modify (inqIndex p.dst p.src) (· ++ [p.val]) }
    refine ⟨h1, fun q v h => ?_⟩
    by_cases hq : inqIndex p.dst p.src = q
    · have hp : (x.inqs.modify (inqIndex p.dst p.src) (· ++ [p.val]))[q]? = some (v ++ [p.val]) := by
        rw [hq, List.getElem?_modify_eq, h]
        rfl
      rw [List.foldl_cons, h2 q _ hp]
      simp [hq]
    · have hp : (x.inqs.modify (inqIndex p.dst p.src) (· ++ [p.val]))[q]? = some v := by rw [List.getElem?_modify_ne _ _ hq, h]
      rw [List.foldl_cons, h2 q _ hp]
      simp [hq]

/-! ## Range units -/

section
variable {s : State} {lid st : Nat} {l : Launch} {u : RangeUnit} {r : RuReq} {rest : List RuReq} (hl : s.launch? lid = some l) (hu : l.ranges[st]? = some u)
  (hr : u.reqs = r :: rest)
include hl hu hr

theorem execRangeUnitService_init {a b c : W64} {lk : Nat} (hi : r.init = some (a, b, c, lk)) : execRangeUnitService lid st s = .next (s.commit
    ((s.modLaunch lid fun l => { l with ranges := l.ranges.modify st fun u =>
      { u with reqs := rest, base := a, rem := b, kk := 2 ^ lk, min := if c = 0 then 1 else c } }).answerEngine r.c r.k r.eng true [])) := by
  refine run_modify_to ?_
  simp only [hl, hu, hr, hi]

theorem execRangeUnitService_draw (hi : r.init = none) (he : r.eng ≠ .S) : execRangeUnitService lid st s = .next (s.commit
    ((s.modLaunch lid fun m => { m with ranges := m.ranges.modify st fun v =>
      { v with reqs := rest, base := v.base + BitVec.ofNat 64 (drawLen u.rem.toNat u.min.toNat u.kk (l.stageP st)),
               rem := v.rem - BitVec.ofNat 64 (drawLen u.rem.toNat u.min.toNat u.kk (l.stageP st)) } }).answerEngine
        r.c r.k r.eng false [u.base, BitVec.ofNat 64 (drawLen u.rem.toNat u.min.toNat u.kk (l.stageP st))])) := by
  refine run_modify_to ?_
  simp only [hl, hu, hr, hi, he, decide_false, Bool.false_and, Bool.false_eq_true, if_false]

end

/-! ## Stage queues -/

theorem serveQueue_lid (l : Launch) (q now : Nat) : (l.serveQueue q now).lid = l.lid := by
  unfold Launch.serveQueue
  split <;> rfl

theorem entries_eight {r : SqReq} (h : r.data.length = 8) : r.entries = [r.data] := by
  simp [SqReq.entries, h, List.range_succ, List.take_of_length_le]

section
variable {n lid now core : Nat} {q : StageQ} {out : List SqAns} {r : SqReq}

theorem serveOne_pop {e : List W64} {rest : List (List W64)} (ho : r.op = 0) (hq : q.entries = e :: rest) :
    serveOne n lid now core (q, out) r = ({ q with entries := rest }, out ++ [r.answer lid now (transit core r.c) true e]) := by
  simp only [serveOne, ho, if_true, hq]

theorem serveOne_push (ho : r.op = 1) (hroom : q.entries.length + r.entries.length ≤ n) :
    serveOne n lid now core (q, out) r = ({ q with entries := q.entries ++ r.entries },
      if r.inbox then out else out ++ [r.answer lid now (transit core r.c) true []]) := by
  simp only [serveOne, ho, Nat.one_ne_zero, if_false, if_pos hroom]

variable (h : (r.op = 0 ∧ q.entries = []) ∨ (r.op = 1 ∧ n < q.entries.length + r.entries.length))
include h

theorem serveOne_try (ht : r.try_ = true) : serveOne n lid now core (q, out) r = (q, out ++ [r.answer lid now (transit core r.c) false []]) := by
  obtain ⟨ho, hq⟩ | ⟨ho, hq⟩ := h
  · simp only [serveOne, ho, hq, ht, if_true]
  · simp only [serveOne, ho, Nat.one_ne_zero, if_false, if_neg (Nat.not_le.mpr hq), ht, if_true]

theorem serveOne_hold (ht : r.try_ = false) :
    serveOne n lid now core (q, out) r = ({ q with reqs := q.reqs ++ [{ r with held := true, due := now + 1 }] }, out) := by
  obtain ⟨ho, hq⟩ | ⟨ho, hq⟩ := h
  · simp only [serveOne, ho, hq, ht, if_true, Bool.false_eq_true, if_false]
  · simp only [serveOne, ho, Nat.one_ne_zero, if_false, if_neg (Nat.not_le.mpr hq), ht, Bool.false_eq_true]

end

/-- An engine of a context whose core's S is not in assist mode gets its answer. -/
theorem answerEngine_ctx {s : State} {c k n : Nat} {e : Engine} {co : Core} {x : Ctx} {ok : Bool} {d : List W64} (hco : s.cores[c]? = some co)
    (ha : co.assist.active = none) (hx : s.ctx? c k = some x) (hlen : e.tag < x.engs.length) (hw : (x.eng e).req = .wait n) :
    (s.answerEngine c k e ok d).ctx? c k = some (x.modEng e fun en => { en with req := .answer ok d }) := by
  unfold State.answerEngine
  simp only [hco, ha]
  rw [State.modEng, ctx?_changed hx]
  congr 1
  rw [Ctx.eng, List.getElem?_eq_getElem hlen, Option.getD_some] at hw
  simp only [Ctx.modEng]
  congr 1
  apply List.ext_getElem?
  intro i
  simp only [List.getElem?_modify]
  by_cases hi : e.tag = i
  · subst hi
    simp [List.getElem?_eq_getElem hlen, hw]
  · simp [hi]

/-! ## Barriers -/

theorem slot_map {s : State} {c k : Nat} {x : Ctx} (hx : s.ctx? c k = some x) (f : Ctx → Ctx) :
    ((s.cores[c]?).bind fun co => ((co.slots.map (Option.map f))[k]?).join) = some (f x) := by
  obtain ⟨co, hco, hk⟩ := Option.bind_eq_some_iff.mp hx
  have ho := Option.join_eq_some_iff.mp hk
  simp [hco, ho]

/-- A core's barriers at the end of a cycle in which nothing is sent from it or reaches it (R365, R366). -/
theorem barrierArrival_quiet {s : State} {c : Nat} (hc : ∀ x ∈ s.cmds, x.unit = 5 → x.c = c → x.state ≠ .waiting)
    (hr : ∀ a ∈ s.remote, a.core = c → s.now < a.due) : ∃ t, execBarrierArrival c s = .next t ∧
      ∀ k x, s.ctx? c k = some x → t.ctx? c k = some ((x.applyInits.applyArrivals s.now).applyClears) := by
  have hsend : s.cmds.filter (fun x => x.unit == 5 && x.c == c && x.state == .waiting) = [] := by
    rw [List.filter_eq_nil_iff]
    intro x hx h
    simp only [Bool.and_eq_true, beq_iff_eq] at h
    exact hc x hx h.1.1 h.1.2 h.2
  have hdue : s.remote.filter (fun a => a.core == c && decide (a.due ≤ s.now)) = [] := by
    rw [List.filter_eq_nil_iff]
    intro a ha h
    simp only [Bool.and_eq_true, beq_iff_eq, decide_eq_true_eq] at h
    have := hr a ha h.1
    omega
  have hland : s.landArrivals c = { s with remote := s.remote.filter fun a => !(a.core == c && decide (a.due ≤ s.now)) } := by
    simp only [State.landArrivals, hdue, List.foldl_nil]
  refine ⟨_, run_modify _ _, fun k x hx => ?_⟩
  simp only [hsend, List.foldl_nil, hland]
  refine (ctx?_modCore _ _ _ _ _).trans ?_
  rw [if_pos rfl]
  exact slot_map hx _

theorem landArrivals_one {s : State} {c k : Nat} {a : Arrival} {x : Ctx} (hd : s.remote.filter (fun a => a.core == c && decide (a.due ≤ s.now)) = [a])
    (hk : (s.cores[c]?).bind (·.slotOf a.lid) = some k) (hx : s.ctx? c k = some x) :
    (s.landArrivals c).ctx? c k = some { x with arrivals := x.arrivals ++ [a] } := by
  simp only [State.landArrivals, hd, List.foldl_cons, List.foldl_nil, hk]
  exact ctx?_changed hx _

/-- Settles O43: each step of the engines' fetch units and of what comes due at a context has its rule's effect. -/
theorem engineStepsTakeEffect : Obligations.EngineStepsTakeEffect := by
  intro s
  refine ⟨?_, ?_, ?_, ?_, ?_, ?_, ?_, ?_, ?_, ?_, ?_, ?_, ?_, ?_, ?_, ?_, ?_, ?_⟩
  · intro c e g l len w u v hu hv ha ht hne hle hw hm he hl hok t1 t2 t3
    refine (run_ok ?_ : execSectionEntry c e s = _)
    obtain ⟨g0, e0⟩ := Option.isSome_iff_exists.mp hu
    rw [here_bind e0, modEng_bind_run]
    have h := headerCycle_enters (g0.eng.ahead + 3) hv ha ht hne hle hw hm he hl hok
    rw [show v.now = s.now from modHere_now _ _] at h
    exact h
  · intro c e h len hh ht hpc hs hn
    refine (run_ok ?_ : execEndOfText c e s = _)
    rw [here_bind hh, bind_ok ht, if_pos ⟨hpc, by rw [hs]; rfl, hn⟩]
    rfl
  · intro c k e x hx hlen m
    obtain ⟨y, hy, h⟩ := retireSections_ctx hx hlen
    exact ⟨_, y, (run_modify _ _ : execSectionRetire c k e s = _), hy, h⟩
  · intro c k e x hx hh _ hsecs hp y
    exact ⟨_, (run_modify _ _ : execEngineDropOut c k e s = _), dropOut_last hx hh hsecs hp, dropOut_more hx hh hsecs hp⟩
  · intro c e co hco hlen old last u
    exact ⟨_, (run_modify _ _ : execContextSwitch c e s = _), switchContext_cur hco hlen⟩
  · exact fun c k e => rfl
  · intro c k x hx
    obtain ⟨h1, h2⟩ := foldl_pushQueue (sortBy (fun p r => decide (p.tag ≤ r.tag)) (x.qpush.filter fun p => decide (p.due ≤ s.now)))
      { x.modEng .V (fun en => { en with busy := en.busy.filter fun p => decide (s.now < p.2) }) with qpush := x.qpush.filter fun p => decide (s.now < p.due) }
    exact ⟨_, _, (run_modify _ _ : execVectorResultWriteback c k s = _), ctx?_changed hx _, h1, fun q l hl => h2 q l hl⟩
  · intro c k x hx
    exact ⟨_, _, (run_modify _ _ : execFlagWrite c k s = _), ctx?_changed hx _, rfl, rfl, fun i v => writeFlags_untouched, fun f => writeFlags_one,
      fun f g => writeFlags_two⟩
  · intro c k x hx
    obtain ⟨h1, h2⟩ := foldl_inbound (x.inpush.filter fun p => decide (p.due ≤ s.now)) { x with inpush := x.inpush.filter fun p => decide (s.now < p.due) }
    refine ⟨_, _, (run_modify _ _ : execInboundQueueArrival c k s = _), ctx?_changed hx _, h1, fun q l hl => (h2 q l hl).trans ?_⟩
    rw [List.filter_filter]
    simp only [Bool.and_comm]
  · intro c k x hx
    exact (run_modify_to (by rw [hx]) : execTileStoreEffect c k s = _)
  · intro lid st l u r rest hl hu hr
    exact ⟨fun a b c lk hi => execRangeUnitService_init hl hu hr hi, fun hi he => execRangeUnitService_draw hl hu hr hi he⟩
  · intro lid q l hl
    refine ⟨fun hany => ⟨_, (run_modify _ _ : execStageQueueArrival lid q s = _), ?_⟩, fun hany => ⟨_, (run_modify _ _ : execStageQueueHeldRetry lid q s = _), ?_⟩⟩
    · refine (launch?_modLaunch hl fun m => ?_).trans (congrArg some (if_pos hany))
      split
      · exact serveQueue_lid m q s.now
      · rfl
    · refine (launch?_modLaunch hl fun m => ?_).trans (congrArg some (if_pos hany))
      split
      · exact serveQueue_lid m q s.now
      · rfl
  · intro n lid now core q out r
    exact ⟨fun e rest => serveOne_pop, serveOne_push, entries_eight, fun h => ⟨serveOne_try h, serveOne_hold h⟩⟩
  · intro c k x l a hx hl ha hw
    refine (run_modify_to ?_ : execStageQueueAnswer c k s = _)
    simp only [hx, hl, ha, List.foldl_cons, List.foldl_nil, hw, if_true]
  · exact fun c k e co x ok d n hco ha hx hlen hw => answerEngine_ctx hco ha hx hlen hw
  · exact fun c hc hr => barrierArrival_quiet hc hr
  · exact fun c k a x hd hk hx => landArrivals_one hd hk hx
  · exact fun w => rfl

end Sys2Proof.Machine
end

section
/-!
The steps of memory, walks, peers and links (R170, R247, R256 to R264, R266 to R268, R378, R381, R382, R453 to R456).
-/
namespace Sys2Proof.Machine

/-! ## Fetches -/

theorem fillLine_line? (co : Core) (ctr : Nat) (l : ILine) : ((co.fillLine ctr l).line? l.asid l.va).isSome = true := by
  unfold Core.fillLine
  split
  · assumption
  · split <;> simp [Core.line?]

theorem fillLine_misses (co : Core) (ctr : Nat) (l : ILine) : (co.fillLine ctr l).misses = co.misses := by
  unfold Core.fillLine
  split
  · rfl
  · split <;> rfl

/-- The bytes of a line at its parts, as a core's die reads them (R170). -/
def State.lineParts (s : State) (c : Nat) (ps : List (Nat × Nat × AccHome × Nat)) : List Byte :=
  ps.flatMap fun (pa, n, home, _) => match home with
    | .mirror _ => s.phys (replica (dieOf c) pa) n
    | _ => s.dieBytes (dieOf c) pa n

theorem fillFetch_fills {s : State} {c asid line k : Nat} {e : Engine} {co : Core} {rest : List (Nat × Nat × Engine × Nat)} {x : Ctx}
    {ps : List (Nat × Nat × AccHome × Nat)} (hco : s.cores[c]? = some co) (hm : co.misses = (asid, line, e, k) :: rest) (hx : s.ctx? c k = some x)
    (hh : (x.eng e).held = false) (hf : s.find (dieOf c) (some c) asid (BitVec.ofNat 64 line) 64 3 = .parts ps) (hb : s.badLine (dieOf c) .load ps = none) :
    s.fillFetch c = (State.modCore { s with freeCtr := s.freeCtr + 1 } c fun co =>
      { co with misses := co.misses.filter (· != (asid, line, e, k)) }).modCore c (·.fillLine s.freeCtr { asid := asid, va := line, bytes := s.lineParts c ps }) := by
  have hm' : (s.cores[c]?).map (·.misses) = some ((asid, line, e, k) :: rest) := by rw [hco, Option.map_some, hm]
  have hx' : ((s.ctx? c k).filter fun x => !(x.eng e).held).map (·.lid) = some x.lid := by simp [hx, hh]
  unfold State.fillFetch
  simp only [hm', hx', hf, hb]
  rfl

/-! ## Walks and frames -/

theorem mem_tlbInsert (n ctr : Nat) (tlb : List Leaf) (l : Leaf) : l ∈ tlbInsert n ctr tlb l := by
  unfold tlbInsert
  split
  · exact List.contains_iff_mem.mp ‹_›
  · split <;> exact List.mem_cons_self

theorem addWalk_tlb (d : Die) (w : Walk) : (d.addWalk w).tlb = d.tlb := by
  unfold Die.addWalk
  split
  · rfl
  · split
    · rfl
    · split <;> rfl

theorem refill_tlb (d : Die) : d.refill.tlb = d.tlb := by
  unfold Die.refill
  exact List.foldlRecOn (motive := fun t => t.tlb = d.tlb) d.missq Die.addWalk (rfl : ({ d with missq := [] } : Die).tlb = d.tlb) fun t ht w _ => (addWalk_tlb t w).trans ht

section
variable {s : State} {d : Nat} {w : Walk} {rest : List Walk} (hw : (s.dies[d]?).map (·.walks) = some (w :: rest))
include hw

theorem walkStep_leaf {l : Leaf} (h : (s.modDie d fun x => { x with walks := rest }).pageWalk w.asid w.mirror w.off = .leaf l) :
    s.walkStep d = ((s.modDie d fun x => { x with walks := rest }).fillTlb d l w.waiters).modDie d Die.refill := by
  simp only [State.walkStep, hw, h]

theorem walkStep_fault {cause sub psize info : Nat} (h : (s.modDie d fun x => { x with walks := rest }).pageWalk w.asid w.mirror w.off =
    .fault cause sub psize info) :
    s.walkStep d = ((s.modDie d fun x => { x with walks := rest }).postWalk d cause sub psize info w).modDie d Die.refill := by
  simp only [State.walkStep, hw, h]

section
variable {level at_ : Nat} {p : W64} (h : (s.modDie d fun x => { x with walks := rest }).pageWalk w.asid w.mirror w.off = .touch level p at_)
include h

theorem walkStep_noFrame (hf : (s.modDie d fun x => { x with walks := rest }).takeFrame d (level == 1) = none) :
    s.walkStep d = ((s.modDie d fun x => { x with walks := rest }).postWalk d 9 1 level (level * 2 ^ 40 + at_) w).modDie d Die.refill := by
  simp only [State.walkStep, hw, h, hf]

theorem walkStep_frame {pa : Nat} {v : State} (hf : (s.modDie d fun x => { x with walks := rest }).takeFrame d (level == 1) = some (pa, v)) :
    s.walkStep d = v.modDie d fun x =>
      { x with zeroing := x.zeroing ++ [{ walk := w, pa := pa, big := level == 1, level := level, pte := p, ptePa := at_ }] } := by
  simp only [State.walkStep, hw, h, hf]

end

end

theorem die_modDie (s : State) (c d : Nat) (f : Die → Die) : (s.modDie c f).dies[d]? = (s.dies[d]?).map fun x => if c = d then f x else x := by
  show (s.dies.modify c f)[d]? = _
  rw [List.getElem?_modify]
  rfl

/-- A leaf filled is in the die's TLB (R257). -/
theorem fillTlb_tlb {s : State} {d : Nat} {x : Die} (hx : s.dies[d]? = some x) (l : Leaf) (ws : List Waiter) :
    ∃ y, ((s.fillTlb d l ws).modDie d Die.refill).dies[d]? = some y ∧ l ∈ y.tlb := by
  have hfill : (s.fillTlb d l ws).dies = (State.modDie { s with freeCtr := s.freeCtr + 1 } d fun x => { x with tlb := tlbInsert 4096 (s.freeCtr + 1) x.tlb l }).dies := by
    unfold State.fillTlb
    exact foldl_keeps (·.dies) (f := fun s c => s.modCore c fun co => { co with tlb := tlbInsert 64 s.freeCtr co.tlb l }) (fun _ _ => rfl) _ _
  rw [die_modDie, hfill, die_modDie]
  show ∃ y, ((s.dies[d]?).map _).map _ = some y ∧ _
  rw [hx]
  refine ⟨_, rfl, ?_⟩
  simp only [if_true]
  rw [refill_tlb]
  exact mem_tlbInsert _ _ _ _

section
variable {s : State} {d : Nat} {z : Zeroing} {rest : List Zeroing} (hz : (s.dies[d]?).map (·.zeroing) = some (z :: rest))
include hz

theorem frameZeroed_installed (hp : BitVec.ofNat 64 ((s.modDie d fun x => { x with zeroing := rest }).physNum z.ptePa 8) = z.pte) :
    s.frameZeroed d = (((((s.modDie d fun x => { x with zeroing := rest }).zeroFrame z.pa (leafSize z.level)).physWrite z.ptePa
      (leBytes (touchedPte z.pte z.pa).toNat 8)).fillTlb d
        { asid := z.walk.asid, mirror := z.walk.mirror, page := z.walk.off / leafSize z.level * leafSize z.level, level := z.level,
          pte := touchedPte z.pte z.pa, ptePa := z.ptePa } z.walk.waiters).modDie d Die.refill) := by
  simp only [State.frameZeroed, hz, if_pos hp]

theorem frameZeroed_returned (hp : BitVec.ofNat 64 ((s.modDie d fun x => { x with zeroing := rest }).physNum z.ptePa 8) ≠ z.pte) :
    s.frameZeroed d = (((s.modDie d fun x => { x with zeroing := rest }).zeroFrame z.pa (leafSize z.level)).modDie d
      fun x => ((x.returnFrame z.big z.pa).addWalk z.walk).refill) := by
  simp only [State.frameZeroed, hz, if_neg hp]

end

theorem touchedPte_low (p : W64) (pa : Nat) {i : Nat} (hi : i < 16) :
    (touchedPte p pa).getLsbD i = ((p.getLsbD i || decide (i = 0)) && !decide (i = 4)) := by
  have h1 : (BitVec.ofNat 64 (pa / 256 * 65536)).getLsbD i = false := by
    rw [BitVec.getLsbD_ofNat, show (65536 : Nat) = 2 ^ 16 from rfl, Nat.testBit_mul_two_pow]
    simp [Nat.not_le.mpr hi]
  have h2 : (BitVec.ofNat 64 (bitsOf p 15 0 ||| 1)).getLsbD i = (p.getLsbD i || decide (i = 0)) := by
    have hp : (bitsOf p 15 0).testBit i = p.getLsbD i := by
      rw [bitsOf, Nat.testBit_mod_two_pow]
      simp [hi, BitVec.getLsbD]
    have hone : Nat.testBit 1 i = decide (i = 0) := by
      rw [Bool.eq_iff_iff, Nat.testBit_one_eq_true_iff_self_eq_zero, decide_eq_true_iff]
    rw [BitVec.getLsbD_ofNat, Nat.testBit_or, hp, hone]
    simp [show i < 64 by omega]
  have h3 : (16#64 : W64).getLsbD i = decide (i = 4) := by
    interval_cases i <;> rfl
  unfold touchedPte
  rw [BitVec.getLsbD_or, h1, BitVec.getLsbD_and, h2, BitVec.getLsbD_not, h3]
  simp [show i < 64 by omega]

/-- The PTE a first touch installs: V set, ZT clear, the frame's address, the other low bits as they were (R260). -/
theorem touchedPte_fields (p : W64) {pa : Nat} (ha : pa % 65536 = 0) (hlt : pa < 2 ^ 40) : (touchedPte p pa).getLsbD 0 = true ∧
    (touchedPte p pa).getLsbD 4 = false ∧ bitsOf (touchedPte p pa) 63 16 * 256 = pa ∧
    ∀ i, i < 16 → i ≠ 0 → i ≠ 4 → (touchedPte p pa).getLsbD i = p.getLsbD i := by
  refine ⟨(touchedPte_low p pa (by decide)).trans (by simp), (touchedPte_low p pa (by decide)).trans (by simp), ?_,
    fun i hi h0 h4 => by simp [touchedPte_low p pa hi, h0, h4]⟩
  have hlow : (BitVec.ofNat 64 (bitsOf p 15 0 ||| 1) &&& ~~~(16#64)).toNat < 2 ^ 16 := by
    have hb : bitsOf p 15 0 < 2 ^ 16 := Nat.mod_lt _ (by decide)
    rw [BitVec.toNat_and, BitVec.toNat_ofNat]
    exact Nat.and_le_left.trans_lt ((Nat.mod_le _ _).trans_lt (Nat.or_lt_two_pow hb (by decide)))
  rw [bitsOf, touchedPte, BitVec.toNat_or, Nat.shiftRight_or_distrib, BitVec.toNat_ofNat, Nat.shiftRight_eq_div_pow, Nat.shiftRight_eq_div_pow,
    Nat.div_eq_of_lt hlow, Nat.zero_or]
  omega

/-! ## Data returned -/

section
variable {s : State} {c k : Nat} {e : Engine} {a : Access} (ha : s.accs.filter (·.who == .engine c k e) = [a])
include ha

/-- The one access of an engine is its group's only part. -/
theorem group_filter : s.accs.filter (fun b => b.who == .engine c k e && b.group == a.group) = [a] ∧
    s.accs.filter (fun b => !(b.who == .engine c k e && b.group == a.group)) = s.accs.filter (·.who != .engine c k e) := by
  have hone (b : Access) (hb : b ∈ s.accs) (hw : (b.who == Waiter.engine c k e) = true) : b = a := by
    have hm : b ∈ s.accs.filter (·.who == .engine c k e) := List.mem_filter.mpr ⟨hb, hw⟩
    rw [ha] at hm
    exact List.mem_singleton.mp hm
  have hand (b : Access) (hb : b ∈ s.accs) : (b.who == Waiter.engine c k e && b.group == a.group) = (b.who == Waiter.engine c k e) := by
    cases hw : b.who == Waiter.engine c k e with
    | false => rfl
    | true => rw [hone b hb hw]; simp
  refine ⟨?_, ?_⟩
  · rw [← ha]
    exact List.filter_congr hand
  · exact List.filter_congr fun b hb => by rw [hand b hb]; rfl

theorem returnLoads_one (hp : a.performed = true) (hr : a.precise = false) (hk : a.kind = .load) : s.returnLoads c k e =
    State.modCtx { s with accs := s.accs.filter (·.who != .engine c k e) } c k (·.loaded e a.dest (loadValue (leNum a.answer) a.total a.signed)) := by
  obtain ⟨hparts, hrest⟩ := group_filter ha
  have hdone : s.groupDone (.engine c k e) a.group = some [a] := by
    simp only [State.groupDone, hparts]
    simp [hp, sortBy, insertBy]
  unfold State.returnLoads
  simp only [ha, List.map_cons, List.map_nil]
  rw [show [a.group].eraseDups = [a.group] from rfl, List.foldl_cons, List.foldl_nil, hdone]
  simp only [hr, hk, hrest]
  simp [AccKind.reads]

end

/-! ## Accesses performed -/

/-- States with the same accesses, memory and writes. -/
def SameAccs (s t : State) : Prop := t.accs = s.accs ∧ t.mem = s.mem ∧ t.wr = s.wr

theorem raceCheck_off {s : State} (hrace : s.ctl.raceEn = false) (a : Access) (w : Bool) : SameAccs s (s.raceCheck a w).2 := by
  unfold State.raceCheck
  simp only [hrace, Bool.not_false, if_true]
  split
  · unfold State.bumpInterval
    simp only
    split <;> exact ⟨rfl, rfl, rfl⟩
  · exact ⟨rfl, rfl, rfl⟩

theorem SameAccs.phys {s t : State} (h : SameAccs s t) (pa n : Nat) : t.phys pa n = s.phys pa n := by
  obtain ⟨-, hm, hw⟩ := h
  simp only [State.phys, State.memNow, hm, hw]

/-- A write at its home die is one write of the step. -/
theorem performWrite_die (s : State) (acc die h pa : Nat) (data : List Byte) : (s.performWrite acc die (.die h) pa data).accs = s.accs ∧
    (s.performWrite acc die (.die h) pa data).mem = s.mem ∧ (s.performWrite acc die (.die h) pa data).wr = s.wr ++ [.write pa data] := ⟨rfl, rfl, rfl⟩

theorem foldl_performWrite (acc die h pa : Nat) (l : List (Nat × List Byte)) (s : State) :
    (l.foldl (fun s p => s.performWrite acc die (.die h) (pa + p.1) p.2) s).accs = s.accs ∧
      (l.foldl (fun s p => s.performWrite acc die (.die h) (pa + p.1) p.2) s).mem = s.mem ∧
        (l.foldl (fun s p => s.performWrite acc die (.die h) (pa + p.1) p.2) s).wr = s.wr ++ l.map fun p => .write (pa + p.1) p.2 := by
  induction l generalizing s with
  | nil => exact ⟨rfl, rfl, (List.append_nil _).symm⟩
  | cons p l ih =>
    obtain ⟨h1, h2, h3⟩ := ih (s.performWrite acc die (.die h) (pa + p.1) p.2)
    exact ⟨h1, h2, h3.trans (by rw [(performWrite_die s acc die h (pa + p.1) p.2).2.2, List.append_assoc]; rfl)⟩

/-- The writes of a store's pieces, made in memory. -/
theorem foldl_pieces (pa : Nat) (l : List (Nat × List Byte)) (m : List (Nat × Byte)) :
    (l.map fun p => MemEff.write (pa + p.1) p.2).foldl MemEff.apply m = l.foldl (fun m p => Mem.setList m (pa + p.1) p.2) m := by
  rw [List.foldl_map]
  rfl

theorem pieces_whole {a : Access} (h : a.skip = []) : a.pieces = [(0, a.data)] := by rw [Access.pieces, if_pos h]

theorem mem_modAcc {s : State} {a : Access} (ha : a ∈ s.accs) (f : Access → Access) : f a ∈ (s.modAcc a.id f).accs :=
  List.mem_map.mpr ⟨a, ha, if_pos rfl⟩

theorem mem_dropStores {s : State} {a : Access} (ha : a ∈ s.accs) (hk : a.kind ≠ .store) : a ∈ s.dropStores.accs := by
  refine List.mem_filter.mpr ⟨ha, ?_⟩
  rw [beq_eq_false_iff_ne.mpr hk, Bool.and_false]
  rfl

section
variable {s : State} {j : Nat} {a : Access} {h : Nat} (ha : s.accs[j]? = some a) (hr : s.accReady a = true) (hh : a.home = .die h)
  (hw : a.who ≠ .package) (hrace : s.ctl.raceEn = false) (hb : s.badRead a = none)
include ha hr hh hw hrace hb

theorem accessStep_performs : s.accessStep j = ((s.raceCheck a (s.accWrites a)).2.performLocal a).dropStores := by
  have hracy : s.groupRacy a = false := by simp [State.groupRacy, hrace]
  unfold State.accessStep
  simp only [ha, hr, hh, hracy, hb, Bool.not_true, Bool.false_eq_true, if_false, if_neg hw]

omit hr hh hw hrace hb in
theorem accs_mem : a ∈ s.accs := List.mem_of_getElem? ha

omit ha hr hw hrace hb hh in
theorem performLocal_load (hk : a.kind = .load) :
    s.performLocal a = s.modAcc a.id fun x => { x with performed := true, answer := s.loadBytes a } := by
  simp only [State.performLocal, hk]

theorem accessStep_load (hk : a.kind = .load) : (s.accessStep j).wr = s.wr ∧
    { a with performed := true, answer := s.loadBytes a } ∈ (s.accessStep j).accs := by
  have hcheck : (s.raceCheck a (s.accWrites a)).2 = s := by simp [State.raceCheck, hrace, State.accWrites, hk]
  rw [accessStep_performs ha hr hh hw hrace hb, hcheck, performLocal_load hk]
  refine ⟨rfl, mem_dropStores (mem_modAcc (accs_mem ha) fun x => { x with performed := true, answer := s.loadBytes a }) ?_⟩
  simp [hk]

theorem accessStep_store (hk : a.kind = .store) : (s.accessStep j).mem = s.mem ∧
    (s.accessStep j).wr = s.wr ++ a.pieces.map fun p => .write (a.pa + p.1) p.2 := by
  obtain ⟨-, hm, hwr⟩ := raceCheck_off hrace a (s.accWrites a)
  rw [accessStep_performs ha hr hh hw hrace hb]
  generalize (s.raceCheck a (s.accWrites a)).2 = u at hm hwr ⊢
  obtain ⟨-, h2, h3⟩ := foldl_performWrite a.id a.die h a.pa a.pieces u
  simp only [State.performLocal, hk, hh]
  exact ⟨h2.trans hm, h3.trans (by rw [hwr])⟩

omit ha hr hw hrace hb in
/-- An atomic at its home that writes nothing, in a state that differs in its dies' clocks only. -/
theorem performLocal_atomic_none {op : Nat} {sg : Bool} {e : W64} (hk : a.kind = .atomic op sg e)
    (hn : atomicNew op sg (8 * a.size) (leNum (s.phys a.pa a.size)) (leNum a.data) e.toNat = none) :
    ∃ v, SameAccs s v ∧ s.performLocal a = v.modAcc a.id fun x => { x with performed := true, answer := s.phys a.pa a.size } := by
  refine ⟨s.modDie a.die fun d => (List.range 8).foldl (fun d f => d.see f (clk (s.clockOf h) f)) d, ⟨rfl, rfl, rfl⟩, ?_⟩
  simp only [State.performLocal, hk, Access.readsAt, hh, hn]

omit ha hr hw hrace hb in
theorem performLocal_atomic_some {op : Nat} {sg : Bool} {e : W64} {new : Nat} (hk : a.kind = .atomic op sg e)
    (hn : atomicNew op sg (8 * a.size) (leNum (s.phys a.pa a.size)) (leNum a.data) e.toNat = some new) :
    ∃ v, SameAccs s v ∧ s.performLocal a = (v.performWrite a.id a.die (.die h) a.pa (leBytes new a.size)).modAcc a.id
      fun x => { x with performed := true, answer := s.phys a.pa a.size } := by
  refine ⟨s.modDie a.die fun d => (List.range 8).foldl (fun d f => d.see f (clk (s.clockOf h) f)) d, ⟨rfl, rfl, rfl⟩, ?_⟩
  simp only [State.performLocal, hk, Access.readsAt, hh, hn]

theorem accessStep_atomic {op : Nat} {sg : Bool} {e : W64} (hk : a.kind = .atomic op sg e) :
    { a with performed := true, answer := s.phys a.pa a.size } ∈ (s.accessStep j).accs ∧ (s.accessStep j).mem = s.mem ∧
      (s.accessStep j).wr = match atomicNew op sg (8 * a.size) (leNum (s.phys a.pa a.size)) (leNum a.data) e.toNat with
        | some new => s.wr ++ [.write a.pa (leBytes new a.size)]
        | none => s.wr := by
  have hnot : ({ a with performed := true, answer := s.phys a.pa a.size } : Access).kind ≠ .store := by simp [hk]
  have hsame := raceCheck_off hrace a (s.accWrites a)
  rw [accessStep_performs ha hr hh hw hrace hb]
  generalize (s.raceCheck a (s.accWrites a)).2 = u at hsame ⊢
  rw [← hsame.phys] at hnot ⊢
  obtain ⟨haccs, hm, hwr⟩ := hsame
  cases hn : atomicNew op sg (8 * a.size) (leNum (u.phys a.pa a.size)) (leNum a.data) e.toNat with
  | none =>
    obtain ⟨v, ⟨hva, hvm, hvw⟩, hp⟩ := performLocal_atomic_none hh hk hn
    rw [hp]
    exact ⟨mem_dropStores (mem_modAcc (by rw [hva, haccs]; exact accs_mem ha) _) hnot, hvm.trans hm, hvw.trans hwr⟩
  | some new =>
    obtain ⟨v, ⟨hva, hvm, hvw⟩, hp⟩ := performLocal_atomic_some hh hk hn
    rw [hp]
    obtain ⟨h1, h2, h3⟩ := performWrite_die v a.id a.die h a.pa (leBytes new a.size)
    exact ⟨mem_dropStores (mem_modAcc (by rw [h1, hva, haccs]; exact accs_mem ha) _) hnot, h2.trans (hvm.trans hm), h3.trans (by rw [hvw, hwr])⟩

end

/-! ## Propagation, invalidations and peers -/

section
variable {s : State} {j : Nat} {p : Propagation} (hp : s.props[j]? = some p) (hr : s.propReady p = true) (hm : p.mirror = none)
include hp hr hm

theorem applyProp_takes : s.applyProp j =
    { s with props := s.props.eraseIdx j, dies := s.dies.modify p.dst fun d => d.take p (s.props.eraseIdx j) } := by
  simp only [State.applyProp, hp, hr, hm, Bool.not_true, Bool.false_eq_true, if_false]

/-- A write that reaches a die, with no other package's access to answer (R382). -/
theorem propagated (hq : ∀ a ∈ s.accs, a.who ≠ .package) : ∃ t, execWritePropagate j s = .next t ∧ t.props = s.props.eraseIdx j ∧
    t.mem = (s.commit s).mem ∧ t.dies = s.dies.modify p.dst fun d => d.take p (s.props.eraseIdx j) := by
  have hnone : (s.accs.filter fun a => a.who == .package && a.performed) = [] :=
    List.filter_eq_nil_iff.mpr fun a ha => by simp [hq a ha]
  refine ⟨_, run_modify _ _, ?_⟩
  simp only [applyProp_takes hp hr hm, hnone]
  exact ⟨rfl, rfl, rfl⟩

end

theorem acknowledged {s : State} {j : Nat} {v : Inval} (hv : s.invals[j]? = some v)
    (ha : ∀ a ∈ s.accs, v.accs.contains a.id = true → a.performed = true)
    (hp : ∀ p ∈ s.props, p.mirror.isSome = true → v.accs.contains p.acc = false) :
    execInvalidationAck j s = .next (s.commit { s with invals := s.invals.eraseIdx j }) := by
  have h1 : s.accs.any (fun a => v.accs.contains a.id && !a.performed) = false := by
    rw [List.any_eq_false]
    intro a hm
    cases hc : v.accs.contains a.id with
    | false => simp
    | true => simp [ha a hm hc]
  have h2 : s.props.any (fun p => p.mirror.isSome && v.accs.contains p.acc) = false := by
    rw [List.any_eq_false]
    intro p hm
    cases hc : p.mirror.isSome with
    | false => simp
    | true => rw [hp p hm hc]; simp
  refine run_modify_to ?_
  simp only [hv, h1, h2, Bool.or_self, Bool.false_eq_true, if_false]

/-- The parts of an access: as many as its places, at them, each the access's own but for its place. -/
theorem split_parts (a : Access) (id n : Nat) (ps : List (Nat × Nat × AccHome × Nat)) :
    (a.split id n ps).map (fun x => (x.pa, x.size, x.home)) = ps.map (fun p => (p.1, p.2.1, p.2.2.1)) ∧
      ∀ x ∈ a.split id n ps, x.who = a.who ∧ x.kind = a.kind ∧ x.word = a.word ∧ x.sect = a.sect := by
  induction ps generalizing n with
  | nil => exact ⟨rfl, fun x hx => absurd hx List.not_mem_nil⟩
  | cons p ps ih =>
    obtain ⟨h1, h2⟩ := ih (n + 1)
    refine ⟨congrArg _ h1, fun x hx => ?_⟩
    rcases List.mem_cons.mp hx with rfl | hx
    · exact ⟨rfl, rfl, rfl, rfl⟩
    · exact h2 x hx

section
variable {s u : State} {r : PeerRequest}

theorem peerRequest_refused {ans : PeerAnswer} (h : s.peerResolve (portDie r.port) r.off.toNat r.size (opKind r.op).code = (u, .error ans)) :
    s.peerRequest r = u.send (.reply r.port r.src r.id ans) := by simp only [State.peerRequest, h]

theorem peerRequest_taken {ps : List (Nat × Nat × AccHome × Nat)}
    (h : s.peerResolve (portDie r.port) r.off.toNat r.size (opKind r.op).code = (u, .ok ps)) :
    ∃ l, (s.peerRequest r).accs = u.accs ++ l ∧ l.length = ps.length ∧
      l.map (fun x => (x.pa, x.size, x.home)) = ps.map (fun p => (p.1, p.2.1, p.2.2.1)) ∧
      ∀ x ∈ l, x.who = .package ∧ x.kind = opKind r.op ∧ x.word = r.id ∧ x.sect = r.src := by
  simp only [State.peerRequest, h]
  refine ⟨_, rfl, ?_, (split_parts _ _ _ _).1, (split_parts _ _ _ _).2⟩
  simpa using congrArg List.length (split_parts _ _ _ _).1

end

section
variable {s : State} {r : PeerReply} (hans : r.ans = .accepted ∨ r.ans = .refused ∨ r.ans = .full)
include hans

theorem peerReply_answered (hpush : (s.cmds.any fun x => x.id == r.id && x.state == .sent) = true) :
    s.peerReply r = { s with links := { s.links with pushAns := s.links.pushAns ++ [(r.id, r.ans)] } } := by
  rcases hans with h | h | h <;> simp only [State.peerReply, h, hpush, if_true]

theorem peerReply_late (hpush : (s.cmds.any fun x => x.id == r.id && x.state == .sent) = false) :
    s.peerReply r = s.modDie 0 (·.countLate) := by
  rcases hans with h | h | h <;> simp only [State.peerReply, h, hpush, Bool.false_eq_true, if_false]

end

/-! ## Ports -/

theorem port_modPort {s : State} {p : Nat} {x : Port} (hx : s.links.ports[p]? = some x) (f : Port → Port) :
    (s.modPort p f).links.ports[p]? = some (f x) := by
  show (s.links.ports.modify p f)[p]? = _
  rw [List.getElem?_modify_eq, hx]
  rfl

/-- States with the same links and the same routes. -/
def SameLinks (s t : State) : Prop := t.links = s.links ∧ t.mem = s.mem ∧ t.wr = s.wr ∧ t.ctl = s.ctl

theorem SameLinks.trans {s t u : State} (h : SameLinks s t) (h' : SameLinks t u) : SameLinks s u := by
  obtain ⟨h1, h2, h3, h4⟩ := h
  obtain ⟨g1, g2, g3, g4⟩ := h'
  exact ⟨g1.trans h1, g2.trans h2, g3.trans h3, g4.trans h4⟩

theorem SameLinks.routePort {s t : State} (h : SameLinks s t) (pkg : Nat) : t.routePort pkg = s.routePort pkg := by
  obtain ⟨-, hm, hw, hc⟩ := h
  simp only [State.routePort, State.physNum, State.phys, State.memNow, hm, hw, hc]

theorem SameLinks.foldl {α : Type} {f : State → α → State} (hf : ∀ s a, SameLinks s (f s a)) (l : List α) (s : State) :
    SameLinks s (l.foldl f s) :=
  List.foldlRecOn (motive := SameLinks s) l f ⟨rfl, rfl, rfl, rfl⟩ fun t ht a _ => ht.trans (hf t a)

theorem sameLinks_bumpInterval (s : State) (code : Nat) : SameLinks s (s.bumpInterval code) := by
  unfold State.bumpInterval
  dsimp only
  split <;> exact ⟨rfl, rfl, rfl, rfl⟩

theorem sameLinks_arrive (s : State) (a : Arrival) (k : Nat) : SameLinks s (s.arrive a k) := by
  unfold State.arrive
  split
  · split <;> exact ⟨rfl, rfl, rfl, rfl⟩
  · exact ⟨rfl, rfl, rfl, rfl⟩

theorem sameLinks_complete (s : State) (x : Cmd) : SameLinks s (s.complete x) := by
  have h1 : SameLinks s (if x.unit ≤ 1 then s.bumpInterval x.agent.code else s) := by
    split
    · exact sameLinks_bumpInterval s _
    · exact ⟨rfl, rfl, rfl, rfl⟩
  unfold State.complete
  exact (h1.trans (SameLinks.foldl (fun s (y : Cmd) => sameLinks_bumpInterval s y.agent.code) _ _)).trans ⟨rfl, rfl, rfl, rfl⟩

theorem sameLinks_copyDone (s : State) (x : Cmd) : SameLinks s (s.copyDone x) := by
  unfold State.copyDone
  split
  · exact ⟨rfl, rfl, rfl, rfl⟩
  · exact sameLinks_complete s x

theorem sameLinks_copyLost (s : State) (x : Cmd) : SameLinks s (s.copyLost x) := by
  unfold State.copyLost
  extract_lets d freed dropped
  have hfreed : SameLinks s freed :=
    .foldl (f := fun s (e : Nat × CopySlot) => s.freeSlot d e.1) (fun _ _ => ⟨rfl, rfl, rfl, rfl⟩) _ _
  have harrive : SameLinks s (dropped.cmdArrive x 0 false true) := hfreed.trans (sameLinks_arrive dropped _ _)
  exact harrive.trans (sameLinks_copyDone _ x)

section
variable {s : State} {p : Nat} {x : Port} (hx : s.links.ports[p]? = some x)
include hx

theorem linkDown_port (hup : x.up = true) : (s.linkDown p).links.ports[p]? = some { x with up := false, downAt := some s.wall } := by
  rw [State.linkDown, port_modPort hx, if_pos hup]

theorem linkRetrained_port {w : Nat} (hw : w = 1 ∨ w = 2) (hup : x.up = false) (ho : s.linkOverdue p = false) :
    (s.linkRetrained p w).links.ports[p]? = some { x with up := true, width := w, downAt := none,
                                                          retrains := if x.width = 0 then x.retrains else min (x.retrains + 1) 0xFFFF } := by
  rw [State.linkRetrained, if_pos hw, State.linkExpiry, ho]
  refine (port_modPort (s := s) hx _).trans ?_
  rw [hup]
  rfl

/-- A lost link: LOST is set, and nothing sent through its port waits any more (R456). -/
theorem linkLost_port : (s.linkLost p).links.ports[p]? = some { x with lost := true, downAt := none } ∧
    ∀ a ∈ (s.linkLost p).accs, a.sent = true → a.performed = false → ∀ pkg, a.home = .peer pkg → s.routePort pkg ≠ p := by
  unfold State.linkLost
  extract_lets u v
  have huv : SameLinks u v := .foldl sameLinks_copyLost _ _
  refine ⟨(congrArg (·.ports[p]?) huv.1).trans (port_modPort hx _), fun a ha hsent hperf pkg hpkg heq => ?_⟩
  obtain ⟨b, -, hb⟩ := List.mem_map.mp ha
  split at hb
  · rw [← hb] at hperf
    exact Bool.noConfusion hperf
  · rename_i hnot
    subst hb
    have hroute : v.routePort pkg = p := (huv.routePort pkg).trans heq
    exact hnot (by simp [State.sentThrough, hsent, hperf, hpkg, hroute])

end

/-! ## The obligation -/

/-- Settles O44: each step's equation, from its own definition; a store's or an atomic's bytes are in memory once the step ends. -/
theorem memoryStepsTakeEffect : Obligations.MemoryStepsTakeEffect := by
  intro s
  refine ⟨fun c co asid line e k rest x ps hco hm hx hh hf hb => ?fetch, fun d w rest hw => ⟨fun l h => ?leaf, fun cause sub psize info h => ?fault,
      fun level p at_ h => ⟨fun hf => ?noFrame, fun pa v hf => ?frame⟩⟩,
    fun d z rest hz => ⟨fun hp => ?installed, fun hp => ?returned⟩, fun p pa ha hlt => touchedPte_fields p ha hlt,
    fun c k e x a hx ha hp hr hk => ?loaded, fun j a h ha hr hh hw hrace hb hwr => ⟨fun hk => ?load, fun hk => ?store, fun op sg e hk => ?atomic⟩,
    fun j p hp hr hm hq => propagated hp hr hm hq, fun j v hv ha hp => ⟨_, acknowledged hv ha hp, rfl⟩,
    fun r u => ⟨fun ans h => ?refused, fun ps h => ?taken⟩, fun r hknown => ⟨fun b hr => ?data, fun hr => ?done, fun hr => ?protection, fun hr => ?translation,
      fun sub hr => ?machineCheck⟩,
    fun r hans => ⟨fun hpush => ?answered, fun hpush => ?late⟩,
    fun p x hx => ⟨fun hup => ?down, fun w hw hup ho => ?retrained, fun ho => ?lost, fun ho => ?kept⟩⟩
  case fetch =>
    have hu := fillFetch_fills hco hm hx hh hf hb
    have hq := core_modCore (core_modCore (s := { s with freeCtr := s.freeCtr + 1 }) hco fun co =>
      { co with misses := co.misses.filter (· != (asid, line, e, k)) }) (·.fillLine s.freeCtr { asid := asid, va := line, bytes := s.lineParts c ps })
    refine ⟨_, _, (run_modify_to hu : execIcacheFill c s = _), hq, fillLine_line? _ _ { asid := asid, va := line, bytes := s.lineParts c ps }, ?_, rfl⟩
    rw [fillLine_misses]
    simp
  case leaf =>
    obtain ⟨x, hx, -⟩ := Option.map_eq_some_iff.mp hw
    have hx' : (s.modDie d fun x => { x with walks := rest }).dies[d]? = some { x with walks := rest } := by
      rw [die_modDie, hx]
      simp
    obtain ⟨y, hy, hl⟩ := fillTlb_tlb hx' l w.waiters
    exact ⟨_, y, (run_modify_to (walkStep_leaf hw h) : execWalk d s = _), rfl, hy, hl⟩
  case fault => exact (run_modify_to (walkStep_fault hw h) : execWalk d s = _)
  case noFrame => exact (run_modify_to (walkStep_noFrame hw h hf) : execWalk d s = _)
  case frame => exact (run_modify_to (walkStep_frame hw h hf) : execWalk d s = _)
  case installed => exact (run_modify_to (frameZeroed_installed hz hp) : execFrameZeroed d s = _)
  case returned => exact (run_modify_to (frameZeroed_returned hz hp) : execFrameZeroed d s = _)
  case loaded =>
    refine ⟨_, (run_modify_to (returnLoads_one ha hp hr hk) : execLoadReturn c k e s = _), rfl, ?_⟩
    exact ctx?_changed (s := { s with accs := _ }) hx _
  case load =>
    obtain ⟨hw', hmem⟩ := accessStep_load ha hr hh hw hrace hb hk
    refine ⟨_, (run_modify _ _ : execAccessAtHomeDie j s = _), ?_, hmem⟩
    rw [commit_mem, hw', hwr]
    rfl
  case store =>
    obtain ⟨hm, hw'⟩ := accessStep_store ha hr hh hw hrace hb hk
    have hmem : (s.commit (s.accessStep j)).mem = a.pieces.foldl (fun m p => Mem.setList m (a.pa + p.1) p.2) s.mem := by
      rw [commit_mem, hw', hwr]
      exact foldl_pieces a.pa a.pieces s.mem
    exact ⟨_, (run_modify _ _ : execAccessAtHomeDie j s = _), hmem, fun hskip => by rw [hmem, pieces_whole hskip]; rfl⟩
  case atomic =>
    obtain ⟨hmem, hm, hw'⟩ := accessStep_atomic ha hr hh hw hrace hb hk
    refine ⟨_, (run_modify _ _ : execAccessAtHomeDie j s = _), hmem, ?_⟩
    rw [commit_mem, hw', hwr]
    cases atomicNew op sg (8 * a.size) (leNum (s.phys a.pa a.size)) (leNum a.data) e.toNat <;> rfl
  case refused => exact (run_modify_to (peerRequest_refused h) : execPeerRequestArrival r s = _)
  case taken =>
    obtain ⟨l, haccs, hrest⟩ := peerRequest_taken h
    exact ⟨_, l, (run_modify _ _ : execPeerRequestArrival r s = _), haccs, hrest⟩
  case data => exact ⟨_, (run_modify_to (t := (s.modAcc r.id fun a => { a with performed := true, answer := b })) (by simp only [State.peerReply, hr]; exact if_pos hknown) : execPeerReplyArrival r s = _), rfl⟩
  case done => exact ⟨_, (run_modify_to (t := (s.modAcc r.id fun a => { a with performed := true })) (by simp only [State.peerReply, hr]; exact if_pos hknown) : execPeerReplyArrival r s = _), rfl⟩
  case protection => exact ⟨_, (run_modify_to (t := (s.failAcc r.id 10 3)) (by simp only [State.peerReply, hr]; exact if_pos hknown) : execPeerReplyArrival r s = _), rfl⟩
  case translation => exact ⟨_, (run_modify_to (t := (s.failAcc r.id 9 5)) (by simp only [State.peerReply, hr]; exact if_pos hknown) : execPeerReplyArrival r s = _), rfl⟩
  case machineCheck => exact ⟨_, (run_modify_to (t := (s.failAcc r.id 13 sub)) (by simp only [State.peerReply, hr]; exact if_pos hknown) : execPeerReplyArrival r s = _), rfl⟩
  case answered =>
    refine ⟨_, (run_modify_to (peerReply_answered hans hpush) : execPeerReplyArrival r s = _), rfl⟩
  case late => exact (run_modify_to (peerReply_late hans hpush) : execPeerReplyArrival r s = _)
  case down => exact ⟨_, (run_modify _ _ : execLinkDown p s = _), linkDown_port hx hup⟩
  case retrained => exact ⟨_, (run_modify _ _ : execLinkRetrained p w s = _), linkRetrained_port hx hw hup ho⟩
  case lost =>
    exact ⟨_, (run_modify_to (t := s.linkLost p) (by rw [State.linkExpiry, if_pos ho]) : execLinkReservationExpiry p s = _), linkLost_port hx⟩
  case kept => exact (run_modify_to (by rw [State.linkExpiry, ho, if_neg Bool.false_ne_true]) : execLinkReservationExpiry p s = _)

end Sys2Proof.Machine
end

section
/-!
The service cores' own words (R131, R262 to R264, R418, R443, R447).
-/
namespace Sys2Proof.Machine

/-! ## A service core's registers -/

theorem svc_modSvc {s : State} {n : Nat} {c : ServiceCore} (hc : s.svc[n]? = some c) (f : ServiceCore → ServiceCore) :
    (s.modSvc n f).svc[n]? = some (f c) := by
  show (s.svc.modify n f)[n]? = _
  rw [List.getElem?_modify_eq, hc]
  rfl

/-- A register reads what was written to it, where the file has it. -/
theorem reg_setReg_same (c : ServiceCore) {r : BitVec 5} (v : W64) (h : r ≠ 0) : (c.setReg r v).reg r = v ∨ c.regs.length < r.toNat := by
  have hpos : r.toNat ≠ 0 := fun h0 => h (BitVec.eq_of_toNat_eq h0)
  rw [ServiceCore.setReg, if_neg h, ServiceCore.reg, if_neg h]
  by_cases hl : r.toNat - 1 < c.regs.length
  · exact .inl (by simp [hl])
  · exact .inr (by omega)

theorem reg_setReg_other (c : ServiceCore) {r q : BitVec 5} (v : W64) (h : r ≠ q) : (c.setReg q v).reg r = c.reg r := by
  unfold ServiceCore.setReg
  split
  · rfl
  · next hq =>
    by_cases hr : r = 0
    · simp [ServiceCore.reg, hr]
    · have hne : q.toNat - 1 ≠ r.toNat - 1 := by
        have h0 : q.toNat ≠ 0 := fun h0 => hq (BitVec.eq_of_toNat_eq h0)
        have h1 : r.toNat ≠ 0 := fun h0 => hr (BitVec.eq_of_toNat_eq h0)
        have h2 : r.toNat ≠ q.toNat := fun h2 => h (BitVec.eq_of_toNat_eq h2)
        omega
      simp [ServiceCore.reg, List.getElem?_set_ne hne]

theorem setReg_keeps (c : ServiceCore) (r : BitVec 5) (v : W64) : (c.setReg r v).pc = c.pc ∧ (c.setReg r v).mode = c.mode ∧ (c.setReg r v).mepc = c.mepc := by
  unfold ServiceCore.setReg
  split <;> exact ⟨rfl, rfl, rfl⟩

section
variable {s : State} {c : ServiceCore} (hc : s.svc[s.curSvc]? = some c)
include hc

/-- What a completed word leaves: its register and its program counter (R131). -/
theorem svcDone_core (rd : BitVec 5) (v : W64) : ∃ d, (s.svcDone rd v).svc[s.curSvc]? = some d ∧ d.pc = c.pc + 4 ∧
    (rd ≠ 0 → d.reg rd = v ∨ c.regs.length < rd.toNat) ∧ (∀ r, r ≠ rd → d.reg r = c.reg r) ∧ d.mode = c.mode ∧ d.mepc = c.mepc ∧
    (s.svcDone rd v).mem = s.mem ∧ (s.svcDone rd v).cores = s.cores :=
  ⟨_, svc_modSvc hc _, rfl, fun h => reg_setReg_same c v h, fun _ h => reg_setReg_other c v h, (setReg_keeps c rd v).2.1, (setReg_keeps c rd v).2.2, rfl, rfl⟩

end

/-! ## Launches and the wait words -/

section
variable {s : State} {rd rs1 : BitVec 5}

theorem nhLq_submits (hrel : s.causedApplied 8 (List.range 8) = true) {t : State} {tk : W64} {lid : Option Nat}
    (h : s.submit (.service s.curSvc (s.svcReg rs1)) = (t, tk, lid)) :
    execNhLq rd rs1 s = .next (s.commit ((t.modSvc t.curSvc fun c => { c with launches := c.launches ++ lid.toList }).svcDone rd tk)) := by
  refine run_ok ?_
  rw [bind_ok (svcRelease_ok hrel)]
  exact congrArg (fun t => Except.ok ((), t)) (by simp only [h])

theorem nhLq_waits (hrel : s.causedApplied 8 (List.range 8) = false) : execNhLq rd rs1 s = .next s :=
  run_stall (bind_error (by rw [svcRelease, get_bind_run, hrel]; rfl))

section
variable (hal : (s.svcReg rs1).toNat % 16 = 0)
include hal

theorem nhLwait_gone (h : s.launchGone ((s.svcReg rs1).toNat / 2 ^ 28 % 2 ^ 24 * 4096 + (s.svcReg rs1).toNat / 2 ^ 52) = true) :
    execNhLwait rd rs1 s = .next (s.commit (s.svcDone rd 2)) := by
  refine run_ok ?_
  rw [get_bind_run]
  simp only [hal, ne_eq, not_true_eq_false, if_false, h]
  rfl

theorem nhLwait_waits (h : s.launchGone ((s.svcReg rs1).toNat / 2 ^ 28 % 2 ^ 24 * 4096 + (s.svcReg rs1).toNat / 2 ^ 52) = false) :
    execNhLwait rd rs1 s = .next s := by
  refine run_stall ?_
  rw [get_bind_run]
  simp only [hal, ne_eq, not_true_eq_false, if_false, h]
  rfl

end

theorem nhLwait_status (h : (s.svcReg rs1).toNat % 16 ≠ 0) : execNhLwait rd rs1 s = .next (s.commit (s.svcDone rd 3)) := by
  refine run_ok ?_
  rw [get_bind_run]
  simp only [ne_eq, h, not_false_eq_true, if_true]
  rfl

theorem nhFence_reserved (h : bitsOf (s.svcReg rs1) 63 2 ≠ 0) : execNhFence rd rs1 s = .next (s.commit (s.svcDone rd 1)) := by
  refine run_ok ?_
  rw [get_bind_run]
  simp only [ne_eq, h, not_false_eq_true, if_true]
  rfl

theorem nhFence_done {c : ServiceCore} (hc : s.svc[s.curSvc]? = some c) (h0 : bitsOf (s.svcReg rs1) 63 2 = 0)
    (hl : (s.svcReg rs1).getLsbD 0 = true → c.launches.all s.launchGone = true)
    (hi : (s.svcReg rs1).getLsbD 1 = true → s.invals.any (·.core == s.curSvc) = false) :
    execNhFence rd rs1 s = .next (s.commit (s.svcDone rd 0)) := by
  have h1 : (!(s.svcReg rs1).getLsbD 0 || ((s.svc[s.curSvc]?).map fun c => c.launches.all s.launchGone).getD true) = true := by
    rw [hc, Option.map_some, Option.getD_some]
    cases hb : (s.svcReg rs1).getLsbD 0 with
    | false => rfl
    | true => rw [hl hb]; rfl
  have h2 : (!(s.svcReg rs1).getLsbD 1 || !s.invals.any (·.core == s.curSvc)) = true := by
    cases hb : (s.svcReg rs1).getLsbD 1 with
    | false => rfl
    | true => rw [hi hb]; rfl
  refine run_ok ?_
  rw [get_bind_run]
  simp only [h0, ne_eq, not_true_eq_false, if_false, h1, h2, require_bind_true]
  rfl

end

/-! ## The fault queue -/

section
variable {s : State} {rd rs1 : BitVec 5}

theorem nhFqpop_misaligned (h : (s.svcReg rs1).toNat % 32 ≠ 0) : execNhFqpop rd rs1 s = .next (s.commit s.svcIllegal) := by
  refine run_ok ?_
  rw [get_bind_run]
  simp only [ne_eq, h, not_false_eq_true, if_true]
  rfl

variable (hal : (s.svcReg rs1).toNat % 32 = 0)
include hal

theorem nhFqpop_empty (hp : s.faults.pending = []) : execNhFqpop rd rs1 s = .next (s.commit (s.svcDone rd (1#64 <<< 63))) := by
  refine run_ok ?_
  rw [get_bind_run]
  simp only [hal, ne_eq, not_true_eq_false, if_false, hp]
  rfl

variable {e : FaultEntry} {rest : List FaultEntry} (hp : s.faults.pending = e :: rest)
include hp

theorem nhFqpop_excepts {cause : Nat} (hd : s.svcDram .store (s.svcReg rs1) 32 = .error cause) :
    execNhFqpop rd rs1 s = .next (s.commit (s.svcExcept cause (s.svcReg rs1))) := by
  refine run_ok ?_
  rw [get_bind_run]
  simp only [hal, ne_eq, not_true_eq_false, if_false, hp, hd]
  rfl

/-- The entry written, the queue's first pending one in service (R418). -/
theorem nhFqpop_serves {pa : Nat} (hd : s.svcDram .store (s.svcReg rs1) 32 = .ok pa) (hw : s.svcMayWrite pa = true) :
    execNhFqpop rd rs1 s = .next (s.commit (State.svcDone { s.svcWrite pa (leBytes e.bits.toNat 32) with
      faults := { (s.svcWrite pa (leBytes e.bits.toNat 32)).faults with entries := serveFirst (s.svcWrite pa (leBytes e.bits.toNat 32)).faults.entries } }
      rd (BitVec.ofNat 64 rest.length))) := by
  refine run_ok ?_
  rw [get_bind_run]
  simp only [hal, ne_eq, not_true_eq_false, if_false, hp, hd, hw, require_bind_true]
  rfl

end

/-- The head of the pending entries leaves them as it comes into service. -/
theorem pending_serveFirst {l rest : List FaultEntry} {e : FaultEntry} (h : l.filter (!·.inService) = e :: rest) :
    (serveFirst l).filter (!·.inService) = rest := by
  induction l with
  | nil => exact absurd h (by simp)
  | cons f l ih =>
    cases hf : f.inService with
    | true =>
      rw [List.filter_cons_of_neg (by simp [hf])] at h
      rw [serveFirst, if_pos hf, List.filter_cons_of_neg (by simp [hf])]
      exact ih h
    | false =>
      rw [List.filter_cons_of_pos (by simp [hf])] at h
      obtain ⟨-, rfl⟩ := List.cons.inj h
      rw [serveFirst, hf, if_neg Bool.false_ne_true, List.filter_cons_of_neg (by simp)]

/-- What a service core's write leaves but for memory: the faults and the service cores. -/
theorem svcWrite_keeps (s : State) (pa : Nat) (b : List Byte) (ws : Nat) (atomic : Bool) : (s.svcWrite pa b ws atomic).faults = s.faults ∧
    (s.svcWrite pa b ws atomic).svc = s.svc ∧ (s.svcWrite pa b ws atomic).curSvc = s.curSvc ∧
    (s.svcWrite pa b ws atomic).wr = s.wr ++ [.write pa b] := by
  unfold State.svcWrite
  extract_lets t
  split
  · exact List.foldlRecOn (motive := fun u => u.faults = s.faults ∧ u.svc = s.svc ∧ u.curSvc = s.curSvc ∧ u.wr = s.wr ++ [MemEff.write pa b])
      (sectors pa b.length) (fun (u : State) (p : Nat × Nat) => u.setShadow (p.1 / 64) u.svcAgent u.svcInterval ws atomic) (b := t)
      ⟨rfl, rfl, rfl, rfl⟩ fun _ hu _ _ => hu
  · exact ⟨rfl, rfl, rfl, rfl⟩

/-- What nh.fqpop leaves, whatever the bytes it writes: they are in memory, and the queue's first pending entry is in service. -/
theorem served_leaves {s : State} (hwr : s.wr = []) (pa : Nat) (b : List Byte) (rd : BitVec 5) (v : W64) :
    let u := s.svcWrite pa b
    let t := s.commit (State.svcDone { u with faults := { u.faults with entries := serveFirst u.faults.entries } } rd v)
    t.mem = Mem.setList s.mem pa b ∧ t.faults.entries = serveFirst s.faults.entries ∧ t.svc = (s.svcDone rd v).svc := by
  intro u t
  obtain ⟨hf, hs, hcur, hw⟩ := svcWrite_keeps s pa b 7 false
  refine ⟨?_, congrArg (fun q : FaultSt => serveFirst q.entries) hf, ?_⟩
  · show u.wr.foldl MemEff.apply s.mem = _
    rw [hw, hwr]
    rfl
  · show u.svc.modify u.curSvc _ = _
    rw [hs, hcur]
    rfl

/-! ## Invalidation and pools -/

section
variable {s : State} {rd rs1 rs2 : BitVec 5}

theorem nhInval_refused (h : rangeCount (s.svcReg rs2) = none ∨ (s.svcReg rs1).toNat % 65536 ≠ 0 ∨ 2 ≤ (s.svcReg rs1).toNat / 2 ^ 62) :
    execNhInval rd rs1 rs2 s = .next (s.commit (s.svcDone rd 1)) := by
  refine run_ok ?_
  rw [get_bind_run]
  cases hn : rangeCount (s.svcReg rs2) with
  | none => rfl
  | some n =>
    have h' : (s.svcReg rs1).toNat % 65536 ≠ 0 ∨ 2 ≤ (s.svcReg rs1).toNat / 2 ^ 62 := h.resolve_left (by simp [hn])
    simp only [if_pos h']
    rfl

theorem nhInval_removes {n : Nat} (hn : rangeCount (s.svcReg rs2) = some n) (ha : (s.svcReg rs1).toNat % 65536 = 0)
    (hw : (s.svcReg rs1).toNat / 2 ^ 62 < 2) (hrel : s.causedApplied 8 (List.range 8) = true) :
    execNhInval rd rs1 rs2 s = .next (s.commit ((s.invalidate (bitsOf (s.svcReg rs2) 11 0) ((s.svcReg rs1).toNat % 2 ^ 62)
      ((s.svcReg rs1).toNat % 2 ^ 62 + 65536 * n)).svcDone rd 0)) := by
  have h' : ¬ ((s.svcReg rs1).toNat % 65536 ≠ 0 ∨ 2 ≤ (s.svcReg rs1).toNat / 2 ^ 62) := by omega
  refine run_ok ?_
  rw [get_bind_run]
  simp only [hn, if_neg h']
  rw [bind_ok (svcRelease_ok hrel)]
  rfl

theorem nhIcinv_refused (h : rangeCount (s.svcReg rs2) = none ∨ (s.svcReg rs1).toNat % 64 ≠ 0) :
    execNhIcinv rd rs1 rs2 s = .next (s.commit (s.svcDone rd 1)) := by
  refine run_modify_to ?_
  cases hn : rangeCount (s.svcReg rs2) with
  | none => simp only [hn]
  | some n => simp only [hn, if_pos (h.resolve_left (by simp [hn]))]

/-- Every core's cache without the lines of a range (R443). -/
def State.withoutLines (s : State) (asid va n : Nat) : State :=
  { s with cores := s.cores.map fun co =>
    { co with icache := co.icache.filter fun l => !(l.asid == asid && decide (va ≤ l.va) && decide (l.va < va + 64 * n)) } }

theorem nhIcinv_removes {n : Nat} (hn : rangeCount (s.svcReg rs2) = some n) (ha : (s.svcReg rs1).toNat % 64 = 0) :
    execNhIcinv rd rs1 rs2 s = .next (s.commit ((s.withoutLines (bitsOf (s.svcReg rs2) 11 0) (s.svcReg rs1).toNat n).svcDone rd 0)) := by
  refine run_modify_to ?_
  simp only [hn, ha, ne_eq, not_true_eq_false, if_false]
  rfl

theorem core_withoutLines {k : Nat} {co : Core} (hco : s.cores[k]? = some co) (asid va n : Nat) : ∃ cp, (s.withoutLines asid va n).cores[k]? = some cp ∧
    ∀ l, l ∈ cp.icache ↔ l ∈ co.icache ∧ ¬ (l.asid = asid ∧ va ≤ l.va ∧ l.va < va + 64 * n) := by
  refine ⟨_, by rw [State.withoutLines, List.getElem?_map, hco, Option.map_some], fun l => ?_⟩
  rw [List.mem_filter, and_congr_right_iff]
  intro _
  simp only [Bool.not_eq_true', Bool.and_eq_false_iff, beq_eq_false_iff_ne, decide_eq_false_iff_not]
  tauto

theorem nhFpool_reserved (h : bitsOf (s.svcReg rs2) 63 28 ≠ 0 ∨ bitsOf (s.svcReg rs2) 15 4 ≠ 0) :
    execNhFpool rd rs1 rs2 s = .next (s.commit (s.svcDone rd (3#64 <<< 62))) := by
  refine run_modify_to ?_
  simp only [if_pos h]

/-- A die's pool of one size. -/
def Die.withPool (x : Die) (big : Bool) (pool : List Nat) : Die := if big then { x with pool2m := pool } else { x with pool64 := pool }

section
variable (h0 : bitsOf (s.svcReg rs2) 63 28 = 0) (h1 : bitsOf (s.svcReg rs2) 15 4 = 0) {x : Die} (hx : s.dies[bitsOf (s.svcReg rs2) 2 0]? = some x)
  {pool : List Nat}
include h0 h1 hx

theorem nhFpool_pushes {w : W64} (hp : s.pushFrames (bitsOf (s.svcReg rs2) 2 0) ((s.svcReg rs2).getLsbD 3) (s.svcReg rs1)
      (bitsOf (s.svcReg rs2) 27 16 + 1) 0 (if (s.svcReg rs2).getLsbD 3 then x.pool2m else x.pool64) = (pool, .ok w)) :
    execNhFpool rd rs1 rs2 s = .next (s.commit ((s.modDie (bitsOf (s.svcReg rs2) 2 0) (·.withPool ((s.svcReg rs2).getLsbD 3) pool)).svcDone rd w)) := by
  refine run_modify_to ?_
  simp only [h0, h1, hx, ne_eq, not_true_eq_false, or_self, if_false, Option.map_some, Option.getD_some, hp]
  rfl

theorem nhFpool_excepts {cause : Nat} {at_ : W64} (hp : s.pushFrames (bitsOf (s.svcReg rs2) 2 0) ((s.svcReg rs2).getLsbD 3) (s.svcReg rs1)
      (bitsOf (s.svcReg rs2) 27 16 + 1) 0 (if (s.svcReg rs2).getLsbD 3 then x.pool2m else x.pool64) = (pool, .error (cause, at_))) :
    execNhFpool rd rs1 rs2 s = .next (s.commit ((s.modDie (bitsOf (s.svcReg rs2) 2 0) (·.withPool ((s.svcReg rs2).getLsbD 3) pool)).svcExcept cause at_)) := by
  refine run_modify_to ?_
  simp only [h0, h1, hx, ne_eq, not_true_eq_false, or_self, if_false, Option.map_some, Option.getD_some, hp]
  rfl

end

end

/-! ## The obligation -/

/-- Settles O48: each nh word's equation, from its own definition; what a completed word leaves, from `svcDone`. -/
theorem serviceWordsComplete : Obligations.ServiceWordsComplete := by
  intro s c rd rs1 rs2 hc
  refine ⟨fun v => svcDone_core hc rd v, fun hrel t tk lid h => nhLq_submits hrel h, fun hrel => nhLq_waits hrel,
    ⟨fun h => nhLwait_status h, fun hal h => nhLwait_gone hal h, fun hal h => nhLwait_waits hal h⟩,
    ⟨fun h => nhFence_reserved h, fun h0 hl hi => nhFence_done hc h0 hl hi⟩,
    ⟨fun h => nhFqpop_misaligned h, fun hal hp => nhFqpop_empty hal hp, fun e rest cause hal hp hd => nhFqpop_excepts hal hp hd,
      fun e rest pa hal hp hd hw hwr => ?pop⟩,
    ⟨fun h => nhInval_refused h, fun n hn ha hw hrel => nhInval_removes hn ha hw hrel, fun h => nhIcinv_refused h, fun n hn ha => ?icinv,
      fun h => nhFpool_reserved h, fun x pool res h0 h1 hx hp => ?fpool⟩, (run_modify _ _ : execNhTrig rd rs1 s = _)⟩
  case pop =>
    obtain ⟨hm, hf, hs⟩ := served_leaves hwr pa (leBytes e.bits.toNat 32) rd (BitVec.ofNat 64 rest.length)
    exact ⟨_, nhFqpop_serves hal hp hd hw, hm, hf, (congrArg (List.filter fun f : FaultEntry => !f.inService) hf).trans (pending_serveFirst hp), hs⟩
  case icinv => exact ⟨_, nhIcinv_removes hn ha, rfl, fun k co hco => core_withoutLines hco _ _ n⟩
  case fpool =>
    have hd (t : State) (ht : t.dies = (s.modDie (bitsOf (s.svcReg rs2) 2 0) (·.withPool ((s.svcReg rs2).getLsbD 3) pool)).dies) :
        t.dies[bitsOf (s.svcReg rs2) 2 0]? = some (if (s.svcReg rs2).getLsbD 3 then { x with pool2m := pool } else { x with pool64 := pool }) := by
      rw [ht, die_modDie, hx, Option.map_some, if_pos rfl]
      rfl
    cases res with
    | ok w => exact ⟨_, nhFpool_pushes h0 h1 hx hp, hd _ rfl, fun w' hw' => by rw [← Except.ok.inj hw']; rfl, fun _ _ hw' => (nomatch hw')⟩
    | error ca =>
      obtain ⟨cause, at_⟩ := ca
      refine ⟨_, nhFpool_excepts h0 h1 hx hp, hd _ rfl, fun _ hw' => (nomatch hw'), fun cause' at' hw' => ?_⟩
      obtain ⟨rfl, rfl⟩ := Prod.mk.inj (Except.error.inj hw')
      rfl

end Sys2Proof.Machine
end

section
/-!
The steps of tokenisers, detokenisers, bindings and vocabularies (R342 to R361, R457).
-/
namespace Sys2Proof.Machine

/-! ## The text system -/

theorem tok_modTok {s : State} {t : Nat} {y : TokSt} (hy : s.text.toks[t]? = some y) (f : TokSt → TokSt) :
    (s.modTok t f).text.toks[t]? = some (f y) := by
  show (s.text.toks.modify t f)[t]? = _
  rw [List.getElem?_modify_eq, hy]
  rfl

/-! ## Requests -/

/-- The requests a tokeniser holds, and the one of a port's two that takes the next (R344). -/
def State.heldBy (s : State) (t : Nat) : Nat := (((s.text.toks[t]?).map (·.reqs)).getD []).length

def State.emptier (s : State) (p : Nat) : Nat := if s.heldBy (2 * p + 1) < s.heldBy (2 * p) then 2 * p + 1 else 2 * p

section
variable {s : State} {m : UetMessage}

theorem textRequest_malformed (h : frameOk m.body = false) :
    s.textRequest m = s.refuseText m.port m.conn (BitVec.ofNat 64 (bitsOf (frameHead m.body) 63 0)) 1 := by
  simp only [State.textRequest, h, Bool.not_false, if_true]

variable (hf : frameOk m.body = true)
include hf

theorem textRequest_unbound (h : s.boundQueue (bitsOf (frameHead m.body) 91 80) = none) :
    s.textRequest m = s.refuseText m.port m.conn (BitVec.ofNat 64 (bitsOf (frameHead m.body) 63 0)) 2 := by
  simp only [State.textRequest, hf, Bool.not_true, Bool.false_eq_true, if_false, h]

variable {q : Nat} (hq : s.boundQueue (bitsOf (frameHead m.body) 91 80) = some q)
include hq

theorem textRequest_noVocab (h : ((s.text.vocab[bitsOf (frameHead m.body) 69 64]?).getD 0).getLsbD 62 = false) :
    s.textRequest m = s.refuseText m.port m.conn (BitVec.ofNat 64 (bitsOf (frameHead m.body) 63 0)) 4 := by
  simp only [State.textRequest, hf, Bool.not_true, Bool.false_eq_true, if_false, hq, h, Bool.not_false, if_true]

variable (hv : ((s.text.vocab[bitsOf (frameHead m.body) 69 64]?).getD 0).getLsbD 62 = true)
include hv

theorem textRequest_full (h : 64 ≤ s.heldBy (s.emptier m.port)) :
    s.textRequest m = s.refuseText m.port m.conn (BitVec.ofNat 64 (bitsOf (frameHead m.body) 63 0)) 3 := by
  simp only [State.textRequest, hf, Bool.not_true, Bool.false_eq_true, if_false, hq, hv]
  exact if_pos h

/-- A request that passes its checks enters the tokeniser of its port that holds fewer. -/
theorem textRequest_enters (h : s.heldBy (s.emptier m.port) < 64) {y : TokSt} (hy : s.text.toks[s.emptier m.port]? = some y) :
    ∃ r, (s.textRequest m).text.toks[s.emptier m.port]? = some { y with reqs := y.reqs ++ [r] } ∧ r.queue = q ∧
      r.reqid.toNat = bitsOf (frameHead m.body) 63 0 ∧ r.text = m.body.drop 24 ∧ r.tokens = none ∧ r.popped = false ∧
      r.lid = rqLid ((s.text.rqbind[q]?).getD 0) := by
  have hid : (BitVec.ofNat 64 (bitsOf (frameHead m.body) 63 0)).toNat = bitsOf (frameHead m.body) 63 0 :=
    (BitVec.toNat_ofNat _ _).trans (Nat.mod_eq_of_lt (Nat.mod_lt _ (by decide)))
  simp only [State.textRequest, hf, Bool.not_true, Bool.false_eq_true, if_false, hq, hv]
  refine ⟨_, (congrArg (fun u : State => u.text.toks[s.emptier m.port]?) (if_neg (Nat.not_le.mpr h))).trans
    (tok_modTok (s := { s with freeCtr := s.freeCtr + 1 }) hy _), rfl, hid, rfl, rfl, rfl, rfl⟩

end

section
variable {s : State} {m : UetMessage}

theorem requestArrival_ring (h : m.tagged = false ∨ m.tag.toNat ≠ bitsOf ((s.text.ports[m.port]?).getD 0) 31 0 ∨
    bitsOf ((s.text.ports[m.port]?).getD 0) 31 0 = 0) :
    execRequestArrival m s = .next (s.commit (s.modText fun x => { x with ring := x.ring ++ [m] })) := by
  have hc : (m.tagged && m.tag.toNat == bitsOf ((s.text.ports[m.port]?).getD 0) 31 0 && bitsOf ((s.text.ports[m.port]?).getD 0) 31 0 != 0) = false := by
    rcases h with h | h | h
    · rw [h]; rfl
    · rw [beq_eq_false_iff_ne.mpr h, Bool.and_false, Bool.false_and]
    · rw [h, bne_self_eq_false, Bool.and_false]
  refine run_modify_to ?_
  simp only [hc, Bool.false_eq_true, if_false]

theorem requestArrival_text (h : m.tagged = true) (ht : m.tag.toNat = bitsOf ((s.text.ports[m.port]?).getD 0) 31 0)
    (h0 : bitsOf ((s.text.ports[m.port]?).getD 0) 31 0 ≠ 0) {t : State} (hr : s.textRequest m = t) :
    execRequestArrival m s = .next (s.commit t) := by
  refine run_modify_to ?_
  simp only [h, ht, beq_self_eq_true, Bool.and_self, bne_iff_ne.mpr h0, if_true, hr]

end

/-! ## Tokens -/

theorem tokeniseStep_kept {s : State} {t : Nat} {r : TextReq} (hr : ((s.text.toks[t]?).map (·.reqs)).bind (·.find? (·.tokens.isNone)) = some r)
    (hk : s.imageKept r.vpa r.image = true) : s.tokeniseStep t = s.modTok t fun x => { x with reqs := x.reqs.map fun q =>
      if q.slot = r.slot then { q with tokens := some (tokenise r.image r.vpa r.raw r.bos r.text) } else q } := by
  simp only [State.tokeniseStep, hr, hk, if_true]

/-- Where a merge is found, its pair stands in the piece and in the table. -/
def IsMerge (look : Nat → Nat → Option (Nat × Nat)) (q : List Nat) (m : Nat × Nat × Nat) : Prop :=
  ∃ l r, q[m.1]? = some l ∧ q[m.1 + 1]? = some r ∧ look l r = some (m.2.1, m.2.2)

theorem bestMerge_isMerge (look : Nat → Nat → Option (Nat × Nat)) (q : List Nat) : ∀ m, bestMerge look q = some m → IsMerge look q m := by
  unfold bestMerge
  refine List.foldlRecOn (motive := fun b => ∀ m, b = some m → IsMerge look q m) _ _ (fun m h => nomatch h) fun best hb p hp m hm => ?_
  obtain ⟨⟨l, r⟩, j⟩ := p
  have hzip := List.mem_zipIdx_iff_getElem?.mp hp
  have hpair : q[j]? = some l ∧ q[j + 1]? = some r := by
    obtain ⟨hl, hr⟩ := List.getElem?_zip_eq_some.mp hzip
    rw [List.getElem?_drop, Nat.add_comm] at hr
    exact ⟨hl, hr⟩
  have hthis {rank res : Nat} (hlook : look l r = some (rank, res)) : IsMerge look q (j, rank, res) := ⟨l, r, hpair.1, hpair.2, hlook⟩
  simp only at hm
  split at hm
  · next hlook =>
    split at hm
    · rw [← Option.some.inj hm]; exact hthis hlook
    · exact hb _ hm
  · next hlook => rw [← Option.some.inj hm]; exact hthis hlook
  · exact hb _ hm

theorem mergePiece_done {look : Nat → Nat → Option (Nat × Nat)} {q : List Nat} (h : bestMerge look q = none) (n : Nat) : mergePiece look n q = q := by
  cases n with
  | zero => rfl
  | succ n => simp only [mergePiece, h]

theorem mergePiece_merges {look : Nat → Nat → Option (Nat × Nat)} {q : List Nat} {j rank res : Nat} (h : bestMerge look q = some (j, rank, res)) (n : Nat) :
    mergePiece look (n + 1) q = mergePiece look n (q.take j ++ [res] ++ q.drop (j + 2)) := by
  simp only [mergePiece, h]

/-- The requests that wait to enter a queue, in tokeniser order (R348). -/
def State.waitingFor (s : State) (q : Nat) : List (Nat × Nat) :=
  (s.text.toks.zipIdx).flatMap fun (x, t) => (x.reqs.filter fun r => r.queue == q && r.tokens.isSome && !r.posted).map fun r => (t, r.slot)

theorem postHeld_queue {s : State} {q : Nat} (hq : q < s.text.rq.length) : ((s.postHeld q).text.rq[q]?).getD [] = (s.text.rq[q]?).getD [] ++
    ((s.waitingFor q).take (64 - ((s.text.rq[q]?).getD []).length)).map fun p => { tk := p.1, slot := p.2 } := by
  show ((s.text.rq.modify q _)[q]?).getD [] = _
  rw [List.getElem?_modify_eq, List.getElem?_eq_getElem hq]
  rfl

/-- A token copy into a tile that is there: the tile, the barrier, the request gone (R358). -/
theorem copyTokens_tile {s : State} {y : TokCopy} {v : Shape} (hv : s.usedTile y.c y.k y.tile = some v) :
    let u := s.writeTile y.c y.k y.tile ((y.tokens.zipIdx).flatMap fun p => match v.linear p.2 with | some o => v.put o p.1 | none => [])
    s.copyTokens y = ((u.arrive { bar := y.bar, n := 4 * y.tokens.length, ref := false, lost := false, lid := y.lid, core := y.c, due := u.now, cmd := 0 } y.k).modTok
      y.tk fun x => { x with reqs := x.reqs.filter fun r => !(r.slot == y.slot && r.popped) }).modText fun x =>
        { x with copies := x.copies.filter fun z => decide (z ≠ y) } := by
  intro u
  simp only [State.copyTokens, hv]
  rfl

/-! ## Detokenisers -/

section
variable {s : State} {d : Nat} {t : TextCmd} {rest : List TextCmd} {opens : List OpenHandle}
  (hd : (s.text.toks[d]?).map (fun x => (x.cmds, x.opens)) = some (t :: rest, opens))
include hd

theorem detokenise_late (h : (s.modTok d fun x => { x with cmds := rest }).cmd? t.id = none) :
    s.detokenise d = (s.modTok d fun x => { x with cmds := rest }).modDie 0 Die.countLate := by
  simp only [State.detokenise, hd, h]

variable {x : Cmd} (h : (s.modTok d fun x => { x with cmds := rest }).cmd? t.id = some x)
include h

theorem detokenise_noHandle (ho : opens.find? (fun o => handleOf o.lid d o.slot o.tag == t.handle && o.lid == x.lid) = none) :
    s.detokenise d = ((s.modTok d fun x => { x with cmds := rest }).cmdArrive x 0 true false).complete x := by
  simp only [State.detokenise, hd, h, ho]

variable {o : OpenHandle} (ho : opens.find? (fun o => handleOf o.lid d o.slot o.tag == t.handle && o.lid == x.lid) = some o)
include ho

theorem detokenise_end (ht : t.tokens = none) :
    s.detokenise d = (((s.modTok d fun x => { x with cmds := rest }).closeReply d o false).cmdArrive x 64 false false).complete x := by
  simp only [State.detokenise, hd, h, ho, ht]

theorem detokenise_tokens {l : List Nat} (ht : t.tokens = some l) :
    let u := s.modTok d fun x => { x with cmds := rest }
    let r := (l.zipIdx).foldl (fun acc p => u.takeToken acc p.1 p.2) (o, [])
    s.detokenise d = ((((({ u with freeCtr := u.freeCtr + 256 * l.length } : State).modOpen d o fun _ => r.1).sendFrames d r.1 r.2).cmdArrive x (4 * t.count)
      false false).complete x) := by
  intro u r
  simp only [State.detokenise, hd, h, ho, ht]
  rfl

end

/-- The one open handle of a launch that is gone is closed (R357). -/
theorem closeRetired_one {s : State} {d : Nat} {o : OpenHandle} (ho : ((s.text.toks[d]?).map (·.opens)) = some [o]) (hl : s.launch? o.lid = none) :
    (((s.closeRetired d).text.toks[d]?).map (·.opens)) = some [] := by
  obtain ⟨y, hy, hyo⟩ := Option.map_eq_some_iff.mp ho
  have hended : s.closeRetired d = (s.closeReply d o true).modLaunch o.lid fun l => { l with tok6 := l.tok6 || o.status true == 6 } := by
    simp only [State.closeRetired, ho, Option.getD_some]
    simp [hl]
  rw [hended]
  have hclosed : (s.closeReply d o true).text.toks[d]? = some { y with opens := y.opens.filter fun z => !(z.slot == o.slot && z.tag == o.tag) } :=
    tok_modTok (s := s.replyFrame _ _ _ _ _ _ _) hy _
  refine (congrArg (Option.map (·.opens)) hclosed).trans ?_
  simp [hyo]

theorem status_cases (o : OpenHandle) : (o.cut = true → ∀ b, o.status b = 5) ∧ (o.cut = false → o.status true = 6 ∧
    (o.badTok = true → o.status false = 7) ∧ (o.badTok = false → o.status false = if o.trunc then 8 else 0)) := by
  refine ⟨fun h b => by simp [OpenHandle.status, h], fun h => ⟨by simp [OpenHandle.status, h], fun hb => by simp [OpenHandle.status, h, hb],
    fun hb => by simp [OpenHandle.status, h, hb]⟩⟩

/-! ## Bindings and vocabularies -/

theorem unbindQueue_text (s : State) (q : Nat) : (s.unbindQueue q).text.rqbind = s.text.rqbind ∧ (s.unbindQueue q).text.rq = s.text.rq.set q [] := by
  unfold State.unbindQueue
  extract_lets gone u
  exact ⟨foldl_keeps (·.text.rqbind) (f := fun s (r : TextReq) => s.refuseText r.port r.conn r.reqid 2) (fun _ _ => rfl) gone u,
    foldl_keeps (·.text.rq) (f := fun s (r : TextReq) => s.refuseText r.port r.conn r.reqid 2) (fun _ _ => rfl) gone u⟩

section
variable {s : State} {q : Nat} (v : W64) (hq : q < s.text.rqbind.length)
include hq

theorem bindQueue_register : (s.bindQueue q v).text.rqbind[q]? = some (BitVec.ofNat 64 (bitsOf v 63 63 * 2 ^ 63 + bitsOf v 38 0)) := by
  have hset (u : State) (hu : u.text.rqbind = s.text.rqbind) (w : W64) : (u.modText fun x => { x with rqbind := x.rqbind.set q w }).text.rqbind[q]? = some w := by
    show (u.text.rqbind.set q w)[q]? = _
    rw [hu, List.getElem?_set_self hq]
  unfold State.bindQueue
  refine hset _ ?_ _
  split
  · exact (unbindQueue_text s q).1
  · rfl

omit hq in
/-- A withdrawn binding holds no record any more (R348). -/
theorem bindQueue_withdrawn (hv : v.getLsbD 63 = false) : ((s.bindQueue q v).text.rq[q]?).getD [] = [] := by
  have hun : (s.bindQueue q v).text.rq = s.text.rq.set q [] := by
    simp only [State.bindQueue, hv, Bool.not_false, Bool.true_or, if_true]
    exact (unbindQueue_text s q).2
  rw [hun, List.getElem?_set_self']
  cases s.text.rq[q]? <;> rfl

end

/-- A bit of a number written to a register. -/
theorem getLsbD_ofNat_div (n : Nat) {i : Nat} (hi : i < 64) : (BitVec.ofNat 64 n).getLsbD i = decide (n / 2 ^ i % 2 = 1) := by
  rw [BitVec.getLsbD_ofNat, Nat.testBit_eq_decide_div_mod_eq, decide_eq_true hi, Bool.true_and]

theorem getLsbD_bitsOf (v : W64) (i : Nat) : v.getLsbD i = decide (bitsOf v i i = 1) := by
  rw [BitVec.getLsbD, Nat.testBit_eq_decide_div_mod_eq, bitsOf, Nat.shiftRight_eq_div_pow, show i + 1 - i = 1 by omega, pow_one]

theorem bitsOf_lt (v : W64) (hi lo : Nat) : bitsOf v hi lo < 2 ^ (hi + 1 - lo) := Nat.mod_lt _ (by positivity)

theorem bitsOf_ofNat {n hi lo : Nat} (h : n < 2 ^ 64) : bitsOf (BitVec.ofNat 64 n) hi lo = n / 2 ^ lo % 2 ^ (hi + 1 - lo) := by
  rw [bitsOf, BitVec.toNat_ofNat, Nat.shiftRight_eq_div_pow, Nat.mod_eq_of_lt h]

/-- What a vocabulary register keeps of OK and ERR as it is written (R349). -/
def keptBits (v old : W64) : Nat :=
  if !v.getLsbD 63 then bitsOf old 61 61 * 2 ^ 61 else if old.getLsbD 63 then bitsOf old 62 61 * 2 ^ 61 else 0

/-- The register a write of VOCABv leaves (R349). -/
def vocabWritten (v old : W64) : W64 := BitVec.ofNat 64 (bitsOf v 63 63 * 2 ^ 63 + bitsOf v 39 8 * 2 ^ 8 + keptBits v old)

theorem keptBits_cases (v old : W64) : ∃ k, keptBits v old = k * 2 ^ 61 ∧ k < 4 ∧ (v.getLsbD 63 = false ∨ old.getLsbD 63 = false → k < 2) ∧
    (v.getLsbD 63 = true → old.getLsbD 63 = true → k = bitsOf old 62 61) := by
  have h1 : bitsOf old 61 61 < 2 := bitsOf_lt old 61 61
  have h2 : bitsOf old 62 61 < 4 := bitsOf_lt old 62 61
  unfold keptBits
  split
  · next hv =>
    have hv' : v.getLsbD 63 = false := by simpa using hv
    exact ⟨_, rfl, by omega, fun _ => h1, fun h => by rw [hv'] at h; exact Bool.noConfusion h⟩
  · next hv =>
    have hv' : v.getLsbD 63 = true := by simpa using hv
    split
    · next ho => exact ⟨_, rfl, h2, fun h => h.elim (fun h => absurd (hv'.symm.trans h) (by decide)) fun h => absurd (ho.symm.trans h) (by decide), fun _ _ => rfl⟩
    · next ho => exact ⟨0, (Nat.zero_mul _).symm, by omega, fun _ => by omega, fun _ h => absurd h ho⟩

theorem vocabWritten_fields (v old : W64) : (vocabWritten v old).getLsbD 63 = v.getLsbD 63 ∧ bitsOf (vocabWritten v old) 39 8 = bitsOf v 39 8 ∧
    (v.getLsbD 63 = false ∨ old.getLsbD 63 = false → (vocabWritten v old).getLsbD 62 = false) ∧
    (v.getLsbD 63 = true → old.getLsbD 63 = true → (vocabWritten v old).getLsbD 62 = old.getLsbD 62) := by
  obtain ⟨k, hk, hk4, hk2, hkold⟩ := keptBits_cases v old
  rw [getLsbD_bitsOf v 63] at hk2 hkold ⊢
  have h1 : bitsOf v 63 63 < 2 := bitsOf_lt v 63 63
  have h2 : bitsOf v 39 8 < 2 ^ 32 := bitsOf_lt v 39 8
  have hold : old.getLsbD 62 = decide (bitsOf old 62 61 / 2 = 1) := by
    rw [getLsbD_bitsOf]
    congr 1
    rw [bitsOf, bitsOf, Nat.shiftRight_eq_div_pow, Nat.shiftRight_eq_div_pow]
    refine propext ?_
    omega
  rw [vocabWritten, hk, getLsbD_ofNat_div _ (by decide), getLsbD_ofNat_div _ (by decide), bitsOf_ofNat (by omega)]
  refine ⟨?_, by omega, fun h => ?_, fun hv ho => ?_⟩
  · congr 1
    refine propext ?_
    omega
  · have := hk2 h
    rw [decide_eq_false_iff_not]
    omega
  · have := hkold hv ho
    rw [hold]
    congr 1
    refine propext ?_
    omega

theorem vocab_written {s : State} {j : Nat} (v : W64) {old : W64} (h : s.text.vocab[j]? = some old) :
    (s.writeVocab j v).text.vocab[j]? = some (vocabWritten v old) := by
  have hj : j < s.text.vocab.length := (List.getElem?_eq_some_iff.mp h).1
  show (s.text.vocab.set j _)[j]? = _
  rw [List.getElem?_set_self hj, h]
  rfl

section
variable {s : State} {j : Nat} {v : W64} (h : s.text.vocab[j]? = some v) (hv : v.getLsbD 63 = true) (h0 : bitsOf v 62 61 = 0)
include h hv h0

theorem vocab_checked : (s.checkVocab j).text.vocab[j]? =
    some (v ||| BitVec.ofNat 64 (if imgOk s.memNow (vocabPa v) then 2 ^ 62 else 2 ^ 61)) := by
  have hj : j < s.text.vocab.length := (List.getElem?_eq_some_iff.mp h).1
  unfold State.checkVocab
  rw [h, Option.getD_some]
  simp only [hv, h0, beq_self_eq_true, Bool.and_self, if_true]
  show (s.text.vocab.set j _)[j]? = _
  rw [List.getElem?_set_self hj]

end

/-- The result of a check in a register whose OK and ERR are clear (R349). -/
theorem checked_bits {v : W64} (h0 : bitsOf v 62 61 = 0) (ok : Bool) :
    (v ||| BitVec.ofNat 64 (if ok then 2 ^ 62 else 2 ^ 61)).getLsbD 62 = ok ∧ (v ||| BitVec.ofNat 64 (if ok then 2 ^ 62 else 2 ^ 61)).getLsbD 61 = !ok := by
  rw [bitsOf, Nat.shiftRight_eq_div_pow] at h0
  have h62 : v.getLsbD 62 = false := by
    rw [BitVec.getLsbD, Nat.testBit_eq_decide_div_mod_eq, decide_eq_false_iff_not]
    omega
  have h61 : v.getLsbD 61 = false := by
    rw [BitVec.getLsbD, Nat.testBit_eq_decide_div_mod_eq, decide_eq_false_iff_not]
    omega
  rw [BitVec.getLsbD_or, BitVec.getLsbD_or, h62, h61]
  cases ok <;> exact ⟨rfl, rfl⟩

section
variable {s : State} {ib : Nat} {x : Inbox} (hx : s.links.inboxes[ib]? = some x)
include hx

theorem inbox_modInbox (f : Inbox → Inbox) : (s.modInbox ib f).links.inboxes[ib]? = some (f x) := by
  show (s.links.inboxes.modify ib f)[ib]? = _
  rw [List.getElem?_modify_eq, hx]
  rfl

variable {v w : W64} (hw : w = BitVec.ofNat 64 (bitsOf v 63 63 * 2 ^ 63 + bitsOf v 55 0))
include hw

theorem bindInbox_clash (hv : w.getLsbD 63 = true) (hc : s.inboxClash ib w = true) :
    ∃ y, (s.bindInbox ib v).links.inboxes[ib]? = some y ∧ y.reg.getLsbD 63 = false := by
  have hb : s.bindInbox ib v = s.modInbox ib fun x => { x with reg := x.reg &&& ~~~(1#64 <<< 63) } := by
    simp only [State.bindInbox, ← hw, hv, hc, Bool.and_self, if_true]
  rw [hb]
  exact ⟨_, inbox_modInbox hx _, by simp⟩

theorem bindInbox_binds (hc : w.getLsbD 63 = false ∨ s.inboxClash ib w = false) :
    ∃ y, (s.bindInbox ib v).links.inboxes[ib]? = some y ∧ y.reg = w := by
  have hcond : (w.getLsbD 63 && s.inboxClash ib w) = false := by
    rcases hc with h | h
    · rw [h, Bool.false_and]
    · rw [h, Bool.and_false]
  have hb : s.bindInbox ib v = s.modInbox ib fun x => { x with reg := w, spare := if w = x.reg then x.spare else [] } := by
    simp only [State.bindInbox, ← hw, hcond, Bool.false_eq_true, if_false]
  rw [hb]
  exact ⟨_, inbox_modInbox hx _, rfl⟩

end

/-! ## The obligation -/

/-- Settles O46: each step's equation, from its own definition; a merge that is found stands in its piece, by the fold that finds it. -/
theorem textStepsTakeEffect : Obligations.TextStepsTakeEffect := by
  intro s
  refine ⟨fun m => ⟨fun h => ⟨_, requestArrival_ring h, rfl⟩, fun h ht h0 => ⟨fun hf => requestArrival_text h ht h0 (textRequest_malformed hf),
      fun hf hq => requestArrival_text h ht h0 (textRequest_unbound hf hq), fun q hf hq => ⟨fun hv => requestArrival_text h ht h0 (textRequest_noVocab hf hq hv),
      fun hv hl => requestArrival_text h ht h0 (textRequest_full hf hq hv hl), fun hv hl y hy => ?enters⟩⟩⟩,
    fun p => ⟨⟨_, (run_modify _ _ : execUnreliablePacketArrival p s = _), rfl⟩, ⟨_, (run_modify _ _ : execRmaReadArrival p s = _), rfl⟩⟩,
    fun t r hr hk => (run_modify_to (tokeniseStep_kept hr hk) : execTokeniseDone t s = _),
    fun look q => ⟨mergePiece_done, fun j rank res n h => ⟨bestMerge_isMerge look q _ h, mergePiece_merges h n⟩⟩,
    fun q _ hq _ => ⟨_, (run_modify _ _ : execHeldRequestPost q s = _), postHeld_queue hq⟩, fun c => (run_modify _ _ : execTokpopTileWrite c s = _),
    fun y v hv => copyTokens_tile hv, fun d t rest opens x hd => ⟨fun h => (run_modify_to (detokenise_late hd h) : execDetokeniserTake d s = _),
      fun h => ⟨fun ho => (run_modify_to (detokenise_noHandle hd h ho) : execDetokeniserTake d s = _),
        fun o ho => ⟨fun ht => (run_modify_to (detokenise_end hd h ho ht) : execDetokeniserTake d s = _),
          fun l ht => (run_modify_to (detokenise_tokens hd h ho ht) : execDetokeniserTake d s = _)⟩⟩⟩,
    fun d o ho hl => ⟨_, (run_modify _ _ : execReplyClose d s = _), closeRetired_one ho hl⟩, status_cases,
    fun q v hq => ?rqbind,
    fun j v old h => ?vocab,
    fun j v h hv h0 => ?checked,
    fun ib v x hx => ?inbox⟩
  case enters =>
    obtain ⟨r, hr⟩ := textRequest_enters hf hq hv hl hy
    exact ⟨_, r, requestArrival_text h ht h0 rfl, hr⟩
  case rqbind =>
    refine ⟨_, (run_modify _ _ : execRqbindWrite q v s = _), ?_, fun hv => ?_⟩
    · rw [commit_text]
      exact bindQueue_register v hq
    · rw [commit_text]
      exact bindQueue_withdrawn v hv
  case vocab =>
    refine ⟨_, _, (run_modify _ _ : execVocabWrite j v s = _), ?_, vocabWritten_fields v old⟩
    rw [commit_text]
    exact vocab_written v h
  case checked =>
    refine ⟨_, _, (run_modify _ _ : execVocabCheckDone j s = _), ?_, checked_bits h0 _⟩
    rw [commit_text]
    exact vocab_checked h hv h0
  case inbox =>
    intro w
    have hw : w = BitVec.ofNat 64 (bitsOf v 63 63 * 2 ^ 63 + bitsOf v 55 0) := rfl
    clear_value w
    refine ⟨fun hv hc => ?_, fun hc => ?_⟩
    · obtain ⟨y, hy⟩ := bindInbox_clash hx hw hv hc
      refine ⟨_, y, (run_modify _ _ : execInboxBindWrite ib v s = _), ?_⟩
      rw [commit_links]
      exact hy
    · obtain ⟨y, hy⟩ := bindInbox_binds hx hw hc
      refine ⟨_, y, (run_modify _ _ : execInboxBindWrite ib v s = _), ?_⟩
      rw [commit_links]
      exact hy

end Sys2Proof.Machine
end

section
/-!
The steps of boot, the pod round and attestation (R459 to R461).
-/
namespace Sys2Proof.Machine

/-! ## Boot -/

section
variable {s : State} {img : List Byte} {set : BootSettings} (hr : s.boot.ready = false) (hf : s.boot.fail = false) (hi : s.boot.image = [])
include hr hf hi

theorem bootImage_refused (h : Config.signatureOk img = false) : s.bootImage img set = { s with boot := { s.boot with fail := true, held := true } } := by
  simp [State.bootImage, hr, hf, hi, h]

theorem bootImage_runs (h : Config.signatureOk img = true) :
    s.bootImage img set = if set.alone then (s.applyBoot img set).setReady else (s.applyBoot img set).startRound set.round [] := by
  simp [State.bootImage, hr, hf, hi, h]

end

theorem pkg_applyBoot (s : State) (img : List Byte) (set : BootSettings) : (s.applyBoot img set).pkg = set.pkgid % 2 ^ 18 := by
  show bitsOf (BitVec.ofNat 64 (set.pkgid % 2 ^ 18)) 17 0 = _
  rw [bitsOf, BitVec.toNat_ofNat, Nat.shiftRight_zero]
  omega

/-- What a boot image that verifies leaves: its settings, and the package ready where it is alone, else its first round begun (R459). -/
theorem bootImage_leaves {s : State} {img : List Byte} {set : BootSettings} (hr : s.boot.ready = false) (hf : s.boot.fail = false)
    (hi : s.boot.image = []) (h : Config.signatureOk img = true) :
    let t := s.bootImage img set
    t.boot.image = img ∧ t.boot.assistText = set.assistText ∧ t.boot.ready = set.alone ∧ t.pkg = set.pkgid % 2 ^ 18 ∧ t.pod.plan = set.plan ∧
      (set.alone = false → t.pod.round = set.round ∧ t.pod.helloEnd = s.wall + 50000 * microsecond) := by
  intro t
  have ht : t = _ := bootImage_runs (set := set) hr hf hi h
  cases ha : set.alone with
  | true =>
    rw [ha, if_pos rfl] at ht
    rw [ht]
    exact ⟨rfl, rfl, rfl, pkg_applyBoot s img set, rfl, fun h => Bool.noConfusion h⟩
  | false =>
    rw [ha, if_neg Bool.false_ne_true] at ht
    rw [ht]
    exact ⟨rfl, rfl, hr, pkg_applyBoot s img set, rfl, fun _ => ⟨rfl, rfl⟩⟩

/-! ## A package's round -/

/-- States with the same package, its round and whether it is ready. -/
def SamePod (s t : State) : Prop := t.pod = s.pod ∧ t.pkg = s.pkg ∧ t.boot = s.boot ∧ t.wall = s.wall

theorem samePod_says (kind : Nat) (l : List Nat) (s : State) : SamePod s (l.foldl (fun s c => s.say kind (some c)) s) :=
  List.foldlRecOn (motive := SamePod s) l _ ⟨rfl, rfl, rfl, rfl⟩ fun _ ht _ _ => ht

theorem sends_leave (l : List ConfigMessage) (s : State) : SamePod s (l.foldl (fun s m => s.send (.config { m with pkg := s.pkg })) s) ∧
    (l.foldl (fun s m => s.send (.config { m with pkg := s.pkg })) s).links.out = s.links.out ++ l.map fun m => .config { m with pkg := s.pkg } := by
  induction l generalizing s with
  | nil => exact ⟨⟨rfl, rfl, rfl, rfl⟩, (List.append_nil _).symm⟩
  | cons m l ih =>
    obtain ⟨h1, h2⟩ := ih (s.send (.config { m with pkg := s.pkg }))
    exact ⟨h1, h2.trans (List.append_assoc _ _ _)⟩

theorem distribute_leaves (s : State) : SamePod s s.distribute ∧
    s.distribute.links.out = s.links.out ++ s.pod.plan.map fun m => .config { m with pkg := s.pkg } := sends_leave s.pod.plan s

/-- The pod state of a package that follows another: its timer runs from when it became a follower (R459, R460). -/
def followed (p : PodSt) (wall : Nat) (leader : Option Nat) : PodSt :=
  { p with role := 2, leader := leader, helloEnd := 0, timerEnd := if p.role = 2 then p.timerEnd else some (wall + 5000000 * microsecond) }

/-- The lowest claimant adopted, which is another package. -/
theorem adopt_leaves {s : State} {lead : Nat} (h : lead ≠ s.pkg) : (s.adopt lead).boot.ready = true ∧
    (s.adopt lead).pod = followed s.pod s.wall (some lead) := by
  unfold State.adopt
  extract_lets t
  obtain ⟨hp, hk, -, hw⟩ : SamePod s t := samePod_says 2 _ s
  rw [if_neg (hk ▸ h), ← hp, ← hw]
  exact ⟨rfl, rfl⟩

/-- The claimant that leads adopts itself: only messages leave. -/
theorem adopt_self (s : State) : SamePod s (s.adopt s.pkg) := by
  unfold State.adopt
  extract_lets t
  have ht : SamePod s t := samePod_says 2 _ s
  rw [if_pos ht.2.1.symm]
  exact ht

/-- The package with its window closed (R460). -/
def State.windowClosed (s : State) : State := s.modPod fun p => { p with helloEnd := 0 }

theorem modPod_claims (s : State) : (s.modPod fun p => { p with helloEnd := 0 }).pod.claims = s.pod.claims := rfl

/-- The package as it claims to lead. -/
def State.claiming (s : State) : State := ((s.modPod fun p => { p with role := 1, leader := some s.pkg }).say 1 none).setReady

theorem claiming_same (s : State) : s.windowClosed.claiming.pkg = s.pkg ∧ s.windowClosed.claiming.pod.claims = s.pod.claims := by
  simp only [State.claiming, State.windowClosed, State.setReady, State.say, State.modPod, State.send, State.pkg, and_self]

/-- Whether the package heard a lower identifier outside its exclusion list. -/
def State.heardLower (s : State) : Bool := s.pod.heard.any fun h => decide (h < s.pkg) && !s.pod.excluded.contains h

theorem heardLower_iff (s : State) : s.heardLower = true ↔ ∃ h ∈ s.pod.heard, h < s.pkg ∧ s.pod.excluded.contains h = false := by
  simp [State.heardLower]

/-- What a claimant does about the claims it has (R460). -/
def State.settleClaims (s : State) : State :=
  if s.pod.claims = [] then s.distribute
  else if leastOf s.pkg s.pod.claims < s.pkg ∨ 2 ≤ s.pod.claims.length then
    if (s.adopt (leastOf s.pkg s.pod.claims)).pod.role = 1 then (s.adopt (leastOf s.pkg s.pod.claims)).distribute
    else s.adopt (leastOf s.pkg s.pod.claims)
  else s.distribute

section
variable {s : State} (h0 : s.pod.helloEnd ≠ 0) (hw : s.pod.helloEnd ≤ s.wall) (hr : s.pod.role = 0)
include h0 hw hr

/-- A package that heard no lower identifier outside its exclusion list claims (R460). -/
theorem helloWindow_claims (hl : s.heardLower = false) : s.helloWindow = s.windowClosed.claiming.settleClaims := by
  unfold State.helloWindow
  refine (if_neg (by omega)).trans ?_
  refine (if_neg (c := s.windowClosed.pod.role ≠ 0) (not_not.mpr hr)).trans ?_
  exact if_neg (c := s.windowClosed.heardLower = true) (Bool.eq_false_iff.mp hl)

theorem helloWindow_waits (hl : s.heardLower = true) (hc : s.pod.claims = []) : s.helloWindow = s.windowClosed := by
  unfold State.helloWindow
  refine (if_neg (by omega)).trans ?_
  refine (if_neg (c := s.windowClosed.pod.role ≠ 0) (not_not.mpr hr)).trans ?_
  refine (if_pos (c := s.windowClosed.heardLower = true) hl).trans ?_
  simp only [modPod_claims, hc]
  rfl

theorem helloWindow_follows (hl : s.heardLower = true) {c : Nat} {cs : List Nat} (hc : s.pod.claims = c :: cs) :
    s.helloWindow = s.windowClosed.adopt (leastOf c cs) := by
  unfold State.helloWindow
  refine (if_neg (by omega)).trans ?_
  refine (if_neg (c := s.windowClosed.pod.role ≠ 0) (not_not.mpr hr)).trans ?_
  refine (if_pos (c := s.windowClosed.heardLower = true) hl).trans ?_
  simp only [modPod_claims, hc]
  rfl

end

theorem adopt_role {s : State} {lead : Nat} (h : lead ≠ s.pkg) : (s.adopt lead).pod.role ≠ 1 := by
  rw [(adopt_leaves h).2]
  exact (by decide : (2 : Nat) ≠ 1)

/-- Whichever claim stands, the package stays ready with its window closed. -/
theorem adopt_keeps {s : State} (hr : s.boot.ready = true) (h0 : s.pod.helloEnd = 0) (lead : Nat) :
    (s.adopt lead).boot.ready = true ∧ (s.adopt lead).pod.helloEnd = 0 := by
  by_cases h : lead = s.pkg
  · obtain ⟨hp, -, hb, -⟩ := adopt_self s
    rw [h, hb, hp]
    exact ⟨hr, h0⟩
  · rw [(adopt_leaves h).2]
    exact ⟨(adopt_leaves h).1, rfl⟩

theorem distribute_keeps {s : State} (hr : s.boot.ready = true) (h0 : s.pod.helloEnd = 0) :
    s.distribute.boot.ready = true ∧ s.distribute.pod.helloEnd = 0 := by
  obtain ⟨⟨hp, -, hb, -⟩, -⟩ := distribute_leaves s
  rw [hb, hp]
  exact ⟨hr, h0⟩

theorem settleClaims_keeps {s : State} (hr : s.boot.ready = true) (h0 : s.pod.helloEnd = 0) :
    s.settleClaims.boot.ready = true ∧ s.settleClaims.pod.helloEnd = 0 := by
  obtain ⟨hr', h0'⟩ := adopt_keeps hr h0 (leastOf s.pkg s.pod.claims)
  unfold State.settleClaims
  split_ifs
  · exact distribute_keeps hr h0
  · exact distribute_keeps hr' h0'
  · exact ⟨hr', h0'⟩
  · exact distribute_keeps hr h0

theorem settleClaims_lower {s : State} (h : leastOf s.pkg s.pod.claims < s.pkg) : s.settleClaims = s.adopt (leastOf s.pkg s.pod.claims) := by
  have hne : s.pod.claims ≠ [] := fun h0 => by
    rw [h0] at h
    exact Nat.lt_irrefl _ h
  rw [State.settleClaims, if_neg hne, if_pos (.inl h), if_neg (adopt_role (Nat.ne_of_lt h))]

section
variable {s : State} (h0 : s.pod.helloEnd ≠ 0) (hw : s.pod.helloEnd ≤ s.wall) (hr : s.pod.role = 0)
include h0 hw hr

/-- The end of the window without a lower identifier heard: the package claims, and leads or follows a lower claimant (R460). -/
theorem helloWindow_first (hl : ∀ h ∈ s.pod.heard, h < s.pkg → s.pod.excluded.contains h = true) :
    s.helloWindow.pod.helloEnd = 0 ∧ s.helloWindow.boot.ready = true ∧
      (s.pod.claims = [] → s.helloWindow.pod.role = 1 ∧ s.helloWindow.pod.leader = some s.pkg ∧
        s.helloWindow.links.out = s.links.out ++ [.hello 1 none
          { round := s.pod.round, pkg := s.pkg, excluded := s.pod.excluded, sig := Config.sign (helloBytes 1 s.pod.round s.pkg s.pod.excluded) }] ++ s.pod.plan.map fun m => .config { m with pkg := s.pkg }) ∧
      (leastOf s.pkg s.pod.claims < s.pkg → s.helloWindow.pod.role = 2 ∧ s.helloWindow.pod.leader = some (leastOf s.pkg s.pod.claims)) := by
  have hnone : s.heardLower = false := by
    rw [← Bool.not_eq_true, heardLower_iff]
    rintro ⟨h, hh, hlt, hex⟩
    rw [hl h hh hlt] at hex
    exact Bool.noConfusion hex
  rw [helloWindow_claims h0 hw hr hnone]
  obtain ⟨hready, hend⟩ := settleClaims_keeps (s := s.windowClosed.claiming) rfl rfl
  refine ⟨hend, hready, fun hc => ?_, fun hlt => ?_⟩
  · have hd : s.windowClosed.claiming.settleClaims = s.windowClosed.claiming.distribute := by
      rw [State.settleClaims, if_pos ((claiming_same s).2.trans hc)]
    obtain ⟨⟨hp, -, -, -⟩, hout⟩ := distribute_leaves s.windowClosed.claiming
    rw [hd, hp, hout, (claiming_same s).1]
    exact ⟨rfl, rfl, rfl⟩
  · obtain ⟨hpkg, hclaims⟩ := claiming_same s
    have hlt' := hlt
    rw [← hpkg, ← hclaims] at hlt'
    have hd := settleClaims_lower hlt'
    rw [hd, (adopt_leaves (Nat.ne_of_lt hlt')).2, hpkg, hclaims]
    exact ⟨rfl, rfl⟩

/-- The end of the window after a lower identifier: the lowest claimant is followed, once there is one (R460). -/
theorem helloWindow_later (hl : ∃ h ∈ s.pod.heard, h < s.pkg ∧ s.pod.excluded.contains h = false) :
    s.helloWindow.pod.helloEnd = 0 ∧ (s.pod.claims = [] → s.helloWindow.pod.role = 0) ∧
      ∀ c cs, s.pod.claims = c :: cs → leastOf c cs ≠ s.pkg → s.helloWindow.pod.role = 2 ∧ s.helloWindow.pod.leader = some (leastOf c cs) ∧
        s.helloWindow.boot.ready = true := by
  have hlow := (heardLower_iff s).mpr hl
  refine ⟨?_, fun hc => ?_, fun c cs hc hne => ?_⟩
  · cases hc : s.pod.claims with
    | nil =>
      rw [helloWindow_waits h0 hw hr hlow hc]
      rfl
    | cons c cs =>
      rw [helloWindow_follows h0 hw hr hlow hc]
      by_cases h : leastOf c cs = s.pkg
      · rw [h]
        exact congrArg (·.helloEnd) (adopt_self s.windowClosed).1
      · rw [(adopt_leaves (s := s.windowClosed) h).2]
        rfl
  · rw [helloWindow_waits h0 hw hr hlow hc]
    exact hr
  · obtain ⟨h1, h2⟩ := adopt_leaves (s := s.windowClosed) hne
    rw [helloWindow_follows h0 hw hr hlow hc, h1, h2]
    exact ⟨rfl, rfl, rfl⟩

end

/-! ## Claims, demotions and configuration -/

theorem hello_heard {s : State} {m : Hello} (hm : m.round = s.pod.round) (h0 : s.pod.helloEnd ≠ 0) :
    s.hello m = s.modPod fun p => { p with heard := p.heard ++ [m.pkg] } := by rw [State.hello, if_pos ⟨hm, h0⟩]

section
variable {s : State} {m : Hello} (hok : s.podMessageOk 1 m = true) (hc : s.pod.claims = [])
include hok hc

/-- The package with the first claim it has received. -/
theorem claim_first : s.claim m = if s.pod.role = 1 then
      (if m.pkg < s.pkg ∨ 2 ≤ [m.pkg].length then (s.modPod fun p => { p with claims := [m.pkg] }).adopt (leastOf s.pkg [m.pkg])
        else s.modPod fun p => { p with claims := [m.pkg] })
    else if s.pod.helloEnd ≠ 0 ∧ ([m.pkg].length < 2 ∨ s.pkg ≤ leastOf m.pkg [m.pkg]) then s.modPod fun p => { p with claims := [m.pkg] }
    else (s.modPod fun p => { p with claims := [m.pkg] }).adopt (leastOf m.pkg [m.pkg]) := by
  unfold State.claim
  rw [hok, hc]
  rfl

/-- The first claim of another package, where it is followed (R460). -/
theorem claim_follows (h : (s.pod.role = 1 ∧ m.pkg < s.pkg) ∨ (s.pod.role ≠ 1 ∧ s.pod.helloEnd = 0 ∧ m.pkg ≠ s.pkg)) :
    (s.claim m).boot.ready = true ∧ (s.claim m).pod = followed { s.pod with claims := [m.pkg] } s.wall (some m.pkg) := by
  have ha : s.claim m = (s.modPod fun p => { p with claims := [m.pkg] }).adopt m.pkg := by
    rw [claim_first hok hc]
    rcases h with ⟨hr, hlt⟩ | ⟨hr, h0, -⟩
    · rw [if_pos hr, if_pos (.inl hlt)]
      exact congrArg _ (Nat.min_eq_right (Nat.le_of_lt hlt))
    · rw [if_neg hr, if_neg fun h => h.1 h0]
      exact congrArg _ (Nat.min_self _)
  have hne : m.pkg ≠ s.pkg := h.elim (fun h => Nat.ne_of_lt h.2) fun h => h.2.2
  rw [ha]
  exact adopt_leaves (s := s.modPod fun p => { p with claims := [m.pkg] }) hne

theorem claim_kept (h : (s.pod.role = 1 ∧ s.pkg ≤ m.pkg) ∨ (s.pod.role ≠ 1 ∧ s.pod.helloEnd ≠ 0)) :
    s.claim m = s.modPod fun p => { p with claims := [m.pkg] } := by
  rw [claim_first hok hc]
  rcases h with ⟨hr, hle⟩ | ⟨hr, h0⟩
  · rw [if_pos hr, if_neg]
    exact fun h => h.elim (Nat.not_lt.mpr hle) (Nat.not_le.mpr Nat.one_lt_two)
  · rw [if_neg hr, if_pos ⟨h0, .inl (by decide : 1 < 2)⟩]

end

theorem demote_follows {s : State} {m : Hello} (hok : s.podMessageOk 2 m = true) (hr : s.pod.role = 1) :
    (s.demote m).pod.role = 2 ∧ (s.demote m).boot.ready = true := by
  rw [State.demote, hok, hr]
  exact ⟨rfl, rfl⟩

/-- A follower takes its leader's bytes (R460). -/
theorem configure_stages {s : State} {m : ConfigMessage} (hr : s.pod.role = 2) (he : s.pod.excluded.contains m.pkg = false)
    (hl : ∀ l, s.pod.leader = some l → l = m.pkg) (hd : s.inDram m.pa (max 1 m.bytes.length) = true) :
    s.configure m = (State.physWrite (s.modPod fun p => { p with leader := some m.pkg, timerEnd := some (s.wall + 5000000 * microsecond) }) m.pa m.bytes).modPod
      fun p => { p with staged := p.staged ++ [(m.image, m.pa, m.bytes)], whole := if m.last then p.whole ++ [m.image] else p.whole } := by
  have hlead : s.pod.leader.any (· != m.pkg) = false := by
    cases h : s.pod.leader with
    | none => rfl
    | some l => simp [hl l h]
  unfold State.configure
  rw [hr, he, hlead]
  simp only [bne_self_eq_false, Bool.or_self, Bool.false_eq_true, if_false]
  exact if_neg (c := (!s.inDram m.pa (max 1 m.bytes.length)) = true) (by simp [hd])

theorem imageCheck_takes {s : State} {image : Nat} {rest : List Nat} (h : s.pod.whole = image :: rest) : s.imageCheck = s.modPod fun p =>
    { p with whole := rest, staged := p.staged.filter (·.1 != image),
             active := if Config.signatureOk (s.pod.stagedBytes image) then (image, s.pod.stagedBytes image) :: p.active.filter (·.1 != image)
               else p.active } := by simp only [State.imageCheck, h]

theorem loadTimer_restarts {s : State} {w : Nat} (h : s.pod.timerEnd = some w) (hw : w ≤ s.wall) :
    s.loadTimer = s.startRound (s.pod.round + 1) (s.pod.excluded ++ s.pod.leader.toList) := by
  simp only [State.loadTimer, h, if_neg (Nat.not_lt.mpr hw)]

end Sys2Proof.Machine
end

section
/-!
The steps of power and temperature, the trigger and the snapshot, the clears, and the host's and the service cores' accesses (R130, R252, R396,
R446 to R448, R452, R462 to R464); the obligation on a package's steps.
-/
namespace Sys2Proof.Machine

/-! ## Power and temperature -/

theorem clampLimit_bounds (w : Nat) : 400 ≤ clampLimit w ∧ clampLimit w ≤ 1600 ∧ (400 ≤ w → w ≤ 1600 → clampLimit w = w) := by
  unfold clampLimit
  omega

theorem writePwrcap_ctl (s : State) (v : W64) :
    (s.writePwrcap v).ctl.pwrcap = BitVec.ofNat 64 (bitsOf v 16 16 * 2 ^ 16 + clampLimit (bitsOf v 15 0)) := by
  unfold State.writePwrcap
  dsimp only
  split <;> rfl

/-- PWRCAP as it reads after a write: LIMIT within its bounds, EN as written (R464). -/
theorem writePwrcap_fields (s : State) (v : W64) : bitsOf (s.writePwrcap v).ctl.pwrcap 15 0 = clampLimit (bitsOf v 15 0) ∧
    (s.writePwrcap v).ctl.pwrcap.getLsbD 16 = v.getLsbD 16 := by
  have h1 : bitsOf v 16 16 < 2 := bitsOf_lt v 16 16
  obtain ⟨-, h2, -⟩ := clampLimit_bounds (bitsOf v 15 0)
  rw [writePwrcap_ctl, bitsOf_ofNat (by omega), getLsbD_ofNat_div _ (by decide), getLsbD_bitsOf v 16]
  refine ⟨by omega, ?_⟩
  congr 1
  refine propext ?_
  omega

/-- A lowered supply stays in its range, and does not rise (R464). -/
theorem lowerSupply_bounds (ctr mv : Nat) : 500 ≤ lowerSupply ctr mv ∧ (500 ≤ mv → lowerSupply ctr mv ≤ mv) := by
  have h : Config.capSupply ctr % max 1 (mv - 500) < max 1 (mv - 500) := Nat.mod_lt _ (by omega)
  unfold lowerSupply
  omega

theorem capAdjust_over {s : State} {w : Nat} (he : s.ctl.pwrcap.getLsbD 16 = true) (h : bitsOf s.ctl.pwrcap 15 0 < w) :
    s.capAdjust w = { s with capped := lowerSupply s.freeCtr (min s.supply s.capped), freeCtr := s.freeCtr + 1 } := by
  rw [State.capAdjust, he, Bool.not_true, if_neg Bool.false_ne_true, if_neg (Nat.not_le.mpr h)]

theorem capAdjust_under {s : State} {w : Nat} (he : s.ctl.pwrcap.getLsbD 16 = true) (h : w ≤ bitsOf s.ctl.pwrcap 15 0) :
    s.capAdjust w = { s with capped := 750 } := by
  rw [State.capAdjust, he, Bool.not_true, if_neg Bool.false_ne_true, if_pos h]

theorem tele_modTele {s : State} {d : Nat} {x : Telemetry} (hx : s.tele[d]? = some x) (f : Telemetry → Telemetry) : (s.modTele d f).tele[d]? = some (f x) := by
  show (s.tele.modify d f)[d]? = _
  rw [List.getElem?_modify_eq, hx]
  rfl

/-- A die's supply at a temperature (R464). -/
theorem heat_tele {s : State} {d : Nat} (temp : Int) {x : Telemetry} (hx : s.tele[d]? = some x) : (s.heat d temp).tele[d]? =
    some { x with temp := temp, mv := if 1680 ≤ temp then lowerSupply s.freeCtr (min (min s.supply s.capped) x.mv) else 750 } := by
  unfold State.heat
  extract_lets t
  have ht : t.tele = s.tele ∧ t.freeCtr = s.freeCtr ∧ t.supply = s.supply ∧ t.capped = s.capped := by
    unfold t
    split <;> exact ⟨rfl, rfl, rfl, rfl⟩
  obtain ⟨h1, h2, h3, h4⟩ := ht
  split
  · rw [tele_modTele (s := { t with freeCtr := t.freeCtr + 1 }) (h1 ▸ hx), h2, h3, h4]
  · exact tele_modTele (h1 ▸ hx) _

theorem heat_trip {s : State} {d : Nat} {temp : Int} (h : 1840 ≤ temp) : (s.heat d temp).trip = true := by
  have h' : tripTemp ≤ temp := h
  unfold State.heat
  rw [if_pos h']
  dsimp only
  split <;> rfl

/-! ## The trigger and the snapshot -/

theorem fireTrigger_latches {s : State} {src : Nat} (d tag : Nat) (h : s.trigLatches src = true) (hd : s.ctl.snapDue = none) :
    s.fireTrigger src d tag = { s with ctl := { s.ctl with snapDue := some (s.now, [d], 2 ^ src, tag) } } := by
  simp only [State.fireTrigger, h, if_true, hd]

/-- The dies that latch in this cycle (R446). -/
def State.latching (s : State) (c : Nat) (fired : List Nat) : List Nat :=
  (List.range 8).filter fun d => if fired.contains d then s.now == c + 1 else s.now == c + 2 + (Config.snapLate c d).toNat

theorem snapshotStep_due {s : State} {c src tag : Nat} {fired : List Nat} (h : s.ctl.snapDue = some (c, fired, src, tag)) :
    s.snapshotStep = if s.now < c + 3 then (s.latching c fired).foldl State.latchDie s
      else ((s.latching c fired).foldl State.latchDie s).modCtl fun x => { x with snapDue := none, snapCtl := latchedCtl x.snapCtl src tag } := by
  simp only [State.snapshotStep, h]
  rfl

theorem latching_early {s : State} {c : Nat} (fired : List Nat) (h : s.now < c + 1) : s.latching c fired = [] := by
  refine List.filter_eq_nil_iff.mpr fun d _ => ?_
  generalize (Config.snapLate c d).toNat = late
  split
  · exact fun he => absurd (beq_iff_eq.mp he) (Nat.ne_of_lt h)
  · exact fun he => absurd (beq_iff_eq.mp he) (by omega)

theorem latching_fired {s : State} {c d : Nat} {fired : List Nat} (h : s.now = c + 1) (hd : d < 8) (hf : fired.contains d = true) :
    d ∈ s.latching c fired := by
  refine List.mem_filter.mpr ⟨List.mem_range.mpr hd, ?_⟩
  rw [if_pos hf, h]
  exact beq_self_eq_true _

/-- A die's latch is no part of what it latches. -/
theorem snapshot_snap (x : Die) (v : W64) : ({ x with snap := v } : Die).snapshot = x.snapshot := by simp only [Die.snapshot]

theorem dies_latchDie (s : State) (e : Nat) : (s.latchDie e).dies = s.dies.modify e fun x => { x with snap := x.snapshot } := rfl

theorem latchDie_same {s : State} {d : Nat} {x : Die} (e : Nat) (hx : s.dies[d]? = some x) (h : e = d) :
    (s.latchDie e).dies[d]? = some { x with snap := x.snapshot } := by
  rw [dies_latchDie, h, List.getElem?_modify_eq, hx]
  rfl

theorem latchDie_other {s : State} {d : Nat} {x : Die} (e : Nat) (hx : s.dies[d]? = some x) (h : e ≠ d) : (s.latchDie e).dies[d]? = some x := by
  rw [dies_latchDie, List.getElem?_modify_ne _ _ h, hx]

/-- What dies have latched of a die that is among them (R446). -/
theorem latched_die {d : Nat} (l : List Nat) {s : State} {x : Die} (hx : s.dies[d]? = some x) :
    ∃ y, (l.foldl State.latchDie s).dies[d]? = some y ∧ y.snapshot = x.snapshot ∧ (d ∈ l ∨ x.snap = x.snapshot → y.snap = x.snapshot) := by
  induction l generalizing s x with
  | nil => exact ⟨x, hx, rfl, fun h => h.resolve_left List.not_mem_nil⟩
  | cons e l ih =>
    by_cases hed : e = d
    · obtain ⟨y, hy, hsnap, hdone⟩ := ih (latchDie_same e hx hed)
      rw [snapshot_snap x x.snapshot] at hsnap hdone
      exact ⟨y, hy, hsnap, fun _ => hdone (.inr rfl)⟩
    · obtain ⟨y, hy, hsnap, hdone⟩ := ih (latchDie_other e hx hed)
      exact ⟨y, hy, hsnap, fun h => hdone (h.imp_left fun h => (List.mem_cons.mp h).resolve_left (Ne.symm hed))⟩

/-! ## The service cores' accesses -/

/-- What an access of a service core does on its turn. -/
def svcOp (a : ServiceAccess) : M Unit := match a.op with
  | .load => svcLoad a
  | .store v => svcStore a v
  | .amo op _ rl v => svcAmo a op rl v
  | .fence => do
    svcRelease
    modify fun s => s.bumpInterval s.svcAgent.code

section
variable {s u : State} {n : Nat} {a : ServiceAccess} (hheld : s.boot.held = false) (hu : u = s.onService n)
include hheld hu

theorem serviceAccess_eq : execServiceCoreAccess n a s = run (fun _ => svcOp a u) s := by
  refine run_congr ?_
  rw [modify_bind_run, get_bind_run, hu]
  exact congrFun (if_neg (c := (s.onService n).boot.held = true) (Bool.eq_false_iff.mp hheld)) (s.onService n)

theorem serviceAccess_ok {t : State} (h : svcOp a u = .ok ((), t)) : execServiceCoreAccess n a s = .next (s.commit t) := by
  rw [serviceAccess_eq hheld hu]
  exact run_ok h

theorem serviceAccess_stall (h : svcOp a u = .error .stall) : execServiceCoreAccess n a s = .next s := by
  rw [serviceAccess_eq hheld hu]
  exact run_stall h

end

theorem svcOp_load {a : ServiceAccess} (ha : a.op = .load) : svcOp a = svcLoad a := by rw [svcOp, ha]

theorem svcOp_store {a : ServiceAccess} {v : W64} (ha : a.op = .store v) : svcOp a = svcStore a v := by rw [svcOp, ha]

theorem svcOp_amo {a : ServiceAccess} {op : Nat} {aq rl : Bool} {v : W64} (ha : a.op = .amo op aq rl v) : svcOp a = svcAmo a op rl v := by rw [svcOp, ha]

theorem svcOp_fence {a : ServiceAccess} {u : State} (ha : a.op = .fence) (hrel : u.causedApplied 8 (List.range 8) = true) :
    svcOp a u = .ok ((), u.bumpInterval u.svcAgent.code) := by
  rw [svcOp, ha]
  exact bind_ok (svcRelease_ok hrel)

section
variable {u : State} {a : ServiceAccess}

theorem svcLoad_excepts {cause : Nat} (h : u.svcPlace .load u.curSvc (BitVec.ofNat 64 a.addr) a.size = .error cause) :
    svcLoad a u = .ok ((), u.svcExcept cause (BitVec.ofNat 64 a.addr)) := by
  refine congrArg (fun t => Except.ok ((), t)) ?_
  simp only [h]

section
variable {pa : Nat} (h : u.svcPlace .load u.curSvc (BitVec.ofNat 64 a.addr) a.size = .ok pa)
include h

theorem svcLoad_control (hc : inControl pa = true) : svcLoad a u = .ok ((), u.modSvc u.curSvc (·.setReg a.rd (u.ctlLoad (pa - ctlBase) a.size))) := by
  refine congrArg (fun t => Except.ok ((), t)) ?_
  simp only [h, hc, if_true]

theorem svcLoad_dram (hc : inControl pa = false) (hd : u.inDram pa a.size = true) :
    svcLoad a u = .ok ((), u.modSvc u.curSvc (·.setReg a.rd (BitVec.ofNat 64 (u.physNum pa a.size)))) := by
  refine congrArg (fun t => Except.ok ((), t)) ?_
  simp only [h, hc, hd, Bool.false_eq_true, if_false, if_true]

end

variable {v : W64}

theorem svcStore_excepts {cause : Nat} (h : u.svcPlace .store u.curSvc (BitVec.ofNat 64 a.addr) a.size = .error cause) :
    svcStore a v u = .ok ((), u.svcExcept cause (BitVec.ofNat 64 a.addr)) := by
  unfold svcStore
  rw [get_bind_run]
  simp only [h]
  rfl

section
variable {pa : Nat} (h : u.svcPlace .store u.curSvc (BitVec.ofNat 64 a.addr) a.size = .ok pa)
include h

theorem svcStore_dram (hc : inControl pa = false) (hd : u.inDram pa a.size = true) (hw : u.svcMayWrite pa = true) :
    svcStore a v u = .ok ((), u.svcWrite pa (leBytes v.toNat a.size)) := by
  unfold svcStore
  rw [get_bind_run]
  simp only [h, hc, hd, hw, Bool.false_eq_true, if_false, Bool.not_true, require_bind_true]
  rfl

theorem svcStore_control (hc : inControl pa = true) (hrel : pa - ctlBase = 0x128 → u.causedApplied 8 (List.range 8) = true) :
    svcStore a v u = .ok ((), u.ctlStore (pa - ctlBase) a.size v) := by
  unfold svcStore
  rw [get_bind_run]
  simp only [h, hc, if_true]
  split
  · next hd => rw [bind_ok (svcRelease_ok (hrel hd))]; rfl
  · rfl

theorem svcStore_waits (hd : pa - ctlBase = 0x128) (hc : inControl pa = true) (hrel : u.causedApplied 8 (List.range 8) = false) :
    svcStore a v u = .error .stall := by
  have hstall : svcRelease u = .error .stall := by
    rw [svcRelease, get_bind_run, hrel]
    rfl
  unfold svcStore
  rw [get_bind_run]
  simp only [h, hc, if_true, if_pos hd]
  exact bind_error hstall

end

/-- An atomic by a service core: the new value written, the old one in its register (R396). -/
theorem svcAmo_writes {op pa new : Nat} (hal : a.addr % a.size = 0) (h : u.svcDram .store (BitVec.ofNat 64 a.addr) a.size = .ok pa)
    (hw : u.svcMayWrite pa = true) (hn : atomicNew (if op = 7 then 4 else if op = 8 then 5 else op) (decide (op < 7)) (8 * a.size) (u.physNum pa a.size)
      (v.toNat % 2 ^ (8 * a.size)) 0 = some new) :
    svcAmo a op false v u = .ok ((), (u.svcWrite pa (leBytes new a.size) 7 true).modSvc (u.svcWrite pa (leBytes new a.size) 7 true).curSvc
      (·.setReg a.rd ((BitVec.ofNat (8 * a.size) (u.physNum pa a.size)).signExtend 64))) := by
  unfold svcAmo
  rw [get_bind_run]
  simp only [hal, ne_eq, not_true_eq_false, if_false, h, Bool.false_eq_true, hw]
  rw [require_bind_true]
  simp only [hn, Option.getD_some]
  rfl

end

/-- What a service core's write leaves in memory and in its register, whatever its bytes. -/
theorem commit_svcWrite {s u : State} {n : Nat} (hwr : s.wr = []) (hu : u = s.onService n) (pa : Nat) (b : List Byte) (atomic : Bool) :
    (s.commit (u.svcWrite pa b 7 atomic)).mem = Mem.setList s.mem pa b := by
  obtain ⟨-, -, -, hw⟩ := svcWrite_keeps u pa b 7 atomic
  rw [commit_mem, hw, hu]
  show (s.wr ++ [MemEff.write pa b]).foldl MemEff.apply s.mem = _
  rw [hwr]
  rfl

theorem svc_setReg_svcWrite {s u : State} {n : Nat} {x : ServiceCore} (hx : s.svc[n]? = some x) (hu : u = s.onService n) (pa : Nat) (b : List Byte)
    (atomic : Bool) (f : ServiceCore → ServiceCore) :
    ((u.svcWrite pa b 7 atomic).modSvc (u.svcWrite pa b 7 atomic).curSvc f).svc[n]? = some (f x) := by
  obtain ⟨-, hs, hc, -⟩ := svcWrite_keeps u pa b 7 atomic
  have hcur : (u.svcWrite pa b 7 atomic).curSvc = n := by rw [hc, hu]; rfl
  rw [hcur]
  refine svc_modSvc ?_ f
  rw [hs, hu]
  exact hx

/-- What an access of a service core does (R252, R396). -/
theorem serviceAccess_effects {s u : State} {n : Nat} {a : ServiceAccess} {x : ServiceCore} (hx : s.svc[n]? = some x) (hheld : s.boot.held = false)
    (hwr : s.wr = []) (hu : u = s.onService n) :
    (∀ cause, (a.op = .load ∧ u.svcPlace .load n (BitVec.ofNat 64 a.addr) a.size = .error cause) ∨
        (∃ v, a.op = .store v ∧ u.svcPlace .store n (BitVec.ofNat 64 a.addr) a.size = .error cause) →
      execServiceCoreAccess n a s = .next (s.commit (u.svcExcept cause (BitVec.ofNat 64 a.addr)))) ∧
    (∀ pa, a.op = .load → u.svcPlace .load n (BitVec.ofNat 64 a.addr) a.size = .ok pa →
      (inControl pa = true → ∃ t, execServiceCoreAccess n a s = .next t ∧
        t.svc[n]? = some (x.setReg a.rd (u.ctlLoad (pa - ctlBase) a.size)) ∧ t.mem = s.mem) ∧
      (inControl pa = false → u.inDram pa a.size = true → ∃ t, execServiceCoreAccess n a s = .next t ∧
        t.svc[n]? = some (x.setReg a.rd (BitVec.ofNat 64 (u.physNum pa a.size))) ∧ t.mem = s.mem)) ∧
    (∀ v pa, a.op = .store v → u.svcPlace .store n (BitVec.ofNat 64 a.addr) a.size = .ok pa →
      (inControl pa = false → u.inDram pa a.size = true → u.svcMayWrite pa = true →
        ∃ t, execServiceCoreAccess n a s = .next t ∧ t.mem = Mem.setList s.mem pa (leBytes v.toNat a.size)) ∧
      (inControl pa = true → (pa - ctlBase = 0x128 → u.causedApplied 8 (List.range 8) = true) →
        execServiceCoreAccess n a s = .next (s.commit (u.ctlStore (pa - ctlBase) a.size v))) ∧
      (pa - ctlBase = 0x128 → inControl pa = true → u.causedApplied 8 (List.range 8) = false → execServiceCoreAccess n a s = .next s)) ∧
    (∀ op aq v pa new, a.op = .amo op aq false v → a.addr % a.size = 0 → u.svcDram .store (BitVec.ofNat 64 a.addr) a.size = .ok pa →
      u.svcMayWrite pa = true → atomicNew (if op = 7 then 4 else if op = 8 then 5 else op) (decide (op < 7)) (8 * a.size) (u.physNum pa a.size)
        (v.toNat % 2 ^ (8 * a.size)) 0 = some new →
      ∃ t, execServiceCoreAccess n a s = .next t ∧ t.mem = Mem.setList s.mem pa (leBytes new a.size) ∧
        t.svc[n]? = some (x.setReg a.rd ((BitVec.ofNat (8 * a.size) (u.physNum pa a.size)).signExtend 64))) ∧
    (a.op = .fence → u.causedApplied 8 (List.range 8) = true → execServiceCoreAccess n a s = .next (s.commit (u.bumpInterval u.svcAgent.code))) := by
  have hcur : u.curSvc = n := by rw [hu]; rfl
  subst hcur
  have hux : u.svc[u.curSvc]? = some x := by rw [← hx, hu]; rfl
  have hmem (f : ServiceCore → ServiceCore) : (s.commit (u.modSvc u.curSvc f)).mem = s.mem := by
    rw [commit_mem, hu]
    show s.wr.foldl MemEff.apply s.mem = s.mem
    rw [hwr]
    rfl
  refine ⟨fun cause hc => ?excepts, fun pa ha hp => ⟨fun hc => ?loadControl, fun hc hd => ?loadDram⟩,
    fun v pa ha hp => ⟨fun hc hd hw => ?storeDram, fun hc hrel => ?storeControl, fun hd hc hrel => ?storeWaits⟩,
    fun op aq v pa new ha hal hp hw hn => ?amo, fun ha hrel => serviceAccess_ok hheld hu (svcOp_fence ha hrel)⟩
  case excepts =>
    rcases hc with ⟨ha, hp⟩ | ⟨v, ha, hp⟩
    · exact serviceAccess_ok hheld hu ((congrFun (svcOp_load ha) u).trans (svcLoad_excepts hp))
    · exact serviceAccess_ok hheld hu ((congrFun (svcOp_store ha) u).trans (svcStore_excepts hp))
  case loadControl =>
    exact ⟨_, serviceAccess_ok hheld hu ((congrFun (svcOp_load ha) u).trans (svcLoad_control hp hc)), svc_modSvc hux _, hmem _⟩
  case loadDram =>
    exact ⟨_, serviceAccess_ok hheld hu ((congrFun (svcOp_load ha) u).trans (svcLoad_dram hp hc hd)), svc_modSvc hux _, hmem _⟩
  case storeDram =>
    exact ⟨_, serviceAccess_ok hheld hu ((congrFun (svcOp_store ha) u).trans (svcStore_dram hp hc hd hw)), commit_svcWrite hwr hu pa _ false⟩
  case storeControl => exact serviceAccess_ok hheld hu ((congrFun (svcOp_store ha) u).trans (svcStore_control hp hc hrel))
  case storeWaits => exact serviceAccess_stall hheld hu ((congrFun (svcOp_store ha) u).trans (svcStore_waits hp hd hc hrel))
  case amo =>
    exact ⟨_, serviceAccess_ok hheld hu ((congrFun (svcOp_amo ha) u).trans (svcAmo_writes hal hp hw hn)), commit_svcWrite hwr hu pa _ true,
      svc_setReg_svcWrite hx hu pa _ true _⟩

/-! ## The obligation -/

/-- Settles O47: each step's equation, from its own definition. -/
theorem packageStepsTakeEffect : Obligations.PackageStepsTakeEffect := by
  intro s
  refine ⟨fun hs => ⟨_, (run_ok rfl : execModuleReset hs s = _), rfl, rfl, rfl, rfl, rfl, rfl, rfl, rfl⟩,
    fun img set hr hf hi => ⟨fun h => ⟨_, (run_modify_to (bootImage_refused hr hf hi h) : execBootImageVerified img set s = _), rfl⟩,
      fun h => ⟨_, (run_modify _ _ : execBootImageVerified img set s = _), bootImage_leaves hr hf hi h⟩⟩,
    fun m hm h0 => ⟨_, (run_modify_to (hello_heard hm h0) : execHelloReceived m s = _), rfl⟩, fun h0 hw hr => ?window,
    fun m hok hc => ⟨fun h => ?follows, fun h => ⟨_, (run_modify_to (claim_kept hok hc h) : execClaimReceived m s = _), rfl⟩⟩,
    fun m hok hr => ⟨_, (run_modify _ _ : execDemoteReceived m s = _), demote_follows hok hr⟩, fun m hr he hl hd hwr => ?config,
    fun image rest h => ⟨_, (run_modify_to (imageCheck_takes h) : execImageCheckDone s = _), rfl, rfl⟩,
    fun w h hw => ⟨_, (run_modify_to (loadTimer_restarts h hw) : execLoadTimerExpiry s = _), rfl, rfl, rfl, rfl⟩,
    fun q => ⟨_, (run_modify _ _ : execAttestationRequest q s = _), rfl, rfl⟩, fun v => ?pwrcap, fun w he => ⟨fun h => ?above, fun h => ?below⟩,
    fun d temp x hx => ?heat, fun mv => ?supply, fun d n x hx => ⟨_, (run_modify _ _ : execAgeingUpdate d n s = _), tele_modTele hx _⟩,
    fun src tag hsrc hl hd => ⟨?trigger, fun h => ?pin, fun h hc => ?counter⟩, fun h => (run_modify_to (if_neg h) : execSnapcmpMatch s = _),
    fun c fired src tag h => ⟨fun hn => ?early, fun hn => ?latched, fun d x hn hd hf hx => ?die⟩,
    ⟨⟨_, (run_modify _ _ : execCrdropClear s = _), rfl⟩, ⟨_, (run_modify _ _ : execRacectlOvfClear s = _), rfl⟩,
      fun d x hx => ⟨_, (run_modify _ _ : execLateCountClear d s = _), ?late⟩⟩,
    fun a => ⟨fun h => ?noHost, fun h => ?host⟩, fun n a x u va hx hheld hwr hu hva => ?access⟩
  case window =>
    by_cases hl : ∀ h ∈ s.pod.heard, h < s.pkg → s.pod.excluded.contains h = true
    · obtain ⟨h1, h2, h3, h4⟩ := helloWindow_first h0 hw hr hl
      refine ⟨_, (run_modify _ _ : execHelloWindowExpiry s = _), h1, fun _ => ⟨h2, h3, h4⟩, fun ⟨h, hh, hlt, hex⟩ => ?_⟩
      rw [hl h hh hlt] at hex
      exact Bool.noConfusion hex
    · have hl' : ∃ h ∈ s.pod.heard, h < s.pkg ∧ s.pod.excluded.contains h = false := by
        simpa only [not_forall, Bool.not_eq_true, exists_prop] using hl
      obtain ⟨h1, h2⟩ := helloWindow_later h0 hw hr hl'
      exact ⟨_, (run_modify _ _ : execHelloWindowExpiry s = _), h1, fun h => absurd h hl, fun _ => h2⟩
  case follows =>
    obtain ⟨h1, h2⟩ := claim_follows hok hc h
    refine ⟨_, (run_modify _ _ : execClaimReceived m s = _), ?_⟩
    rw [commit_pod, h2]
    exact ⟨rfl, rfl, rfl, h1, rfl⟩
  case config =>
    refine ⟨_, (run_modify_to (configure_stages hr he hl hd) : execConfigMessage m s = _), rfl, rfl, rfl, rfl, ?_⟩
    show (s.wr ++ [MemEff.write m.pa m.bytes]).foldl MemEff.apply s.mem = _
    rw [hwr]
    rfl
  case pwrcap =>
    obtain ⟨h1, h2⟩ := writePwrcap_fields s v
    obtain ⟨h3, h4, h5⟩ := clampLimit_bounds (bitsOf v 15 0)
    refine ⟨_, (run_modify _ _ : execPwrcapWrite v s = _), ?_⟩
    rw [commit_ctl, h1, h2]
    exact ⟨h3, h4, h5, rfl⟩
  case above => exact ⟨_, (run_modify_to (capAdjust_over he h) : execPowerCapAdjust w s = _), lowerSupply_bounds _ _⟩
  case below => exact ⟨_, (run_modify_to (capAdjust_under he h) : execPowerCapAdjust w s = _), rfl⟩
  case heat =>
    refine ⟨_, _, (run_modify _ _ : execThermalThrottle d temp s = _), heat_tele temp hx, rfl, fun ht => ?_, fun ht => ?_,
      (run_modify _ _ : execThermalTrip d temp s = _), fun ht => heat_trip ht⟩
    · rw [if_pos ht]
      exact lowerSupply_bounds _ _
    · exact if_neg (Int.not_le.mpr ht)
  case supply =>
    have hc : 500 ≤ clampSupply mv ∧ clampSupply mv ≤ 750 ∧ (500 ≤ mv → mv ≤ 750 → clampSupply mv = mv) := by
      unfold clampSupply
      omega
    exact ⟨_, (run_modify _ _ : execSupplyChange mv s = _), hc⟩
  case trigger => exact ⟨_, (run_modify_to ((if_pos hsrc).trans (fireTrigger_latches 8 _ hl hd)) : execSnapshotTrigger src tag s = _), rfl⟩
  case pin => exact ⟨_, (run_modify_to (fireTrigger_latches 8 0 (h ▸ hl) hd) : execTrigIn s = _), rfl⟩
  case counter => exact ⟨_, (run_modify_to ((if_pos hc).trans (fireTrigger_latches 8 0 (h ▸ hl) hd)) : execSnapcmpMatch s = _), rfl⟩
  case early =>
    refine (run_modify_to ?_ : execSnapshotLatch s = _)
    rw [snapshotStep_due h, latching_early fired hn, if_pos (by omega)]
    rfl
  case latched =>
    have hstep := (snapshotStep_due h).trans (if_neg (by omega))
    refine ⟨_, (run_modify_to hstep : execSnapshotLatch s = _), rfl, ?_⟩
    have hctl : ((s.latching c fired).foldl State.latchDie s).ctl = s.ctl := foldl_keeps (·.ctl) (f := State.latchDie) (fun _ _ => rfl) _ _
    show latchedCtl ((s.latching c fired).foldl State.latchDie s).ctl.snapCtl src tag = _
    rw [hctl]
  case die =>
    obtain ⟨y, hy, -, hdone⟩ := latched_die (s.latching c fired) hx
    have hstep := (snapshotStep_due h).trans (if_pos (by omega))
    exact ⟨_, y, (run_modify_to hstep : execSnapshotLatch s = _), hy, hdone (.inl (latching_fired hn hd hf))⟩
  case late =>
    refine (die_modDie s d d _).trans ?_
    rw [hx, Option.map_some, if_pos rfl]
  case noHost =>
    refine (run_modify_to ?_ : execRegisterWrite a s = _)
    rw [h]
    rfl
  case host =>
    refine (run_modify_to ?_ : execRegisterWrite a s = _)
    rw [h]
    rfl
  case access =>
    subst hva
    exact serviceAccess_effects hx hheld hwr hu

end Sys2Proof.Machine
end

section
/-!
The steps of the copy engines, of carried words and of inbox pushes (R279 to R290, R457, R458).
-/
namespace Sys2Proof.Machine

/-! ## Copies start, read and write -/

section
variable {s : State} {d : Nat} {x : Cmd} (hx : s.startable d = [x])
include hx

theorem copyStarts_empty (hr : x.ranges = []) (hh : x.heldRows = []) : s.copyStarts d = (s.cmdArrive x 0 false false).copyDone x := by
  rw [State.copyStarts, hx]
  exact if_pos ⟨hr, hh⟩

theorem copyStarts_engine {e : Nat} (hr : x.ranges ≠ [] ∨ x.heldRows ≠ []) (he : (s.dies[d]?).bind Die.idleEngine = some e) : s.copyStarts d =
    (s.modDie d fun y => { y with copies := y.copies.set e (some (newSlot x.id x.ranges)) }).modCmd x.id fun y =>
      { y with state := if y.state = .held then .held else .running, ranges := [],
               masked := y.masked ++ (if x.state = .waiting then s.startMask x else []) } := by
  rw [State.copyStarts, hx, List.foldl_cons, List.foldl_nil, if_neg fun h => hr.elim (· h.1) (· h.2)]
  simp only [he]
  rfl

end

section
variable {s : State} {x : Cmd} {a : CopyArgs} {d e r : Nat} {t : CopySlot} {v : Shape} (hc : t.cur = some r) (hz : a.zero = false)
  (hsm : a.sm = false) (hv : s.usedTile x.c x.k a.w.ta.toNat = some v)
include hc hz hsm hv

theorem slotRead_tile (hb : s.badImage x.c v [((a.srcAt r).toNat, a.rowb)] = none) :
    s.slotRead x a d e t = s.modSlot d e (·.readDone r (s.tileBytes x.c v (a.srcAt r).toNat a.rowb)) := by
  simp only [State.slotRead, hc, hz, hsm, hv, hb, Bool.not_false, Bool.false_eq_true, if_false, if_true]

theorem slotRead_bad {sub line : Nat} (hb : s.badImage x.c v [((a.srcAt r).toNat, a.rowb)] = some (sub, line)) :
    s.slotRead x a d e t = s.copyFault x d e 0 r 13 sub 0 line := by
  simp only [State.slotRead, hc, hz, hsm, hv, hb, Bool.not_false, Bool.false_eq_true, if_false, if_true]

end

/-- A row's bytes put into the tile they go to, but for those of copies that begun later (R284). -/
theorem slotWrite_tile {s : State} {x : Cmd} {a : CopyArgs} {d e r : Nat} {t : CopySlot} {b : List Byte} {rest : List (Nat × List Byte)}
    (hc : t.cur = none) (hb : t.batch = (r, b) :: rest) (hp : t.part < a.rowb) (hall : acquires x.mods.order = true → s.allRead x = true)
    (hrel : s.cmdReleased x = true) (hib : a.ib = false) (hdm : a.dm = false) :
    let o := (a.dstAt r).toNat
    let sp := tileSpace a.w.td.toNat
    s.slotWrite x a d e t = ((s.writeTile x.c x.k a.w.td.toNat ((putBytes o b).filter fun p => !holdsByte x.masked sp p.1)).noteWrite x sp o
      a.rowb).modSlot d e fun t => { t with part := a.rowb } := by
  intro o sp
  have hread : (acquires x.mods.order && !s.allRead x) = false := by
    cases ha : acquires x.mods.order with
    | false => rfl
    | true => rw [hall ha]; rfl
  have hpart : decide (a.rowb ≤ t.part) = false := decide_eq_false (Nat.not_le.mpr hp)
  simp only [State.slotWrite, hb, hc, hpart, hread, hrel, hib, hdm, Option.isSome_none, Bool.or_self, Bool.not_true, Bool.not_false, Bool.false_eq_true,
    if_false, if_true]
  rfl

/-- A copy that has not begun, or is no rival, is as it was after another's write. -/
theorem noteWrite_other {s : State} {x y : Cmd} (sp a n : Nat) (hy : y ∈ s.cmds) (hne : y.id ≠ x.id) (h : x.rival y sp = false ∨ y.begun = false) :
    y ∈ (s.noteWrite x sp a n).cmds := by
  have hnot : (x.rival y sp && y.begun) = false := by
    rcases h with h | h
    · rw [h, Bool.false_and]
    · rw [h, Bool.and_false]
  refine List.mem_map.mpr ⟨y, hy, ?_⟩
  rw [if_neg hne, hnot, if_neg Bool.false_ne_true]

/-! ## Rows performed -/

theorem slotAt_iff {s : State} {d e id : Nat} {t : CopySlot} : s.slotAt d e id = some t ↔
    (s.dies[d]?).bind (fun x => x.copies[e]?) = some (some t) ∧ t.id = id := by
  rw [← Option.join_eq_some_iff]
  unfold State.slotAt
  cases (((s.dies[d]?).bind fun x => x.copies[e]?).join) with
  | none => simp
  | some u =>
    by_cases hu : u.id = id
    · simp only [if_pos hu, Option.some.injEq]
      exact ⟨fun h => ⟨h, h ▸ hu⟩, fun h => h.1⟩
    · simp only [if_neg hu, Option.some.injEq]
      exact ⟨fun h => (nomatch h), fun h => absurd (h.1 ▸ h.2) hu⟩

theorem slotAt_none {s : State} {d id : Nat} (h : s.slotsFor d id = []) (e : Nat) : s.slotAt d e id = none := by
  rw [← Option.not_isSome_iff_eq_none, Option.isSome_iff_exists]
  rintro ⟨t, ht⟩
  obtain ⟨hj, hid⟩ := slotAt_iff.mp ht
  obtain ⟨y, hy, he⟩ := Option.bind_eq_some_iff.mp hj
  rw [State.slotsFor, hy, Option.map_some, Option.getD_some, List.filterMap_eq_nil_iff] at h
  have hnot : (if t.id = id then some (e, t) else none) = none := h (some t, e) (List.mem_zipIdx_iff_getElem?.mpr he)
  rw [if_pos hid] at hnot
  exact absurd hnot (Option.some_ne_none _)

/-- No engine holds a row of the command: there is nothing to count (R282). -/
theorem rowPerformed_none {s : State} {x : Cmd} (a : CopyArgs) {d : Nat} (h : s.slotsFor d x.id = []) (e : Nat) : s.rowPerformed x a d e = s := by
  simp only [State.rowPerformed, slotAt_none h e]

theorem cmd?_id {s : State} {id : Nat} {x : Cmd} (h : s.cmd? id = some x) : x.id = id := by
  simpa using List.find?_some h

theorem copyRows_done {s : State} {id : Nat} {x : Cmd} {a : CopyArgs} (hx : s.cmd? id = some x) (ha : x.copy? = some a) (hs : x.state = .running)
    (hslots : s.slotsFor (dieOf x.c) id = []) (hr : x.ranges = []) (hh : x.heldRows = []) : s.copyRows id = s.copyDone x := by
  have hid := cmd?_id hx
  have hnone (e : Nat) : s.rowPerformed x a (dieOf x.c) e = s := rowPerformed_none a (by rw [hid]; exact hslots) e
  have hfold (l : List Nat) : l.foldl (fun s e => s.rowPerformed x a (dieOf x.c) e) s = s :=
    List.foldlRecOn (motive := fun t => t = s) l _ rfl fun t ht e _ => by rw [ht]; exact hnone e
  simp only [State.copyRows, hx, ha, hs, hfold, hslots, hr, hh]
  simp

/-- States with the same copy engines. -/
def SameCopies (s t : State) : Prop := ∀ d : Nat, (t.dies[d]?).map (·.copies) = (s.dies[d]?).map (·.copies)

theorem SameCopies.slotAt {s t : State} (h : SameCopies s t) (d e id : Nat) : t.slotAt d e id = s.slotAt d e id := by
  have hbind : (t.dies[d]?).bind (fun x => x.copies[e]?) = (s.dies[d]?).bind fun x => x.copies[e]? := by
    have := congrArg (fun o : Option (List (Option CopySlot)) => o.bind (·[e]?)) (h d)
    simpa only [Option.bind_map, Function.comp_def] using this
  simp only [State.slotAt, hbind]

theorem sameCopies_modDie (s : State) (d : Nat) {f : Die → Die} (hf : ∀ x, (f x).copies = x.copies) : SameCopies s (s.modDie d f) := fun c => by
  rw [die_modDie, Option.map_map]
  refine congrFun (congrArg Option.map (funext fun x => ?_)) _
  simp only [Function.comp_apply]
  split
  · exact hf x
  · rfl

theorem sameCopies_arrive (s : State) (a : Arrival) (k : Nat) : SameCopies s (s.arrive a k) := by
  unfold State.arrive
  split
  · split
    · exact fun _ => rfl
    · exact sameCopies_modDie s _ fun _ => rfl
  · exact sameCopies_modDie s _ fun _ => rfl

/-- One engine's place after a change of it. -/
theorem slotAt_modSlot {s : State} {d e id : Nat} {t : CopySlot} (h : s.slotAt d e id = some t) {f : CopySlot → CopySlot} (hf : (f t).id = t.id) :
    (s.modSlot d e f).slotAt d e id = some (f t) := by
  obtain ⟨hj, hid⟩ := slotAt_iff.mp h
  obtain ⟨y, hy, he⟩ := Option.bind_eq_some_iff.mp hj
  refine slotAt_iff.mpr ⟨?_, hf.trans hid⟩
  rw [State.modSlot, die_modDie, hy, Option.map_some, if_pos rfl, Option.bind_some, List.getElem?_modify_eq, he]
  rfl

/-- A row written is counted, and its engine goes on while it has rows (R282). -/
theorem rowPerformed_counts {s : State} {x : Cmd} {a : CopyArgs} {d e : Nat} {t : CopySlot} (h : s.slotAt d e x.id = some t) (hp : a.rowb ≤ t.part)
    (hb : t.batch ≠ []) (hmore : t.cur.isSome = true ∨ t.todo ≠ [] ∨ 2 ≤ t.batch.length) :
    s.rowPerformed x a d e = (s.cmdArrive x a.rowb false false).modSlot d e fun t => { t with batch := t.batch.drop 1, part := 0 } := by
  have hsame : (s.cmdArrive x a.rowb false false).slotAt d e x.id = some t := ((sameCopies_arrive s _ _).slotAt d e x.id).trans h
  have hslot := slotAt_modSlot hsame (f := fun t => { t with batch := t.batch.drop 1, part := 0 }) rfl
  have hcond : (t.batch != [] && decide (a.rowb ≤ t.part)) = true := by rw [bne_iff_ne.mpr hb, decide_eq_true hp]; rfl
  have hgoes : (t.cur.isNone && t.batch.drop 1 == [] && t.todo == []) = false := by
    rcases hmore with h | h | h
    · rw [Option.isNone_eq_false_iff.mpr h]
      rfl
    · rw [beq_eq_false_iff_ne.mpr h, Bool.and_false]
    · have hd : t.batch.drop 1 ≠ [] := fun h0 => by
        have := List.drop_eq_nil_iff.mp h0
        omega
      rw [beq_eq_false_iff_ne.mpr hd, Bool.and_false, Bool.false_and]
  simp only [State.rowPerformed, h, hcond, if_true, hslot, hgoes, Bool.false_eq_true, if_false]

theorem copySteal_takes {s : State} {d e f : Nat} {t : CopySlot} {stay gone : List (Nat × Nat)} (he : (s.dies[d]?).bind Die.idleEngine = some e)
    (hv : s.victim d = some (f, t)) (hs : s.startable d = []) (ht : takeUpper t.todo (rangeRows t.todo / 2) = (stay, gone)) :
    s.copySteal d = (s.modSlot d f fun u => { u with todo := stay }).modDie d
      fun y => { y with copies := y.copies.set e (some (newSlot t.id gone)) } := by
  simp only [State.copySteal, he, hv, hs, ne_eq, not_true_eq_false, if_false, ht]

/-! ## Carried words and join markers -/

theorem joinStep_drops {s : State} {id : Nat} {x : Cmd} {w : TWord} (hx : s.cmd? id = some x) (hi : x.ins = .qjoin w) (hh : s.isHead x = true)
    (ha : (s.cmds.any fun y => x.after.contains y.id) = false) : s.joinStep id = s.dropCmd id := by
  simp only [State.joinStep, hx, hi, hh, ha, Bool.not_false, Bool.and_self, if_true]

/-- Whether a carried word may enter does not depend on the commands. -/
theorem contractOk_cmds (s : State) (l : List Cmd) (n c k : Nat) (ga : W64) {i : Instr} {w : TWord} (hi : i = .bmv w ∨ i = .bdot w ∨ i = .join w)
    (regs : List W64) (look : Nat → Option Shape) :
    ({ s with cmds := l, nextId := n } : State).contractOk c k ga i regs look = s.contractOk c k ga i regs look := by
  rcases hi with rfl | rfl | rfl <;> rfl

/-- The carried word of a CPYF as it is made (R288). -/
def State.carriedWord (s : State) (y : Cmd) (id : Nat) (i : Instr) (w : TWord) : Cmd :=
  { y with id := s.nextId, ins := i, unit := 2, bar := w.bar.toNat, regs := y.regs.drop 5, mods := noMods, carried := true, issued := s.now,
           state := .waiting, next := 0, ranges := [], after := [id], inflight := [], buf := [] }

/-- The package with the carried word among its commands. -/
def State.withCarried (s : State) (z : Cmd) : State := { s with cmds := s.cmds ++ [z], nextId := s.nextId + 1 }

section
variable {s : State} {id : Nat} {y : Cmd} {f : FWord} {i : Instr} {x : Ctx} {q : List Nat} {w : TWord} (hy : s.cmd? id = some y)
  (hi : y.ins = .cpyf f) (hs : y.state = .done) (hq : (s.cores[y.c]?).map (·.unitQ) = some q) (hl : q.length < 4) (hstop : s.cmdStops y = false)
  (hnone : (s.cmds.any fun z => z.carried && z.after.contains id) = false) (hdec : decode .B f.carried 0 = .ok i)
  (hkind : i = .bmv w ∨ i = .bdot w ∨ i = .join w) (hx : s.ctx? y.c y.k = some x)
include hy hi hs hq hl hstop hnone hdec hkind hx

theorem carriedEntry_enters : s.carriedEntry id = (s.withCarried (s.carriedWord y id i w)).carriedEnter (s.carriedWord y id i w) x y.issued false := by
  have hroom : decide (q.length < 4) = true := decide_eq_true hl
  rcases hkind with rfl | rfl | rfl <;>
    simp only [State.carriedEntry, hy, hi, hs, hq, Option.getD_some, hroom, hstop, hnone, hdec, hx, ne_eq, not_true_eq_false, decide_false, Bool.not_true,
      Bool.or_self, Bool.false_eq_true, if_false] <;> rfl

variable {ok : Bool} {o : Obj} (hok : s.contractOk y.c y.k x.ga i (y.regs.drop 5) (s.carriedTile y.c y.k y.issued) = (ok, o))
include hok

omit hy hi hs hq hl hstop hnone hdec hx in
theorem carriedCheck_word : (s.withCarried (s.carriedWord y id i w)).carriedCheck (s.carriedWord y id i w) x y.issued =
    (ok && (x.bar? w.bar.toNat).isSome, { s.carriedWord y id i w with ga := x.ga, sealed := o }) := by
  have hcheck : (s.withCarried (s.carriedWord y id i w)).contractOk y.c y.k x.ga i (y.regs.drop 5) (s.carriedTile y.c y.k y.issued) = (ok, o) :=
    (contractOk_cmds s _ _ _ _ _ hkind _ _).trans hok
  unfold State.carriedCheck
  exact congrArg (fun r : Bool × Obj => (r.1 && (x.bar? w.bar.toNat).isSome, { s.carriedWord y id i w with ga := x.ga, sealed := r.2 })) hcheck

/-- A carried word whose checks hold enters the unit (R288). -/
theorem carriedEntry_joins (hfresh : ∀ z ∈ s.cmds, z.id ≠ s.nextId) (htrue : ok = true) (hbar : (x.bar? w.bar.toNat).isSome = true) :
    s.carriedEntry id = (({ s.withCarried (s.carriedWord y id i w) with
      cmds := s.cmds ++ [{ s.carriedWord y id i w with ga := x.ga, sealed := o, part := 0 }] } : State).modCore y.c fun co =>
        { co with unitQ := co.unitQ ++ [s.nextId] }) := by
  have hmap : (s.cmds ++ [s.carriedWord y id i w]).map (fun v => if v.id = s.nextId then
      { s.carriedWord y id i w with ga := x.ga, sealed := o, part := 0 } else v) =
        s.cmds ++ [{ s.carriedWord y id i w with ga := x.ga, sealed := o, part := 0 }] := by
    rw [List.map_append, List.map_congr_left (g := fun v => v) fun v hv => if_neg (hfresh v hv), List.map_id']
    exact congrArg (s.cmds ++ ·) (congrArg (· :: []) (if_pos rfl))
  rw [carriedEntry_enters hy hi hs hq hl hstop hnone hdec hkind hx, State.carriedEnter,
    carriedCheck_word hkind hok, htrue, hbar, ← hmap]
  rfl

/-- A carried word whose checks fail raises its trap and is kept (R288). -/
theorem carriedEntry_traps (h : ok = false ∨ (x.bar? w.bar.toNat).isSome = false) :
    s.carriedEntry id = ((((s.withCarried (s.carriedWord y id i w)).modCmd s.nextId fun y => { y with part := 1 }).cmdTrap
      { s.carriedWord y id i w with ga := x.ga, sealed := o } 5 0 0 0 none).stopCommand { s.carriedWord y id i w with ga := x.ga, sealed := o, part := 1 }) := by
  have hfalse : (ok && (x.bar? w.bar.toNat).isSome) = false := by
    rcases h with h | h
    · rw [h, Bool.false_and]
    · rw [h, Bool.and_false]
  rw [carriedEntry_enters hy hi hs hq hl hstop hnone hdec hkind hx, State.carriedEnter,
    carriedCheck_word hkind hok, hfalse]
  rfl

end

/-! ## Inboxes -/

section
variable {s : State} {ib : Nat} {p : InboxPush}

theorem inboxPush_alone (h : ∀ t ∈ s.agenda, lowerPush ib p.port t = none) {u : State} {ans : PeerAnswer} (ha : s.inboxArrive ib p.row = (u, ans)) :
    execInboxPushArrival ib p s = .next (s.commit (u.send (.reply p.port p.src p.id ans))) := by
  have hmap : s.agenda.filterMap (lowerPush ib p.port) = [] := List.filterMap_eq_nil_iff.mpr h
  have hfilter : s.agenda.filter (fun t => (lowerPush ib p.port t).isNone) = s.agenda :=
    List.filter_eq_self.mpr fun t ht => by rw [h t ht]; rfl
  refine run_modify_to ?_
  rw [hmap, hfilter]
  show s.inboxTake ib p = _
  simp only [State.inboxTake, ha]

theorem inboxPush_after {q : InboxPush} (h : s.agenda.filterMap (lowerPush ib p.port) = [q]) : execInboxPushArrival ib p s = .next (s.commit
    ((({ s with agenda := s.agenda.filter fun t => (lowerPush ib p.port t).isNone } : State).inboxTake ib q).inboxTake ib p)) := by
  refine run_modify_to ?_
  rw [h]
  rfl

end

section
variable {s : State} {ib : Nat} {x : Inbox} {row : List Byte} (hx : s.links.inboxes[ib]? = some x)
include hx

theorem inboxArrive_unbound (h : s.inboxTarget x.reg = none) : s.inboxArrive ib row = (s, .refused) := by
  simp only [State.inboxArrive, hx, h]

variable {l : Launch} {q : QueueEnt} (h : s.inboxTarget x.reg = some (l, q))
include h

theorem inboxArrive_size (hr : row.length ≠ inboxEntry x.reg) : s.inboxArrive ib row = (s, .refused) := by
  simp only [State.inboxArrive, hx, h, if_pos hr]

variable (hr : row.length = inboxEntry x.reg)
include hr

theorem inboxArrive_fits (hs : x.spare = []) (hf : l.inboxFits q x.reg = true) : s.inboxArrive ib row = (s.inboxDeliver x.reg row, .accepted) := by
  simp only [State.inboxArrive, hx, h, hr, hs, hf, ne_eq, not_true_eq_false, if_false, and_self, if_true]

theorem inboxArrive_full (hs : x.spare ≠ [] ∨ l.inboxFits q x.reg = false) (hroom : inboxRoom l x.reg ≤ x.spare.length) :
    s.inboxArrive ib row = (s, .full) := by
  have hnot : ¬ (x.spare = [] ∧ l.inboxFits q x.reg = true) := fun ⟨h1, h2⟩ => hs.elim (· h1) fun h3 => by rw [h3] at h2; exact Bool.noConfusion h2
  simp only [State.inboxArrive, hx, h, hr, ne_eq, not_true_eq_false, if_false, if_neg hnot, if_neg (Nat.not_lt.mpr hroom)]

end

theorem inboxMove_moves {s u : State} {ib i : Nat} {x : Inbox} {rest : List Nat} {l : Launch} {q : QueueEnt} {ps : List (Nat × Nat × AccHome × Nat)}
    (hx : s.links.inboxes[ib]? = some x) (hs : x.spare = i :: rest) (h : s.inboxTarget x.reg = some (l, q)) (hf : l.inboxFits q x.reg = true)
    (hr : s.rangeNow 0 (asidOf l.lid) (inboxVa l x.reg i) (inboxEntry x.reg) 0 = (u, .ok ps)) :
    s.inboxMove ib = (u.inboxDeliver x.reg (u.readParts ps)).modInbox ib fun y => { y with spare := rest } := by
  simp only [State.inboxMove, hx, hs, h, hf, if_true, hr]

/-! ## Pushes -/

section
variable {s : State} {id : Nat} {x : Cmd} {n : Nat} {ans : PeerAnswer} (hx : s.cmd? id = some x)
include hx

/-- The answer of a push taken from those that have come (R286). -/
def State.answerTaken (s : State) (id : Nat) : State := { s with links := { s.links with pushAns := s.links.pushAns.filter (·.1 != id) } }

section
variable (ha : s.links.pushAns.find? (·.1 == id) = some (n, ans))
include ha

theorem pushAnswer_accepted (h : ans = .accepted) : s.pushAnswer id = ((s.answerTaken id).cmdArrive x x.buf.length false false).complete x := by
  simp only [State.pushAnswer, hx, ha, h]
  rfl

theorem pushAnswer_refused (h : ans = .refused) : s.pushAnswer id = (s.answerTaken id).pushRefused x := by
  simp only [State.pushAnswer, hx, ha, h]
  rfl

theorem pushAnswer_full (h : ans = .full) : s.pushAnswer id =
    (s.answerTaken id).modCmd id fun y => { y with state := .parked s.wall, firstFull := some (y.firstFull.getD s.wall) } := by
  simp only [State.pushAnswer, hx, ha, h]
  rfl

end

variable {since : Nat} (hp : x.state = .parked since) (hstop : s.cmdStops x = false)
include hp hstop

theorem parkResend_sends {a : CopyArgs} (ha : x.copy? = some a) (h : since + microsecond ≤ s.wall) :
    s.parkResend id = s.copyPush x (dieOf x.c) 16 a x.buf := by
  simp only [State.parkResend, hx, hp, ha, hstop, Bool.false_or, decide_eq_true_eq, if_neg (Nat.not_lt.mpr h)]

theorem parkExpiry_refuses {m : Nat} {l : Launch} (hf : x.firstFull = some m) (hl : s.launch? x.lid = some l) (h : l.parkLimit ≤ x.park + (s.wall - m)) :
    s.parkExpiry id = s.pushRefused x := by
  simp only [State.parkExpiry, hx, hp, hf, hl, hstop, Bool.not_false, Bool.and_true, decide_eq_true_eq, if_pos h]

end

end Sys2Proof.Machine
end

section
/-!
The steps of the walk and contraction units, the Catalogue, the Collator and the row engine (R269 to R275, R291 to R297, R303, R320, R326 to R328,
R335); the obligation on the steps of commands.
-/
namespace Sys2Proof.Machine

/-! ## Walks -/

section
variable {s : State} {x : Cmd} {l : Launch} (hl : s.launch? x.lid = some l) (hs : x.state ≠ .held)
  (hgo : x.part ≠ 0 ∨ x.inflight ≠ [] ∨ s.cmdStops x = false)
include hl hs hgo

omit hl hs in
theorem walkTurn_stop : (x.part = 0 && x.inflight == [] && s.cmdStops x) = false := by
  rcases hgo with h | h | h
  · rw [decide_eq_false h]; rfl
  · rw [beq_eq_false_iff_ne.mpr h, Bool.and_false, Bool.false_and]
  · rw [h, Bool.and_false]

theorem walkTurn_bad {sub line : Nat} (hb : s.walkBad x l = some (sub, line)) :
    s.walkTurn x = s.cmdCheck x sub (x.next / x.walkEntry l) 0 line := by
  simp only [State.walkTurn, hl, if_neg hs, walkTurn_stop hgo, Bool.false_eq_true, if_false, hb]

variable (hb : s.walkBad x l = none)
include hb

theorem walkTurn_compact {w : TWord} (hi : x.ins = .gcompact w) : s.walkTurn x = s.compact x w := by
  simp only [State.walkTurn, hl, if_neg hs, walkTurn_stop hgo, Bool.false_eq_true, if_false, hb, hi]

variable {w : TWord} (hi : ∀ v, x.ins ≠ .gcompact v) (hw : walkWord x.ins = some w)
include hi hw

theorem walkTurn_word : s.walkTurn x = if x.walkCount l ≤ x.next then (s.cmdArrive x (s.walkBytes x l w) false false).complete x
    else if 3 ≤ walkDest x.ins then s.feedTurn x l else s.spillTurn x l w := by
  simp only [State.walkTurn, hl, if_neg hs, walkTurn_stop hgo, Bool.false_eq_true, if_false, hb]
  split
  · next v hv => exact absurd hv (hi v)
  · next v hv _ =>
    rw [hw] at hv
    rw [Option.some.inj hv]
  · next hv _ => exact absurd (hw.symm.trans hv) (Option.some_ne_none _)

end

/-! ## The Collator's sorts -/

section
variable {s : State} {c : Nat} {x : Cmd} {w : TWord} {a d : Shape} (hx : (s.collate c).collHead c = some x)
  (ha : (s.collate c).usedTile c x.k w.ta.toNat = some a) (hd : (s.collate c).usedTile c x.k w.td.toNat = some d)
include hx ha hd

section
variable (hi : x.ins = .sort w) {r last : Nat} {rest : List (Nat × Nat)} (hr : x.ranges = (r, last) :: rest)
include hi hr

/-- The row's bytes written and counted at the barrier (R291). -/
def State.sortedRow (u : State) (c : Nat) (x : Cmd) (w : TWord) (r : Nat) (a d : Shape) : State :=
  (u.writeTile c x.k w.td.toNat (u.sortRowBytes c (bitsOf w.cmd 1 0) r a d)).cmdArrive x (d.str 1).toNat false false

theorem sortStep_row (hb : (s.collate c).badImage c a (sortReads r a) = none) : s.sortStep c =
    if r = last then ((s.collate c).sortedRow c x w r a d).collEnd x
    else ((s.collate c).sortedRow c x w r a d).modCmd x.id fun y => { y with next := r + 1, ranges := [(r + 1, last)] } := by
  simp only [State.sortStep, hx, hi, ha, hd, hr, hb]
  rfl

theorem sortStep_bad {sub line : Nat} (hb : (s.collate c).badImage c a (sortReads r a) = some (sub, line)) :
    s.sortStep c = (s.collate c).collCheck x r sub line := by
  simp only [State.sortStep, hx, hi, ha, hd, hr, hb]

end

theorem sortkStep_list (hi : x.ins = .sortk w) (hb : (s.collate c).badImage c a [(0, a.size.1)] = none) :
    let u := s.collate c
    let recs := sortBy (fun p q : Nat × Nat => decide (p.1 ≤ q.1)) (u.listRecords c a)
    let body := recs.flatMap fun p => leBytes p.1 8 ++ leBytes (p.2 % 2 ^ typeWidth d.vtype) 8
    let tail := if recs.length < d.ext 0 then List.replicate 8 (0xFF : Byte) ++ List.replicate 8 0 else []
    s.sortkStep c = (((u.writeTile c x.k w.td.toNat (putBytes 0 (body ++ tail))).cmdArrive x (body ++ tail).length false false).collEnd x) := by
  intro u recs body tail
  simp only [State.sortkStep, hx, hi, ha, hd, hb]
  rfl

end

/-! ## The contraction unit -/

section
variable {s : State} {c id : Nat} {co : Core} {rest : List Nat} {x : Cmd} (hco : s.cores[c]? = some co) (hrun : co.run = none)
  (hlate : s.lateSlot c = none) (hq : co.unitQ = id :: rest) (hx : s.cmd? id = some x) (hstop : s.cmdStops x = false)
include hco hrun hlate hq hx hstop

theorem contractionStart_cinit {w : TWord} (hi : x.ins = .cinit w) : s.contractionStart c =
    ((s.modCmd id fun y => { y with state := .running }).modCore c fun co =>
      { co with run := some { id := id, terms := [], sums := [], heldTerm := none } }).initCatalogue c x.k (w.cmd.getLsbD 0) := by
  simp only [State.contractionStart, hco, hrun, hlate, hq, hx, hstop, hi, Option.isSome_none, Bool.false_and, Bool.false_eq_true, if_false]

variable {w : Work} (hi : ∀ v, x.ins ≠ .cinit v) (hw : s.workOf x = some w)
include hi hw

theorem contractionStart_bad {sub line : Nat}
    (hb : (((List.range w.total).drop x.next).findSome? fun p => s.badPass { x with next := p } w) = some (sub, line)) :
    s.contractionStart c = s.unitCheck x sub line := by
  simp only [State.contractionStart, hco, hrun, hlate, hq, hx, hstop, hw, Option.isSome_none, Bool.false_and, Bool.false_eq_true, if_false, hb]

variable (hb : (((List.range w.total).drop x.next).findSome? fun p => s.badPass { x with next := p } w) = none)
include hb

theorem contractionStart_ok (hpre : s.prepass x w = .ok) : s.contractionStart c = 
    (s.modCmd id fun y => { y with state := .running }).beginPass x w x.next := by
  simp only [State.contractionStart, hco, hrun, hlate, hq, hx, hstop, hw, Option.isSome_none, Bool.false_and, Bool.false_eq_true, if_false, hb, hpre]

theorem contractionStart_format (hpre : s.prepass x w = .format) : s.contractionStart c = s.prepassTrap x 5 := by
  simp only [State.contractionStart, hco, hrun, hlate, hq, hx, hstop, hw, Option.isSome_none, Bool.false_and, Bool.false_eq_true, if_false, hb, hpre]

theorem contractionStart_spread (hpre : s.prepass x w = .spread) : s.contractionStart c = s.prepassTrap x 6 := by
  simp only [State.contractionStart, hco, hrun, hlate, hq, hx, hstop, hw, Option.isSome_none, Bool.false_and, Bool.false_eq_true, if_false, hb, hpre]

end

section
variable {s : State} {c : Nat} {x : Cmd} {r : UnitRun} {w : Work} (hp : s.passDone c = some (x, r)) (hw : s.workOf x = some w)
include hp hw

/-- A row of BMV applied: its sums kept, its 64 bytes counted, the command a row on (R295, R303). -/
def State.bucketRow (s : State) (c : Nat) (x : Cmd) (r : UnitRun) : State :=
  ((s.modCtx c x.k fun y => { y with sums := r.sums }).cmdArrive x 64 false false).modCmd x.id fun y => { y with next := y.next + 1 }

section
variable {z : TWord} (hi : x.ins = .bmv z) (hn : x.next < w.total)
include hi hn

theorem rowComplete_last (ht : w.total = x.next + 1) : s.rowComplete c = s.bucketRow c x r := by
  have h1 : ¬ w.total ≤ x.next := Nat.not_le.mpr hn
  have h2 : w.total ≤ x.next + 1 := Nat.le_of_eq ht
  simp only [State.rowComplete, hp, hw, hi, if_neg h1, if_true, if_pos h2]
  rfl

theorem rowComplete_next (ht : x.next + 1 < w.total) (hstop : (s.bucketRow c x r).cmdStops x = false) :
    s.rowComplete c = (s.bucketRow c x r).beginPass { x with next := x.next + 1 } w (x.next + 1) := by
  have h1 : ¬ w.total ≤ x.next := Nat.not_le.mpr hn
  have h2 : ¬ w.total ≤ x.next + 1 := Nat.not_le.mpr ht
  simp only [State.rowComplete, hp, hw, hi, if_neg h1, if_true, if_neg h2]
  exact if_neg (c := (s.bucketRow c x r).cmdStops x = true) (Bool.eq_false_iff.mp hstop)

end

theorem contractionEnd_ends (ht : w.total ≤ x.next) (he : endBytes x ≠ 0) :
    s.contractionEnd c = ((s.cmdArrive x (endBytes x) false false).leaveUnit x).complete x := by
  have hnot : ∀ v, x.ins ≠ .bdump v := fun v hv => he (by simp only [endBytes, hv])
  simp only [State.contractionEnd, hp, hw, decide_eq_true ht, if_true, if_neg he]

end

theorem contractionEnd_dump {s : State} {c : Nat} {x : Cmd} {r : UnitRun} {w : TWord} {v : Shape} {y : Ctx} (hp : s.passDone c = some (x, r))
    (hi : x.ins = .bdump w) (hv : s.usedTile x.c x.k w.td.toNat = some v) (hy : s.ctx? x.c x.k = some y) :
    let p := (x.regs[0]?).getD 0
    let n := min 32 (bitsOf p 63 32 - x.next)
    let u := ((s.writeTile x.c x.k w.td.toNat (dumpBytes v y.sums (bitsOf p 31 0) x.next n)).modCmd x.id fun z =>
      { z with next := x.next + n }).cmdArrive x (8 * n) false false
    n ≠ 0 → s.contractionEnd c = if bitsOf p 63 32 ≤ x.next + n then (u.leaveUnit x).complete x else u := by
  intro p n u hn
  simp only [State.contractionEnd, hp, hi, State.dumpStep, hv, hy]
  rw [if_neg hn]

/-! ## The Catalogue -/

section
variable {s : State} {c j : Nat} {co : Core} {r : UnitRun} {x : Cmd} {t : Term} (hco : s.cores[c]? = some co) (hr : co.run = some r)
  (hx : s.cmd? r.id = some x) (hh : r.heldTerm = none) (ht : r.terms[j % r.terms.length]? = some t)
include hco hr hx hh ht

theorem catalogueStep_applies {q : Core}
    (h : ((((s.modRun c fun r => { r with terms := r.terms.eraseIdx (j % r.terms.length) }).cores[c]?).getD Core.zero).catApply x.k t) = some q) :
    s.catalogueStep c j = (s.modRun c fun r => { r with terms := r.terms.eraseIdx (j % r.terms.length) }).modCore c fun _ => q := by
  simp only [State.catalogueStep, hco, Option.bind_some, hr, hx, hh, ht, h]

theorem catalogueStep_waits
    (h : ((((s.modRun c fun r => { r with terms := r.terms.eraseIdx (j % r.terms.length) }).cores[c]?).getD Core.zero).catApply x.k t) = none)
    (hs : (s.modRun c fun r => { r with terms := r.terms.eraseIdx (j % r.terms.length) }).cmdStops x = false) :
    s.catalogueStep c j = (s.modRun c fun r => { r with terms := r.terms.eraseIdx (j % r.terms.length) }).modRun c fun r => { r with heldTerm := some t } := by
  simp only [State.catalogueStep, hco, Option.bind_some, hr, hx, hh, ht, h, hs, Bool.false_and, Bool.false_eq_true, if_false]

end

/-! ## Drains -/

section
variable {s k : State} {c : Nat} {r : UnitRun} {x : Cmd} {w : TWord} {list : Bool} {l : Launch} {y : Ctx} (hk : k = s.collate c)
  (hr : (k.cores[c]?).bind (·.run) = some r) (hx : k.cmd? r.id = some x) (hh : (k.collHead c).any (·.id == x.id) = true)
  (hw : drainWord x.ins = some (w, list)) (hl : k.launch? x.lid = some l) (hy : k.ctx? c x.k = some y) (hs : x.state = .running)
include hk hr hx hh hw hl hy hs

theorem drainStep_asks (hn : x.inflight.length < y.cat.sp) :
    s.drainStep c = k.spillAsk x l (y.relx + y.rely * l.spanW) y.cat.sp y.cat.sp := by
  have hread : k.spillRead x l (y.relx + y.rely * l.spanW) y.cat.sp = (k.spillAsk x l (y.relx + y.rely * l.spanW) y.cat.sp y.cat.sp, none) := by
    rw [State.spillRead, if_pos hn]
  subst hk
  simp only [State.drainStep, hr, Option.bind_some, hx, Option.filter_some, hh, if_true, hw, hl, hy, hs, ne_eq, not_true_eq_false, if_false, hread]

/-- The keys of a drain: the entries, the records read and the terms that came late, merged (R326). -/
def drainMerged (u : State) (c : Nat) (x : Cmd) (y : Ctx) (recs : List Term) : List Term :=
  mergeTerms (((((u.cores[c]?).map (·.cat)).getD []).filter (·.ctx == x.k)).map (fun e => ({ key := e.key, inv := e.inv, bits := e.value, direct := false } : Term)) ++
    recs ++ y.cat.late)

variable {u : State} {recs : List Term} {v : Shape} (hb : x.buf = []) (hread : k.spillRead x l (y.relx + y.rely * l.spanW) y.cat.sp = (u, some recs))
  (hv : k.usedTile c x.k w.td.toNat = some v) (hbad : u.drainBad x w = none)
include hb hread hv hbad

/-- A drain without a subnormal to assist writes its keys and is over (R326, R327). -/
theorem drainStep_writes (hsub : u.ftz x.lid = true ∨ ∀ d ∈ u.drainKeys x w list v (drainMerged u c x y recs), d.sub = false) :
    let keys := drainMerged u c x y recs
    let out := u.drainKeys x w list v keys
    let kb := (x.regs[0]?).getD 0
    s.drainStep c = ((u.writeTile c x.k w.td.toNat ((if w.cmd.getLsbD 26 then drainZeros v kb keys else []) ++
      ((keys.zip out).zipIdx.flatMap fun p => match drainPlace v list kb p.1.1 p.2 with
        | some o => drainPut v list o p.1.1.key (if p.1.2.sub then flushF (drainType v list).1 ⟨p.1.2.bits, true⟩ else p.1.2.bits)
        | none => []))).writeTile c x.k w.td.toNat (drainEnd v list keys.length)).drainFinish x v list keys out := by
  intro keys out kb
  have hstop : (if u.ftz x.lid || x.buf != [] then none else out.findIdx? (·.sub)) = none := by
    rcases hsub with h | h
    · rw [h, Bool.true_or, if_pos rfl]
    · have hnone : out.findIdx? (·.sub) = none := List.findIdx?_eq_none_iff.mpr h
      rw [hnone, ite_self]
  have htake : ((keys.zip out).zipIdx).take keys.length = (keys.zip out).zipIdx := by
    refine List.take_of_length_le ?_
    rw [List.length_zipIdx, List.length_zip]
    exact Nat.min_le_left _ _
  subst hk
  simp only [State.drainStep, hr, Option.bind_some, hx, Option.filter_some, hh, if_true, hw, hl, hy, hs, ne_eq, not_true_eq_false, if_false, hread, hv, hbad]
  simp only [out, keys, drainMerged] at hstop htake
  simp only [hstop, Option.getD_none, htake]
  simp only [hb, beq_self_eq_true, Bool.and_true, if_true]
  rfl

end

/-! ## The row engine -/

/-- The second source a row names (R335). -/
def State.rowSecond (s : State) (c : Nat) (x : Cmd) (w : TWord) : Option Shape :=
  let named : Bool := match x.ins with | .nexps _ => true | .nscale _ => true | .nnorm v => v.cmd.getLsbD 8 | _ => false
  if named then s.usedTile c x.k w.tb.toNat else none

/-- The type of a row's results (R335). -/
def rowType (x : Cmd) (d : Shape) : Nat := match x.ins with | .nmax _ => 10 | _ => d.type

/-- A row of a command with its tiles (R335, R336). -/
def State.rowWith (s : State) (x : Cmd) (w : TWord) (a d : Shape) (b : Option Shape) : State :=
  match s.rowBad x x.next a b with
  | some (sub, line) => s.cmdCheck x sub x.next 0 line
  | none =>
    match (if s.ftz x.lid then none else (s.rowOut x x.next a d b).els.findIdx? (·.sub)) with
    | some j => s.rowAssist x w x.next j a d (s.rowOut x x.next a d b)
    | none => (s.rowFinish x w x.next d ((s.rowOut x x.next a d b).els.map (flushF (rowType x d))) (s.rowOut x x.next a d b).sum).rowEnd x.id a

theorem rowStep_row {s : State} {c : Nat} {x : Cmd} {w : TWord} {a d : Shape} (hx : s.rowHead c = some x) (h1 : x.state ≠ .assist) (h2 : x.state ≠ .held)
    (hw : rowWord x.ins = some w) (ha : s.usedTile c x.k w.ta.toNat = some a) (hd : s.usedTile c x.k w.td.toNat = some d)
    (hn : ((rowSpan ((x.regs[0]?).getD 0) a).getD (0, 0)).1 + ((rowSpan ((x.regs[0]?).getD 0) a).getD (0, 0)).2 > x.next) :
    s.rowStep c = s.rowWith x w a d (s.rowSecond c x w) := by
  have hgo : ¬ (x.state = .assist ∨ x.state = .held) := fun h => h.elim h1 h2
  have hmore := Nat.not_le.mpr hn
  unfold State.rowStep
  simp only [hx, if_neg hgo, hw, ha, hd, if_neg hmore]
  rfl

section
variable {s : State} {x : Cmd} {w : TWord} {a d : Shape} {b : Option Shape}

theorem rowWith_bad {sub line : Nat} (hb : s.rowBad x x.next a b = some (sub, line)) : s.rowWith x w a d b = s.cmdCheck x sub x.next 0 line := by
  simp only [State.rowWith, hb]

variable (hb : s.rowBad x x.next a b = none)
include hb

theorem rowWith_finish (h : s.ftz x.lid = true ∨ ∀ e ∈ (s.rowOut x x.next a d b).els, e.sub = false) : s.rowWith x w a d b =
    (s.rowFinish x w x.next d ((s.rowOut x x.next a d b).els.map (flushF (rowType x d))) (s.rowOut x x.next a d b).sum).rowEnd x.id a := by
  have hnone : (if s.ftz x.lid then none else (s.rowOut x x.next a d b).els.findIdx? (·.sub)) = none := by
    rcases h with h | h
    · rw [h, if_pos rfl]
    · have hf : (s.rowOut x x.next a d b).els.findIdx? (·.sub) = none := List.findIdx?_eq_none_iff.mpr h
      rw [hf, ite_self]
  simp only [State.rowWith, hb, hnone]

theorem rowWith_assist {j : Nat} (hf : s.ftz x.lid = false) (hj : (s.rowOut x x.next a d b).els.findIdx? (·.sub) = some j) :
    s.rowWith x w a d b = s.rowAssist x w x.next j a d (s.rowOut x x.next a d b) := by
  simp only [State.rowWith, hb, hf, Bool.false_eq_true, if_false, hj]

end

/-! ## The obligation -/

/-- Settles O45: each step's equation, from its own definition; the rows of a command that no engine holds are not counted. -/
theorem commandStepsTakeEffect : Obligations.CommandStepsTakeEffect := by
  intro s
  refine ⟨fun d x hx => ⟨fun hr hh => (run_modify_to (copyStarts_empty hx hr hh) : execCopyStart d s = _),
      fun e hr he => (run_modify_to (copyStarts_engine hx hr he) : execCopyStart d s = _)⟩, fun id x hx => ?part,
    fun x a d e t r v hc hz hsm hv => ⟨fun hb => slotRead_tile hc hz hsm hv hb, fun sub line hb => slotRead_bad hc hz hsm hv hb⟩,
    fun x a d e t r b rest hc hb hp hall hrel hib hdm => slotWrite_tile hc hb hp hall hrel hib hdm,
    fun x sp a n y hy hne h => noteWrite_other sp a n hy hne h,
    fun id x a hx ha hs hslots hr hh => (run_modify_to (copyRows_done hx ha hs hslots hr hh) : execCopyRowPerformed id s = _),
    fun x a d e t h hp hmore => rowPerformed_counts h hp hmore.1 hmore.2,
    fun d e f t stay gone he hv hs ht => (run_modify_to (copySteal_takes he hv hs ht) : execCopySteal d s = _),
    fun id y f i x q ok o w hy hi hs hq hl hstop hnone hdec hkind hx hok hfresh =>
      ⟨fun htrue hbar => (run_modify_to (carriedEntry_joins hy hi hs hq hl hstop hnone hdec hkind hx hok hfresh htrue hbar) : execCarriedWordEntry id s = _),
        fun h => (run_modify_to (carriedEntry_traps hy hi hs hq hl hstop hnone hdec hkind hx hok h) : execCarriedWordEntry id s = _)⟩,
    fun id x w hx hi hh ha => ⟨_, (run_modify_to (joinStep_drops hx hi hh ha) : execJoinMarkerComplete id s = _), rfl⟩,
    fun ib p u ans h ha => inboxPush_alone h ha, fun ib p q h => inboxPush_after h,
    fun ib x row hx => ⟨fun h => inboxArrive_unbound hx h, fun l q h => ⟨fun hr => inboxArrive_size hx h hr,
      fun hr hs hf => inboxArrive_fits hx h hr hs hf, fun hr hs hroom => inboxArrive_full hx h hr hs hroom⟩⟩,
    fun id x n ans hx ha => ⟨fun h => (run_modify_to (pushAnswer_accepted hx ha h) : execInboxAnswer id s = _),
      fun h => (run_modify_to (pushAnswer_refused hx ha h) : execInboxAnswer id s = _),
      fun h => (run_modify_to (pushAnswer_full hx ha h) : execInboxAnswer id s = _)⟩,
    fun id x a since hx hp ha hstop => ⟨fun h => (run_modify_to (parkResend_sends hx hp hstop ha h) : execParkResend id s = _),
      fun n l hf hl h => (run_modify_to (parkExpiry_refuses hx hp hstop hf hl h) : execParkLimitExpiry id s = _)⟩,
    fun ib x i rest l q u ps hx hs h hf hr => (run_modify_to (inboxMove_moves hx hs h hf hr) : execInboxOverflowMove ib s = _),
    fun c => (run_modify_to rfl : execWalkEntryPush c s = _),
    fun x l hl hs hgo => ⟨fun sub line hb => walkTurn_bad hl hs hgo hb, fun w hb hi => walkTurn_compact hl hs hgo hb hi, fun w hb hi hw => ?walk⟩,
    fun c x w a d hx ha hd => ⟨fun r last rest hi hr hb => ?sortRow,
      fun r last rest sub line hi hr hb => (run_modify_to (sortStep_bad hx ha hd hi hr hb) : execSortRow c s = _),
      fun hi hb => (run_modify_to (sortkStep_list hx ha hd hi hb) : execSortkComplete c s = _)⟩,
    fun c co id rest x hco hrun hlate hq hx hstop =>
      ⟨fun w hi => (run_modify_to (contractionStart_cinit hco hrun hlate hq hx hstop hi) : execContractionStart c s = _),
        fun w hi _ hw => ⟨fun sub line hb => (run_modify_to (contractionStart_bad hco hrun hlate hq hx hstop hi hw hb) : execContractionStart c s = _),
          fun hb => ⟨fun hpre => (run_modify_to (contractionStart_ok hco hrun hlate hq hx hstop hi hw hb hpre) : execContractionStart c s = _),
            fun hpre => (run_modify_to (contractionStart_format hco hrun hlate hq hx hstop hi hw hb hpre) : execContractionStart c s = _),
            fun hpre => (run_modify_to (contractionStart_spread hco hrun hlate hq hx hstop hi hw hb hpre) : execContractionStart c s = _)⟩⟩⟩,
    fun c x r w z hp hi hw hn => ⟨fun ht => (run_modify_to (rowComplete_last hp hw hi hn ht) : execBucketRowComplete c s = _),
      fun ht hstop => (run_modify_to (rowComplete_next hp hw hi hn ht hstop) : execBucketRowComplete c s = _)⟩,
    fun c x r w hp hw ht he => (run_modify_to (contractionEnd_ends hp hw ht he) : execContractionComplete c s = _),
    fun c x r w v y hp hi hv hy hn => (run_modify_to (contractionEnd_dump hp hi hv hy hn) : execContractionComplete c s = _),
    fun c j co r x t hco hr hx hh ht => ⟨fun q h => (run_modify_to (catalogueStep_applies hco hr hx hh ht h) : execCatalogueApply c j s = _),
      fun h hs => (run_modify_to (catalogueStep_waits hco hr hx hh ht h hs) : execCatalogueApply c j s = _)⟩,
    fun c r x w list l y k hk hr hx hh hw hl hy hs hn => (run_modify_to (drainStep_asks hk hr hx hh hw hl hy hs hn) : execDrainComplete c s = _),
    fun c r x w list l y k u recs v hk hr hx hh hw hl hy hs hb hread hv hbad hsub =>
      (run_modify_to (drainStep_writes hk hr hx hh hw hl hy hs hb hread hv hbad hsub) : execDrainComplete c s = _),
    fun c x w a d hx h1 h2 hw ha hd hn => ?row⟩
  case part =>
    refine (run_modify_to ?_ : execCopyPart id s = _)
    simp only [hx]
  case walk =>
    have hturn := walkTurn_word hl hs hgo hb hi hw
    exact ⟨fun h => hturn.trans (if_pos h), fun h => hturn.trans (if_neg (Nat.not_le.mpr h))⟩
  case sortRow =>
    have hstep := sortStep_row hx ha hd hi hr hb
    exact ⟨fun h => (run_modify_to (hstep.trans (if_pos h)) : execSortRow c s = _), fun h => (run_modify_to (hstep.trans (if_neg h)) : execSortRow c s = _)⟩
  case row =>
    have hrow := rowStep_row hx h1 h2 hw ha hd hn
    exact ⟨fun sub line hb => (run_modify_to (hrow.trans (rowWith_bad hb)) : execRowEngineRowComplete c s = _),
      fun hb => ⟨fun h => (run_modify_to (hrow.trans (rowWith_finish hb h)) : execRowEngineRowComplete c s = _),
        fun j hf hj => (run_modify_to (hrow.trans (rowWith_assist hb hf hj)) : execRowEngineRowComplete c s = _)⟩⟩

end Sys2Proof.Machine
end
